-- ==== Sys2Proof/Word.lean ====
section
/-! DEFINITION. The words of QM-EP4 and their plainest names: bytes, halves, words, doubles, rows. -/

namespace Sys2Proof

/-- A byte, 8 bits (R4). -/
abbrev Byte := BitVec 8

/-- A scalar register's value: a double, 64 bits (R4, R93). -/
abbrev Word := BitVec 64

/-- A sector row: 512 bytes, 4,096 bits, byte k in bits 8k + 7 : 8k (R18, R148). -/
abbrev Row := BitVec 4096

/-- A bundle: six slots of 64 bits, slot s in bits 64s + 63 : 64s (R60). -/
abbrev Bundle := BitVec 384

/-- Bits hi : lo of a double, as a natural number. -/
def fieldNat (v : Word) (lo width : Nat) : Nat := (v >>> lo).toNat % 2 ^ width

/-- Bits lo + n - 1 : lo of a double (R4). -/
abbrev bitsOf (v : Word) (lo n : Nat) : BitVec n := BitVec.extractLsb' lo n v

end Sys2Proof
end

