-- ==== Sys2Proof/Config.lean ====
section
/-! DEFINITION. What one QM-EP4 fixes, and the free values: what the manual leaves open, as constants without a body. -/

namespace Sys2Proof

/-- Sector bytes, 256 KiB (R2). -/
def Config.sectorBytes : Nat := 0x40000

/-- Bytes of the cell-local address space (R99). -/
def Config.localBytes : Nat := 0x200000

/-- First local address of the supervisor-only part of sec7 (R99). -/
def Config.saveBase : Nat := 0x1D8000

/-- First code address of the cell runtime (R20). -/
def Config.runtimeBase : Nat := 0x7000

/-- Code units of code memory (R20). -/
def Config.codeUnits : Nat := 0x8000

/-- Bytes of HBM: physical addresses have 39 bits (R2, R278). -/
def Config.hbmBytes : Nat := 2 ^ 39

/-- What a byte of a sector or of HBM that nothing has written reads as.
DESIGN CHOICE, unsafe (log 3): the manual gives no power-on contents. -/
def Config.unwritten : Byte := 0

/-- Free latency of an untimed transfer's next stage, in cycles beyond the first (R271, R325, R468: open).
Log 6. The argument is the counter `freeCtr` of the state. -/
opaque Config.freeDelay : Nat → Nat

/-- Free choice where the manual allows either of two outcomes (R296: the old or the new table entry; R316; R419). Log 6. -/
opaque Config.freeBool : Nat → Bool

/-- The 32-bit signature an in-field self test produces (R395: its value is not given). Log 7. -/
opaque Config.freeSignature : Nat → BitVec 32

/-- A single value that the manual does not state. Log 8; log 37 for the kind of outcome of an HBM word whose errors touch three or more
symbols (R467), and for the bits of a lane that a write left out. -/
opaque Config.freeWord : Nat → BitVec 64

/-- The PCIe completion timeout in cycles (R468 names it and gives no figure). Log 6. -/
opaque Config.pcieTimeout : Nat

/-- The signature verification of a firmware image, LMS over SHA-256 (R452: an outside standard). Log 9. -/
opaque Config.firmwareVerifies : Nat → Bool

/-- SHA-256 digests answered to an attestation request (R452: an outside standard). Log 9. -/
opaque Config.digest : Nat → BitVec 256

/-- The handle under which the Apex keeps a suspended launch (R413 gives no value). Log 8. -/
opaque Config.handle : BitVec 32 → Word

/-- The domain map's own figure: how many modules the timing domain has beside the first, at most 287 (R2, R342). Log 8. -/
opaque Config.domainOthers : Fin 288

/-- Modules of the timing domain, 1 to 288 (R2, R25, R297). -/
def Config.domainModules : Nat := Config.domainOthers.val + 1

/-- Does a lane pass at a delay code: a property of the part, which training measures (R458, R461). Arguments: channel of the module,
lane (64 and 65 are the spare lanes), whether it writes, code. Log 37. -/
opaque Config.lanePasses : Nat → Nat → Bool → Nat → Bool

/-- What a lane that does not pass at a code delivers of the bits given to it, a lane stuck at one value among them (R461). Arguments as
those of `lanePasses`, the bits, and the counter `freeCtr` of the state. Log 37. -/
opaque Config.laneBits : Nat → Nat → Bool → Nat → BitVec 64 → Nat → BitVec 64

/-- The wrong bits of words that the stacks' code miscorrects (R467). Log 37. -/
opaque Config.miscorrected : Nat → BitVec 4096

/-- What the training of a channel by the firmware comes to (R453, R461): channel of the module; 0 for the read codes, 1 for the write
codes, 2 for the repair, 3 for the lanes that still fail. Log 37. -/
opaque Config.trainedCodes : Nat → Nat → BitVec 64

/-- What the training of a Mbaper port comes to: whether it trains, and its one-way latency (R450). Log 77. -/
opaque Config.portTrains : Nat → Bool × BitVec 16

/-- Place of the runtime's handler frame among the 64-bit words of the supervisor-only part of sec7: R143 gives the part and
no place in it. Log 12. -/
opaque Config.frameSlot : Fin 20471

/-- The packing of a row of the save area: the row, and the values whose place in it R427 gives as a group and not by bytes.
Log 59. -/
opaque Config.packRow : Nat → List Nat → BitVec 4096

/-- What the Apex reads from the HBM of another module (R409): memory that this machine does not hold. Log 75. -/
opaque Config.farByte : Nat → Nat → Nat → Byte

end Sys2Proof
end

