-- ==== Sys2Proof/Syntax.lean ====
section
/-! DEFINITION. The instructions of QM-EP4: one constructor for each row of spec/opcode_table.json. The slot
operations come first, in the order of R74. The events of the table, whole steps of the part that no bundle holds, come
after them: those the machine itself brings about with a payload, those that arrive from outside with a payload, and
those without. -/

namespace Sys2Proof

/-! ## Operand types -/

/-- Scalar register number, x0 to x31 (R68). -/
abbrev Reg := Fin 32

/-- Element formats, codes 0x0 to 0xB of R33, in code order. -/
inductive Fmt where
  | fp32 | bf16 | fp16 | i32 | i16 | i8 | u8 | e4m3 | e5m2 | e2m1 | dx8 | dx4
  deriving DecidableEq, Repr

/-- Rounding modes, codes 0b000 to 0b100 of R44. -/
inductive RMode where
  | rne | rtz | rdn | rup | srk
  deriving DecidableEq, Repr

/-- Release and acquire scopes, codes 0 to 4 of R266 and R311. -/
inductive Scope where
  | cell | rect | module | domain | system
  deriving DecidableEq, Repr

/-- A vector operand by code (R71): a tile row, a port, the broadcast scalar, the zero row, the lane-index row. -/
inductive VOp where
  | tile (t : Fin 8) (row : Fin 16)
  | port (q : Fin 8)
  | bcast
  | zero
  | lidx
  deriving DecidableEq, Repr

/-- The fields of a vector operation that every form shares (R71): format, mask pair and complement, rounding,
saturation and the broadcast register. -/
structure VCtl where
  fmt : Fmt
  mp  : Fin 4
  cpl : Bool
  rnd : RMode
  sat : Bool
  xs  : Reg
  deriving DecidableEq, Repr

/-- The fields that every engine command shares (R72). -/
structure ECtl where
  wsem : Fin 256
  wx   : Reg
  ssem : Fin 256
  sinc : Fin 16
  xa   : Reg
  q    : Bool
  deriving DecidableEq, Repr

/-- A lane by direction (false clockwise) and number 0 to 7 as the field holds it (R73). -/
structure LaneRef where
  ccw : Bool
  num : Fin 8
  deriving DecidableEq, Repr

/-- What an ATOM does to its word (R322). -/
inductive AtomOp where
  | add | min | max | minu | maxu | and | or | xchg | cas
  deriving DecidableEq, Repr

/-- Where an ATOM acts (R320). -/
inductive AtomKind where
  | cell | hbm | sem
  deriving DecidableEq, Repr

/-! ## Payloads of the events -/

/-- A unit that checks its own arithmetic: those that ARCSTAT names (R112), the checksum adders of a drain (R222) and the
duplicated lanes of st6's receiving unit (R360). -/
inductive ArcUnit where
  | sa | sb | vec | tis | cvs | sums | recv
  deriving DecidableEq, Repr

/-- A fault of a check: the unit, and which of its open checks fails. -/
structure ArcFault where
  unit : ArcUnit
  pick : Nat
  deriving DecidableEq, Repr

/-- A unit that runs engine commands: the two units of st0 (R200), st2 to st4 (R231), st5, and st6's sending
unit (R358). -/
inductive EUnit where
  | array | drain | tis | cvs | trs | cps | cls
  deriving DecidableEq, Repr

/-- A cell named by logical coordinates and logical module (R266, R323). -/
structure Peer where
  x   : Nat
  y   : Nat
  md  : Nat
  deriving DecidableEq, Repr

/-- How a row or a request that left the cell ended at the other side. -/
inductive FarStatus where
  | ok | ownership | rangeSet | fenced | poisoned | sectorPort
  | guardFail (code : BitVec 8) (tile : Nat)
  deriving DecidableEq, Repr

/-- A row that a copy station serves: row k of the own copy with a command index, or row k of another cell's CPC that
reads from or writes to this cell, with the counter value of the command's issue, its q bit and what its guard asks for (R262,
R267, R268, R272, R319). -/
inductive RowSrc where
  | own (idx : BitVec 24) (k : Nat)
  | far (src : Peer) (lid : BitVec 32) (issued : Nat) (prio : Bool) (idx : BitVec 24) (k : Nat) (sec : Fin 8) (row : Fin 512) (inner outer : Nat)
      (guard tchk : Bool) (tag : BitVec 16)
  deriving DecidableEq, Repr

/-- The outcome of a host translation (R289). -/
inductive AtsResult where
  | granted (frame : Nat) (rd wr : Bool)
  | unsupported
  deriving DecidableEq, Repr

/-- A request that reaches an ATOM's target (R323). -/
structure AtomReq where
  src   : Peer
  /-- The requester's command index, returned with the response. -/
  idx   : BitVec 24
  lid   : BitVec 32
  /-- Counter value of the command's issue (R319). -/
  issued : Nat
  seq   : BitVec 16
  t0    : Nat
  retry : Bool
  op    : AtomOp
  kind  : AtomKind
  sec   : Fin 8
  row   : Fin 512
  word  : Fin 64
  addr  : Nat
  sem   : Fin 256
  v     : Word
  cmp   : Word
  deriving DecidableEq, Repr

/-- How an ATOM's response ends it (R322 to R324). -/
inductive AtomEnd where
  | done (result : Word)
  | stale
  | failed (code : BitVec 8)
  deriving DecidableEq, Repr

/-- A row of a timed send or of a collective step that lands in this cell (R355 to R359), with the launch and the counter
value of the issue of its command (R319). `first` marks the first row of a send, `poisoned` a row marked so in transit. For
a CLRED, `red` holds the addend's place and the result's format. -/
structure TimedRow where
  lid   : BitVec 32
  issued : Nat
  win   : Fin 16
  sec   : Fin 8
  row   : Fin 512
  data  : Row
  tag   : BitVec 16
  first : Bool
  coll  : Bool
  poisoned : Bool
  red   : Option (Fin 8 × Fin 512 × Fmt × RMode × Bool × BitVec 16)
  deriving DecidableEq, Repr

/-- A flit of a link or of the mesh as its checks see it (R344, R382, R388, R449). A timed flit that carries part of a row
to this cell names the row, and the cycles from its release to the row's landing. -/
structure Flit where
  timed : Bool
  stamp : BitVec 16
  damaged : Bool
  win   : Fin 16
  row   : Option (Nat × TimedRow)
  deriving DecidableEq, Repr

/-- A compare word of a lockstep pair (R367). -/
structure CompareWord where
  seg   : BitVec 16
  replay : BitVec 8
  count : BitVec 32
  sig   : BitVec 32
  lxy   : BitVec 32
  deriving DecidableEq, Repr

/-- A range register's word (R190). -/
structure RangeReg where
  write : Bool
  sec   : Fin 8
  first : Fin 512
  last  : Fin 512
  stmask : BitVec 8
  deriving DecidableEq, Repr

/-- One segment-table entry as a cell of the shape needs it (R90, R126 to R128, R190, R362, R365, R382, R469). -/
structure Segment where
  count  : Nat
  slack  : Nat
  timedHbm : Bool
  phase  : Nat
  sigs   : List (BitVec 32)
  holds  : List (Nat × Fin 256 × Nat)
  ranges : List (Nat × RangeReg)
  masks  : List (Nat × Fin 4 × BitVec 64)
  /-- The replay groups (R31, R365): each member by its logical coordinates and its module's position in the launch. -/
  groups : List (List Peer)
  deriving DecidableEq, Repr

/-- A cell stream with its table entry: the stream's offset in the file, its length in code units, its code units and its
entry address (R91). -/
structure CellStream where
  off   : Nat
  len   : Nat
  code  : List (BitVec 16)
  entry : BitVec 16
  deriving DecidableEq, Repr

/-- What a shape-table entry names: counts, offsets in the file, and its reserved bytes (R90). -/
structure ShapeHead where
  dictn   : Nat
  segs    : Nat
  dict    : Nat
  cells   : Nat
  segtab  : Nat
  timetab : Nat
  zero    : BitVec 176
  deriving DecidableEq, Repr

/-- What a timetable shows of one action of a cell (R262, R365, R425, R455). -/
inductive TimeItem where
  /-- A timed row from a copy, a timed send or a collective step lands in a sector of the cell. -/
  | landing (sec : Fin 8)
  /-- A TSEND, TRECV, collective step or timed copy of the cell runs, to its last cycle. -/
  | busy (last : Nat)
  /-- A timed row addressed to the cell is in flight, to its last cycle. -/
  | flight (last : Nat)
  /-- A SAFE of the cell issues. -/
  | safe
  /-- An MXGO starts and its array unit works to a last cycle. -/
  | array (last : Nat)
  /-- The cell sends a timed row, a collective step or a lockstep compare to a cell. -/
  | send (dst : Peer)
  deriving DecidableEq, Repr

/-- An action of a timetable: the cell, by its logical coordinates and its module's position in the launch, the segment, the cycle
from the start by the timetable, and the action. -/
structure TimeEv where
  cell : Peer
  seg  : Nat
  cyc  : Nat
  item : TimeItem
  deriving DecidableEq, Repr

/-- A shape of an image (R90). -/
structure ShapeRec where
  head  : ShapeHead
  w     : Nat
  h     : Nat
  nsig  : Nat
  dict  : List Bundle
  cells : List CellStream
  segs  : List Segment
  /-- Timed HBM accesses of the timetable: stack, pseudo-channel, bank, cycle after the start (R280). -/
  slots : List (Nat × Nat × Nat × Nat)
  energy : List Nat
  /-- Timed shape: the die for which a logical cell's timetable was compiled, by its index (R29). -/
  dies  : List (Nat × Nat)
  /-- What the timetable shows beside the HBM accesses; empty in an untimed image. -/
  time  : List TimeEv := []
  deriving DecidableEq, Repr

/-- A window of an image's window list (R282). -/
structure WindowRec where
  dva  : Nat
  rows : Nat
  rd   : Bool
  wr   : Bool
  deriving DecidableEq, Repr

/-- A map of the congruence table: point, shape, segment of the point (R433). -/
structure CongMap where
  cp    : Fin 256
  shape : Nat
  seg   : Nat
  deriving DecidableEq, Repr

/-- A record of a congruence map (R433). -/
structure CongRec where
  cp    : Fin 256
  shape : Nat
  cell  : Nat
  sectorRows : Option (Fin 8 × Fin 512 × Nat)
  piece : Nat
  cyc   : Nat
  deriving DecidableEq, Repr

/-- An image's header, without the field that `Image.wcet` holds (R89). -/
structure ImgHead where
  magic    : BitVec 32
  version  : BitVec 16
  flags    : BitVec 8
  shapes   : Nat
  size     : Nat
  shapetab : Nat
  congtab  : Nat
  datatab  : Nat
  energy   : Nat
  windows  : Nat
  deriving DecidableEq, Repr

/-- A declared tile of an image: the cell, the place, and what the declaration gives (R465). -/
structure TileDecl where
  cell   : Nat
  sec    : Fin 8
  row    : Fin 512
  fmt    : Fmt
  /-- Valid rows and columns, 1 to 64. -/
  vrows  : Nat
  vcols  : Nat
  ty     : BitVec 32
  tx     : BitVec 32
  orient : Bool
  tag    : BitVec 16
  deriving DecidableEq, Repr

/-- An image as structured data (R89 to R92): the file's fields, for each cell where the file has one entry a cell.
The byte layout of the segment table, the timetable and the data table is not given; log 5. -/
structure Image where
  head    : ImgHead
  /-- Bytes of the file as it was fetched. -/
  fileSize : Nat
  timed   : Bool
  ckpt    : Bool
  /-- The bytes of the sections without a given layout are well formed by their own format: the segment table, the timetable and
  the data table (log 5). What those sections hold is checked by the model itself (R31, R191, R251, R262, R365, R425, R434, R455). -/
  checked : Bool
  wcet    : Nat
  shapes  : List ShapeRec
  maps    : List CongMap
  cong    : List CongRec
  sectors : List (Fin 8)
  /-- Initial rows of a cell's sectors: what .data gives, zero where it gives nothing. -/
  init    : List (Nat × Fin 8 × Fin 512 × Row)
  tiles   : List TileDecl
  mailbox : List (Fin 16 × Word)
  windows : List WindowRec
  deriving DecidableEq, Repr

/-- The body of a LAUNCH packet (R407) with the header fields of R406. -/
structure LaunchPkt where
  stag   : BitVec 32
  flags  : BitVec 8
  mvec   : Nat
  deadline : Nat
  wcet   : Nat
  cplt   : Nat
  imageDva : Nat
  w      : Nat
  h      : Nat
  ox     : Nat
  oy     : Nat
  mfirst : Nat
  mlog   : Nat
  lflags : BitVec 8
  mset   : BitVec 16
  /-- The mailbox block that the packet names. -/
  mbox   : Vector Word 16
  ctx    : Nat
  wdog   : Nat
  save   : Nat
  ckpt   : Nat
  deriving DecidableEq, Repr

/-- An RDMA READ (R451): one that a peer makes here, one that the driver posts for a buffer of module HBM, and the answer to it, whose
bytes go to that buffer. -/
inductive RdmaRead where
  | served
  | posted
  | answer (data : List Byte)
  deriving DecidableEq, Repr

/-- A buffer of module HBM with a message's bytes; of an outgoing message only their number counts (R451). -/
structure RdmaBuf where
  addr : Nat
  data : List Byte
  deriving DecidableEq, Repr

/-- An access to a register with no event of its own: a system register, or a write or a read of BAR0 by a function (R105, R446). -/
inductive RegAccess where
  | sys
  | bar (fn : Fin 9)
  | barRead (fn : Fin 9)
  deriving DecidableEq, Repr

/-- What the Apexes of a launch's modules tell each other over plane 0 (R366, R420, R422): R420 names the matter of these messages and
no form of them (DESIGN CHOICE, log 76). Two launches of one packet are matched by its stag until they share an identifier. -/
inductive RemoteMsg where
  /-- A packet to be tested for admission. -/
  | test (p : LaunchPkt)
  /-- The answer: is it admitted? -/
  | verdict (stag : BitVec 32) (ok : Bool)
  /-- A launch that every module admits: its identifier, its rectangle's origin, and T0 or 0. -/
  | place (stag : BitVec 32) (lid : BitVec 32) (x y : Nat) (t0 : Nat)
  /-- A launch that some module does not admit. -/
  | drop (stag : BitVec 32)
  /-- The virtual start T1 of a resume (R435). -/
  | arm (lid : BitVec 32) (t1 : Nat)
  /-- A pre-emption of all modules together. -/
  | preempt (lid : BitVec 32) (full : Bool) (atP : Option Nat)
  /-- The launch has ended with a status. -/
  | ended (lid : BitVec 32) (status : BitVec 16)
  deriving DecidableEq, Repr

/-- What a restored context is resumed as (R431 to R435): the launch, the new placement and shape. -/
structure Placement where
  lid   : BitVec 32
  shape : Nat
  px    : Nat
  py    : Nat
  deriving DecidableEq, Repr

/-! ## The instructions -/

/-- The instructions of QM-EP4: NOP, the 201 slot instructions of R74 in its order, and the 114 events of
spec/opcode_table.json. A register operand is named as the manual names its field. -/
inductive Instr where
  | nop
  -- scalar, format SR (R95)
  | add (xd xa xb : Reg)
  | sub (xd xa xb : Reg)
  | and (xd xa xb : Reg)
  | or (xd xa xb : Reg)
  | xor (xd xa xb : Reg)
  | andn (xd xa xb : Reg)
  | shl (xd xa xb : Reg)
  | shr (xd xa xb : Reg)
  | sra (xd xa xb : Reg)
  | rotl (xd xa xb : Reg)
  | mul (xd xa xb : Reg)
  | mulh (xd xa xb : Reg)
  | mulhu (xd xa xb : Reg)
  | div (xd xa xb : Reg)
  | divu (xd xa xb : Reg)
  | rem (xd xa xb : Reg)
  | remu (xd xa xb : Reg)
  | min (xd xa xb : Reg)
  | max (xd xa xb : Reg)
  | minu (xd xa xb : Reg)
  | maxu (xd xa xb : Reg)
  | slt (xd xa xb : Reg)
  | sltu (xd xa xb : Reg)
  | seq (xd xa xb : Reg)
  | sne (xd xa xb : Reg)
  | sel (xd xa xb xc : Reg)
  | clz (xd xa : Reg)
  | ctz (xd xa : Reg)
  | popc (xd xa : Reg)
  -- bitfields (R97, R98): lowest position, width minus one
  | bfx (xd xa : Reg) (pos wm1 : Fin 64)
  | bfi (xd xa : Reg) (pos wm1 : Fin 64)
  | addx (xd xa xb : Reg) (sh : Fin 8)
  -- scalar immediates, format SI (R97)
  | addi (xd xa : Reg) (imm : BitVec 46)
  | andi (xd xa : Reg) (imm : BitVec 46)
  | ori (xd xa : Reg) (imm : BitVec 46)
  | xori (xd xa : Reg) (imm : BitVec 46)
  | shli (xd xa : Reg) (n : Fin 64)
  | shri (xd xa : Reg) (n : Fin 64)
  | srai (xd xa : Reg) (n : Fin 64)
  | muli (xd xa : Reg) (imm : BitVec 46)
  | slti (xd xa : Reg) (imm : BitVec 46)
  | sltiu (xd xa : Reg) (imm : BitVec 46)
  | movi (xd : Reg) (imm : BitVec 46)
  | movhi (xd xa : Reg) (imm : BitVec 18)
  -- local loads and stores (R100)
  | ldb (xd xa : Reg) (imm : BitVec 46)
  | ldbu (xd xa : Reg) (imm : BitVec 46)
  | ldh (xd xa : Reg) (imm : BitVec 46)
  | ldhu (xd xa : Reg) (imm : BitVec 46)
  | ldw (xd xa : Reg) (imm : BitVec 46)
  | ldwu (xd xa : Reg) (imm : BitVec 46)
  | ldd (xd xa : Reg) (imm : BitVec 46)
  | stb (xd xa : Reg) (imm : BitVec 46)
  | sth (xd xa : Reg) (imm : BitVec 46)
  | stw (xd xa : Reg) (imm : BitVec 46)
  | std (xd xa : Reg) (imm : BitVec 46)
  -- scalar FP32 (R103)
  | fadd (xd xa xb : Reg) (rnd : RMode)
  | fsub (xd xa xb : Reg) (rnd : RMode)
  | fmul (xd xa xb : Reg) (rnd : RMode)
  | ffma (xd xa xb xc : Reg) (rnd : RMode)
  | fdiv (xd xa xb : Reg) (rnd : RMode)
  | fsqrt (xd xa : Reg) (rnd : RMode)
  | fmin (xd xa xb : Reg)
  | fmax (xd xa xb : Reg)
  | feq (xd xa xb : Reg)
  | flt (xd xa xb : Reg)
  | fle (xd xa xb : Reg)
  | fcvtws (xd xa : Reg) (rnd : RMode) (sat : Bool)
  | fcvtsw (xd xa : Reg) (rnd : RMode)
  | fclass (xd xa : Reg)
  -- system registers (R105)
  | sysrd (xd : Reg) (num : BitVec 12)
  | syswr (xa : Reg) (num : BitVec 12)
  | sysset (xd xa : Reg) (num : BitVec 12)
  | sysclr (xd xa : Reg) (num : BitVec 12)
  -- control (R114 to R140)
  | beq (xa xb : Reg) (target : BitVec 15)
  | bne (xa xb : Reg) (target : BitVec 15)
  | blt (xa xb : Reg) (target : BitVec 15)
  | bge (xa xb : Reg) (target : BitVec 15)
  | bltu (xa xb : Reg) (target : BitVec 15)
  | bgeu (xa xb : Reg) (target : BitVec 15)
  | jmp (target : BitVec 15)
  | jmpx (xa : Reg)
  | call (target : BitVec 15)
  | callx (xa : Reg)
  | ret
  | loop (lc : Fin 4) (xa : Reg) (trip : BitVec 25) (last : BitVec 15)
  | lexit (xa : Reg)
  | safe (cp : Option (Fin 256))
  | segend (seg : BitVec 16) (count : BitVec 21)
  | halt (status : BitVec 16)
  | trap (id : BitVec 16) (arg : BitVec 40)
  | eret
  -- semaphores and ordering (R311 to R318)
  | swait (sem : Fin 256) (xt : Reg) (scope : Scope)
  | ssig (sem : Fin 256) (xt : Reg)
  | srd (xd : Reg) (sem : Fin 256) (status : Bool)
  | sset (sem : Fin 256) (xt : Reg)
  | sclre (sem : Fin 256)
  | fence (scope : Scope)
  | srel (mask : BitVec 8)
  | sacq (mask : BitVec 8)
  -- the Abscissa (R347)
  | axrd (xd : Reg) (form : Fin 3)
  | axslew (xa : Reg)
  | axskip (xa : Reg)
  -- cell health (R392)
  | hbrd (xd : Reg) (sel : Fin 9)
  | accuse (side : Fin 4)
  | appeal (xd : Reg)
  | ifst (xd : Reg)
  | spmrd (xd : Reg) (sel : Fin 3)
  | spmwr (xa : Reg)
  | spare (xd : Reg)
  | selfoff
  -- vector (R155 to R168)
  | vadd (c : VCtl) (od oa ob : VOp)
  | vsub (c : VCtl) (od oa ob : VOp)
  | vmul (c : VCtl) (od oa ob : VOp)
  | vfma (c : VCtl) (od oa ob oc : VOp)
  | vfms (c : VCtl) (od oa ob oc : VOp)
  | vmin (c : VCtl) (od oa ob : VOp)
  | vmax (c : VCtl) (od oa ob : VOp)
  | vabs (c : VCtl) (od oa : VOp)
  | vneg (c : VCtl) (od oa : VOp)
  | vdiv (c : VCtl) (od oa ob : VOp)
  | vsqrt (c : VCtl) (od oa : VOp)
  | vrcp (c : VCtl) (od oa : VOp)
  | vrsq (c : VCtl) (od oa : VOp)
  | viadd (c : VCtl) (od oa ob : VOp)
  | visub (c : VCtl) (od oa ob : VOp)
  | vimul (c : VCtl) (od oa ob : VOp)
  | vimin (c : VCtl) (od oa ob : VOp)
  | vimax (c : VCtl) (od oa ob : VOp)
  | vand (c : VCtl) (od oa ob : VOp)
  | vor (c : VCtl) (od oa ob : VOp)
  | vxor (c : VCtl) (od oa ob : VOp)
  | vshl (c : VCtl) (od oa ob : VOp)
  | vshr (c : VCtl) (od oa ob : VOp)
  | vsra (c : VCtl) (od oa ob : VOp)
  | vimad (c : VCtl) (od oa ob oc : VOp)
  | vceq (c : VCtl) (md : Fin 4) (oa ob : VOp) (sub : Fin 4)
  | vcne (c : VCtl) (md : Fin 4) (oa ob : VOp) (sub : Fin 4)
  | vclt (c : VCtl) (md : Fin 4) (oa ob : VOp) (sub : Fin 4)
  | vcle (c : VCtl) (md : Fin 4) (oa ob : VOp) (sub : Fin 4)
  | vcun (c : VCtl) (md : Fin 4) (oa ob : VOp) (sub : Fin 4)
  | viclt (c : VCtl) (md : Fin 4) (oa ob : VOp) (sub : Fin 4)
  | vicltu (c : VCtl) (md : Fin 4) (oa ob : VOp) (sub : Fin 4)
  | viceq (c : VCtl) (md : Fin 4) (oa ob : VOp) (sub : Fin 4)
  | vsel (c : VCtl) (od oa ob : VOp)
  | vmov (c : VCtl) (od oa : VOp)
  | vlane (c : VCtl) (od oa : VOp)
  | vperm (c : VCtl) (od oa ob : VOp)
  | vrot (c : VCtl) (od oa : VOp)
  | viota (c : VCtl) (od : VOp)
  | vradd (c : VCtl) (od oa : VOp)
  | vrmax (c : VCtl) (od oa : VOp)
  | vrmin (c : VCtl) (od oa : VOp)
  | vamax (c : VCtl) (od oa : VOp)
  | vcvt (c : VCtl) (od oa : VOp) (src : Fmt) (part : Bool)
  | vrint (c : VCtl) (od oa : VOp)
  | vrng (c : VCtl) (od : VOp)
  | mset (md : Fin 4) (ones : Bool)
  | mand (md ma mb : Fin 4)
  | mor (md ma mb : Fin 4)
  | mnot (md ma : Fin 4)
  | mpop (od : VOp) (ma : Fin 4)
  | mrow (md : Fin 4) (xs : Reg)
  | mcol (md : Fin 4) (xs : Reg)
  | tzero (t : Fin 8) (row : Fin 16) (whole : Bool) (mp : Fin 4) (cpl : Bool)
  | tcpy (td ta : Fin 8) (mp : Fin 4) (cpl : Bool)
  -- matrix commands (R211)
  | mxcfg (xa : Reg) (entry : Fin 10)
  | mxgo (e : ECtl) (fbase : Fin 16) (fmode : Bool) (lcn : Fin 4) (ga zacc : Bool)
  | mxldb (e : ECtl) (fe : Fin 16) (ga : Bool)
  | accz (e : ECtl) (a0 a1 : Bool)
  | accdr (e : ECtl) (fe : Fin 16) (acc0 keep : Bool)
  | ftset (xa : Reg) (entry : Fin 16)
  | tolset (xa : Reg) (entry : Fin 8)
  | mxstat (xd : Reg) (sel : Fin 7)
  | mxabn (array drain : Bool)
  -- shaping commands (R232)
  | cvt (e : ECtl) (dfmt : Fmt) (fe : Fin 16) (rnd : RMode) (sat bcol ch chrow tns inv : Bool)
  | qamax (e : ECtl) (fe : Fin 16) (zp init : Bool)
  | qscl (e : ECtl) (tfmt : Fmt) (m : Fin 8) (pow2 : Bool)
  | trn (e : ECtl) (keep : Bool)
  | tbld (e : ECtl) (slot : Fin 4)
  | tbev (e : ECtl) (slot : Fin 4) (ifmt ofmt : Fmt) (rnd : RMode) (sat tile : Bool)
  | gsum (e : ECtl) (fmt : Fmt) (bcol : Bool)
  | gver (e : ECtl)
  -- copy commands (R265)
  | cpl (e : ECtl)
  | cpc (e : ECtl)
  | cph (e : ECtl)
  | cpv (e : ECtl)
  | cpabn (e : ECtl) (all : Bool)
  -- timed sends and collective steps (R354 to R358)
  | tsend (e : ECtl)
  | trecv (e : ECtl)
  | clred (e : ECtl) (ofmt : Fmt) (rnd : RMode) (sat : Bool)
  | clgath (e : ECtl)
  | clbcst (e : ECtl)
  -- ATOM (R320)
  | atom (e : ECtl) (op : AtomOp) (kind : AtomKind) (retry : Bool)
  -- lane (R180)
  | pbind (q : Fin 8) (sec : Fin 8) (lane : LaneRef) (stn : Fin 8) (xa : Reg) (wr : Bool)
  | pwalk (q : Fin 8) (xa : Reg) (lvl : Fin 4)
  | prst (q : Fin 8)
  | ptag (q : Fin 8) (tag : BitVec 16)
  | pstamp (q : Fin 8) (tag : BitVec 16)
  | lmov (src : Fin 8) (lane : LaneRef) (dst : Fin 8) (xa : Reg)
  | pstat (q : Fin 8) (xd : Reg) (sel : Fin 32)
  | pflush (q : Fin 8)
  -- events that the machine itself brings about, with a payload
  | arithmeticCheckFault (u : ArcFault)
  | replayNotice (f : Nat) (q : Nat)
  | compareWord (w : Option CompareWord)
  | timestampBeatSend (p : Fin 18)
  | commandStart (u : EUnit) (idx : BitVec 24)
  | commandCompletion (u : EUnit) (idx : BitVec 24)
  | portPrefetchRead (q : Fin 8)
  | portPushLand (q : Fin 8)
  | sectorFree (sec : Fin 8)
  | copyRowIssue (src : RowSrc)
  | translationComplete (idx : BitVec 24)
  | hbmBankAccess (idx : BitVec 24) (k : Nat)
  | copyRowLand (src : RowSrc) (data : Row) (st : FarStatus)
  | putAcknowledgement (idx : BitVec 24) (k : Nat) (st : FarStatus)
  | completionTimeout (idx : BitVec 24)
  | atomRequest (r : AtomReq)
  | atomResponse (idx : BitVec 24) (r : AtomEnd)
  | atomTimeout (idx : BitVec 24)
  | timedRowLand (r : TimedRow)
  | clredResult (win : Fin 16)
  | timedFlitRelease (p : Fin 18) (f : Flit)
  | voteWindowEnd (side : Fin 4)
  | fenceGraceEnd (side : Fin 4)
  | queueFetch (q : Fin 64) (hostPkt : Option (BitVec 1024)) (img : Option Image)
  | cond (entry : Nat)
  | loopNode (entry : Nat)
  | loopNodeReread (entry : Nat)
  | switch (entry : Nat)
  | signalWrite (entry : Nat)
  | signalMsix (entry : Nat)
  | fencePacket (entry : Nat)
  | readyReport (lid : BitVec 32) (cell : Peer)
  | armingDeadline (lid : BitVec 32)
  | armedStart (lid : BitVec 32)
  | cellStart (lid : BitVec 32)
  | haltReport (lid : BitVec 32) (cell : Peer) (status : BitVec 16)
  | packetCompletion (entry : Nat)
  | watchdogLimit (lid : BitVec 32)
  | preemptionRequest (full : Bool) (atP : Option Nat)
  | checkpointAck (lid : BitVec 32) (cell : Peer)
  | fenceReport (px py : Nat) (cause : Fin 8) (f : Nat)
  | resumeStart (p : Placement)
  -- events that arrive from outside the machine, with a payload
  | replayAck (cell : Peer)
  | atsCompletion (pasid : BitVec 20) (page : Nat) (r : AtsResult)
  | priGroupResponse (pasid : BitVec 20) (page : Nat) (ok : Bool)
  | timestampBeat (p : Fin 18) (stamp : Word)
  | mbaperFlitArrival (p : Fin 18) (f : Flit)
  | meshFlitArrival (side : Fin 4) (f : Flit)
  | atsInvalidation (pasid : BitVec 20) (page : Nat) (pages : Nat)
  | fabricPathLost (idx : BitVec 24)
  | heartbeat (side : Fin 4) (msg : BitVec 256)
  | accusation (side : Fin 4) (msg : BitVec 256)
  | appealMessage (side : Fin 4) (msg : BitVec 256)
  | readmissionVote (side : Fin 4) (msg : BitVec 256)
  | fenceNotice (side : Fin 4) (msg : BitVec 256)
  | liftNotice (side : Fin 4) (msg : BitVec 256)
  | queueDoorbell (q : Fin 64) (tail : BitVec 32)
  | launch (q : Fin 64) (p : LaunchPkt) (img : Image)
  | remoteLaunch (p : RemoteMsg) (img : Image)
  | eventHeadWrite (head : BitVec 32)
  | pageServiced (fn : Fin 9) (dva : Nat) (asid : BitVec 16) (refused : Bool)
  | invalidateDeviceTables (fn : Fin 9) (asid : BitVec 16) (dva : Nat) (len : Nat)
  | suspendLaunch (fn : Fin 9) (lid : BitVec 32)
  | abandonLaunch (fn : Fin 9) (lid : BitVec 32)
  | abandonCopy (fn : Fin 9) (px py : Nat) (idx : BitVec 24)
  | enableQueue (fn : Fin 9) (q : Fin 64)
  | resetQueue (fn : Fin 9) (q : Fin 64)
  | stageFirmware (fn : Fin 9) (dva : Nat) (len : Nat) (version : BitVec 16) (prev : BitVec 16)
  | activateFirmware (fn : Fin 9)
  | clearServiceHold (fn : Fin 9) (px py : Nat)
  | vfBind (vf : Fin 9) (dies : BitVec 4)
  | apertureAccess (write : Bool) (off : Nat) (data : Byte)
  | rdmaWrite (incoming : Bool) (addr : Nat) (data : List Byte)
  | rdmaRead (what : RdmaRead) (addr : Nat) (len : Nat)
  | rdmaSend (incoming : Bool) (buf : RdmaBuf)
  | registerWrite (acc : RegAccess) (num : BitVec 16) (v : Word)
  | memoryBitError (table : Bool) (sec : Fin 8) (addr : Nat) (uncorrectable : Bool)
  -- events without a payload
  | cycleCountMismatch
  | safePointStarvationFault
  | resultWriteback
  | segmentStart
  | holdEnd
  | replayStart
  | replayWaitTimeout
  | abscissaAutoStep
  | trimUpdate
  | abscissaStep
  | matrixStep
  | swap
  | drain
  | lmovRow
  | faultRecordRead
  | atsInvalidationComplete
  | invalidationComplete
  | replayEntryExpiry
  | heartbeatSend
  | periodEnd
  | domainBoundary
  | appealExpiry
  | ifstComplete
  | spareFlashWrite
  | dispatch
  | saveComplete
  | fullSaveComplete
  | apexMismatch
  | apexRestart
  | eventRecordWrite
  | firmwareActivation
  | getMeasurements
  | powerOn
  | moduleReset
  | thermalTrip
  | illegalCodeUnitFetch
  | cellFallsSilent
  deriving DecidableEq, Repr

end Sys2Proof
end

