-- ==== Sys2Proof/Machine/Bits.lean ====
section
/-! DEFINITION. Bit fields, sign readings, byte order, rows as elements, and the keyed generator. -/

namespace Sys2Proof.Machine

/-- 1 for true, 0 for false, as a double. -/
def boolWord (b : Bool) : Word := if b then 1 else 0

/-- The two's-complement reading of the low `w` bits of `v` (R42). -/
def sintOf (w v : Nat) : Int :=
  let u := v % 2 ^ w
  if u < 2 ^ (w - 1) then (u : Int) else (u : Int) - (2 ^ w : Nat)

/-- The low `w` bits of an integer. -/
def wrapInt (w : Nat) (v : Int) : Nat := (v % (2 ^ w : Nat)).toNat

/-- An integer clamped to a range. -/
def clampInt (lo hi v : Int) : Int := if v < lo then lo else if hi < v then hi else v

/-- Replace bits lo + w - 1 : lo of a natural number. -/
def setField (v lo w x : Nat) : Nat := v - (v / 2 ^ lo % 2 ^ w) * 2 ^ lo + (x % 2 ^ w) * 2 ^ lo

/-- Field lo, w of a natural number. -/
def getField (v lo w : Nat) : Nat := v / 2 ^ lo % 2 ^ w

/-- Position of the lowest set bit of `v` among `n` bits; `n` when there is none. -/
def lowestSet : Nat → Nat → Nat
  | 0, _ => 0
  | n + 1, v => if v % 2 = 1 then 0 else lowestSet n (v / 2) + 1

/-- Byte k of a number, little-endian (R34). -/
def byteOf (v k : Nat) : Byte := BitVec.ofNat 8 (v / 256 ^ k)

/-- The `n` low bytes of a number, lowest first (R34). -/
def bytesOf (n v : Nat) : List Byte := (List.range n).map (byteOf v)

/-- The number whose bytes, lowest first, are `l` (R34). -/
def ofBytes (l : List Byte) : Nat := l.foldr (fun b acc => acc * 256 + b.toNat) 0

/-- The `n` elements of `w` bits of a number, element 0 lowest (R34, R148). -/
def elemsOf (w n v : Nat) : List Nat := (List.range n).map fun e => v >>> (w * e) % 2 ^ w

/-- The number whose elements of `w` bits are `l` (R34, R148). -/
def packElems (w : Nat) (l : List Nat) : Nat := l.foldr (fun x acc => acc <<< w + x % 2 ^ w) 0

/-- The elements of `w` bits of a row, in index order (R148). -/
def rowElems (w : Nat) (r : Row) : List Nat := elemsOf w (4096 / w) r.toNat

/-- A row from its elements of `w` bits (R148). -/
def rowOfElems (w : Nat) (l : List Nat) : Row := BitVec.ofNat 4096 (packElems w l)

/-- A row every element of which is `x` (R150). -/
def rowFill (w x : Nat) : Row := rowOfElems w (List.replicate (4096 / w) x)

/-- Rotation left of a double (R95). -/
def rotl64 (v : Word) (n : Nat) : Word := v.rotateLeft n

/-- The 32-bit output of the keyed generator for a key and a counter (R164). -/
def qk64 (key ctr : Word) : BitVec 32 :=
  let m : Word := 0x0000010000100101#64
  let x := (ctr + key) * m
  let x := x ^^^ (x >>> 28)
  let x := (x + rotl64 key 32) * m
  let x := x ^^^ (x >>> 28)
  bitsOf x 32 32 ^^^ bitsOf x 0 32

/-- One step of the byte-wise, bit-reflected CRC-32C (R127): eight shifts. -/
def crcShift : Nat → BitVec 32 → BitVec 32
  | 0, c => c
  | n + 1, c => crcShift n (if c.getLsbD 0 then (c >>> 1) ^^^ 0x82F63B78#32 else c >>> 1)

/-- CRC-32C state after one more byte (R127; polynomial 0x1EDC6F41 reflected). -/
def crcByte (c : BitVec 32) (b : Byte) : BitVec 32 := crcShift 8 (c ^^^ b.setWidth 32)

/-- CRC-32C state after more bytes. -/
def crcBytes (c : BitVec 32) (l : List Byte) : BitVec 32 := l.foldl crcByte c

/-- Update element `i` of a list. -/
def listSet {α : Type} (l : List α) (i : Nat) (v : α) : List α := l.set i v

end Sys2Proof.Machine
end

