-- ==== Sys2Proof/Machine/State.lean ====
section
/-! DEFINITION. The state of the machine: one cell in focus with its stations, the shared units of its die, the
module's HBM and the Apex; its value at reset; the reasons a step can stop. -/

namespace Sys2Proof.Machine

/-! ## Memory -/

/-- Bytes by address in canonical form: addresses strictly rising, no entry equal to what an unlisted address reads as
(log 3). The sectors use local addresses (R99), HBM physical ones (R278). -/
abbrev Memory := List Host.Cell

/-- Are the addresses of a memory strictly rising, each above `lo`? -/
def Memory.risingFrom : Nat → Memory → Bool
  | _, [] => true
  | lo, c :: m => decide (lo ≤ c.1) && c.2 != Config.unwritten && Memory.risingFrom (c.1 + 1) m

/-- The canonical form of a memory. -/
def Memory.wf (m : Memory) : Bool := Memory.risingFrom 0 m

/-! ## The sequencer -/

/-- Sequencer mode (R20, R134). -/
inductive Mode where
  | user | supervisor
  deriving DecidableEq, Repr

/-- Step phase within a cycle: what stands before the bundle's issue, and what follows it. -/
inductive Phase where
  | pre | post
  deriving DecidableEq, Repr

/-- What the sequencer is doing. -/
inductive Run where
  /-- No program is loaded, or a program is loaded and not started. -/
  | idle
  /-- Bundles issue. -/
  | running
  /-- The boundary after the SEGEND issued at Abscissa value `s`; the next bundle may issue at value `resume`
  (R129, R362, R363); `held` while a hold decides the resume cycle. -/
  | boundary (s : Nat) (resume : Nat) (held : Bool)
  /-- A replay notice reached the cell: the segment's first bundle issues at Abscissa value `q` (R365). -/
  | replayWait (q : Nat)
  /-- HALT issued (R133). -/
  | halted
  /-- A double trap, a stop by the Apex, or a fence stopped the cell (R141, R389, R414). -/
  | stopped
  /-- A pre-emption paused the program after a SAFE (R423). -/
  | preempted
  deriving DecidableEq, Repr

/-- One active hardware loop (R117). -/
structure LoopLevel where
  n     : Fin 4
  start : BitVec 15
  stop  : BitVec 15
  trip  : BitVec 25
  deriving DecidableEq, Repr

/-- Delay bundles still to issue, and the target of the transfer if it is taken (R80, R115, R135). -/
structure Xfer where
  left   : Nat
  target : Option Word
  deriving DecidableEq, Repr

/-- What the ctl operation in hand asks of the sequencer once its bundle has issued. -/
inductive Effect where
  | none
  /-- A transfer: two delay bundles follow (R80). -/
  | xfer
  /-- A zero-trip LOOP: one empty cycle, then the bundle after the loop's end (R117). -/
  | skip (target : Nat)
  /-- The bundle is held (R126, R312, R318). -/
  | hold
  /-- SAFE issued, with its congruence point (R121). -/
  | safe (cp : Option (Fin 256))
  /-- SEGEND issued (R126). -/
  | segend
  /-- ERET issued: pc is already that of the return (R140). -/
  | eret
  /-- HALT issued (R133). -/
  | halt
  deriving DecidableEq, Repr

/-- A trap to be taken: cause, code, the bundle and slot to blame, and the detail (R135 to R137). -/
structure TrapRec where
  cause  : BitVec 8
  code   : BitVec 16
  baddr  : BitVec 15
  slot   : Fin 8
  detail : BitVec 40
  deriving DecidableEq, Repr

/-- A register with a pending bit (R78) and the value on its way to it. A push is a row on its way to a write
port (R151), with the binding's generation, its data and the positions it writes; the port numbers it when it takes it
(R179). -/
inductive Dest where
  | x (r : Reg) (v : Word)
  | tile (i : Fin 128) (v : Row)
  | mask (m : Fin 4) (rows : BitVec 16) (cols : BitVec 128)
  | lc (n : Fin 4) (v : BitVec 25)
  | sys (num : BitVec 12) (v : Word)
  | push (q : Fin 8) (gen : Nat) (v : Row) (cols : BitVec 128)
  deriving DecidableEq, Repr

/-- A register write in flight (R77, R111): readable from cycle `due`. `bad` marks a result whose check fails, `inj` one
that fails by ARCINJ (R113). -/
structure PendingWrite where
  dest   : Dest
  due    : Nat
  issued : Nat
  baddr  : BitVec 15
  slot   : Fin 8
  bad    : Bool := false
  inj    : Bool := false
  deriving DecidableEq, Repr

/-- A store on its way to its sector (R101). -/
structure PendingStore where
  addr   : Nat
  bytes  : List Byte
  due    : Nat
  baddr  : BitVec 15
  slot   : Fin 8
  deriving DecidableEq, Repr

/-- One code unit with its start flag (R63, R66). -/
structure CodeUnit where
  unit  : BitVec 16
  start : Bool
  deriving DecidableEq, Repr

/-- The sequencer station st7 (R20, R63 to R80, R114 to R146). -/
structure Seq where
  pc        : BitVec 15
  mode      : Mode
  run       : Run
  /-- First clock cycle in which a bundle may issue (R117, R134, R140). -/
  issueAt   : Nat
  /-- The empty cycle of the escape at pc is paid (R65). -/
  escPaid   : Bool
  xfer      : Option Xfer
  /-- The fetch at pc comes by a transfer, so its start flag counts (R66). -/
  arrived   : Bool
  /-- A register target with bits above 14 set: the fetch traps with it as detail (R115). -/
  badTarget : Option Word
  /-- Innermost level first (R117). -/
  loops     : List LoopLevel
  /-- R138 holds. -/
  suspended : Bool
  /-- A trap that falls due in place of the next bundle (R111, R139, R356). -/
  trapDue   : Option TrapRec
  /-- The trap that the operation in hand has taken, with its class by R76. -/
  tookTrap  : Option (Nat × TrapRec)
  /-- The starvation fault of this SAFECT run has been raised (R123). -/
  starved   : Bool
  /-- What the ctl operation in hand asks for. -/
  effect    : Effect
  /-- Slot of the operation in hand (R60). -/
  slot      : Fin 8
  regs      : Vector Word 32
  lc        : Vector (BitVec 25) 4
  tiles     : Vector Row 128
  maskRow   : Vector (BitVec 16) 4
  maskCol   : Vector (BitVec 128) 4
  writes    : List PendingWrite
  stores    : List PendingStore
  /-- Code memory: units that are not the empty unit without a start flag, by rising address. -/
  code      : List (Nat × CodeUnit)
  /-- Dictionary memory: bundles that are not zero, by rising index. -/
  dict      : List (Nat × Bundle)
  /-- Running state of the control-word signature (R127). -/
  crc       : BitVec 32
  /-- HALT's status, until it is reported (R133). -/
  haltSt    : Option (BitVec 16)
  /-- Address, congruence point and clock cycle of the last SAFE that issued (R423, R427, R434). -/
  safeAt    : BitVec 15 := 0
  safeCp    : Option (Fin 256) := none
  safeNow   : Nat := 0
  deriving DecidableEq, Repr

/-! ## Sectors, lanes and ports -/

/-- Who claims a sector access (R173). -/
inductive Owner where
  | seq
  | port (q : Fin 8)
  | lmov
  | unit (u : EUnit)
  | copy (idx : BitVec 24)
  | landing
  deriving DecidableEq, Repr

/-- One claimed sector access (R18, R173). -/
structure Claim where
  cyc   : Nat
  sec   : Fin 8
  write : Bool
  owner : Owner
  deriving DecidableEq, Repr

/-- One level of a port's walk (R177). -/
structure Level where
  count  : Nat
  stride : Int
  deriving DecidableEq, Repr

/-- What a port is armed with (R184, R185). -/
inductive Arm where
  | none | ptag | pstamp
  deriving DecidableEq, Repr

/-- A port (R177, R189). -/
structure PortState where
  bound : Bool
  wr    : Bool
  sec   : Fin 8
  lane  : LaneRef
  stn   : Fin 8
  base  : Fin 512
  esz   : Nat
  lvls  : Vector Level 4
  /-- Rows popped or pushed so far. -/
  k     : Nat
  /-- Rows read so far from the walk. -/
  nread : Nat
  /-- Prefetched rows with the cycle from which each is usable. -/
  rows  : List (Nat × Row)
  arm   : Arm
  tag   : BitVec 16
  /-- Counts bindings, so that a row on its way finds the binding it was pushed to. -/
  gen   : Nat
  deriving DecidableEq, Repr

/-- A pushed row on its lane (R179). -/
structure PushLand where
  at_   : Nat
  q     : Fin 8
  gen   : Nat
  sec   : Fin 8
  row   : Nat
  data  : Row
  cols  : BitVec 128
  deriving DecidableEq, Repr

/-- A lane occupied over a set of segments from one cycle to another; no end while a binding holds it (R176). -/
structure LaneUse where
  lane  : LaneRef
  segs  : BitVec 16
  from_ : Nat
  until_ : Option Nat
  gen   : Nat
  deriving DecidableEq, Repr

/-- An LMOV with rows still to move (R187). -/
structure LmovRun where
  ssec  : Fin 8
  srow  : Nat
  dsec  : Fin 8
  drow  : Nat
  count : Nat
  start : Nat
  hops  : Nat
  nread : Nat
  nwrit : Nat
  buf   : List Row
  deriving DecidableEq, Repr

/-- Ownership of a sector (R193). -/
inductive Own where
  | free
  | held (pred : Bool)
  /-- `upto`: the releaser's commands issued before the SREL, by clock cycle of issue. -/
  | releasing (pred : Bool) (upto : Nat)
  /-- HELD by a context that is saved (R424). -/
  | kept
  /-- RELEASING by a context that is saved (R317, R424). -/
  | keptRel (upto : Nat)
  deriving DecidableEq, Repr

/-- A byte that stood before a sequencer store (R316): the store, the byte, and the clock cycle of the FENCE that covers
the store. A command issued before that FENCE, or with none, may still read the byte. -/
structure OldByte where
  store  : Nat
  addr   : Nat
  old    : Byte
  fenced : Option Nat
  deriving DecidableEq, Repr

/-- The annulus: sectors, lanes, ports. -/
structure Annulus where
  /-- Sector bytes by local address (R99). -/
  mem     : Memory
  /-- 64-bit words with an uncorrectable error, by local address divided by 8 (R175). -/
  poison  : List Nat
  /-- 64-bit words with a single-bit error (R175). -/
  flawed  : List Nat
  /-- Bytes that stood before sequencer stores, oldest store first (R316). -/
  unfenced : List OldByte
  eccCorr : BitVec 32
  eccPois : BitVec 32
  claims  : List Claim
  ports   : Vector PortState 8
  /-- Bindings released with rows on their way (R183). -/
  drained : List PortState
  pushes  : List PushLand
  lanes   : List LaneUse
  lmovs   : List LmovRun
  /-- Counts lane occupancies. -/
  gen     : Nat
  own     : Vector Own 8
  /-- The 16 range registers (R190). -/
  ranges  : Vector (Option RangeReg) 16
  deriving DecidableEq, Repr

/-! ## Semaphores -/

/-- A semaphore (R306). -/
structure Sem where
  cnt    : BitVec 36
  err    : Bool
  status : BitVec 32
  deriving DecidableEq, Repr

/-- A hardware increment: semaphore, amount, whether a replay keeps it (R131), and the station and command index that a
saturation records (R307, R308). -/
structure Inc where
  sem  : Fin 256
  n    : Nat
  keep : Bool
  stn  : BitVec 8
  idx  : BitVec 16
  deriving DecidableEq, Repr

/-! ## Engine commands -/

/-- An engine command with what it captured at issue (R72, R200, R214, R233). -/
structure Cmd where
  idx    : BitVec 24
  op     : Instr
  xs     : Vector Word 4
  /-- Semaphore and threshold of the wait (R310). -/
  wait   : Option (Fin 256 × Word)
  ssem   : Fin 256
  sinc   : Fin 16
  prio   : Bool
  issued : Nat
  baddr  : BitVec 15
  /-- Issued by the predecessor of the running program (R193), or by the program of a saved context. -/
  pred   : Bool
  /-- Issued by the program of a saved context, which left it in st5 (R424). -/
  saved  : Bool := false
  key    : Word
  ctr    : Word
  ft     : Word
  tau    : BitVec 32
  nest   : Vector Word 10
  mrow   : BitVec 16
  mcol   : BitVec 128
  deriving DecidableEq, Repr

/-- The two queues of a station and its command count (R200, R213, R231). -/
structure Queues where
  normal : List Cmd
  prio   : List Cmd
  count  : BitVec 24
  /-- First cycle in which the head of the normal, of the priority queue may leave it. -/
  nextN  : Nat
  nextP  : Nat
  deriving DecidableEq, Repr

/-- An accumulator with its checksum row and column, magnitude sums and block count (R199, R217). -/
structure Acc where
  el   : Vector (Vector (BitVec 32) 65) 65
  mcol : Vector (BitVec 32) 64
  mrow : Vector (BitVec 32) 64
  nb   : BitVec 32
  deriving DecidableEq, Repr

/-- The B buffer: the tile's address and its rows (R199, R218). -/
structure BBuf where
  sec  : Fin 8
  row  : Nat
  rows : List Row
  deriving DecidableEq, Repr

/-- A drain: due, or in progress (R219 to R222). -/
structure DrainRun where
  cmd   : Cmd
  /-- A drain that an MXGO's nest started. -/
  nested : Bool
  /-- The cycle in which it is due, then that in which it starts. -/
  d     : Nat
  sec   : Fin 8
  row   : Nat
  /-- Its ordinal within the command. -/
  ord   : Nat
  vr    : Nat
  vc    : Nat
  tag   : BitVec 16
  ty    : BitVec 32
  tx    : BitVec 32
  /-- The accumulator as read. -/
  acc   : Acc
  /-- Output rows still to write with their place in the tile. -/
  out   : List (Nat × Row)
  deriving DecidableEq, Repr

/-- The running array command; for an MXGO its micro-program counter and schedule (R215, R225). -/
structure ArrayRun where
  cmd    : Cmd
  start  : Nat
  /-- Iteration of each level, level 0 first. -/
  iter   : List Nat
  /-- Steps not yet ended. -/
  left   : Nat
  /-- Cycle in which the step in hand begins by R225's schedule. -/
  t      : Nat
  /-- Place, number of rows and first cycle of the reads of A and of B for the step in hand or the next one, and the
  rows read so far. -/
  aAt    : Fin 8 × Nat
  bAt    : Fin 8 × Nat
  na     : Nat
  nb     : Nat
  a0     : Nat
  b0     : Nat
  bufA   : List Row
  bufB   : List Row
  /-- Is that step enabled by R210, and is the B buffer filled for it (R215)? -/
  on     : Bool
  fill   : Bool
  /-- Has a level of role 3 begun a new iteration since the last fill? -/
  reload : Bool
  /-- Extents of the last step that ran: valid rows of A and valid columns of B, each minus one. -/
  vr     : Nat
  vc     : Nat
  /-- Roles due after the step in hand, innermost first: true for a drain. -/
  due    : List Bool
  ndrain : Nat
  /-- Bytes written by its drains (R225). -/
  bytes  : Nat
  /-- R225's dfree of this command. -/
  dfree  : Nat
  /-- The first A and B read have been made. -/
  seen   : Bool
  /-- A drain that a swap has made due. -/
  next   : Option DrainRun
  /-- An MXGO that a pre-emption has paused between two steps, and that must refill the B buffer (R229). -/
  paused : Bool
  deriving DecidableEq, Repr

/-- What the drain unit runs: a drain, or an ACCZ (R200). -/
structure Matrix where
  q      : Queues
  array  : Option ArrayRun
  /-- The array unit's own drain: an ACCDR of acc0. -/
  adrain : Option DrainRun
  /-- The drain unit's drain. -/
  drain  : Option DrainRun
  /-- A command that holds the drain unit without draining: ACCZ of acc1. -/
  zero   : Option Cmd
  acc0   : Acc
  acc1   : Acc
  bbuf   : Option BBuf
  shadow : Vector Word 10
  active : Vector Word 10
  ft     : Vector Word 16
  tol    : Vector (BitVec 32) 8
  /-- First cycles in which the array unit and the drain unit may take a command. -/
  afree  : Nat
  dfree  : Nat
  /-- The MXGO that the ramp gate holds, and its first cycle (R455). -/
  ramp   : Option (BitVec 24 × Nat)
  /-- Last failure of a command with sinc = 0: code, index (R213). -/
  fail   : BitVec 32
  corr   : BitVec 32
  uncorr : BitVec 32
  lastUn : Word
  inj    : Word
  deriving DecidableEq, Repr

/-- A write that a shaping command still has to make: cycle, row of its destination, data; eight bytes at an offset,
or the whole row (R236, R239). -/
structure ShapeOut where
  cyc  : Nat
  row  : Nat
  data : Row
  part : Option Nat
  deriving DecidableEq, Repr

/-- A table slot of st2 (R247, R248). -/
structure TableSlot where
  a    : BitVec 32
  b    : BitVec 32
  lgn  : Nat
  modes : BitVec 8
  clo  : BitVec 32
  chi  : BitVec 32
  coef : List (BitVec 32 × BitVec 32 × BitVec 32)
  deriving DecidableEq, Repr

/-- A running command of st2, st3 or st4 (R236, R249, R250). -/
structure ShapeRun where
  cmd    : Cmd
  start  : Nat
  /-- Tile or row index of R254. -/
  i      : Nat
  /-- Tiles, rows read of a tile, rows written of a tile; `period` is R236's T, `lag` its Λ. -/
  n      : Nat
  nread  : Nat
  nwrite : Nat
  period : Nat
  lag    : Nat
  /-- Format code of the first tile's header. -/
  fmt    : Nat
  /-- Rows read of the tile in hand, and its scale row. -/
  rows   : List Row
  scale  : Row
  /-- What is found of a tile: cycle, code or 0, its index. -/
  found  : List (Nat × Nat × Nat)
  out    : List ShapeOut
  /-- Largest magnitude, exactly, and the two flags (R240). -/
  amaxM  : Nat
  amaxE  : Int
  sawNan : Bool
  sawInf : Bool
  /-- Cycle in which QAMAX reads the stat word. -/
  statAt : Option Nat
  /-- The table that a TBEV found at its start (R250). -/
  slot   : Option TableSlot
  deriving DecidableEq, Repr

/-- The stations st2, st3 and st4. -/
structure Shaping where
  tisQ : Queues
  cvsQ : Queues
  trsQ : Queues
  tis  : Option ShapeRun
  cvs  : Option ShapeRun
  trs  : Option ShapeRun
  slots : Vector (Option TableSlot) 4
  /-- Table-memory words of a slot with an uncorrectable error: slot, and the 64-bit word by its place in the table image: the
  descriptor's from 0 on, segment k's from 64 + 2k on (R247, R248). -/
  tblBad : List (Nat × Nat)
  /-- Its words with a single-bit error, by the same places (R175, R247). -/
  tblFlaw : List (Nat × Nat) := []
  inj  : Word
  fail : Word
  deriving DecidableEq, Repr

/-! ## The copy station, the map unit and HBM -/

/-- Where a row's translation leads: HBM of this module, HBM of another module, or a host frame (R287, R289). -/
inductive Xlate where
  | hbm (addr : Nat)
  | far (module : Nat) (addr : Nat)
  | host (addr : Nat)
  deriving DecidableEq, Repr

/-- One copy, timed transfer or ATOM in flight (R261). -/
structure CopyEnt where
  cmd     : Cmd
  timed   : Bool
  /-- Start cycle; none while it waits. -/
  start   : Option Nat
  /-- Rows to move; fewer once it is stopped. -/
  rows    : Nat
  /-- Rows issued. -/
  nissue  : Nat
  /-- Translation of the next row to issue, and whether a translation is under way. -/
  trans   : Option Xlate
  walking : Bool
  /-- Rows landed or acknowledged. -/
  nland   : Nat
  /-- Rows issued and neither landed nor acknowledged. -/
  fly     : List Nat
  /-- CPCTX and CPPASID of the program that issued the command (R285). -/
  ctx     : Word
  pasid   : Word
  /-- Requests to the host without completion: row, cycle of sending (R468). -/
  reqs    : List (Nat × Nat)
  /-- Paused on a fault (R291); paused by a pre-emption (R299). -/
  paused  : Bool
  held    : Bool
  /-- The launch of a saved context whose copy this is: it stays in st5 until the context goes on (R299, R424). -/
  park    : Option (BitVec 32)
  /-- Kind of a fault record that could not yet be written for want of a slot (R292). -/
  wantsRec : Option Nat
  /-- Physical addresses of rows issued and not yet made, by their number. -/
  places  : List (Nat × Nat)
  /-- Rows read or landed, by their number: what a put carries and what a guard verifies (R272). -/
  data    : List (Nat × Row)
  /-- First poisoned row (R273), and the first failure at the far side: code and detail. -/
  bad     : Option Nat
  failed  : Option (BitVec 8 × BitVec 8)
  /-- ATOM: the cycle sent with it (R323). -/
  t0      : Nat
  sent    : Option Nat
  deriving DecidableEq, Repr

/-- Rows of another cell's guarded put that have landed here (R272). -/
structure InPut where
  src  : Peer
  lid  : BitVec 32
  idx  : BitVec 24
  rows : List (Nat × Row)
  deriving DecidableEq, Repr

/-- A cached translation (R284, R288). -/
structure TlbEnt where
  asid  : BitVec 16
  /-- Page base and size in bytes. -/
  base  : Nat
  size  : Nat
  frame : Nat
  rd    : Bool
  wr    : Bool
  rem   : Option Nat
  deriving DecidableEq, Repr

/-- A cached table walk step: the level-`lvl` table that serves the addresses from `base` (R284, R288). -/
structure WalkEnt where
  asid  : BitVec 16
  lvl   : Nat
  base  : Nat
  table : Nat
  deriving DecidableEq, Repr

/-- A translation of the I/O die's cache (R289). -/
structure AtsEnt where
  pasid : BitVec 20
  page  : Nat
  frame : Nat
  rd    : Bool
  wr    : Bool
  deriving DecidableEq, Repr

/-- A fault record (R292). -/
structure FaultRec where
  kind  : BitVec 8
  flags : BitVec 8
  cell  : BitVec 16
  cmd   : BitVec 32
  addr  : BitVec 64
  oi    : BitVec 16
  ij    : BitVec 16
  left  : BitVec 16
  asid  : BitVec 16
  pasid : BitVec 32
  deriving DecidableEq, Repr

/-- A window-table entry (R281). -/
structure Window where
  base : Nat
  rows : Nat
  rd   : Bool
  wr   : Bool
  deriving DecidableEq, Repr

/-- An invalidation under way: of the device tables by the Apex, or of the I/O die's cache by the host; the rows that were
issued under an old translation, each by its copy and number (R295, R296). -/
structure Inval where
  host  : Bool
  asid  : BitVec 20
  base  : Nat
  len   : Nat
  waits : List (BitVec 24 × Nat)
  deriving DecidableEq, Repr

/-- An entry of a replay table (R323). -/
structure ReplayEnt where
  lid  : BitVec 32
  src  : Peer
  seq  : BitVec 16
  t0   : Nat
  result : Word
  deriving DecidableEq, Repr

/-- A replay table with the floors of its sources (R323). -/
structure ReplayTab where
  ents   : List ReplayEnt
  floors : List (BitVec 32 × Peer × Nat)
  /-- Floor of every source not listed: the counter when the table was last lost by a reset. -/
  base   : Nat
  deriving DecidableEq, Repr

/-- A row as the lanes of its channel hold it, by physical row number: the bits that differ from the data of its check symbols, the
REPAIR word under which it was written, and the bits on the two spare lanes (R458, R459, R467). -/
structure RawRow where
  row    : Nat
  err    : Row
  repair : Word
  spare0 : Word
  spare1 : Word
  deriving DecidableEq, Repr

/-- The copy station (R261 to R277), the die's map unit and fault queue (R284 to R296), HBM (R278 to R281). -/
structure Copy where
  count   : BitVec 24
  ents    : List CopyEnt
  /-- CPABN commands that wait for rows to land: the command and the copies stopped. -/
  abns    : List (Cmd × Option Nat × List (BitVec 24))
  fail    : Word
  sel     : Word
  vladdr  : Word
  vlinfo  : Word
  ctx     : Word
  pasid   : Word
  /-- Requester's unknown table (R324): target key, seq, t0. -/
  unknown : List (Nat × BitVec 16 × Nat)
  /-- This cell's replay table (R323). -/
  cellTab : ReplayTab
  /-- The replay tables of the stacks. -/
  hbmTab  : Vector ReplayTab 8
  tlb     : List TlbEnt
  walks   : List WalkEnt
  ats     : List AtsEnt
  /-- Host pages asked for by ATS: command, PASID and page. -/
  atsWait : List (BitVec 24 × BitVec 20 × Nat)
  pri     : List (BitVec 20 × Nat)
  /-- Records that the Apex has not read, and those read whose bytes still stand in their slots (R292). -/
  faultq  : List FaultRec
  faultSeen : List FaultRec
  invals  : List Inval
  windows : List Window
  hbm     : Memory
  /-- HBM rows that read as uncorrectable, by physical row number (R273, R467). -/
  hbmBad  : List Nat
  /-- Rows that do not stand on their lanes as they were given (R458, R459). -/
  hbmRaw  : List RawRow
  /-- Busy banks: stack, pseudo-channel, bank, first free cycle (R278). -/
  banks   : List (Nat × Nat × Nat × Nat)
  /-- The stacks' slot maps: launch, stack, pseudo-channel, bank, counter value of the access (R280). -/
  slots   : List (BitVec 32 × Nat × Nat × Nat × Nat)
  /-- Landing lanes taken: cycle, anticlockwise (R262). -/
  lanes   : List (Nat × Bool)
  inputs  : List InPut
  deriving DecidableEq, Repr

/-! ## Timed transfers and the Abscissa -/

/-- A landing window (R354). -/
structure LandWin where
  armed : Bool
  /-- First cycle in which the window is armed. -/
  from_ : Nat
  failed : Bool
  cmd   : Option (BitVec 24)
  sec   : Fin 8
  row   : Nat
  total : Nat
  count : Nat
  tag   : BitVec 16
  guard : Bool
  /-- Landed rows by their place in the window that no tile check has taken, and the place of the next tile. -/
  got   : List (Nat × Row)
  next  : Nat
  deriving DecidableEq, Repr

/-- A running step of st6's sending unit (R359). -/
structure SendRun where
  cmd   : Cmd
  start : Nat
  /-- Cycles between its rows. -/
  step  : Nat
  /-- First row and rows of each tile, and all rows. -/
  tiles : List (Nat × Nat)
  total : Nat
  /-- Rows read, and the rows read of the tile in hand. -/
  k     : Nat
  rows  : List Row
  deriving DecidableEq, Repr

/-- A CLRED tile whose rows are landing in a window, and the end of the step's tile before it (R360). -/
structure InTile where
  win  : Fin 16
  rows : List Row
  wend : Nat
  deriving DecidableEq, Repr

/-- A CLRED tile in st6's receiving unit (R360). -/
structure RecvRun where
  win    : Fin 16
  sec    : Fin 8
  row    : Nat
  asec   : Fin 8
  arow   : Nat
  ofmt   : Fmt
  rnd    : RMode
  sat    : Bool
  tag    : BitVec 16
  rows   : List Row
  addend : List Row
  /-- The launch and the counter value of the issue of the CLRED (R319). -/
  lid    : BitVec 32
  issued : Nat
  /-- A and W of R360; W once the addend's header is read, with the addend's rows and the end of the tile before. -/
  a      : Nat
  w      : Option Nat
  nadd   : Nat
  after  : Nat
  /-- Result rows still to write, with their place in the tile. -/
  out    : List (Nat × Row)
  done   : Bool
  deriving DecidableEq, Repr

/-- One Mbaper port as its die sees it (R343, R344, R352). -/
structure MPort where
  hlat  : Word
  err   : Int
  heard : Bool
  /-- The port has trained: it carries traffic (R450). -/
  up    : Bool := true
  deriving DecidableEq, Repr

/-- The die's Abscissa unit and the keeper's state (R342 to R353). -/
structure Abscissa where
  value : BitVec 64
  /-- Cycles for which the counter still holds its value (R349: a negative step). -/
  hold  : Nat
  /-- Counts that it takes in the next cycle beside its one (R349: a positive step). -/
  jump  : Nat
  trim  : BitVec 32
  pend  : Option Int
  clamp : Bool
  err   : BitVec 16
  ref   : Bool
  armed : Nat
  ports : Vector MPort 18
  lkcfg : Word
  lkcnt : BitVec 32
  deriving DecidableEq, Repr

/-- Landing windows and the collective station (R354 to R360). -/
structure Timed where
  wins : Vector LandWin 16
  q    : Queues
  send : Option SendRun
  /-- Steps whose rows are all sent and that have not signalled, with their rows. -/
  sent : List (Cmd × Nat)
  asm  : List InTile
  recvs : List RecvRun
  /-- Rows of which a flit was dropped at a Mbaper port: cycle of the row's landing, port, row (R344). -/
  lost : List (Nat × Fin 18 × TimedRow)
  deriving DecidableEq, Repr

/-! ## Segments and programs -/

/-- The boundary shadow (R130). -/
structure Shadow where
  regs    : Vector Word 32
  lc      : Vector (BitVec 25) 4
  loops   : List LoopLevel
  maskRow : Vector (BitVec 16) 4
  maskCol : Vector (BitVec 128) 4
  srkey   : Word
  srkctr  : Word
  uhvec   : Word
  sems    : Vector Sem 256
  ft      : Vector Word 16
  tol     : Vector (BitVec 32) 8
  nestS   : Vector Word 10
  nestA   : Vector Word 10
  pc      : BitVec 15
  safect  : Word
  /-- The running signature from which a replay counts: empty, or after a resume the saved one (R127, R435). -/
  crc     : BitVec 32
  deriving DecidableEq, Repr

/-- The program loaded on the cell (R90, R108, R193, R418). -/
structure Prog where
  lid    : BitVec 32
  timed  : Bool
  ckpt   : Bool
  nsig   : Nat
  segs   : List Segment
  /-- Counter value of the armed or first start (R348). -/
  start  : BitVec 64
  /-- First logical module and count of modules of the launch (R25). -/
  mfirst : Nat
  mcount : Nat
  /-- Physical mesh cell of logical (0, 0), for the mesh latency (R15, R29). -/
  px     : Nat
  py     : Nat
  /-- Counter value at which a timed program is armed to start (R418). -/
  armed  : Option Nat
  deriving DecidableEq, Repr

/-- The predecessor of the running program: its program, logical coordinates and shape, and the launch's windows, which its
commands still go by (R193, R266, R281). -/
structure PredProg where
  prog    : Prog
  lxy     : Word
  lwh     : Word
  windows : List Window
  deriving DecidableEq, Repr

/-- The running segment (R124 to R131, R365). -/
structure SegState where
  /-- Inside a timed segment. -/
  inSeg   : Bool
  idx     : Nat
  /-- Counter value of segment-relative cycle 0: the origin S of R348. -/
  origin  : BitVec 64
  /-- Cycle of the segment's first bundle, by the clock. -/
  startAt : Nat
  /-- Segment-relative cycle at which a resumed segment restarts its count (R435); 0 otherwise. -/
  resumedAt : Nat
  shadow  : Option Shadow
  replays : Nat
  /-- Increments received since the boundary that a replay keeps (R131). -/
  kept    : List Inc
  /-- Clock cycle of the boundary: commands issued before it are kept. -/
  since   : Nat
  /-- SAFECT at the boundary (R130). -/
  bsafe   : Word
  /-- A replay is pending: its f, its Q, and the members still to acknowledge (R365, R390). -/
  pending : Option (Nat × Nat × List Peer)
  /-- Clock cycle in which a replay that still waits exhausts its launch (R390). -/
  waitBy  : Nat
  /-- Counter value at which this cell was ready in a held boundary (R362, R363). -/
  ready   : Option Nat
  /-- The next bundle is the one that follows the last boundary: only a HALT may stand there (R124, R133). -/
  ended   : Bool
  /-- This cell's compare word, its twin's, and the cycle by which the twin's word must arrive (R367, R368). -/
  cmpOwn  : Option CompareWord
  cmpTwin : Option CompareWord
  cmpBy   : Nat
  /-- The segment resumed on another shape: its signature is not checked (R435). -/
  noSig   : Bool := false
  /-- The segment is closed, and a trap in place of its successor's first bundle is being handled: the successor begins where
  the trapped bundle issues (R124, R362). -/
  closed  : Bool := false
  deriving DecidableEq, Repr

/-- System registers of 0x000 to 0x0FF (R108). -/
structure SysRegs where
  lxy     : Word
  lwh     : Word
  lmod    : Word
  shape   : Word
  dictn   : Word
  safect  : Word
  srkey   : Word
  srkctr  : Word
  mbox    : Vector Word 16
  uhvec   : Word
  pxy     : Word
  pdie    : Word
  pmod    : Word
  tvec    : Word
  tepc    : Word
  tcause  : Word
  tinfo   : Word
  tsav0   : Word
  tsav1   : Word
  arcstat : Word
  arcinj  : Word
  ctxstat : Word
  ctxver  : Word
  deriving DecidableEq, Repr

/-- One channel of a local HBM4 stack's PHY (R457). -/
structure Phy where
  ctl    : Word
  rdly   : Word
  wdly   : Word
  repair : Word
  stat   : Word
  /-- The delay codes before the last write of each word, and the cycles of those writes (R458). -/
  oldR   : Word
  oldW   : Word
  since  : Nat
  sinceW : Nat := 0
  deriving DecidableEq, Repr

/-- What the firmware's runtime saves before it enters a handler (R143). -/
structure HandlerSave where
  xs     : Vector Word 8
  tepc   : Word
  tcause : Word
  deriving DecidableEq, Repr

/-- A saved context (R427): what the save area holds, as structured data; and the region that its slots are in: the queue that
translates it, its base, and the width of its launch rectangle in slots (R426, R434). -/
structure SavedCtx where
  prog   : Prog
  shape  : Word
  cp     : Option (Fin 256)
  full   : Bool
  seq    : Seq
  sys    : SysRegs
  sems   : Vector Sem 256
  ports  : Vector PortState 8
  own    : Vector Own 8
  mx     : Matrix
  ents   : List CopyEnt
  abns   : List (Cmd × Option Nat × List (BitVec 24))
  unknown : List (Nat × BitVec 16 × Nat)
  slots  : Vector (Option TableSlot) 4
  seg    : SegState
  /-- Segment-relative cycle and counter value of the SAFE. -/
  rel    : Nat
  at_    : BitVec 64
  region : Fin 64 × Nat × Nat
  /-- The staged spare map (R427). -/
  spare  : Word
  /-- Words of the table slots with an uncorrectable and with a single-bit error (R247). -/
  tblBad : List (Nat × Nat)
  tblFlaw : List (Nat × Nat) := []
  deriving DecidableEq, Repr

/-- A pre-emption request that waits for its SAFE (R423, R425). -/
structure PreReq where
  full : Bool
  atP  : Option Nat
  /-- Segment for which a replay notice has put the request off (R437). -/
  skip : Option Nat := none
  /-- Congruence point of the SAFE at which it is acted on (R432). -/
  cp   : Option (Fin 256) := none
  deriving DecidableEq, Repr

/-! ## Cell health -/

/-- State of one side of the perimeter unit (R381). -/
inductive SideSt where
  | healthy | suspect | accused | fenced | appealing | readmitted | absent
  deriving DecidableEq, Repr

/-- What the perimeter unit keeps for one side (R380 to R396). -/
structure SideRec where
  st     : SideSt
  miss   : Nat
  cause  : BitVec 3
  own    : Bool
  /-- Voters counted in the open window. -/
  voters : List (Nat × Nat)
  /-- Clock cycle that is the open window's last. -/
  win    : Option Nat
  hbc    : BitVec 32
  feff   : BitVec 64
  /-- Clock cycle that is the last of the 4,096 after F, until it has passed (R388). -/
  grace  : Option Nat
  /-- A valid heartbeat arrived in this period; heartbeats and other messages in this period. -/
  heard  : Bool
  nhb    : Nat
  nmsg   : Nat
  /-- The period that has just ended brought the miss count to 3, and its cause is still to be taken (R382). -/
  quiet  : Bool
  /-- A further cause within the window (R385). -/
  again  : Bool
  /-- Windows in a row that ended with this unit's vote alone (R399). -/
  alone  : Nat
  /-- Counter values of the last two readmissions granted, latest first (R396). -/
  grants : List Nat
  /-- Incoming mask of the link for the running segment (R382). -/
  mask   : Word
  /-- Cycle of the last cause found while the side was FENCED or APPEALING: it counts after a readmission of the same cycle (R385). -/
  late   : Option Nat := none
  deriving DecidableEq, Repr

/-- The perimeter unit, the self test and the spare map (R376 to R397). -/
structure Health where
  sides  : Vector SideRec 4
  fmap   : List (Nat × Nat)
  /-- Cells of the map whose fence lowers n only from a clock cycle on (R399). -/
  fnew   : List ((Nat × Nat) × Nat) := []
  /-- Cells whose lift notice is known: their ports reopen at the next domain boundary (R385, R396). -/
  lifting : List (Nat × Nat) := []
  /-- Counter value at which this cell was fenced last (R398), and the first period whose heartbeat it sends (R395). -/
  feff   : Word := 0
  hbFrom : Nat := 0
  fenced : Bool
  self   : Bool
  /-- A lift notice was received (R395). -/
  lifted : Bool
  /-- The cell has fallen silent: it sends nothing more (R380). -/
  silent : Bool
  tend   : Option Nat
  tpass  : Bool
  tdone  : Bool
  apl    : Option Nat
  /-- Counter values of this cell's last two readmissions, as flash keeps them (R394). -/
  readm  : List Nat
  hold   : Bool
  tsig   : BitVec 32
  passSig : BitVec 16
  segSig : BitVec 16
  replays : BitVec 8
  pkey   : Word
  pmifsig : Word
  pmlast : Word
  spareNow : Word
  spareNew : Word
  spareFlash : Word
  /-- The map handed to the Apex and not yet written to flash. -/
  spareBusy : Option Word
  /-- Launches that ran since PMLAST with first and last segment index (R398). -/
  ran    : List (BitVec 32 × Nat × Nat)
  deriving DecidableEq, Repr

/-! ## The Apex and the host's block -/

/-- State of a packet queue (R404). -/
inductive QState where
  | disabled | active | fetchFaulted | error
  deriving DecidableEq, Repr

/-- A queue descriptor (R403). -/
structure QueueDesc where
  base  : BitVec 64
  lgsz  : Nat
  st    : QState
  vf    : Nat
  dies  : BitVec 4
  head  : BitVec 32
  tail  : BitVec 32
  asid  : BitVec 16
  pasid : BitVec 32
  root  : BitVec 32
  deriving DecidableEq, Repr

/-- The body of a packet (R407, R408, R411, R412). -/
inductive PktBody where
  | launch (p : LaunchPkt) (img : Option Image)
  | cond (word thn els : Nat) (nthn nels : Nat)
  | loop (word body : Nat) (n max : Nat)
  | switch (word table : Nat) (n : Nat)
  | signal (kind : Nat) (addr : Nat) (value : Word) (vec : Nat)
  | fence (mask : BitVec 64)
  deriving DecidableEq, Repr

/-- State of a heap entry (R409, R412, R416, R417). -/
inductive EntSt where
  /-- `asking`: this module admits it, and the launch's other modules have not all answered (R420). -/
  | asking
  | waiting | admitted | running | saved | suspended | paused
  deriving DecidableEq, Repr

/-- A heap entry: a fetched packet (R416). -/
structure HeapEnt where
  id     : Nat
  q      : Fin 64
  flags  : BitVec 8
  mvec   : Nat
  stag   : BitVec 32
  deadline : Nat
  wcet   : Nat
  cplt   : Nat
  body   : PktBody
  st     : EntSt
  /-- The node this packet was fetched for, and the nesting depth (R409). -/
  node   : Option Nat
  depth  : Nat
  /-- Chain packets still to fetch: DVA of the next and count; LOOP's runs so far. -/
  chain  : Option (Nat × Nat)
  runs   : Nat
  lid    : BitVec 32
  /-- It came from another Apex, other modules that admit it, and the identifier and T0 agreed on (R420). -/
  remote : Bool := false
  agreed : Nat := 0
  told   : Option (BitVec 32 × Nat) := none
  /-- Status, cstat and handle of the completion record that is due (R413). -/
  done   : Option (BitVec 16 × BitVec 16 × Word)
  deriving DecidableEq, Repr

/-- State of a launch (R414, R418, R422, R429, R434). -/
inductive LaunchSt where
  /-- `restoring`: a saved launch whose cells are not all restored (R418, R431). -/
  | restoring
  | loading | armed | running | saving | saved | suspended | resuming
  deriving DecidableEq, Repr

/-- A launch that the Apex has placed (R418). -/
structure LaunchRec where
  lid    : BitVec 32
  entry  : Nat
  q      : Fin 64
  pkt    : LaunchPkt
  img    : Image
  shape  : Nat
  /-- Origin of the launch rectangle and of the running shape. -/
  rx     : Nat
  ry     : Nat
  px     : Nat
  py     : Nat
  st     : LaunchSt
  /-- Cells, by logical coordinates, that have reported ready. -/
  ready  : List Peer
  /-- Reports of HALT so far. -/
  halts  : List (Peer × BitVec 16)
  t0     : Nat
  /-- Counter value of the start, and cycles run before the last save (R421). -/
  began  : Nat
  ran    : Nat
  wdogged : Bool
  /-- The open checkpoint bank, the committed one, the cells whose rows are acknowledged (R434). -/
  bank   : Nat
  committed : Option Nat
  acked  : List Peer
  /-- Segment and bank of the last checkpoint begun (R434). -/
  lastCk : Option (Nat × Nat)
  /-- The driver asked for its suspension (R429). -/
  suspend : Bool
  /-- Handle of the suspended context, and the layout version of a saved one (R429). -/
  handle : Word
  ver    : BitVec 16
  /-- The last save is full: no cell keeps a context of it (R422). -/
  full   : Bool := false
  /-- This module's cells are restored (R418). -/
  back   : Bool := false
  /-- The windows, translated and pinned at load (R281). -/
  wins   : List Window
  /-- This cell's context in the save region, in the open and in the committed checkpoint bank (R426, R434). -/
  ctx    : Option SavedCtx
  openCk : Option SavedCtx
  heldCk : Option SavedCtx
  deriving DecidableEq, Repr

/-- A record of the event queue before it is written (R415). -/
structure EventRec where
  kind  : BitVec 8
  queue : BitVec 8
  cell  : BitVec 16
  lid   : BitVec 32
  absc  : BitVec 64
  data  : BitVec 128
  deriving DecidableEq, Repr

/-- A staged or running firmware image (R430, R452). -/
structure Firmware where
  id      : Nat
  version : BitVec 16
  prev    : BitVec 16
  deriving DecidableEq, Repr

/-- Steps of the start order (R453). -/
inductive Boot where
  | verify | apex | hbm | links | up | dead
  deriving DecidableEq, Repr

/-- The Apex, BAR0 and the rest of the I/O die (R401 to R436, R445 to R456). -/
structure Apex where
  boot    : Boot
  /-- The domain map's logical index of this module (R29, R342). -/
  dmap    : Fin 288
  queues  : Vector QueueDesc 64
  heap    : List HeapEnt
  nextId  : Nat
  nextLid : BitVec 32
  /-- Packets asked of the host and not yet come, oldest first: the queue, and the node whose chain it is for (R405). -/
  asked   : List (Fin 64 × Option Nat)
  launches : List LaunchRec
  /-- Frozen by a mismatch since this counter value (R401). -/
  frozen  : Option Nat
  evbase  : BitVec 64
  evlg    : Nat
  evhead  : BitVec 32
  evtail  : BitVec 32
  events  : List EventRec
  apbase  : BitVec 64
  dcmd    : BitVec 64
  dop     : Vector Word 4
  busy    : Bool
  result  : BitVec 8
  /-- Function whose driver command is under way, and the entry whose completion it waits for (R447). -/
  dfn     : Fin 9
  dwait   : Option Nat := none
  /-- Services that wait to be passed to the driver: page, asid, cell of the first record, records merged (R293). -/
  services : List (Nat × BitVec 16 × BitVec 16 × Nat)
  /-- Host page requests that are outstanding, and those that wait for one of the 1,024 (R290). -/
  pris     : List (BitVec 20 × Nat)
  priWait  : List (BitVec 20 × Nat)
  fwRun   : Firmware
  fwStage : Option Firmware
  /-- The second image in flash (R452). -/
  fwOther : Firmware
  /-- Channels that are marked untrained: die, channel of its two stacks (R461). -/
  untrained : List (Nat × Nat) := []
  /-- Spare maps in flash of the other cells, and PKEY and PMIFSIG as the firmware's flash holds them (R391, R397, R453). -/
  spares  : List ((Nat × Nat) × Word) := []
  keys    : Word × Word := (0, 0)
  /-- An activation waits (R430). -/
  fwWait  : Bool
  holds   : List (Nat × Nat)
  /-- Cells of this module that are reported fenced and not readmitted, and those of the domain's other modules: module, cell (R386,
  R389, R396). -/
  fences  : List (Nat × Nat)
  farFences : List (Nat × Nat × Nat)
  vfs     : Vector (BitVec 4) 9
  /-- File offset of the first error of the image that the loader refused last (R92). -/
  loadErr : Option Nat
  /-- The lockstep pair of this cell's partition: plane, logical index of the twin module (R366). -/
  pair    : Option (Fin 18 × Fin 288)
  deriving DecidableEq, Repr

/-! ## What leaves the model's machine -/

/-- What the machine sends to its environment: other cells, other modules, the host. -/
inductive OutMsg where
  | perimeter (side : Fin 4) (msg : BitVec 256)
  | beat (port : Fin 18) (stamp : Word)
  /-- A replay notice to a member: its plane for another module, the counter value of its arrival, f and Q (R365). -/
  | notice (dst : Peer) (plane : Option Nat) (cyc : Nat) (f : Nat) (q : Nat)
  | ack (f : Nat)
  | pairNotice (twin : Peer) (f : Nat)
  | compare (twin : Peer) (plane : Nat) (cyc : Nat) (w : CompareWord)
  | copyRow (peer : Peer) (r : RowSrc) (data : Row)
  | rowReq (peer : Peer) (r : RowSrc)
  | hostRow (idx : BitVec 24) (k : Nat) (pasid : BitVec 20) (addr : Nat) (write : Bool) (data : Row)
  | modRow (idx : BitVec 24) (k : Nat) (module : Nat) (addr : Nat) (write : Bool) (data : Row)
  | served (r : RowSrc) (st : FarStatus) (data : Row)
  | timedRow (peer : Peer) (cyc : Nat) (r : TimedRow)
  | atsReq (pasid : BitVec 20) (page : Nat) (write : Bool)
  | priReq (pasid : BitVec 20) (page : Nat) (last : Bool)
  | outcomes (lid : BitVec 32) (l : List (BitVec 8 × BitVec 24 × BitVec 8))
  | atsDone
  | invalDone
  | atom (peer : Peer) (r : AtomReq)
  | atomAns (r : AtomReq) (e : AtomEnd)
  | delivered (side : Fin 4) (f : Flit)
  | linkRep (side : Fin 4)
  | request (lid : BitVec 32) (full : Bool) (atP : Option Nat)
  | remote (m : RemoteMsg)
  | fetch (q : Fin 64) (dva : Nat)
  | image (q : Fin 64) (dva : Nat)
  | moduleWrite (module : Nat) (addr : Nat) (data : List Byte)
  | hostWrite (addr : Nat) (data : List Byte)
  | msix (fn : Nat) (vec : Nat)
  | rdma (kind : Nat) (addr : Nat) (data : List Byte)
  | resend (port : Fin 18) (f : Flit)
  | bar (fn : Fin 9) (off : Nat) (v : Word)
  | measures (digests : List (BitVec 256))
  | released (lid : BitVec 32)
  | aperture (off : Nat) (data : Byte)
  deriving DecidableEq, Repr

/-! ## The schedule -/

/-- A part of a command's or a unit's work that falls in a cycle and is no event of the table by itself. -/
inductive Micro where
  | storeLand
  | shapeTick (u : EUnit)
  | shapeWrite (u : EUnit)
  | sendTick
  | recvTick
  | copyTick
  | copyClaim (idx : BitVec 24) (k : Nat) (write : Bool) (data : Row)
  | owe (idx : Option (BitVec 24)) (t : TrapRec)
  | oweCheck (t : TrapRec)
  | loseAtoms
  | arrayRead
  | stepEnd
  | drainClaim (array : Bool)
  | drainWrite (array : Bool)
  | drainCheck (array : Bool)
  | statSample (r : Reg) (sel : Fin 7)
  | boundary (k : Nat)
  | saveRow (cp : Fin 256)
  | launchSaved (lid : BitVec 32)
  | restored (lid : BitVec 32)
  | passService (page : Nat) (asid : BitVec 16)
  | tallyAll
  | recordPhy (ch : Fin 64)
  | bootStep
  deriving DecidableEq, Repr

/-- What falls due: an event of the table, or a micro step. -/
inductive Act where
  | ev (i : Instr)
  | micro (m : Micro)
  deriving DecidableEq, Repr

/-- An item of the agenda: clock cycle, rank in the cycle's order, what falls due. -/
structure Due where
  at_  : Nat
  rank : Nat
  act  : Act
  deriving DecidableEq, Repr

/-- What a die has of its own beside its cells: its Abscissa unit, its map unit and its PHY registers. -/
structure DieUnits where
  ax       : Abscissa
  tlb      : List TlbEnt
  walks    : List WalkEnt
  phy      : Vector Phy 64
  phyFlash : Vector Phy 64
  deriving DecidableEq, Repr

/-- The whole machine. -/
structure State where
  /-- Clock cycles since module reset. -/
  now    : Nat
  phase  : Phase
  seq    : Seq
  sys    : SysRegs
  ann    : Annulus
  sems   : Vector Sem 256
  mx     : Matrix
  sh     : Shaping
  cp     : Copy
  tm     : Timed
  ax     : Abscissa
  seg    : SegState
  prog   : Option Prog
  /-- The predecessor's program identifier and HALT status, while its commands run (R193). -/
  pred   : Option (BitVec 32 × BitVec 16)
  /-- Outcomes of the predecessor's commands for its final report: station, index, code or 0 (R306). -/
  predOut : List (BitVec 8 × BitVec 24 × BitVec 8)
  /-- The predecessor as its commands see their program (R193). -/
  predAs : Option PredProg
  /-- The map units, Abscissa units and PHYs of the module's other dies, once the focus has been there (log 1). -/
  dies   : List (Nat × DieUnits)
  hl     : Health
  phy    : Vector Phy 64
  phyFlash : Vector Phy 64
  apex   : Apex
  saved  : Option SavedCtx
  /-- A context whose slot is being written while another one keeps the save area (R422, R426; log 74). -/
  saving : Option SavedCtx
  preq   : Option PreReq
  /-- The rows of a checkpoint are not all acknowledged (R434). -/
  ckptOpen : Bool
  /-- The runtime's handler frame: a handler runs (R143). -/
  frame  : Option HandlerSave
  /-- The firmware's cell runtime is present and disposes of traps (R142): the model's own switch, log 12. -/
  firmware : Bool
  /-- Semaphore changes that stations make in this cycle: visible in the next (R308). -/
  incs   : List Inc
  /-- Failures of this cycle: semaphore, code, detail, index (R309). -/
  fails  : List (Fin 256 × BitVec 8 × BitVec 8 × BitVec 16)
  agenda : List Due
  inbox  : List (Nat × Instr)
  out    : List OutMsg
  /-- The model's own counter of free values, log 6 and 8. -/
  freeCtr : Nat
  deriving DecidableEq, Repr

/-- Faults of the model. -/
inductive Fault where
  /-- Raised by APERTURE_ACCESS when APBASE plus the offset lies beyond HBM: the spec gives no address there. Safe. -/
  | apertureOutside
  deriving DecidableEq, Repr

/-- Refusals of the model. -/
inductive Refusal where
  /-- An instruction whose meaning is not written, rejected by name in Dispatch. Safe. -/
  | notModelled (mnemonic : String)
  deriving DecidableEq, Repr

/-! ## Reset -/

/-- The empty tile register row (R149). -/
def Row.zero : Row := 0

/-- An empty queue pair (R200). -/
def Queues.reset : Queues := { normal := [], prio := [], count := 0, nextN := 0, nextP := 0 }

/-- A zero accumulator (R218). -/
def Acc.zero : Acc :=
  { el := Vector.replicate 65 (Vector.replicate 65 0), mcol := Vector.replicate 64 0,
    mrow := Vector.replicate 64 0, nb := 0 }

/-- An unbound port (R189). -/
def PortState.reset : PortState :=
  { bound := false, wr := false, sec := 0, lane := { ccw := false, num := 0 }, stn := 0, base := 0, esz := 1,
    lvls := Vector.replicate 4 { count := 1, stride := 0 }, k := 0, nread := 0, rows := [], arm := .none, tag := 0,
    gen := 0 }

/-- A side at reset (R380, R381); `present` by R376. -/
def SideRec.reset (present : Bool) : SideRec :=
  { st := if present then .healthy else .absent, miss := 0, cause := 0, own := false, voters := [], win := none,
    hbc := 0, feff := 0, grace := none, heard := false, nhb := 0, nmsg := 0, quiet := false, again := false, alone := 0, grants := [], mask := 0 }

/-- The sequencer after reset: supervisor mode at the runtime's entry (R387, R453). -/
def Seq.reset : Seq :=
  { pc := 0x7000, mode := .supervisor, run := .running, issueAt := 0, escPaid := true, xfer := none,
    arrived := true, badTarget := none, loops := [],
    suspended := false, trapDue := none, tookTrap := none, starved := false, effect := .none, slot := 0,
    regs := Vector.replicate 32 0,
    lc := Vector.replicate 4 0, tiles := Vector.replicate 128 0, maskRow := Vector.replicate 4 (BitVec.allOnes 16),
    maskCol := Vector.replicate 4 (BitVec.allOnes 128), writes := [], stores := [], code := [], dict := [],
    crc := 0xFFFFFFFF#32, haltSt := none }

/-- The annulus after reset. -/
def Annulus.reset : Annulus :=
  { mem := [], poison := [], flawed := [], unfenced := [], eccCorr := 0, eccPois := 0, claims := [],
    ports := Vector.replicate 8 PortState.reset, drained := [], pushes := [], lanes := [], lmovs := [], gen := 1,
    own := Vector.replicate 8 .free, ranges := Vector.replicate 16 none }

/-- The matrix station after reset (R206 to R208, R213). Selector 5 reads 0 until a drain is uncorrectable (DESIGN CHOICE, log 72). -/
def Matrix.reset : Matrix :=
  { q := Queues.reset, array := none, adrain := none, drain := none, zero := none, acc0 := Acc.zero, acc1 := Acc.zero, bbuf := none,
    shadow := (Vector.replicate 10 0).set 9 0x1F8, active := (Vector.replicate 10 0).set 9 0x1F8,
    ft := Vector.replicate 16 0, tol := Vector.replicate 8 0x34800000, afree := 0, dfree := 0, ramp := none, fail := 0, corr := 0, uncorr := 0,
    lastUn := 0, inj := 0 }

/-- The shaping stations after reset (R247, R253). -/
def Shaping.reset : Shaping :=
  { tisQ := Queues.reset, cvsQ := Queues.reset, trsQ := Queues.reset, tis := none, cvs := none, trs := none,
    slots := Vector.replicate 4 none, tblBad := [], inj := 0, fail := 0 }

/-- An empty replay table (R323). -/
def ReplayTab.reset : ReplayTab := { ents := [], floors := [], base := 0 }

/-- The copy station, map unit and HBM after reset (R276). -/
def Copy.reset : Copy :=
  { count := 0, ents := [], abns := [], fail := 0, sel := 0, vladdr := 0, vlinfo := 0, ctx := 0, pasid := 0,
    unknown := [], cellTab := ReplayTab.reset, hbmTab := Vector.replicate 8 ReplayTab.reset, tlb := [], walks := [],
    ats := [], atsWait := [], pri := [], faultq := [], faultSeen := [], invals := [], windows := [], hbm := [], hbmBad := [], hbmRaw := [],
    banks := [], slots := [], lanes := [], inputs := [] }

/-- A landing window, not armed (R354). -/
def LandWin.reset : LandWin :=
  { armed := false, from_ := 0, failed := false, cmd := none, sec := 0, row := 0, total := 0, count := 0, tag := 0,
    guard := false, got := [], next := 0 }

/-- Windows and st6 after reset. -/
def Timed.reset : Timed :=
  { wins := Vector.replicate 16 LandWin.reset, q := Queues.reset, send := none, sent := [], asm := [],
    recvs := [], lost := [] }

/-- The Abscissa unit after reset: D0 of logical module 0 is the reference die (R342). H[p] is 1,152 and each port is
live with a measured latency at its bound: PRESUMED for a domain cabled within the limits of R343, log 2. -/
def Abscissa.reset : Abscissa :=
  { value := 0, hold := 0, jump := 0, trim := 0, pend := none, clamp := false, err := 0, ref := true, armed := 0,
    ports := Vector.replicate 18 { hlat := 0x100000000 + 1144 * 65536 + 1152, err := 0, heard := false },
    lkcfg := 0, lkcnt := 0 }

/-- No segment. -/
def SegState.reset : SegState :=
  { inSeg := false, idx := 0, origin := 0, startAt := 0, resumedAt := 0, shadow := none, replays := 0, kept := [],
    since := 0, bsafe := 0, pending := none, waitBy := 0, ready := none, ended := false, cmpOwn := none, cmpTwin := none, cmpBy := 0 }

/-- System registers after module reset (R108): the boot cell of D0 on module 0, log 4. -/
def SysRegs.reset : SysRegs :=
  { lxy := 0, lwh := 0, lmod := 0, shape := 0, dictn := 0, safect := 0, srkey := 0, srkctr := 0,
    mbox := Vector.replicate 16 0, uhvec := 0, pxy := 0, pdie := 0, pmod := 0, tvec := 0x7000, tepc := 0, tcause := 0,
    tinfo := 0, tsav0 := 0, tsav1 := 0, arcstat := 0, arcinj := 0, ctxstat := 0, ctxver := 0x00000001#64 }

/-- Semaphores after reset (R306). -/
def Sem.zero : Sem := { cnt := 0, err := false, status := 0 }

/-- The perimeter unit after reset: the cell (0, 0) has no N and no W side (R376); spare map of R397. -/
def Health.reset : Health :=
  { sides := ((Vector.replicate 4 (SideRec.reset false)).set 1 (SideRec.reset true)).set 2 (SideRec.reset true),
    fmap := [], fenced := false, self := false, lifted := false, silent := false, tend := none, tpass := false, tdone := false,
    apl := none, readm := [], hold := false, tsig := 0, passSig := 0, segSig := 0, replays := 0, pkey := 0, pmifsig := 0,
    pmlast := 0, spareNow := 0x1FFFFF, spareNew := 0x1FFFFF, spareFlash := 0x1FFFFF, spareBusy := none, ran := [] }

/-- A PHY channel after reset: delay codes at the middle of their range (DESIGN CHOICE, log 2). -/
def Phy.reset : Phy :=
  { ctl := 0, rdly := 0x4040404040404040#64, wdly := 0x4040404040404040#64, repair := 0, stat := 0,
    oldR := 0x4040404040404040#64, oldW := 0x4040404040404040#64, since := 0 }

/-- A queue descriptor after reset (R403, R404). -/
def QueueDesc.reset : QueueDesc :=
  { base := 0, lgsz := 4, st := .disabled, vf := 0, dies := 0xF, head := 0, tail := 0, asid := 0, pasid := 0, root := 0 }

/-- The Apex after reset: start order at its last step (log 5). -/
def Apex.reset : Apex :=
  { boot := .up, dmap := 0, queues := Vector.replicate 64 QueueDesc.reset, heap := [], nextId := 0, nextLid := 1, asked := [], launches := [],
    frozen := none, evbase := 0, evlg := 4, evhead := 0, evtail := 0, events := [], apbase := 0, dcmd := 0,
    dop := Vector.replicate 4 0, busy := false, result := 0, dfn := 0, services := [], pris := [], priWait := [],
    fwRun := { id := 0, version := 1, prev := 0 }, fwStage := none, fwOther := { id := 1, version := 1, prev := 0 }, fwWait := false, holds := [], fences := [], farFences := [],
    vfs := Vector.replicate 9 0, loadErr := none, pair := none }

/-- The machine right after module reset (R108, R149, R306, R352, R380, R391, R453): the boot cell of D0 about to
run the firmware runtime at 0x7000. -/
def State.reset : State :=
  { now := 0, phase := .pre, seq := Seq.reset, sys := SysRegs.reset, ann := Annulus.reset,
    sems := Vector.replicate 256 Sem.zero, mx := Matrix.reset, sh := Shaping.reset, cp := Copy.reset,
    tm := Timed.reset, ax := Abscissa.reset, seg := SegState.reset, prog := none, pred := none, predOut := [], predAs := none, dies := [], hl := Health.reset,
    phy := Vector.replicate 64 Phy.reset, phyFlash := Vector.replicate 64 Phy.reset, apex := Apex.reset,
    saved := none, saving := none, preq := none, ckptOpen := false, frame := none, firmware := true, incs := [], fails := [], agenda := [],
    inbox := [], out := [], freeCtr := 0 }

end Sys2Proof.Machine
end

