-- ==== Sys2Proof/Machine/Ops.lean ====
section
/-! DEFINITION. The named operations over memory, registers, sectors, semaphores and the schedule; taking a trap and
returning from one. -/

namespace Sys2Proof.Machine

/-- The outcome of a meaning. -/
abbrev Out := Host.Outcome State Fault Refusal

/-! ## Memory -/

/-- The byte at an address (R34, log 3). -/
def Memory.get : Memory → Nat → Byte
  | [], _ => Config.unwritten
  | c :: m, a => if c.1 = a then c.2 else Memory.get m a

/-- The little-endian number in bytes a to a + n - 1 (R34). -/
def Memory.readNat (m : Memory) (a n : Nat) : Nat :=
  m.foldr (fun c acc => if a ≤ c.1 && c.1 < a + n then c.2.toNat * 256 ^ (c.1 - a) + acc else acc) 0

/-- The cells that list bytes from address `a` on, in canonical form. -/
def Memory.cellsOf : Nat → List Byte → Memory
  | _, [] => []
  | a, b :: l => if b = Config.unwritten then Memory.cellsOf (a + 1) l else (a, b) :: Memory.cellsOf (a + 1) l

/-- Bytes written from address `a` on; all other bytes stay. -/
def Memory.write (m : Memory) (a : Nat) (l : List Byte) : Memory :=
  m.filter (fun c => c.1 < a) ++ (Memory.cellsOf a l ++ m.filter (fun c => a + l.length ≤ c.1))

/-- The 512-byte row at an address. -/
def Memory.row (m : Memory) (a : Nat) : Row := BitVec.ofNat 4096 (m.readNat a 512)

/-- A row written at an address. -/
def Memory.setRow (m : Memory) (a : Nat) (r : Row) : Memory := m.write a (bytesOf 512 r.toNat)

/-- Local address of a row (R99). -/
def rowAddr (sec : Fin 8) (row : Nat) : Nat := sec.val * Config.sectorBytes + row % 512 * 512

/-! ## Record updates -/

/-- Change the sequencer. -/
def State.onSeq (f : Seq → Seq) (s : State) : State := { s with seq := f s.seq }

/-- Change the system registers. -/
def State.onSys (f : SysRegs → SysRegs) (s : State) : State := { s with sys := f s.sys }

/-- Change the annulus. -/
def State.onAnn (f : Annulus → Annulus) (s : State) : State := { s with ann := f s.ann }

/-- Change the matrix station. -/
def State.onMx (f : Matrix → Matrix) (s : State) : State := { s with mx := f s.mx }

/-- Change the shaping stations. -/
def State.onSh (f : Shaping → Shaping) (s : State) : State := { s with sh := f s.sh }

/-- Change the copy station and the map unit. -/
def State.onCp (f : Copy → Copy) (s : State) : State := { s with cp := f s.cp }

/-- Change the windows and st6. -/
def State.onTm (f : Timed → Timed) (s : State) : State := { s with tm := f s.tm }

/-- Change the Abscissa unit. -/
def State.onAx (f : Abscissa → Abscissa) (s : State) : State := { s with ax := f s.ax }

/-- Change the perimeter unit. -/
def State.onHl (f : Health → Health) (s : State) : State := { s with hl := f s.hl }

/-- Change the Apex. -/
def State.onApex (f : Apex → Apex) (s : State) : State := { s with apex := f s.apex }

/-- Change the segment state. -/
def State.onSeg (f : SegState → SegState) (s : State) : State := { s with seg := f s.seg }

/-- Change a PHY channel of the die (R457). -/
def State.onPhy (ch : Nat) (f : Phy → Phy) (s : State) : State :=
  { s with phy := s.phy.setIfInBounds ch (f (s.phy[ch]?.getD Phy.reset)) }

/-- Send a message to the environment. -/
def State.emit (m : OutMsg) (s : State) : State := { s with out := s.out ++ [m] }

/-- The next free value's index, and the state with the counter advanced (log 6). -/
def State.fresh (s : State) : Nat × State := (s.freeCtr, { s with freeCtr := s.freeCtr + 1 })

/-! ## The schedule -/

/-- Ranks of a cycle's order (R62, R101, R174, R308): what lands first, what reads, what writes, what signals. What ends with the
cycle before comes before all else: a period, a window (R380, R384). -/
def rankFirst : Nat := 0
/-- What comes before the sector accesses. -/
def rankWriteback : Nat := 1
/-- Reads of sectors by stations, ports and LMOV. -/
def rankRead : Nat := 2
/-- Stores of the sequencer reach their sectors. -/
def rankStore : Nat := 3
/-- Writes of sectors. -/
def rankWrite : Nat := 4
/-- What is done after the bundle of the cycle has issued. -/
def rankEnd : Nat := 8

/-- Insert an item into an agenda, behind the items of the same cycle and rank. -/
def insertDue (d : Due) : List Due → List Due
  | [] => [d]
  | e :: l => if d.at_ < e.at_ || (d.at_ = e.at_ && d.rank < e.rank) then d :: e :: l else e :: insertDue d l

/-- Put an item on the agenda. -/
def State.plan (cyc rank : Nat) (act : Act) (s : State) : State :=
  { s with agenda := insertDue { at_ := cyc, rank := rank, act := act } s.agenda }

/-! ## Registers and pending bits -/

/-- A scalar register's value; x0 reads as zero (R93). -/
def State.x (s : State) (r : Reg) : Word := if r = 0 then 0 else s.seq.regs[r]

/-- A scalar register written; x0 discards (R93). -/
def State.setX (r : Reg) (v : Word) (s : State) : State :=
  if r = 0 then s else s.onSeq fun q => { q with regs := q.regs.set r v }

/-- What a pending bit belongs to (R78). -/
inductive Key where
  | x (r : Reg)
  | tile (i : Fin 128)
  | mask (m : Fin 4)
  | lc (n : Fin 4)
  | sys (num : BitVec 12)
  deriving DecidableEq, Repr

/-- The pending bit that a write in flight holds; a push holds none (R78). -/
def Dest.key : Dest → Option Key
  | .x r _ => if r = 0 then none else some (.x r)
  | .tile i _ => some (.tile i)
  | .mask m _ _ => some (.mask m)
  | .lc n _ => some (.lc n)
  | .sys n _ => some (.sys n)
  | .push _ _ _ _ => none

/-- Is the register pending from an earlier bundle (R61, R77)? -/
def State.pendingRead (s : State) (k : Key) : Bool :=
  s.seq.writes.any fun w => w.dest.key == some k && decide (w.issued < s.now)

/-- Is the register pending, from an earlier bundle or from another slot of this one (R77)? -/
def State.pendingWrite (s : State) (k : Key) : Bool := s.seq.writes.any fun w => w.dest.key == some k

/-- A trap as an operation asks for it: its class by R76, cause, code and detail (R137). -/
structure TrapReq where
  cls    : Nat
  cause  : BitVec 8
  code   : BitVec 16
  detail : BitVec 40
  deriving DecidableEq, Repr

/-- A schedule fault with a detail and an index (R137). -/
def schedFault (kind index : Nat) : TrapReq :=
  { cls := 5, cause := 0x05, code := 0, detail := BitVec.ofNat 40 (kind + 256 * index) }

/-- A reserved-field trap at a bit position (R466). -/
def reservedTrap (bit : Nat) : TrapReq := { cls := 3, cause := 0x03, code := 0, detail := BitVec.ofNat 40 bit }

/-- A privilege trap with its detail (R137). -/
def privTrap (d : Nat) : TrapReq := { cls := 4, cause := 0x04, code := 0, detail := BitVec.ofNat 40 d }

/-- The schedule fault for a pending register: kind and index by R137. -/
def Key.fault : Key → TrapReq
  | .x r => schedFault 0 r.val
  | .tile i => schedFault 1 i.val
  | .mask m => schedFault 2 m.val
  | .lc n => schedFault 3 n.val
  | .sys n => schedFault 4 n.toNat

/-- The fault that reading a register raises, if any (R77). -/
def State.readFault (s : State) (k : Key) : Option TrapReq := if s.pendingRead k then some k.fault else none

/-- The fault that writing a register raises, if any (R77); a write to x0 never conflicts. Of two slots of one bundle that
write one register the later is reported: R77 names neither (DESIGN CHOICE, log 48). -/
def State.writeFault (s : State) (k : Key) : Option TrapReq :=
  if k ≠ .x 0 && s.pendingWrite k then some k.fault else none

/-- Fault of reading a scalar register. -/
def State.rdX (s : State) (r : Reg) : Option TrapReq := s.readFault (.x r)

/-- Fault of writing a scalar register. -/
def State.wrX (s : State) (r : Reg) : Option TrapReq := s.writeFault (.x r)

/-- The trap of a slot's checks: one of the first failing class, of those the first in the order of the checks (R76; log 16). -/
def firstTrap : List (Option TrapReq) → Option TrapReq
  | [] => none
  | none :: l => firstTrap l
  | some t :: l => match firstTrap l with
    | none => some t
    | some u => if u.cls < t.cls then some u else some t

/-- A check on what registers hold is made where the registers that supply it can be read: `src` are their faults (R77). -/
def valueTrap (src : List (Option TrapReq)) (t : Option TrapReq) : Option TrapReq := if firstTrap src = none then t else none

/-- A trap when a condition holds. -/
def trapIf (c : Bool) (t : TrapReq) : Option TrapReq := if c then some t else none

/-- Is slot `slot`'s next residue-checked result to fail (R113)? One result at a time. -/
def State.injected (s : State) (slot : Fin 8) : Bool :=
  (slot = 1 && s.sys.arcinj.getLsbD 0 || slot = 2 && s.sys.arcinj.getLsbD 1)
    && !(s.seq.writes.any fun w => w.slot = slot && w.inj)

/-- A register write put in flight with latency `lat` by the slot in hand (R77). -/
def State.enqueue (d : Dest) (lat : Nat) (residue : Bool) (s : State) : State :=
  s.onSeq fun q => { q with writes := q.writes ++
    [{ dest := d, due := s.now + lat, issued := s.now, baddr := q.pc, slot := q.slot,
       bad := residue && s.injected q.slot, inj := residue && s.injected q.slot }] }

/-- A scalar result put in flight. -/
def State.putX (r : Reg) (v : Word) (lat : Nat) (residue : Bool) (s : State) : State :=
  s.enqueue (.x r v) lat residue

/-! ## System-register writes that land -/

/-- Keep a write at a system register: the registers of R108 and of the other ranges by number. A field that its table
names zero and read-only takes nothing (R112, R253, R276, R391). Numbers that read only are not written (R106), but for the
trim and the pending step, which AXSLEW and AXSKIP write with the clamp's outcome in bit 32 (R349, R351), and the ports' HLAT words,
which the firmware writes at bring-up (R450). -/
def State.sysLand (num : BitVec 12) (v : Word) (s : State) : State :=
  match num.toNat with
  | 0x008 => s.onSys fun r => { r with srkey := v }
  | 0x009 => s.onSys fun r => { r with srkctr := v }
  | 0x020 => s.onSys fun r => { r with uhvec := v }
  | 0x080 => s.onSys fun r => { r with tvec := v }
  | 0x081 => s.onSys fun r => { r with tepc := v }
  | 0x082 => s.onSys fun r => { r with tcause := v }
  | 0x083 => s.onSys fun r => { r with tinfo := v }
  | 0x084 => s.onSys fun r => { r with tsav0 := v }
  | 0x085 => s.onSys fun r => { r with tsav1 := v }
  | 0x0A0 => s.onSys fun r => { r with arcstat := v &&& 0x7FFFFFFFF#64 }
  | 0x0A1 => s.onSys fun r => { r with arcinj := v }
  | 0x101 => s.onCp fun c => { c with fail := v &&& 0xFFFFFFFF#64 }
  | 0x102 => s.onCp fun c => { c with sel := v }
  | 0x108 => if v = 0 then s.onCp fun c => { c with vladdr := 0, vlinfo := 0 } else s.onCp fun c => { c with vladdr := v }
  | 0x109 => if v = 0 then s.onCp fun c => { c with vladdr := 0, vlinfo := 0 } else s.onCp fun c => { c with vlinfo := v }
  | 0x110 => s.onCp fun c => { c with ctx := v }
  | 0x111 => s.onCp fun c => { c with pasid := v }
  | 0x200 => s.onMx fun m => { m with inj := v }
  | 0x210 => s.onSh fun h => { h with inj := v }
  | 0x223 => s.onSh fun h => { h with fail := v &&& 0x3FFFFFFFF#64 }
  | 0x300 => s.onAx fun a => { a with clamp := false }
  | 0x301 => s.onAx fun a => { a with trim := v.setWidth 32, clamp := a.clamp || v.getLsbD 32 }
  | 0x302 => s.onAx fun a => { a with pend := some (sintOf 32 v.toNat), clamp := a.clamp || v.getLsbD 32 }
  | 0x330 => s.onAx fun a => { a with lkcfg := v }
  | 0x340 => s.onHl fun h => { h with pkey := v }
  | 0x341 => s.onHl fun h => { h with pmifsig := v &&& 0xFFFFFFFF#64 }
  | n =>
    if 0x010 ≤ n && n < 0x020 then s.onSys fun r => { r with mbox := r.mbox.setIfInBounds (n - 0x010) v }
    else if 0x310 ≤ n && n ≤ 0x321 then
      s.onAx fun a => { a with ports := a.ports.mapIdx fun i p =>
        if i = n - 0x310 then { p with hlat := v &&& 0x1FFFFFFFF#64 } else p }
    else if 0xC00 ≤ n then
      let ch := (n - 0xC00) / 16
      match n % 16 with
      | 0 =>
        let t := s.onPhy ch fun p => { p with ctl := v }
        if ((s.phy[ch]?).any fun p => p.ctl.getLsbD 0) && !v.getLsbD 0
          then t.plan (s.now + 4) rankEnd (.micro (.recordPhy (Fin.ofNat 64 ch))) else t
      | 1 => s.onPhy ch fun p => { p with rdly := v, oldR := p.rdly, since := s.now }
      | 2 => s.onPhy ch fun p => { p with wdly := v, oldW := p.wdly, sinceW := s.now }
      | 3 => s.onPhy ch fun p => { p with repair := v }
      | _ => s
    else s

/-! ## Results that land -/

/-- A register result lands (R77). A push goes to its port by its own rule and changes nothing here. -/
def State.landDest (d : Dest) (s : State) : State :=
  match d with
  | .x r v => s.setX r v
  | .tile i v => s.onSeq fun q => { q with tiles := q.tiles.set i v }
  | .mask m rows cols => s.onSeq fun q => { q with maskRow := q.maskRow.set m rows, maskCol := q.maskCol.set m cols }
  | .lc n v => s.onSeq fun q => { q with lc := q.lc.set n v }
  | .sys n v => s.sysLand n v
  | .push _ _ _ _ => s

/-- Is the write in flight a row on its way to a port? -/
def PendingWrite.isPush (w : PendingWrite) : Bool :=
  match w.dest with
  | .push _ _ _ _ => true
  | _ => false

/-! ## Arithmetic checks -/

/-- ARCSTAT after one more fault of a unit (R112). -/
def arcCount (u : Nat) (v : Word) : Word :=
  let c := fieldNat v 0 32
  BitVec.ofNat 64 (min (c + 1) 0xFFFFFFFF + u * 2 ^ 32)

/-- Change a system register by the hardware: a write of the same cycle is applied first (R105). -/
def State.hwSys (num : BitVec 12) (get : State → Word) (f : Word → Word) (s : State) : State :=
  let t := s.sysLand num (f (get s))
  t.onSeq fun q => { q with writes := q.writes.map fun w =>
    match w.dest with
    | .sys n v => if n = num then { w with dest := .sys n (f v) } else w
    | _ => w }

/-- ARCSTAT counts a fault of a unit (R112). -/
def State.countArc (u : Nat) (s : State) : State := s.hwSys 0x0A0 (fun t => t.sys.arcstat) (arcCount u)

/-- ARCSTAT's number of the unit that a slot's results come from (R112). -/
def slotArc (slot : Fin 8) : Nat := if slot = 1 then 0 else if slot = 2 then 1 else 2

/-- The hardware clears the injection bit of a scalar slot in the cycle of the fault (R113). -/
def State.clearInj (slot : Fin 8) (s : State) : State :=
  s.hwSys 0x0A1 (fun t => t.sys.arcinj) fun v => v &&& ~~~(if slot = 1 then 1#64 else 2#64)

/-- Does one check stand over two results: they are an instruction's own, and of a TCPY the same row's (R111, R168)? -/
def PendingWrite.sameCheck (v w : PendingWrite) : Bool :=
  v.slot = w.slot && v.issued = w.issued && (v.slot ≠ 3 || v.due = w.due)

/-- The first result of each check. -/
def firstOfChecks : List PendingWrite → List PendingWrite
  | [] => []
  | w :: l => w :: (firstOfChecks l).filter fun v => !w.sameCheck v

/-- A failing check is counted, and an injection that made it is cleared (R112, R113). -/
def State.noteCheck (w : PendingWrite) (s : State) : State :=
  let t := s.countArc (slotArc w.slot)
  if w.inj then t.clearInj w.slot else t

/-! ## Paths and pushes -/

/-- Position of a sector on the annulus (R16). -/
def secPos (s : Fin 8) : Nat := 2 * s.val

/-- Position of a station on the annulus (R16). -/
def stnPos (k : Fin 8) : Nat := 2 * k.val + 1

/-- Hops from one position to another in a sense (R16). -/
def hopsOf (ccw : Bool) (a b : Nat) : Nat := if ccw then (a + 16 - b) % 16 else (b + 16 - a) % 16

/-- Path length of a port's binding (R181). -/
def PortState.hops (p : PortState) : Nat :=
  if p.wr then hopsOf p.lane.ccw (stnPos p.stn) (secPos p.sec) else hopsOf p.lane.ccw (secPos p.sec) (stnPos p.stn)

/-- The port, bound or released, that a generation names. -/
def State.portGen (s : State) (q : Fin 8) (gen : Nat) : Option PortState :=
  if s.ann.ports[q].gen = gen && s.ann.ports[q].bound then some s.ann.ports[q]
  else s.ann.drained.find? fun p => p.gen = gen

/-- The sector access claimed for a suppressed push is given up, whether its trap is its own or another's: R170 does not say
(DESIGN CHOICE, log 66). -/
def State.unpush (w : PendingWrite) (s : State) : State :=
  match w.dest with
  | .push q gen _ _ =>
    match s.portGen q gen with
    | some p =>
      let c : Claim := { cyc := w.due + p.hops, sec := p.sec, write := true, owner := .port q }
      s.onAnn fun a => { a with claims := a.claims.erase c }
    | none => s
  | _ => s

/-- Every register write in flight lands, and every pending bit is clear (R79). A result whose check fails is suppressed
and counted, without a trap of its own beside the one being taken (DESIGN CHOICE, log 10); pushes go on. -/
def State.landAll (s : State) : State :=
  let t := (s.seq.writes.filter fun w => w.bad).foldl (fun u w => u.unpush w) s
  let t := (s.seq.writes.filter fun w => !w.isPush && !w.bad).foldl (fun u w => u.landDest w.dest) t
  let t := t.onSeq fun q => { q with writes := s.seq.writes.filter fun w => w.isPush && !w.bad }
  (firstOfChecks (s.seq.writes.filter fun w => w.bad)).foldl (fun u w => u.noteCheck w) t

/-! ## Taking a trap and returning (R134 to R141) -/

/-- TCAUSE's word (R135). -/
def tcauseWord (t : TrapRec) (sup : Bool) (x : Option Xfer) (seg : Bool) : Word :=
  let taken := x.bind fun y => if y.left = 0 then none else y.target.map fun v => (y.left, v.toNat % 2 ^ 15)
  let bp := (taken.map (·.1)).getD 0
  let bt := (taken.map (·.2)).getD 0
  BitVec.ofNat 64 (t.cause.toNat + (if sup then 2 ^ 8 else 0) + bp * 2 ^ 9 + (if seg then 2 ^ 11 else 0)
    + t.code.toNat * 2 ^ 16 + bt * 2 ^ 32)

/-- TINFO's word (R136). -/
def tinfoWord (t : TrapRec) : Word :=
  BitVec.ofNat 64 (t.baddr.toNat + t.slot.val * 2 ^ 15 + t.detail.toNat * 2 ^ 24)

/-- A launch identifier; 0 with no program. -/
def State.lid (s : State) : BitVec 32 :=
  match s.prog with
  | some p => p.lid
  | none => 0

/-- This cell as the Apex names it: logical coordinates and logical module (R109). -/
def State.self (s : State) : Peer :=
  { x := fieldNat s.sys.lxy 0 16, y := fieldNat s.sys.lxy 16 16, md := s.sys.lmod.toNat }

/-- The cell stops issuing, and its status is reported to the Apex (R141). -/
def State.stopWith (status : BitVec 16) (s : State) : State :=
  let t := s.landAll
  (t.onSeq fun q => { q with run := .stopped, trapDue := none, haltSt := none }).plan (s.now + 1) rankEnd
    (.ev (.haltReport s.lid s.self status))

/-- Enter the trap handler for a trap record, in place of the bundle at pc (R134); in supervisor mode it is a double
trap (R141). The one operation by which every exception is taken. The handler's address is TVEC's low 15 bits; R108 lays out
no field above them (DESIGN CHOICE, log 49). TVEC's start flag is not checked: R66 does not list trap entry. -/
def State.enterTrap (t : TrapRec) (s : State) : State :=
  match s.seq.mode with
  | .supervisor => s.stopWith 0xFFFF
  | .user =>
    let u := s.landAll
    let u := u.onSys fun r => { r with
      tepc := BitVec.ofNat 64 s.seq.pc.toNat,
      tcause := tcauseWord t false s.seq.xfer s.seg.inSeg,
      tinfo := tinfoWord t }
    u.onSeq fun q => { q with
      mode := .supervisor, suspended := true, pc := u.sys.tvec.setWidth 15, issueAt := s.now + 3, escPaid := true,
      xfer := none, arrived := false, badTarget := none, trapDue := none }

/-- The trap that the slot in hand raises is taken in place of its bundle (R76, R134). -/
def State.takeTrap (t : TrapReq) (s : State) : State :=
  let r : TrapRec := { cause := t.cause, code := t.code, baddr := s.seq.pc, slot := s.seq.slot, detail := t.detail }
  (s.enterTrap r).onSeq fun q => { q with tookTrap := some (t.cls, r) }

/-- Return from a trap (R140): mode, pc, outstanding transfer from TCAUSE and TEPC; the first bundle at c + 3. The address
is TEPC's low 15 bits (DESIGN CHOICE, log 49). -/
def State.returnTrap (s : State) : State :=
  let c := s.sys.tcause
  let user := !c.getLsbD 8
  let bp := fieldNat c 9 2
  s.onSeq fun q => { q with
    mode := if user then .user else .supervisor, suspended := if user then false else q.suspended,
    pc := s.sys.tepc.setWidth 15, issueAt := s.now + 3, escPaid := false, arrived := true, badTarget := none,
    xfer := if bp = 0 then none else some { left := bp, target := some (BitVec.ofNat 64 (fieldNat c 32 15)) } }

/-- A trap that falls due in place of the next bundle; one already due stands (R145). -/
def State.oweTrap (t : TrapRec) (s : State) : State :=
  s.onSeq fun q => match q.trapDue with
    | some _ => q
    | none => { q with trapDue := some t }

/-- An arithmetic-check fault's trap falls due: it is taken before any other of its cycle (R145). -/
def State.oweCheck (t : TrapRec) (s : State) : State :=
  s.onSeq fun q => match q.trapDue with
    | some u => if u.cause = 0x0C then q else { q with trapDue := some t }
    | none => { q with trapDue := some t }

/-- Do a slot's work unless one of its checks traps. -/
def State.guarded (checks : List (Option TrapReq)) (k : State → State) (s : State) : State :=
  match firstTrap checks with
  | some t => s.takeTrap t
  | none => k s

/-! ## Sector accesses -/

/-- How many claims of a kind stand on a sector in a cycle (R173). -/
def State.claimed (s : State) (sec : Fin 8) (cyc : Nat) (write : Bool) : Nat :=
  (s.ann.claims.filter fun c => c.sec = sec && c.cyc = cyc && c.write == write).length

/-- May one more access of a kind be claimed (R18)? -/
def State.claimOk (s : State) (sec : Fin 8) (cyc : Nat) (write : Bool) : Bool :=
  s.claimed sec cyc write < (if write then 1 else 2)

/-- Claim an access. -/
def State.claim (sec : Fin 8) (cyc : Nat) (write : Bool) (o : Owner) (s : State) : State :=
  s.onAnn fun a => { a with claims := a.claims ++ [{ cyc := cyc, sec := sec, write := write, owner := o }] }

/-- Give up the claims of an owner from a cycle on. -/
def State.unclaim (o : Owner) (from_ : Nat) (s : State) : State :=
  s.onAnn fun a => { a with claims := a.claims.filter fun c => !(c.owner == o && from_ ≤ c.cyc) }

/-- Give up a port's claims of reads from a cycle on; rows already pushed keep their claims (R182, R183, R186). -/
def State.unclaimReads (q : Fin 8) (from_ : Nat) (s : State) : State :=
  s.onAnn fun a => { a with claims := a.claims.filter fun c => !(c.owner == .port q && !c.write && from_ ≤ c.cyc) }

/-- The range-register index that a timed-segment access breaks; none when it is allowed or not checked (R192). -/
def State.rangeBreak (s : State) (write : Bool) (sec : Fin 8) (row : Nat) (stn : Nat) : Option Nat :=
  if !s.seg.inSeg then none
  else
    let hit := fun (r : RangeReg) => r.sec = sec && r.first.val ≤ row && row ≤ r.last.val
    let ok := s.ann.ranges.toList.any fun o => match o with
      | some r => hit r && r.write == write && r.stmask.getLsbD stn
      | none => false
    if ok then none
    else some (((s.ann.ranges.toList.findIdx? fun o => match o with
      | some r => hit r
      | none => false)).getD 0xFF)

/-- Is the sector HELD by the running program (R194)? -/
def State.holds (s : State) (sec : Fin 8) : Bool := s.ann.own[sec] == Own.held false

/-- The contexts saved on this cell: in the save area, and on its way to its slot (R422, R426). -/
def State.contexts (s : State) : List SavedCtx := s.saved.toList ++ s.saving.toList

/-- Did a context hold a sector, or was it releasing it (R424)? -/
def SavedCtx.keeps (x : SavedCtx) (sec : Fin 8) : Bool :=
  match x.own[sec] with
  | .held p => !p
  | .releasing p _ => !p
  | _ => false

/-- Is a command a copy of a context saved here that kept the sector (R319, R424)? -/
def State.keepsFor (s : State) (c : Cmd) (sec : Fin 8) : Bool :=
  c.saved && s.contexts.any fun x => x.keeps sec && s.cp.ents.any fun e => e.cmd.idx = c.idx && e.park = some x.prog.lid

/-- May an engine command access the sector: HELD by its program, or RELEASING by it with the command issued before the SREL
(R319)? -/
def State.cmdHolds (s : State) (c : Cmd) (sec : Fin 8) : Bool :=
  match s.ann.own[sec] with
  | .free => false
  | .held p => p == c.pred && !c.saved
  | .releasing p upto => p == c.pred && !c.saved && decide (c.issued < upto)
  | .kept => s.keepsFor c sec
  | .keptRel upto => s.keepsFor c sec && decide (c.issued < upto)

/-- A sector row as a reader sees it: poisoned words read as all ones (R175). -/
def State.peekRow (s : State) (sec : Fin 8) (row : Nat) : Row :=
  let a := rowAddr sec row
  let v := s.ann.mem.row a
  s.ann.poison.foldl (fun acc w => if a / 8 ≤ w && w < a / 8 + 64
    then acc ||| (BitVec.ofNat 4096 (2 ^ 64 - 1) <<< (64 * (w - a / 8))) else acc) v

/-- A counter that holds at its top (R175, R213). -/
def bump32 (n : Nat) (c : BitVec 32) : BitVec 32 := BitVec.ofNat 32 (min (c.toNat + n) 0xFFFFFFFF)

/-- The counters after a read of n words from a word address on (R175). -/
def State.countEcc (w n : Nat) (s : State) : State :=
  let hit := fun (l : List Nat) => (l.filter fun k => w ≤ k && k < w + n).length
  s.onAnn fun a => { a with eccCorr := bump32 (hit a.flawed) a.eccCorr, eccPois := bump32 (hit a.poison) a.eccPois }

/-- A row read by a port or an LMOV: the row and the counters (R174, R175). -/
def State.readRow (s : State) (sec : Fin 8) (row : Nat) : Row × State :=
  (s.peekRow sec row, s.countEcc (rowAddr sec row / 8) 64)

/-- The old bytes of stores not ordered before the accesses of a command issued in a cycle (R316). -/
def State.oldBytes (s : State) (issued : Nat) (sec : Fin 8) (row : Nat) : List OldByte :=
  let a := rowAddr sec row
  s.ann.unfenced.filter fun c => a ≤ c.addr && c.addr < a + 512 && (match c.fenced with
    | some f => decide (issued < f)
    | none => true)

/-- A byte as a reader finds it that sees some of the stores on it: the old bytes of that address, newest store first. -/
def byteSeen (seen : Nat → Bool) : List OldByte → Byte → Byte
  | [], v => v
  | c :: l, v => if seen c.store then v else byteSeen seen l c.old

/-- A row read by an engine command. A claimed access in a timed segment sees every store of an earlier cycle (R333). Any
other may miss a store that no FENCE orders before its command: for each store a free choice, which all bytes of the store
share (R316, R326, R332; log 6). -/
def State.cmdRow (s : State) (issued : Nat) (timed : Bool) (sec : Fin 8) (row : Nat) : Row × State :=
  let a := rowAddr sec row
  let old := if timed then [] else s.oldBytes issued sec row
  let p := s.readRow sec row
  if old.isEmpty then p
  else
    let ids := (old.map (·.store)).eraseDups
    let seen := fun (k : Nat) => Config.freeBool (s.freeCtr + ids.idxOf k)
    let v := (old.map (·.addr)).eraseDups.foldl (fun (v : Nat) k =>
      setField v (8 * (k - a)) 8 (byteSeen seen (old.filter (·.addr = k)).reverse (BitVec.ofNat 8 (p.1.toNat >>> (8 * (k - a))))).toNat)
      p.1.toNat
    (BitVec.ofNat 4096 v, { p.2 with freeCtr := p.2.freeCtr + ids.length })

/-- Bytes written to the sectors; a word written whole is no longer poisoned, and any write repairs a single-bit
error (R175). -/
def State.writeLocal (a : Nat) (l : List Byte) (s : State) : State :=
  let whole := fun (w : Nat) => a ≤ 8 * w && 8 * w + 8 ≤ a + l.length
  let part := fun (w : Nat) => a < 8 * w + 8 && 8 * w < a + l.length
  s.onAnn fun n => { n with
    mem := n.mem.write a l,
    unfenced := n.unfenced.filter fun c => !(a ≤ c.addr && c.addr < a + l.length),
    poison := n.poison.filter fun w => !whole w,
    flawed := n.flawed.filter fun w => !part w }

/-- A whole row written. -/
def State.writeRow (sec : Fin 8) (row : Nat) (r : Row) (s : State) : State :=
  s.writeLocal (rowAddr sec row) (bytesOf 512 r.toNat)

/-- A row written at the positions whose column bit is set, four bytes each (R151); a sector word with both its positions
is written whole (R175). -/
def State.writeRowMasked (sec : Fin 8) (row : Nat) (r : Row) (cols : BitVec 128) (s : State) : State :=
  if cols = BitVec.allOnes 128 then s.writeRow sec row r
  else (List.range 64).foldl (fun u j =>
    let a := rowAddr sec row + 8 * j
    match cols.getLsbD (2 * j), cols.getLsbD (2 * j + 1) with
    | true, true => u.writeLocal a (bytesOf 8 (r.toNat >>> (64 * j)))
    | true, false => u.writeLocal a (bytesOf 4 (r.toNat >>> (64 * j)))
    | false, true => u.writeLocal (a + 4) (bytesOf 4 (r.toNat >>> (64 * j + 32)))
    | false, false => u) s

/-! ## Semaphores -/

/-- Change a semaphore at once: a ctl write (R308). -/
def State.onSem (n : Fin 256) (f : Sem → Sem) (s : State) : State := { s with sems := s.sems.set n (f s.sems[n]) }

/-- A counter's sum, saturating with code 0x2F and the station and index of what added to it (R307 to R309). -/
def Sem.add (k : Nat) (stn : BitVec 8) (idx : BitVec 16) (m : Sem) : Sem :=
  let t := m.cnt.toNat + k
  if t < 2 ^ 36 then { m with cnt := BitVec.ofNat 36 t }
  else { m with cnt := BitVec.allOnes 36, err := true,
                status := if m.err then m.status else BitVec.ofNat 32 (0x2F + stn.toNat * 256 + idx.toNat * 65536) }

/-- A hardware increment applied to its counter. -/
def Inc.apply (i : Inc) (m : Sem) : Sem := m.add i.n i.stn i.idx

/-- A failure: bit and status only when the bit is clear (R307, R309). -/
def Sem.failWith (code detail : BitVec 8) (idx : BitVec 16) (m : Sem) : Sem :=
  if m.err then m
  else { m with err := true, status := BitVec.ofNat 32 (code.toNat + detail.toNat * 256 + idx.toNat * 65536) }

/-- A hardware increment of this cycle: applied after the bundle, visible in the next (R308). -/
def State.signal (i : Inc) (s : State) : State := { s with incs := s.incs ++ [i] }

/-- The station that runs an engine command (R21, R307). -/
def stationOfOp : Instr → BitVec 8
  | .mxgo _ _ _ _ _ _ | .mxldb _ _ _ | .accz _ _ _ | .accdr _ _ _ _ => 0
  | .tbld _ _ | .tbev _ _ _ _ _ _ _ => 2
  | .cvt _ _ _ _ _ _ _ _ _ _ | .qamax _ _ _ _ | .qscl _ _ _ _ | .gsum _ _ _ | .gver _ => 3
  | .trn _ _ => 4
  | .clred _ _ _ _ | .clgath _ | .clbcst _ => 6
  | _ => 5

/-- The outcome of a predecessor's command goes to that program's final report: station, index, code or 0 (R306). -/
def State.notePred (c : Cmd) (code : BitVec 8) (s : State) : State :=
  { s with predOut := s.predOut ++ [(stationOfOp c.op, c.idx, code)] }

/-- A command's outcome touches the file only while its program runs: a predecessor's does not (R306). -/
def State.signalCmd (c : Cmd) (bytes : Nat) (s : State) : State :=
  if c.pred then s.notePred c 0
  else if c.sinc = 0 then s
  else s.signal { sem := c.ssem, n := if c.sinc = 15 then bytes else c.sinc.val, keep := c.issued < s.seg.since,
                  stn := stationOfOp c.op, idx := c.idx.setWidth 16 }

/-- A command's failure on its semaphore (R223, R309); with sinc = 0 nothing is set here. -/
def State.failCmd (c : Cmd) (code detail : BitVec 8) (s : State) : State :=
  if c.pred then s.notePred c code
  else if c.sinc = 0 then s
  else { s with fails := s.fails ++ [(c.ssem, code, detail, c.idx.setWidth 16)] }

/-- The increments and failures of the cycle are applied together (R308). -/
def State.applySignals (s : State) : State :=
  let t := s.incs.foldl (fun u i => u.onSem i.sem i.apply) s
  let t := s.fails.foldl (fun u p => u.onSem p.1 (Sem.failWith p.2.1 p.2.2.1 p.2.2.2)) t
  { t with incs := [], fails := [],
           seg := { t.seg with kept := t.seg.kept ++ s.incs.filter fun i => i.keep } }

end Sys2Proof.Machine
end

