-- ==== Sys2Proof/Machine/Geometry.lean ====
section
/-! DEFINITION. Places on the module mesh: dies, distances, port attachments, the physical cell of a logical one
(R10 to R12, R15, R25 to R29). -/

namespace Sys2Proof.Machine

/-- The die of a mesh cell (R10). -/
def dieOf (x y : Nat) : Nat := (if 16 ≤ x then 1 else 0) + (if 12 ≤ y then 2 else 0)

/-- The boot cell of a die (R10). -/
def bootOf (d : Nat) : Nat × Nat := (d % 2 * 16, d / 2 % 2 * 12)

/-- Distance of two dies in the die grid (R11). -/
def dieDist (d e : Nat) : Nat := (if d % 2 = e % 2 then 0 else 1) + (if d / 2 % 2 = e / 2 % 2 then 0 else 1)

/-- Hop latencies along one axis; `edge` is the first coordinate beyond the die boundary (R15). -/
def axisLat (edge a b : Nat) : Nat :=
  2 * (max a b - min a b) + (if min a b < edge && edge ≤ max a b then 10 else 0)

/-- Mesh latency between two cells (R15). -/
def meshLat (a b : Nat × Nat) : Nat := axisLat 16 a.1 b.1 + axisLat 12 a.2 b.2

/-- Attachment cell of a Mbaper port (R12). -/
def attachCell (p : Nat) : Nat × Nat :=
  if p < 5 then (0, 2 * p + 1)
  else if p < 10 then (31, 2 * (p - 5) + 1)
  else if p < 14 then (0, 13 + 3 * (p - 10))
  else (31, 13 + 3 * (p - 14))

/-- Physical coordinates of this cell (R108). -/
def State.phys (s : State) : Nat × Nat := (fieldNat s.sys.pxy 0 16, fieldNat s.sys.pxy 16 16)

/-- The die of this cell. -/
def State.die (s : State) : Nat := dieOf s.phys.1 s.phys.2

/-- Logical coordinates of this cell (R109). -/
def State.logical (s : State) : Nat × Nat := (fieldNat s.sys.lxy 0 16, fieldNat s.sys.lxy 16 16)

/-- Width and height of the running shape (R109). -/
def State.shapeSize (s : State) : Nat × Nat := (fieldNat s.sys.lwh 0 16, fieldNat s.sys.lwh 16 16)

/-- Physical mesh cell of a logical one in the running shape's placement (R29). -/
def State.peerCell (s : State) (p : Peer) : Nat × Nat :=
  match s.prog with
  | some g => (g.px + p.x, g.py + p.y)
  | none => (p.x, p.y)

/-- Is the peer a cell of the running shape on a module of the launch (R266, R355)? -/
def State.peerOk (s : State) (p : Peer) : Bool :=
  match s.prog with
  | some g => p.x < s.shapeSize.1 && p.y < s.shapeSize.2 && g.mfirst ≤ p.md && p.md < g.mfirst + g.mcount
  | none => false

/-- The machine as a command's program sees it: a predecessor's command goes by its own program's coordinates, shape and windows
(R193, R266, R281). -/
def State.viewOf (s : State) (c : Cmd) : State :=
  match s.predAs with
  | some g =>
    if c.pred && !c.saved then
      { s with prog := some g.prog, sys := { s.sys with lxy := g.lxy, lwh := g.lwh }, cp := { s.cp with windows := g.windows } }
    else s
  | none => s

/-- A command of the running program sees the machine as it stands. -/
theorem State.viewOf_own (s : State) {c : Cmd} (h : c.pred = false) : s.viewOf c = s := by
  unfold State.viewOf; split <;> simp [h]

/-- Is a mesh cell known to be fenced: this cell's own map, or the fences the Apex was told of (R384, R386)? -/
def State.isFenced (s : State) (c : Nat × Nat) : Bool := s.hl.fmap.contains c || s.apex.fences.contains c

/-- Cells crossed by the dimension-ordered route from one cell to another, ends included (R15). -/
def route (a b : Nat × Nat) : List (Nat × Nat) :=
  let span := fun (u v : Nat) => (List.range (max u v + 1)).filter fun i => min u v ≤ i
  ((span a.1 b.1).map fun x => (x, a.2)) ++ ((span a.2 b.2).map fun y => (b.1, y))

/-- Does the route meet a fenced cell beyond its start (R389)? -/
def State.routeFenced (s : State) (a b : Nat × Nat) : Bool :=
  (route a b).any fun c => c ≠ a && s.isFenced c

/-- Does a path from this cell to a cell of a module cross a cell known to be fenced, its own start apart: inside this module the
mesh route; to another module, by a plane, the routes to and from the plane's attachment cells, and with no plane named the peer
alone (R15, R356, R389)? -/
def State.pathFenced (s : State) (md : Nat) (c : Nat × Nat) (plane : Option Nat) : Bool :=
  let far := fun (d : Nat × Nat) => s.apex.farFences.contains (md, d)
  if md = s.self.md then s.isFenced c || s.routeFenced s.phys c
  else match plane with
    | some q => s.routeFenced s.phys (attachCell q) || (route (attachCell q) c).any far
    | none => far c

/-- The index of a cell in logical row-major order (R91, R128). -/
def State.cellIdx (s : State) : Nat := s.shapeSize.1 * s.logical.2 + s.logical.1

/-- Is a port live for timed traffic: marked so, with H = 1,152 and m at most H - 8 (R343, R344, R352)? -/
def MPort.live (q : MPort) : Bool :=
  q.hlat.getLsbD 32 && fieldNat q.hlat 0 16 ≤ 1152 && fieldNat q.hlat 16 16 + 8 ≤ fieldNat q.hlat 0 16

/-- Is a Mbaper port live for timed traffic (R344, R352)? -/
def State.portLive (s : State) (p : Nat) : Bool :=
  match s.ax.ports[p]? with
  | some q => q.live
  | none => false

/-- H of a Mbaper port (R343, R352). -/
def State.portH (s : State) (p : Nat) : Nat :=
  match s.ax.ports[p]? with
  | some q => fieldNat q.hlat 0 16
  | none => 0

/-- The twin of this cell (R366). -/
def State.twin (s : State) : Peer := { s.self with md := fieldNat s.ax.lkcfg 6 9 }

/-- Cycles by a plane from this cell to a cell of another module: M1 + 2H + M2 (R357). -/
def State.planeLat (s : State) (plane : Nat) (d : Nat × Nat) : Nat :=
  meshLat s.phys (attachCell plane) + 2 * s.portH plane + meshLat (attachCell plane) d

/-- Clock cycle in which the counter will hold a value, with no step in between. -/
def State.clockOf (s : State) (v : Nat) : Nat := s.now + (v - s.ax.value.toNat)

/-- Clock cycles after which to look again for a counter value that is n counts ahead. The look never comes late: steps bring the
counter at most 16 counts in the 48 or more cycles of a boundary (R349). -/
def lookAhead (n : Nat) : Nat := max 1 (n * 3 / 4)

/-- An event of a counter value goes on the agenda: it is looked for until the counter has it (R342, R349). -/
def State.planFor (v rank : Nat) (act : Act) (s : State) : State := s.plan (s.now + lookAhead (v - s.ax.value.toNat)) rank act

/-- The counter as a natural number. -/
def State.absc (s : State) : Nat := s.ax.value.toNat

/-- Counter value of a clock cycle that has passed, with no step in between. -/
def State.valueAt (s : State) (cyc : Nat) : Nat := s.absc - (s.now - cyc)

/-! ## Launches on the mesh (R29) -/

/-- The running shape of a launch. -/
def LaunchRec.shapeRec (l : LaunchRec) : ShapeRec :=
  match l.img.shapes[l.shape]? with
  | some h => h
  | none => { head := { dictn := 0, segs := 0, dict := 0, cells := 0, segtab := 0, timetab := 0, zero := 0 }, w := 0, h := 0,
              nsig := 1, dict := [], cells := [], segs := [], slots := [], energy := [], dies := [] }

/-- Does a physical cell lie in the running shape's placement (R29)? -/
def LaunchRec.holdsCell (l : LaunchRec) (c : Nat × Nat) : Bool :=
  l.px ≤ c.1 && c.1 < l.px + l.shapeRec.w && l.py ≤ c.2 && c.2 < l.py + l.shapeRec.h

end Sys2Proof.Machine
end

