-- ==== Sys2Proof/Machine/Flags.lean ====
section
/-! DEFINITION. What the module has for flags: the mask pairs that gate a vector instruction, the masks that a
comparison writes, and the select between written and kept positions (R152, R158). The module keeps no arithmetic
flags (R37). -/

namespace Sys2Proof.Machine

/-- The column mask of a mask pair, complemented when asked (R152). -/
def State.cols (s : State) (mp : Fin 4) (cpl : Bool) : BitVec 128 :=
  if cpl then ~~~s.seq.maskCol[mp] else s.seq.maskCol[mp]

/-- The active positions of a destination: none in a tile row that the row mask leaves out (R152). -/
def State.activeCols (s : State) (mp : Fin 4) (cpl : Bool) (od : VOp) : BitVec 128 :=
  match od with
  | .tile _ row => if s.seq.maskRow[mp].getLsbD row.val then s.cols mp cpl else 0
  | _ => s.cols mp cpl

/-- The positions written by an instruction whose column mask does not gate (R159, R160). -/
def State.openCols (s : State) (mp : Fin 4) (od : VOp) : BitVec 128 :=
  match od with
  | .tile _ row => if s.seq.maskRow[mp].getLsbD row.val then BitVec.allOnes 128 else 0
  | _ => BitVec.allOnes 128

/-- 4,096 bits with 32 ones at each position of a column mask. -/
def spread (cols : BitVec 128) : Row :=
  rowOfElems 32 ((List.range 128).map fun j => if cols.getLsbD j then 0xFFFFFFFF else 0)

/-- A row that takes `new` at the active positions and keeps `old` elsewhere (R152). -/
def blend (cols : BitVec 128) (new old : Row) : Row :=
  if cols = BitVec.allOnes 128 then new
  else let m := spread cols; (new &&& m) ||| (old &&& ~~~m)

/-- The column mask whose bit j is element j of a list of truths. -/
def colsOf (l : List Bool) : BitVec 128 := BitVec.ofNat 128 (l.foldr (fun b acc => acc * 2 + (if b then 1 else 0)) 0)

/-- The mask that a comparison writes: element k of each position compared, inactive positions 0 (R158). -/
def compareCols (w k : Nat) (act : BitVec 128) (cmp : Nat → Nat → Bool) (a b : Row) : BitVec 128 :=
  let per := 32 / w
  act &&& colsOf ((List.range 128).map fun j =>
    cmp (a.toNat >>> (w * (j * per + k)) % 2 ^ w) (b.toNat >>> (w * (j * per + k)) % 2 ^ w))

end Sys2Proof.Machine
end

