-- ==== Sys2Proof/Machine/Float.lean ====
section
/-! DEFINITION. Number formats and rounding (02_numbers): decoding, exact arithmetic, one rounding, conversion. -/

namespace Sys2Proof.Machine

/-- A floating-point element format: total width, fraction bits, bias, the largest finite magnitude code and the
infinity code (R35). -/
structure FFormat where
  w    : Nat
  f    : Nat
  bias : Nat
  maxc : Nat
  inf  : Option Nat
  deriving DecidableEq, Repr

/-- FP32 (R35). -/
def f32 : FFormat := { w := 32, f := 23, bias := 127, maxc := 0x7F7FFFFF, inf := some 0x7F800000 }

/-- The layout of a floating-point format; FP32's for a format that is not one (R35). -/
def floatFormat : Fmt → FFormat
  | .bf16 => { w := 16, f := 7, bias := 127, maxc := 0x7F7F, inf := some 0x7F80 }
  | .fp16 => { w := 16, f := 10, bias := 15, maxc := 0x7BFF, inf := some 0x7C00 }
  | .e4m3 => { w := 8, f := 3, bias := 7, maxc := 0x7E, inf := none }
  | .e5m2 => { w := 8, f := 2, bias := 15, maxc := 0x7B, inf := some 0x7C }
  | .e2m1 => { w := 4, f := 1, bias := 1, maxc := 0x7, inf := none }
  | _ => f32

/-- Exponent of the lowest subnormal bit (R35). -/
def FFormat.emin (F : FFormat) : Int := 1 - (F.bias : Int) - (F.f : Int)

/-- Magnitude part of a code. -/
def FFormat.mag (F : FFormat) (c : Nat) : Nat := c % 2 ^ (F.w - 1)

/-- Sign bit of a code. -/
def FFormat.sign (F : FFormat) (c : Nat) : Bool := c / 2 ^ (F.w - 1) % 2 == 1

/-- A code from a sign and a magnitude. -/
def FFormat.code (F : FFormat) (s : Bool) (m : Nat) : Nat := if s then 2 ^ (F.w - 1) + m else m

/-- Is the code a NaN (R35)? -/
def FFormat.isNaN (F : FFormat) (c : Nat) : Bool :=
  match F.inf with
  | some i => i < F.mag c
  | none => F.maxc < F.mag c

/-- Is the code an infinity (R35)? -/
def FFormat.isInf (F : FFormat) (c : Nat) : Bool := F.inf == some (F.mag c)

/-- Is the code a zero? -/
def FFormat.isZero (F : FFormat) (c : Nat) : Bool := F.mag c == 0

/-- The code with its quiet bit set (R38). -/
def FFormat.quiet (F : FFormat) (c : Nat) : Nat := c ||| 2 ^ (F.f - 1)

/-- The default NaN (R38). -/
def FFormat.defaultNaN (F : FFormat) : Nat := F.inf.getD 0 + 2 ^ (F.f - 1)

/-- An infinity of a sign; the largest finite value where the format has none. -/
def FFormat.infinity (F : FFormat) (s : Bool) : Nat := F.code s (F.inf.getD F.maxc)

/-- An exact value with a sign: m × 2^e, and `sticky` when the true magnitude lies above it by less than 2^e. -/
structure Exact where
  s : Bool
  m : Nat
  e : Int
  sticky : Bool := false
  deriving DecidableEq, Repr

/-- The exact value of a finite code (R35, R37: subnormals as they are). -/
def FFormat.exact (F : FFormat) (c : Nat) : Exact :=
  let m := F.mag c
  let ex := m / 2 ^ F.f
  let fr := m % 2 ^ F.f
  if ex = 0 then { s := F.sign c, m := fr, e := F.emin }
  else { s := F.sign c, m := 2 ^ F.f + fr, e := F.emin + (ex : Int) - 1 }

/-- The exact value of an integer. -/
def exactInt (v : Int) : Exact := { s := v < 0, m := v.natAbs, e := 0 }

/-- How a rounding is done: its mode and, for SRK, the generator's 32-bit output (R44, R45). -/
structure Rnd where
  mode : RMode
  rv   : Nat := 0
  deriving DecidableEq, Repr

/-- Round to nearest even. -/
def rne : Rnd := { mode := .rne }

/-- Does the mode step away from zero? `odd` is the lower neighbour's low bit, `rem` and `sticky` the part below,
of `d` bits (R44, R45). -/
def roundAway (r : Rnd) (s odd : Bool) (rem d : Nat) (sticky : Bool) : Bool :=
  if rem = 0 && !sticky then false
  else match r.mode with
    | .rne => if 2 * rem = 2 ^ d then (sticky || odd) else 2 ^ d < 2 * rem
    | .rtz => false
    | .rdn => s
    | .rup => !s
    | .srk => r.rv < rem * 2 ^ 32 / 2 ^ d

/-- The magnitude code of an exact value rounded with unbounded exponent range (R45): codes are in order of magnitude,
so the neighbour away from zero is the next code. -/
def FFormat.roundMag (F : FFormat) (r : Rnd) (x : Exact) : Nat :=
  let top := x.e + (Nat.log2 x.m : Int)
  let q := max (top - (F.f : Int)) F.emin
  let base := (q - F.emin).toNat * 2 ^ F.f
  if q ≤ x.e then
    let n := x.m * 2 ^ (x.e - q).toNat
    if roundAway r x.s (n % 2 == 1) 0 0 x.sticky then base + n + 1 else base + n
  else
    let d := (q - x.e).toNat
    let n := x.m / 2 ^ d
    if roundAway r x.s (n % 2 == 1) (x.m % 2 ^ d) d x.sticky then base + n + 1 else base + n

/-- The result of an overflow (R47). `sat` gives the largest finite magnitude. -/
def FFormat.overflow (F : FFormat) (r : Rnd) (s sat : Bool) : Nat :=
  if sat then F.code s F.maxc
  else match r.mode with
    | .rtz => F.code s F.maxc
    | .rdn => if s then F.infinity s else F.code s F.maxc
    | .rup => if s then F.code s F.maxc else F.infinity s
    | .rne => F.infinity s
    | .srk => F.infinity s

/-- An exact value rounded once into the format (R45, R47). -/
def FFormat.round (F : FFormat) (r : Rnd) (sat : Bool) (x : Exact) : Nat :=
  if x.m = 0 && !x.sticky then F.code x.s 0
  else
    let c := F.roundMag r x
    if F.maxc < c then F.overflow r x.s sat else F.code x.s c

/-- The product of two exact values. -/
def Exact.mul (a b : Exact) : Exact := { s := a.s != b.s, m := a.m * b.m, e := a.e + b.e }

/-- The value with its sign inverted. -/
def Exact.neg (a : Exact) : Exact := { a with s := !a.s }

/-- Signed mantissa of an exact value at an exponent not above its own. -/
def Exact.at (a : Exact) (e : Int) : Int :=
  let m : Int := (a.m * 2 ^ (a.e - e).toNat : Nat)
  if a.s then -m else m

/-- The sum of two exact values; a zero sum takes the sign IEEE 754-2019 gives for the mode (R37, R156). -/
def Exact.add (md : RMode) (a b : Exact) : Exact :=
  let e := min a.e b.e
  let v := a.at e + b.at e
  if v = 0 then { s := if a.m = 0 && b.m = 0 && a.s == b.s then a.s else md == .rdn, m := 0, e := e }
  else { s := v < 0, m := v.natAbs, e := e }

/-- Integer square root by bits, from bit n - 1 down. -/
def isqrtGo : Nat → Nat → Nat → Nat
  | 0, _, r => r
  | n + 1, v, r =>
    let t := r + 2 ^ n
    isqrtGo n v (if t * t ≤ v then t else r)

/-- Integer square root (floor). -/
def isqrt (v : Nat) : Nat := isqrtGo (Nat.log2 v / 2 + 1) v 0

/-- The quotient of two exact values, the divisor not zero, with 70 or more bits before `sticky`. -/
def Exact.div (a b : Exact) : Exact :=
  let k := Nat.log2 b.m + 72
  let n := a.m * 2 ^ k
  { s := a.s != b.s, m := n / b.m, e := a.e - b.e - (k : Int), sticky := n % b.m != 0 }

/-- The square root of a non-negative exact value. -/
def Exact.sqrt (a : Exact) : Exact :=
  let k : Nat := if (a.e % 2) = 0 then 144 else 145
  let n := a.m * 2 ^ k
  let r := isqrt n
  { s := false, m := r, e := (a.e - (k : Int)) / 2, sticky := r * r != n }

/-- One over the square root of a positive exact value. -/
def Exact.rsqrt (a : Exact) : Exact :=
  let k0 := Nat.log2 a.m + 144
  let k : Nat := if ((a.e + (k0 : Int)) % 2) = 0 then k0 else k0 + 1
  let n : Nat := 2 ^ k
  let r := isqrt (n / a.m)
  { s := false, m := r, e := -((a.e + (k : Int)) / 2), sticky := r * r * a.m != n }

/-- The first NaN of an operand list, quieted (R38). -/
def firstNaN (F : FFormat) (l : List Nat) : Option Nat := (l.find? F.isNaN).map F.quiet

/-- a + b, rounded once (R37, R38). -/
def fpAdd (F : FFormat) (r : Rnd) (sat : Bool) (a b : Nat) : Nat :=
  match firstNaN F [a, b] with
  | some n => n
  | none =>
    if F.isInf a then (if F.isInf b && F.sign a != F.sign b then F.defaultNaN else a)
    else if F.isInf b then b
    else F.round r sat ((F.exact a).add r.mode (F.exact b))

/-- A code with its sign inverted. -/
def fpFlip (F : FFormat) (a : Nat) : Nat := F.code (!F.sign a) (F.mag a)

/-- a - b, rounded once. -/
def fpSub (F : FFormat) (r : Rnd) (sat : Bool) (a b : Nat) : Nat :=
  match firstNaN F [a, b] with
  | some n => n
  | none => fpAdd F r sat a (fpFlip F b)

/-- a × b, rounded once. -/
def fpMul (F : FFormat) (r : Rnd) (sat : Bool) (a b : Nat) : Nat :=
  match firstNaN F [a, b] with
  | some n => n
  | none =>
    if F.isInf a || F.isInf b then
      (if F.isZero a || F.isZero b then F.defaultNaN else F.infinity (F.sign a != F.sign b))
    else F.round r sat ((F.exact a).mul (F.exact b))

/-- a × b + c, or a × b - c when `neg`, rounded once (R156: infinity times zero gives the default NaN unless an
operand is a NaN). -/
def fpFma (F : FFormat) (r : Rnd) (sat neg : Bool) (a b c : Nat) : Nat :=
  match firstNaN F [a, b, c] with
  | some n => n
  | none =>
    let c := if neg then fpFlip F c else c
    let ps := F.sign a != F.sign b
    if F.isInf a || F.isInf b then
      if F.isZero a || F.isZero b then F.defaultNaN
      else if F.isInf c && F.sign c != ps then F.defaultNaN
      else F.infinity ps
    else if F.isInf c then c
    else F.round r sat (((F.exact a).mul (F.exact b)).add r.mode (F.exact c))

/-- a ÷ b, rounded once (R103). -/
def fpDiv (F : FFormat) (r : Rnd) (sat : Bool) (a b : Nat) : Nat :=
  match firstNaN F [a, b] with
  | some n => n
  | none =>
    let s := F.sign a != F.sign b
    if F.isInf a then (if F.isInf b then F.defaultNaN else F.infinity s)
    else if F.isInf b then F.code s 0
    else if F.isZero b then (if F.isZero a then F.defaultNaN else F.infinity s)
    else if F.isZero a then F.code s 0
    else F.round r sat ((F.exact a).div (F.exact b))

/-- The square root, rounded once (R103). -/
def fpSqrt (F : FFormat) (r : Rnd) (sat : Bool) (a : Nat) : Nat :=
  match firstNaN F [a] with
  | some n => n
  | none =>
    if F.isZero a then a
    else if F.sign a then F.defaultNaN
    else if F.isInf a then a
    else F.round r sat (F.exact a).sqrt

/-- One over a, rounded once (R155, R156). -/
def fpRcp (F : FFormat) (r : Rnd) (sat : Bool) (a : Nat) : Nat :=
  match firstNaN F [a] with
  | some n => n
  | none =>
    if F.isZero a then F.infinity (F.sign a)
    else if F.isInf a then F.code (F.sign a) 0
    else F.round r sat ((exactInt 1).div (F.exact a))

/-- One over the square root of a, rounded once (R155, R156). -/
def fpRsq (F : FFormat) (r : Rnd) (sat : Bool) (a : Nat) : Nat :=
  match firstNaN F [a] with
  | some n => n
  | none =>
    if F.isZero a then F.infinity (F.sign a)
    else if F.sign a then F.defaultNaN
    else if F.isInf a then 0
    else F.round r sat (F.exact a).rsqrt

/-- Order key of a code that is not a NaN: negative zero below positive zero (R103). -/
def FFormat.key (F : FFormat) (c : Nat) : Int := if F.sign c then -(F.mag c : Int) - 1 else (F.mag c : Int)

/-- The smaller (R103). -/
def fpMin (F : FFormat) (a b : Nat) : Nat :=
  match firstNaN F [a, b] with
  | some n => n
  | none => if F.key b < F.key a then b else a

/-- The larger (R103). -/
def fpMax (F : FFormat) (a b : Nat) : Nat :=
  match firstNaN F [a, b] with
  | some n => n
  | none => if F.key a < F.key b then b else a

/-- Equal, with the zeros equal and a NaN equal to nothing (R103, R158). -/
def fpEq (F : FFormat) (a b : Nat) : Bool :=
  !F.isNaN a && !F.isNaN b && (F.key a == F.key b || (F.isZero a && F.isZero b))

/-- Less, false for a NaN (R103, R158). -/
def fpLt (F : FFormat) (a b : Nat) : Bool :=
  !F.isNaN a && !F.isNaN b && !(F.isZero a && F.isZero b) && decide (F.key a < F.key b)

/-- Less or equal, false for a NaN (R103, R158). -/
def fpLe (F : FFormat) (a b : Nat) : Bool := fpLt F a b || fpEq F a b

/-- FCLASS's bit (R104). -/
def fpClassBit (F : FFormat) (c : Nat) : Nat :=
  if F.isNaN c then (if c / 2 ^ (F.f - 1) % 2 = 1 then 9 else 8)
  else if F.isInf c then (if F.sign c then 0 else 7)
  else if F.isZero c then (if F.sign c then 3 else 4)
  else if F.mag c < 2 ^ F.f then (if F.sign c then 2 else 5)
  else (if F.sign c then 1 else 6)

/-- The magnitude of an exact value rounded to an integer (R45, R52, R53). -/
def roundIntMag (r : Rnd) (x : Exact) : Nat :=
  if 0 ≤ x.e then x.m * 2 ^ x.e.toNat
  else
    let d := (-x.e).toNat
    let n := x.m / 2 ^ d
    if roundAway r x.s (n % 2 == 1) (x.m % 2 ^ d) d x.sticky then n + 1 else n

/-- An exact value rounded to an integer. -/
def roundInt (r : Rnd) (x : Exact) : Int :=
  let n : Int := (roundIntMag r x : Nat)
  if x.s then -n else n

/-- Least and greatest value of an integer format (R42). -/
def intRange : Fmt → Int × Int
  | .i8 => (-128, 127)
  | .u8 => (0, 255)
  | .i16 => (-32768, 32767)
  | _ => (-2147483648, 2147483647)

/-- Width of an integer format. -/
def intWidth : Fmt → Nat
  | .i8 => 8
  | .u8 => 8
  | .i16 => 16
  | _ => 32

/-- The value of an integer code (R42). -/
def intValue (fm : Fmt) (c : Nat) : Int :=
  match fm with
  | .u8 => (c % 256 : Nat)
  | _ => sintOf (intWidth fm) c

/-- An exact integer as a code of the format: modulo 2^n, or clamped (R43). -/
def intCode (fm : Fmt) (sat : Bool) (v : Int) : Nat :=
  if sat then wrapInt (intWidth fm) (clampInt (intRange fm).1 (intRange fm).2 v) else wrapInt (intWidth fm) v

/-- The indefinite value of an integer format (R53). -/
def intIndefinite (fm : Fmt) : Nat :=
  match fm with
  | .u8 => 0xFF
  | _ => wrapInt (intWidth fm) (intRange fm).1

/-- A floating-point code to an integer format (R53). -/
def fpToInt (F : FFormat) (fm : Fmt) (r : Rnd) (sat : Bool) (c : Nat) : Nat :=
  if F.isNaN c then (if sat then 0 else intIndefinite fm)
  else if F.isInf c then
    (if sat then wrapInt (intWidth fm) (if F.sign c then (intRange fm).1 else (intRange fm).2) else intIndefinite fm)
  else
    let v := roundInt r (F.exact c)
    if sat then intCode fm true v
    else if (intRange fm).1 ≤ v && v ≤ (intRange fm).2 then intCode fm false v else intIndefinite fm

/-- A NaN code of a format as the FP32 NaN it widens to (R50). -/
def nanWiden (F : FFormat) (c : Nat) : Nat :=
  if F.w = 32 then c
  else 0x7FC00000 + (c % 2 ^ F.f) * 2 ^ (22 - F.f) + (if F.sign c then 2 ^ 31 else 0)

/-- An FP32 NaN narrowed to a format with NaNs (R50). -/
def nanNarrow (F : FFormat) (c : Nat) : Nat :=
  match F.inf with
  | none => F.code (f32.sign c) (2 ^ (F.w - 1) - 1)
  | some i =>
    if F.w = 32 then c
    else
      let fr := getField c (22 - F.f) F.f
      F.code (f32.sign c) (i + (if fr = 0 then 2 ^ (F.f - 1) else fr))

/-- Between two floating-point formats: exact widening to FP32, then one narrowing (R48 to R50). The value passes
exactly, so one rounding into the destination gives it. -/
def fpToFp (S D : FFormat) (r : Rnd) (sat : Bool) (c : Nat) : Nat :=
  if S.isNaN c then nanNarrow D (nanWiden S c)
  else if S.isInf c then D.infinity (S.sign c)
  else D.round r sat (S.exact c)

/-- Is the format floating-point without a block? -/
def Fmt.isFloat : Fmt → Bool
  | .fp32 => true
  | .bf16 => true
  | .fp16 => true
  | _ => false

/-- Conversion between two formats without a block (R48 to R50, R53, R162). -/
def convertElem (src dst : Fmt) (r : Rnd) (sat : Bool) (c : Nat) : Nat :=
  match Fmt.isFloat src, Fmt.isFloat dst with
  | true, true => fpToFp (floatFormat src) (floatFormat dst) r sat c
  | true, false => fpToInt (floatFormat src) dst r sat c
  | false, true => (floatFormat dst).round r sat (exactInt (intValue src c))
  | false, false => intCode dst sat (intValue src c)

/-- Rounding of an element to an integral value in its own format (R163). -/
def fpRint (F : FFormat) (r : Rnd) (c : Nat) : Nat :=
  if F.isNaN c then F.quiet c
  else if F.isInf c || F.isZero c then c
  else F.round rne false { s := F.sign c, m := roundIntMag r (F.exact c), e := 0 }

/-- FP32 widening of an element of any floating-point format (R48, R50). -/
def toF32 (fm : Fmt) (c : Nat) : Nat := fpToFp (floatFormat fm) f32 rne false c

/-! ## Blocks -/

/-- Floor of log2 of a finite non-zero magnitude given as an exact value. -/
def Exact.ilog2 (x : Exact) : Int := x.e + (Nat.log2 x.m : Int)

/-- The exact magnitude largest over finite values of a list of FP32 codes: the largest finite magnitude code (R51). -/
def amaxFinite (l : List Nat) : Nat :=
  l.foldl (fun acc c => if f32.isNaN c || f32.isInf c then acc else max acc (f32.mag c)) 0

/-- Bits of an element other than its sign (R50): 7, or 3 for the four-bit formats. -/
def blockK : Fmt → Nat
  | .e2m1 => 3
  | .dx4 => 3
  | _ => 7

/-- Sign of a block format's element code, and its bits other than the sign: for DX the selector followed by the
magnitude (R40, R50). -/
def blockSplit (fm : Fmt) (c : Nat) : Bool × Nat :=
  match fm with
  | .dx8 => (c / 64 % 2 == 1, c / 128 % 2 * 64 + c % 64)
  | .dx4 => (c / 4 % 2 == 1, c / 8 % 2 * 4 + c % 4)
  | _ => (c / 2 ^ blockK fm % 2 == 1, c % 2 ^ blockK fm)

/-- The element code with this sign and these other bits (R40, R50). -/
def blockJoin (fm : Fmt) (s : Bool) (k : Nat) : Nat :=
  match fm with
  | .dx8 => k / 64 % 2 * 128 + (if s then 64 else 0) + k % 64
  | .dx4 => k / 4 % 2 * 8 + (if s then 4 else 0) + k % 4
  | _ => (if s then 2 ^ blockK fm else 0) + k % 2 ^ blockK fm

/-- An element of a block that becomes a NaN block (R50). -/
def nanBlockElem (fm : Fmt) (c : Nat) : Nat :=
  let k := blockK fm
  let hi := getField c (22 - k) k
  if f32.isNaN c then blockJoin fm (f32.sign c) hi else blockJoin fm (f32.sign c) 0

/-- An element of a NaN block widened (R50). -/
def widenNanBlock (fm : Fmt) (c : Nat) : Nat :=
  let p := blockSplit fm c
  0x7FC00000 + p.2 * 2 ^ (22 - blockK fm) + (if p.1 then 2 ^ 31 else 0)

/-- The largest power an MX element format reaches (R51). -/
def mxEmax : Fmt → Int
  | .e4m3 => 8
  | .e5m2 => 15
  | _ => 2

/-- Narrowing FP32 values to an MX block: the scale code and the element codes (R51). -/
def narrowMX (ef : Fmt) (r : Nat → Rnd) (l : List Nat) : Nat × List Nat :=
  let F := floatFormat ef
  if ef == .e2m1 && l.any f32.isNaN then (0xFF, l.map (nanBlockElem ef))
  else
    let am := amaxFinite l
    let x : Int := clampInt (-127) 127 (if am = 0 then 0 else (f32.exact am).ilog2 - mxEmax ef)
    let elem := fun (i c : Nat) =>
      if f32.isNaN c then nanNarrow F c
      else if f32.isInf c then F.infinity (f32.sign c)
      else
        let y := f32.exact c
        F.round (r i) true { y with e := y.e - x }
    ((x + 127).toNat, l.zipIdx.map fun p => elem p.2 p.1)

/-- Fraction and largest magnitude of a DX format (R40, R52). -/
def dxShape : Fmt → Nat × Nat
  | .dx8 => (5, 63)
  | _ => (1, 3)

/-- |v| ÷ grid(e) as an exact non-negative value (R52). -/
def dxScaled (f : Nat) (e : Nat) (x : Exact) : Exact :=
  { s := false, m := x.m, e := x.e - ((e : Int) - 127 - (f : Int)) }

/-- | |v| - c × grid(e) | with the exponent of the finer of the two, as an exact non-negative value (R52). -/
def dxError (f e c : Nat) (x : Exact) : Exact :=
  let g : Exact := { s := true, m := c, e := (e : Int) - 127 - (f : Int) }
  let d := Exact.add .rne { x with s := false } g
  { d with s := false }

/-- Is one exact magnitude less than another? -/
def Exact.magLt (a b : Exact) : Bool :=
  let e := min a.e b.e
  decide (a.m * 2 ^ (a.e - e).toNat < b.m * 2 ^ (b.e - e).toNat)

/-- Narrowing FP32 values to a DX block with offset d: the header (e0 in bits 7:0, e1 in bits 15:8) and the element
codes (R52). A value exact at e0 and at e1 takes e1: R52's tie rule and its worked −6.0 say so, while R54 would return a
selector-0 code of such a value unchanged; R52 is followed (DESIGN CHOICE, log 54). -/
def narrowDX (fm : Fmt) (d : Nat) (r : Nat → Rnd) (l : List Nat) : Nat × List Nat :=
  let f := (dxShape fm).1
  let mmax := (dxShape fm).2
  let k := blockK fm
  let mode := (r 0).mode
  if l.any f32.isNaN then (0xFFFF, l.map (nanBlockElem fm))
  else
    let sm : Rnd := { mode := if mode == .srk then .rup else mode }
    let cm : Rnd := { mode := if mode == .srk then .rne else mode }
    let am := amaxFinite l
    let e1 : Nat :=
      if am = 0 then 0
      else
        let a := f32.exact am
        let e := (clampInt 0 254 (a.ilog2 + 127)).toNat
        if e < 254 && mmax < roundIntMag sm (dxScaled f e a) then e + 1 else e
    let e0 := e1 - d
    let elem := fun (i c : Nat) =>
      let s := if f32.sign c then 2 ^ (k - 1) else 0
      if f32.isInf c then s + 2 ^ k + mmax
      else
        let x := { f32.exact c with s := false }
        let c1 := min (roundIntMag cm (dxScaled f e1 x)) mmax
        let c0 := roundIntMag cm (dxScaled f e0 x)
        let sel0 := c0 ≤ mmax && (dxError f e0 c0 x).magLt (dxError f e1 c1 x)
        let p : Nat × Nat :=
          if mode == .srk then
            let es := if sel0 then e0 else e1
            let m := roundIntMag (r i) (dxScaled f es x)
            if sel0 && mmax < m then (1, roundIntMag (r i) (dxScaled f e1 x)) else (if sel0 then 0 else 1, m)
          else if sel0 then (0, c0) else (1, c1)
        s + p.1 * 2 ^ k + min p.2 mmax
    (e0 + 256 * e1, l.zipIdx.map fun p => elem p.2 p.1)

/-- Is a DX header malformed (R41)? -/
def dxMalformed (fm : Fmt) (hdr : Nat) : Bool :=
  let e0 := hdr % 256
  let e1 := hdr / 256 % 256
  let lim := if fm == .dx8 then 20 else 17
  if e0 = 0xFF || e1 = 0xFF then false else (decide (e1 < e0) || decide (lim < e1 - e0))

/-- Is a block with this header a NaN block (R39, R40)? `hdr` is the scale, or the two exponents. -/
def blockIsNaN (fm : Fmt) (hdr : Nat) : Bool :=
  match fm with
  | .dx8 => hdr % 256 == 0xFF || hdr / 256 % 256 == 0xFF
  | .dx4 => hdr % 256 == 0xFF || hdr / 256 % 256 == 0xFF
  | _ => hdr % 256 == 0xFF

/-- The exact value of an element of a DX block that is not a NaN block (R40). -/
def dxExact (fm : Fmt) (hdr c : Nat) : Exact :=
  let k := blockK fm
  let f := (dxShape fm).1
  let sel := c / 2 ^ k % 2
  let ex : Nat := if sel = 1 then hdr / 256 % 256 else hdr % 256
  { s := c / 2 ^ (k - 1) % 2 == 1, m := c % 2 ^ (k - 1), e := (ex : Int) - 127 - (f : Int) }

/-- An element of a block widened to FP32 with its header applied (R48, R50). -/
def widenBlockElem (fm : Fmt) (hdr c : Nat) : Nat :=
  if blockIsNaN fm hdr then widenNanBlock fm c
  else
    match fm with
    | .dx8 => f32.round rne false (dxExact fm hdr c)
    | .dx4 => f32.round rne false (dxExact fm hdr c)
    | _ =>
      let F := floatFormat fm
      if F.isNaN c then nanWiden F c
      else if F.isInf c then f32.infinity (F.sign c)
      else
        let x := F.exact c
        f32.round rne false { x with e := x.e + (hdr % 256 : Nat) - 127 }

/-! ## Sums -/

/-- One level of a pairwise tree. -/
def pairLevel (op : Nat → Nat → Nat) : List Nat → List Nat
  | a :: b :: l => op a b :: pairLevel op l
  | l => l

/-- `n` levels of a pairwise tree (R59, R161). -/
def pairTree (op : Nat → Nat → Nat) : Nat → List Nat → List Nat
  | 0, l => l
  | n + 1, l => pairTree op n (pairLevel op l)

end Sys2Proof.Machine
end

