-- ==== Sys2Proof/WellFormed.lean ====
section
/-! DEFINITION. Which instruction terms the encoding admits: the values that the manual marks reserved, and the
field combinations it forbids, stated on the structured instruction (R33, R44, R68 to R73 and each chapter). Events
carry no encoding and are well formed. -/

namespace Sys2Proof

/-- The code of a format (R33). -/
def Fmt.code : Fmt → Nat
  | .fp32 => 0 | .bf16 => 1 | .fp16 => 2 | .i32 => 3 | .i16 => 4 | .i8 => 5 | .u8 => 6
  | .e4m3 => 7 | .e5m2 => 8 | .e2m1 => 9 | .dx8 => 10 | .dx4 => 11

/-- Element bits of a format (R33). -/
def Fmt.width : Fmt → Nat
  | .fp32 => 32 | .bf16 => 16 | .fp16 => 16 | .i32 => 32 | .i16 => 16 | .i8 => 8 | .u8 => 8
  | .e4m3 => 8 | .e5m2 => 8 | .e2m1 => 4 | .dx8 => 8 | .dx4 => 4

/-- FP32, BF16 or FP16 (R155). -/
def Fmt.isFp : Fmt → Bool
  | .fp32 | .bf16 | .fp16 => true
  | _ => false

/-- INT32, INT16, INT8 or UINT8 (R157). -/
def Fmt.isInt : Fmt → Bool
  | .i32 | .i16 | .i8 | .u8 => true
  | _ => false

/-- A signed integer format (R157). -/
def Fmt.isSint : Fmt → Bool
  | .i32 | .i16 | .i8 => true
  | _ => false

/-- A format without blocks, codes 0x0 to 0x6, the ones that vector instructions take (R153). -/
def Fmt.isPlain (f : Fmt) : Bool := f.isFp || f.isInt

/-- A destination operand: a tile row or a port (R71). -/
def VOp.isDest : VOp → Bool
  | .tile _ _ | .port _ => true
  | _ => false

/-- Is the row field of an operand zero (R167)? -/
def VOp.firstRow : VOp → Bool
  | .tile _ r => r == 0
  | _ => true

/-- A source operand in format f: the lane-index row only in INT32 and FP32 (R150). -/
def VOp.srcOk (o : VOp) (f : Fmt) : Bool :=
  match o with
  | .lidx => f == .i32 || f == .fp32
  | _ => true

/-- xs is x0 unless an operand broadcasts it (R71, R153). -/
def VCtl.xsOk (c : VCtl) (srcs : List VOp) : Bool := c.xs == 0 || srcs.contains .bcast

/-- The checks common to a vector form that neither rounds nor saturates. -/
def VCtl.plain (c : VCtl) : Bool := c.rnd == .rne && !c.sat

/-- An element-wise form: an accepted format, a destination, readable sources and a used broadcast register. -/
def vecOk (c : VCtl) (fmtOk : Bool) (od : VOp) (srcs : List VOp) : Bool :=
  fmtOk && od.isDest && srcs.all (fun o => o.srcOk c.fmt) && c.xsOk srcs

/-- A comparison: `sub` selects one element of a position (R158). -/
def cmpOk (c : VCtl) (fmtOk : Bool) (srcs : List VOp) (sub : Fin 4) : Bool :=
  fmtOk && c.plain && srcs.all (fun o => o.srcOk c.fmt) && c.xsOk srcs && sub.val < 32 / c.fmt.width

/-- The shared fields of an engine command that queues (R72): an operand base of at most x28, and the semaphore
fields zero where they are not used. -/
def ECtl.ok (e : ECtl) : Bool :=
  e.xa.val ≤ 28 && (e.wx != 0 || e.wsem == 0) && (e.sinc != 0 || e.ssem == 0)

/-- The conversion formats of VCVT (R162): two different plain formats whose widths do not differ by a factor of
four, and part 1 only where they differ. -/
def vcvtOk (dst src : Fmt) (part : Bool) : Bool :=
  dst.isPlain && src.isPlain && dst != src
    && !(dst.width == 4 * src.width) && !(src.width == 4 * dst.width)
    && (!part || dst.width != src.width)

/-- QSCL's target formats (R232). -/
def qsclFmt : Fmt → Bool
  | .bf16 | .fp16 | .i16 | .i8 | .u8 | .e4m3 | .e5m2 | .e2m1 => true
  | _ => false

/-- A block format, codes 0x7 to 0xB (R33). -/
def Fmt.isBlock (f : Fmt) : Bool := !f.isPlain

/-- CLRED's output formats (R358). -/
def clredFmt : Fmt → Bool
  | .i32 | .i16 | .i8 | .u8 => false
  | _ => true

/-- The instruction is one that the encoding admits. -/
def Instr.wf : Instr → Bool
  | .bfx _ _ pos wm1 => pos.val + wm1.val + 1 ≤ 64
  | .bfi _ _ pos wm1 => pos.val + wm1.val + 1 ≤ 64
  | .loop _ xa trip _ => xa == 0 || trip == 0
  | .segend _ count => 1 ≤ count.toNat && count.toNat ≤ 2 ^ 20
  | .srel mask => mask != 0
  | .sacq mask => mask != 0
  | .vadd c od oa ob => vecOk c c.fmt.isFp od [oa, ob]
  | .vsub c od oa ob => vecOk c c.fmt.isFp od [oa, ob]
  | .vmul c od oa ob => vecOk c c.fmt.isFp od [oa, ob]
  | .vfma c od oa ob oc => vecOk c c.fmt.isFp od [oa, ob, oc]
  | .vfms c od oa ob oc => vecOk c c.fmt.isFp od [oa, ob, oc]
  | .vmin c od oa ob => vecOk c c.fmt.isFp od [oa, ob] && c.plain
  | .vmax c od oa ob => vecOk c c.fmt.isFp od [oa, ob] && c.plain
  | .vabs c od oa => vecOk c c.fmt.isFp od [oa] && c.plain
  | .vneg c od oa => vecOk c c.fmt.isFp od [oa] && c.plain
  | .vdiv c od oa ob => vecOk c c.fmt.isFp od [oa, ob]
  | .vsqrt c od oa => vecOk c c.fmt.isFp od [oa]
  | .vrcp c od oa => vecOk c c.fmt.isFp od [oa]
  | .vrsq c od oa => vecOk c c.fmt.isFp od [oa]
  | .viadd c od oa ob => vecOk c c.fmt.isInt od [oa, ob] && c.rnd == .rne
  | .visub c od oa ob => vecOk c c.fmt.isInt od [oa, ob] && c.rnd == .rne
  | .vimul c od oa ob => vecOk c c.fmt.isInt od [oa, ob] && c.rnd == .rne
  | .vimin c od oa ob => vecOk c c.fmt.isInt od [oa, ob] && c.plain
  | .vimax c od oa ob => vecOk c c.fmt.isInt od [oa, ob] && c.plain
  | .vand c od oa ob => vecOk c c.fmt.isPlain od [oa, ob] && c.plain
  | .vor c od oa ob => vecOk c c.fmt.isPlain od [oa, ob] && c.plain
  | .vxor c od oa ob => vecOk c c.fmt.isPlain od [oa, ob] && c.plain
  | .vshl c od oa ob => vecOk c c.fmt.isInt od [oa, ob] && c.plain
  | .vshr c od oa ob => vecOk c c.fmt.isInt od [oa, ob] && c.plain
  | .vsra c od oa ob => vecOk c c.fmt.isSint od [oa, ob] && c.plain
  | .vimad c od oa ob oc => vecOk c c.fmt.isInt od [oa, ob, oc] && c.rnd == .rne
  | .vceq c _ oa ob k => cmpOk c c.fmt.isFp [oa, ob] k
  | .vcne c _ oa ob k => cmpOk c c.fmt.isFp [oa, ob] k
  | .vclt c _ oa ob k => cmpOk c c.fmt.isFp [oa, ob] k
  | .vcle c _ oa ob k => cmpOk c c.fmt.isFp [oa, ob] k
  | .vcun c _ oa ob k => cmpOk c c.fmt.isFp [oa, ob] k
  | .viclt c _ oa ob k => cmpOk c c.fmt.isSint [oa, ob] k
  | .vicltu c _ oa ob k => cmpOk c c.fmt.isInt [oa, ob] k
  | .viceq c _ oa ob k => cmpOk c c.fmt.isInt [oa, ob] k
  | .vsel c od oa ob => vecOk c c.fmt.isPlain od [oa, ob] && c.plain
  | .vmov c od oa => vecOk c (c.fmt == .fp32) od [oa] && c.plain
  | .vlane c od oa => vecOk c c.fmt.isPlain od [oa, .bcast] && c.plain
  | .vperm c od oa ob => vecOk c (c.fmt == .fp32 || c.fmt == .i32) od [oa, ob] && c.plain
  | .vrot c od oa => vecOk c c.fmt.isPlain od [oa, .bcast] && c.plain
  | .viota c od => vecOk c (c.fmt == .i32) od [.bcast] && c.plain
  | .vradd c od oa => vecOk c c.fmt.isFp od [oa] && c.rnd != .srk
  | .vrmax c od oa => vecOk c c.fmt.isPlain od [oa] && c.plain
  | .vrmin c od oa => vecOk c c.fmt.isPlain od [oa] && c.plain
  | .vamax c od oa => vecOk c c.fmt.isFp od [oa] && c.plain
  | .vcvt c od oa src part => vcvtOk c.fmt src part && od.isDest && oa.srcOk src && c.xsOk [oa]
  | .vrint c od oa => vecOk c c.fmt.isFp od [oa] && !c.sat
  | .vrng c od => vecOk c (c.fmt == .fp32 || c.fmt == .i32) od [.bcast] && c.plain && c.xs.val % 2 == 0
  | .mpop od _ => od.isDest && od.firstRow
  | .tzero _ row whole _ _ => !whole || row == 0
  | .mxcfg xa _ => xa.val ≤ 28
  | .ftset xa _ => xa.val ≤ 28
  | .tolset xa _ => xa.val ≤ 28
  | .mxgo e _ _ _ _ _ => e.ok
  | .mxldb e _ _ => e.ok
  | .accz e a0 a1 => e.ok && e.xa == 0 && (a0 || a1)
  | .accdr e _ _ _ => e.ok && e.sinc != 0
  | .mxabn a d => a || d
  | .cvt e dfmt _ _ _ bcol _ _ tns inv =>
      e.ok && (!bcol || dfmt.isBlock) && (!inv || tns)
  | .qamax e _ _ _ => e.ok
  | .qscl e tfmt _ _ => e.ok && qsclFmt tfmt
  | .trn e _ => e.ok
  | .tbld e _ => e.ok
  | .tbev e _ ifmt ofmt _ _ tile => e.ok && ifmt.isFp && ofmt.isFp && (tile || ifmt.width == ofmt.width)
  | .gsum e fmt bcol => e.ok && (!bcol || fmt.isBlock)
  | .gver e => e.ok
  | .cpl e => e.ok
  | .cpc e => e.ok
  | .cph e => e.ok
  | .cpv e => e.ok
  | .cpabn e _ => e.ok
  | .tsend e => e.ok
  | .trecv e => e.ok
  | .clred e ofmt rnd _ => e.ok && clredFmt ofmt && rnd != .srk
  | .clgath e => e.ok
  | .clbcst e => e.ok
  | .atom e op kind _ => e.ok && (kind != .sem || op == .add)
  | .pbind _ _ lane stn _ _ => lane.num.val < 6 && stn != 0 && stn != 5 && stn != 7
  | .lmov src lane dst _ => lane.num.val < 6 && src != dst
  | .pstat q _ n => (n.val ≤ 5 || 16 ≤ n.val) && (n.val < 4 || q == 0)
  | .halt _ => true
  | _ => true

end Sys2Proof
end

