-- ==== Sys2Proof/Machine/Operands.lean ====
section
/-! DEFINITION. Operand forms: the walk of a port, its pops and pushes, lane paths, and what a vector operand code
supplies and receives (R150, R151, R176 to R179). -/

namespace Sys2Proof.Machine

/-! ## Paths -/

/-- Segments that a path crosses (R176). -/
def segsOf (ccw : Bool) (a hops : Nat) : BitVec 16 :=
  (List.range hops).foldl (fun m i =>
    m ||| (1#16 <<< (if ccw then (a + 16 - 1 - i) % 16 else (a + i) % 16))) 0

/-- Do two occupancies of one lane meet in a cycle (R176)? -/
def LaneUse.meets (u v : LaneUse) : Bool :=
  u.lane == v.lane && (u.segs &&& v.segs) != 0 &&
    (match u.until_ with
      | some e => decide (v.from_ ≤ e)
      | none => true) &&
    (match v.until_ with
      | some e => decide (u.from_ ≤ e)
      | none => true)

/-- Is the lane reserved (R17)? -/
def laneReserved (l : LaneRef) : Bool := l.num = 0 || l.num.val ≥ 5

/-- A lane-conflict fault (R137). -/
def laneFault (l : LaneRef) : TrapReq :=
  { cls := 5, cause := 0x06, code := 0, detail := BitVec.ofNat 40 ((if l.ccw then 1 else 0) + 2 * l.num.val) }

/-- A sector-port fault (R137). -/
def sectorFault (sec : Fin 8) : TrapReq := { cls := 5, cause := 0x07, code := 0, detail := BitVec.ofNat 40 sec.val }

/-- A set-overlap fault (R137, R192). -/
def overlapFault (idx : Nat) : TrapReq := { cls := 5, cause := 0x09, code := 0, detail := BitVec.ofNat 40 idx }

/-- A local-address fault (R137). -/
def localFault (a : Nat) : TrapReq := { cls := 5, cause := 0x0A, code := 0, detail := BitVec.ofNat 40 a }

/-- A local-address fault for a sector that user code does not hold: its base address (R194). A row of sec7's supervisor part
is not told apart: R193 puts those rows outside ownership and R194 tests the sector (DESIGN CHOICE, log 52). -/
def State.secFault (s : State) (sec : Fin 8) : Option TrapReq :=
  trapIf (s.seq.mode == .user && !s.holds sec) (localFault (sec.val * Config.sectorBytes))

/-- The fault of claiming one access for the sequencer's bundle: ports of the sector, then ranges (R173, R192). -/
def State.claimFault (s : State) (sec : Fin 8) (row cyc : Nat) (write : Bool) (stn : Nat) : Option TrapReq :=
  if !s.claimOk sec cyc write then some (sectorFault sec)
  else if s.seq.mode == .supervisor then none
  else (s.rangeBreak write sec row stn).map overlapFault

/-! ## Ports -/

/-- Rows of a port's walk (R177). -/
def PortState.total (p : PortState) : Nat := p.lvls.toList.foldl (fun n l => n * l.count) p.esz

/-- Rows kept ahead by a read port (R178). -/
def PortState.depth (p : PortState) : Nat := p.hops + 2

/-- The strides' part of walk row k: `j` is the element number (R177). -/
def walkOff : Nat → List Level → Int
  | _, [] => 0
  | j, l :: ls => ((j % l.count : Nat) : Int) * l.stride + walkOff (j / l.count) ls

/-- Row k of the walk (R177). -/
def PortState.walkRow (p : PortState) (k : Nat) : Nat :=
  (((p.base.val + k % p.esz : Nat) : Int) + walkOff (k / p.esz) p.lvls.toList).emod 512 |>.toNat

/-- Change a port. -/
def State.onPort (q : Fin 8) (f : PortState → PortState) (s : State) : State :=
  s.onAnn fun a => { a with ports := a.ports.set q (f a.ports[q]) }

/-- A schedule fault of a port: detail 5 (R137). -/
def portFault (q : Fin 8) : TrapReq := schedFault 5 q.val

/-- Sequence-tag field of a row by the header layout (R203). -/
def rowTag (r : Row) : BitVec 16 := BitVec.extractLsb' 16 16 r

/-- A row with its sequence-tag field replaced (R185). -/
def setRowTag (t : BitVec 16) (r : Row) : Row := BitVec.ofNat 4096 (setField r.toNat 16 16 t.toNat)

/-- The fault of popping a port's next row for a station at the cycle in hand (R151, R177, R178, R184, R194). -/
def State.popFault (s : State) (q : Fin 8) (stn : Fin 8) : Option TrapReq :=
  let p := s.ann.ports[q]
  if !p.bound || p.wr || p.stn ≠ stn || p.total ≤ p.k then some (portFault q)
  else match p.rows with
    | [] => some (portFault q)
    | (u, r) :: _ =>
      if s.now < u then some (portFault q)
      else if p.arm == .ptag && rowTag r ≠ p.tag then some (schedFault 6 q.val)
      else if p.k + p.depth < p.total then
        match s.secFault p.sec with
        | some t => some t
        | none => s.claimFault p.sec (p.walkRow (p.k + p.depth)) (s.now + 1) false stn.val
      else none

/-- The row that the next pop returns. -/
def State.popRow (s : State) (q : Fin 8) : Row :=
  match s.ann.ports[q].rows with
  | [] => 0
  | (_, r) :: _ => r

/-- A pop's effect: the row goes, the port is disarmed, and the row D places on is read in the next cycle (R178). -/
def State.pop (q : Fin 8) (s : State) : State :=
  let p := s.ann.ports[q]
  let t := s.onPort q fun p => { p with rows := p.rows.drop 1, k := p.k + 1, arm := if p.arm == .ptag then .none else p.arm }
  if p.k + p.depth < p.total then
    (t.claim p.sec (s.now + 1) false (.port q)).plan (s.now + 1) rankRead (.ev (.portPrefetchRead q))
  else t

/-- Pushes that bundles have made to a port and that have not reached it. -/
def State.pushesMade (s : State) (q : Fin 8) (gen : Nat) : Nat :=
  (s.seq.writes.filter fun w => match w.dest with
    | .push q' g _ _ => q' = q && g = gen
    | _ => false).length

/-- Rows that bundles have pushed to a port, the ones on their way to it with them (R177). -/
def State.pushNumber (s : State) (q : Fin 8) : Nat := (s.ann.ports[q]).k + s.pushesMade q (s.ann.ports[q]).gen

/-- The fault of pushing a row that reaches the port in cycle `cyc` (R151, R177, R179, R192). The bundle's range check takes the
walk row that the pushes made so far give the row; one that fails its check later moves the rows behind it up by one
(DESIGN CHOICE, log 61). -/
def State.pushFault (s : State) (q : Fin 8) (stn : Fin 8) (cyc : Nat) : Option TrapReq :=
  let p := s.ann.ports[q]
  let k := s.pushNumber q
  if !p.bound || !p.wr || p.stn ≠ stn || p.total ≤ k then some (portFault q)
  else match s.secFault p.sec with
    | some t => some t
    | none => s.claimFault p.sec (p.walkRow k) (cyc + p.hops) true stn.val

/-- A pushed row reaches its port, which takes it as push k and sends it to walk row k: stamped if armed, on its lane until
p + hops (R177, R179, R185). A row whose bundle issued before a PRST counts as pushed before it and lands, unstamped, the armed
mode being cleared (R183; log 51). The unbound port's own k stays 0: the spec names none (DESIGN CHOICE, log 62). -/
def State.arrivePush (q : Fin 8) (gen : Nat) (r : Row) (cols : BitVec 128) (s : State) : State :=
  match s.portGen q gen with
  | none => s
  | some p =>
    let r := if p.arm == .pstamp then setRowTag p.tag r else r
    let step := fun (p : PortState) => { p with k := p.k + 1, arm := if p.arm == .pstamp then .none else p.arm }
    let t := s.onAnn fun a => { a with
      ports := if a.ports[q].gen = gen && a.ports[q].bound then a.ports.set q (step a.ports[q]) else a.ports,
      drained := a.drained.map fun d => if d.gen = gen then step d else d,
      pushes := a.pushes ++ [{ at_ := s.now + p.hops, q := q, gen := gen, sec := p.sec, row := p.walkRow p.k,
                               data := r, cols := cols }] }
    t.plan (s.now + p.hops) rankWrite (.ev (.portPushLand q))

/-- Prefetch restarts from row k with f the cycle in hand (R178): the reads of the first rows are set. -/
def State.startPrefetch (q : Fin 8) (s : State) : State :=
  let p := s.ann.ports[q]
  let t := (s.unclaimReads q (s.now + 1)).onPort q fun p => { p with rows := [], nread := p.k }
  let t := { t with agenda := t.agenda.filter fun d => d.act != .ev (.portPrefetchRead q) }
  (List.range (min p.depth (p.total - p.k))).foldl (fun u i =>
    (u.claim p.sec (s.now + 1 + i) false (.port q)).plan (s.now + 1 + i) rankRead (.ev (.portPrefetchRead q))) t

/-- The first fault of the claims that a restarted prefetch makes (R173, R178), the port's old claims given up. With no row left
to read the bundle accesses none of the sector's rows (R194). -/
def State.prefetchFault (s : State) (p : PortState) : Option TrapReq :=
  if p.total ≤ p.k then none
  else match s.secFault p.sec with
  | some t => some t
  | none => firstTrap ((List.range (min p.depth (p.total - p.k))).map fun i =>
      s.claimFault p.sec (p.walkRow (p.k + i)) (s.now + 1 + i) false p.stn.val)

/-- Rows pushed to a binding and not yet landed: the cycle of the last landing, if any (R183). -/
def State.lastLanding (s : State) (p : PortState) : Option Nat :=
  let onLane := (s.ann.pushes.filter fun u => u.gen = p.gen).map (·.at_)
  let onWay := s.seq.writes.filterMap fun w => match w.dest with
    | .push _ g _ _ => if g = p.gen then some (w.due + p.hops) else none
    | _ => none
  match onLane ++ onWay with
  | [] => none
  | x :: l => some (l.foldl max x)

/-- PRST's effect on a bound port (R183). -/
def State.unbind (q : Fin 8) (s : State) : State :=
  let p := s.ann.ports[q]
  let last := if p.wr then s.lastLanding p else none
  let t := { s with agenda := s.agenda.filter fun d => d.act != Act.ev (.portPrefetchRead q) }
  let t := if p.wr then t else t.unclaimReads q (s.now + 1)
  t.onAnn fun a => { a with
    ports := a.ports.set q { PortState.reset with gen := p.gen },
    drained := if last.isSome then a.drained ++ [{ p with arm := .none, tag := 0 }] else a.drained,
    lanes := a.lanes.map fun (u : LaneUse) => if u.gen = p.gen then { u with until_ := some (last.getD s.now) } else u }

/-- PRST on a port; an unbound one is not affected (R183). -/
def State.resetPort (q : Fin 8) (s : State) : State := if s.ann.ports[q].bound then s.unbind q else s

/-! ## Vector operands -/

/-- Number of a tile row among the 128 (R78). -/
def tileIdx (t : Fin 8) (row : Fin 16) : Fin 128 := ⟨t.val * 16 + row.val, by omega⟩

/-- FP32 code of a small natural number. -/
def f32OfNat (n : Nat) : Nat := f32.round rne false (exactInt n)

/-- The lane-index row in a format (R150). -/
def lidxRow (fm : Fmt) : Row :=
  rowOfElems 32 ((List.range 128).map fun e => if fm == .fp32 then f32OfNat e else e)

/-- The fault of reading a source operand (R77, R150, R151). -/
def State.srcFault (s : State) (c : VCtl) (o : VOp) : Option TrapReq :=
  match o with
  | .tile t row => s.readFault (.tile (tileIdx t row))
  | .port q => s.popFault q 1
  | .bcast => s.rdX c.xs
  | .zero => none
  | .lidx => none

/-- The row that a source operand supplies in a format (R150). -/
def State.srcRow (s : State) (c : VCtl) (fm : Fmt) (o : VOp) : Row :=
  match o with
  | .tile t row => s.seq.tiles[tileIdx t row]
  | .port q => s.popRow q
  | .bcast => rowFill fm.width (s.x c.xs).toNat
  | .zero => 0
  | .lidx => lidxRow fm

/-- Pops of the source operands that are ports (R151). -/
def State.popSrc (o : VOp) (s : State) : State :=
  match o with
  | .port q => s.pop q
  | _ => s

/-- Does one port stand in two operand fields (R151)? -/
def dupPort : List VOp → Option (Fin 8)
  | [] => none
  | .port q :: l => if l.contains (.port q) then some q else dupPort l
  | _ :: l => dupPort l

/-- The fault of writing a destination operand after `lat` cycles. -/
def State.dstFault (s : State) (o : VOp) (lat : Nat) : Option TrapReq :=
  match o with
  | .tile t row => s.writeFault (.tile (tileIdx t row))
  | .port q => s.pushFault q 1 (s.now + lat)
  | _ => none

/-- A vector result put in flight: a tile row blended under the active positions, or a row pushed (R151, R152). -/
def State.putRow (o : VOp) (cols : BitVec 128) (r : Row) (lat : Nat) (s : State) : State :=
  match o with
  | .tile t row => s.enqueue (.tile (tileIdx t row) (blend cols r s.seq.tiles[tileIdx t row])) lat false
  | .port q =>
    let p := s.ann.ports[q]
    (s.enqueue (.push q p.gen r cols) lat false).claim p.sec (s.now + lat + p.hops) true (.port q)
  | _ => s

end Sys2Proof.Machine
end

