-- ==== Sys2Proof/Machine/Scalar.lean ====
section
/-! DEFINITION. The scalar instructions of 04_scalar but FP32 and system access: integer register and immediate
forms, bitfields, local loads and stores (R93 to R101). -/

namespace Sys2Proof.Machine

/-! ## Shared operations -/

/-- A result of two registers, put in flight (R61, R77, R95). -/
def srOp (lat : Nat) (residue : Bool) (f : Word → Word → Word) (xd xa xb : Reg) (s : State) : State :=
  s.guarded [s.rdX xa, s.rdX xb, s.wrX xd] (State.putX xd (f (s.x xa) (s.x xb)) lat residue)

/-- A result of one register, put in flight. -/
def srOp1 (lat : Nat) (residue : Bool) (f : Word → Word) (xd xa : Reg) (s : State) : State :=
  s.guarded [s.rdX xa, s.wrX xd] (State.putX xd (f (s.x xa)) lat residue)

/-- The 46-bit immediate sign-extended (R97). -/
def sext46 (imm : BitVec 46) : Word := imm.signExtend 64

/-- Shift amount xb[5:0] (R95). -/
def shamt (v : Word) : Nat := v.toNat % 64

/-- Quotient and remainder by R96. -/
def divRem (signed : Bool) (a b : Word) : Word × Word :=
  if b = 0 then (BitVec.allOnes 64, a)
  else if signed then
    if a = 0x8000000000000000#64 && b = BitVec.allOnes 64 then (0x8000000000000000#64, 0)
    else (BitVec.ofInt 64 (a.toInt.tdiv b.toInt), BitVec.ofInt 64 (a.toInt.tmod b.toInt))
  else (BitVec.ofNat 64 (a.toNat / b.toNat), BitVec.ofNat 64 (a.toNat % b.toNat))

/-- High half of the signed product (R95). -/
def mulhWord (a b : Word) : Word := BitVec.ofInt 64 ((a.toInt * b.toInt) / (2 ^ 64 : Int))

/-- High half of the unsigned product (R95). -/
def mulhuWord (a b : Word) : Word := BitVec.ofNat 64 (a.toNat * b.toNat / 2 ^ 64)

/-- Number of leading zero bits (R95). -/
def clzWord (a : Word) : Word := if a = 0 then 64 else BitVec.ofNat 64 (63 - Nat.log2 a.toNat)

/-- Number of trailing zero bits (R95). -/
def ctzWord (a : Word) : Word := BitVec.ofNat 64 (lowestSet 64 a.toNat)

/-- Number of one bits (R95). -/
def popcWord (a : Word) : Word := BitVec.ofNat 64 (((List.range 64).filter fun i => a.getLsbD i).length)

/-- Bits pos + wm1 : pos, zero-extended (R97). -/
def bfxWord (pos wm1 : Nat) (a : Word) : Word := BitVec.ofNat 64 (getField a.toNat pos (wm1 + 1))

/-- Bits pos + wm1 : pos of `d` replaced by the low bits of `a` (R97). -/
def bfiWord (pos wm1 : Nat) (d a : Word) : Word := BitVec.ofNat 64 (setField d.toNat pos (wm1 + 1) a.toNat)

/-! ## Local loads and stores (R99 to R101) -/

/-- The sector of a local address. -/
def secOf (a : Nat) : Fin 8 := ⟨a / Config.sectorBytes % 8, Nat.mod_lt _ (by decide)⟩

/-- The row of a local address in its sector. -/
def rowOf (a : Nat) : Nat := a / 512 % 512

/-- The trap of a local access of n bytes at address a by the operation with opcode `op`: the first that fires in the order of R100,
then ownership (R194), the sector's ports and the range registers (R101). -/
def State.localTrap (s : State) (op a n : Nat) (write : Bool) : Option TrapReq :=
  List.findSome? id [
    trapIf (decide (0x1FFFFF - (n - 1) < a)) (localFault a),
    trapIf (a % n ≠ 0) { cls := 5, cause := 0x0B, code := 0, detail := BitVec.ofNat 40 a },
    trapIf (s.seq.mode == .user && Config.saveBase ≤ a) (privTrap op),
    trapIf (s.seq.mode == .user && !s.holds (secOf a)) (localFault a),
    s.claimFault (secOf a) (rowOf a) (s.now + 1) write 7]

/-- Bytes of the sectors with the stores of this bundle's earlier slots in place (R101). -/
def State.localBytes (s : State) (a n : Nat) : Nat :=
  (s.seq.stores.foldl (fun m w => m.write w.addr w.bytes) s.ann.mem).readNat a n

/-- A loaded value: a poisoned word reads as all ones (R175). -/
def State.loadNat (s : State) (a n : Nat) : Nat :=
  if s.ann.poison.contains (a / 8) && !(s.seq.stores.any fun w => w.addr / 8 = a / 8 && w.bytes.length = 8)
  then 2 ^ (8 * n) - 1 else s.localBytes a n

/-- The counters after a load from an address: a word that a store of this bundle has mended reads as neither corrected nor
poisoned (R101, R175). -/
def State.countLoad (a : Nat) (s : State) : State :=
  if s.seq.stores.any fun w => w.addr / 8 = a / 8 && (w.bytes.length = 8 || !s.ann.poison.contains (a / 8)) then s
  else s.countEcc (a / 8) 1

/-- A load of n bytes, extended by sign or by zeros (R100). -/
def loadOp (op n : Nat) (signed : Bool) (xd xa : Reg) (imm : BitVec 46) (s : State) : State :=
  let a := (s.x xa + sext46 imm).toNat
  s.guarded [s.rdX xa, s.wrX xd, valueTrap [s.rdX xa] (s.localTrap op a n false)] fun s =>
    let v := s.loadNat a n
    let w : Word := if signed then BitVec.ofInt 64 (sintOf (8 * n) v) else BitVec.ofNat 64 v
    ((s.countLoad a).claim (secOf a) (s.now + 1) false .seq).putX xd w 4 false

/-- A store of n bytes of register xd (R100); it reaches its sector in the next cycle (R101). -/
def storeOp (op n : Nat) (xd xa : Reg) (imm : BitVec 46) (s : State) : State :=
  let a := (s.x xa + sext46 imm).toNat
  s.guarded [s.rdX xa, s.rdX xd, valueTrap [s.rdX xa] (s.localTrap op a n true)] fun s =>
    ((s.claim (secOf a) (s.now + 1) true .seq).plan (s.now + 1) rankStore (.micro .storeLand)).onSeq fun q =>
      { q with stores := q.stores ++
        [{ addr := a, bytes := bytesOf n (s.x xd).toNat, due := s.now + 1, baddr := q.pc, slot := q.slot }] }

/-- A store in flight reaches its sector (R101); its old bytes are kept for the readers that it is not ordered before
(R316). -/
def State.landStore (w : PendingStore) (s : State) : State :=
  let old := (List.range w.bytes.length).map fun k =>
    ({ store := 8 * w.due + w.slot.val, addr := w.addr + k, old := s.ann.mem.get (w.addr + k), fenced := none } : OldByte)
  (s.writeLocal w.addr w.bytes).onAnn fun a => { a with unfenced := s.ann.unfenced ++ old }

/-! ## Register forms (R95, R96) -/

/-- NOP: nothing (R60). -/
def execNop (s : State) : Out := .next s

/-- ADD: xa + xb (R95). -/
def execAdd (xd xa xb : Reg) (s : State) : Out := .next (srOp 1 true (fun a b => a + b) xd xa xb s)

/-- SUB: xa - xb (R95). -/
def execSub (xd xa xb : Reg) (s : State) : Out := .next (srOp 1 true (fun a b => a - b) xd xa xb s)

/-- AND (R95). -/
def execAnd (xd xa xb : Reg) (s : State) : Out := .next (srOp 1 false (fun a b => a &&& b) xd xa xb s)

/-- OR (R95). -/
def execOr (xd xa xb : Reg) (s : State) : Out := .next (srOp 1 false (fun a b => a ||| b) xd xa xb s)

/-- XOR (R95). -/
def execXor (xd xa xb : Reg) (s : State) : Out := .next (srOp 1 false (fun a b => a ^^^ b) xd xa xb s)

/-- ANDN: xa AND NOT xb (R95). -/
def execAndn (xd xa xb : Reg) (s : State) : Out := .next (srOp 1 false (fun a b => a &&& ~~~b) xd xa xb s)

/-- SHL (R95). -/
def execShl (xd xa xb : Reg) (s : State) : Out := .next (srOp 1 false (fun a b => a <<< shamt b) xd xa xb s)

/-- SHR (R95). -/
def execShr (xd xa xb : Reg) (s : State) : Out := .next (srOp 1 false (fun a b => a >>> shamt b) xd xa xb s)

/-- SRA (R95). -/
def execSra (xd xa xb : Reg) (s : State) : Out := .next (srOp 1 false (fun a b => a.sshiftRight (shamt b)) xd xa xb s)

/-- ROTL (R95). -/
def execRotl (xd xa xb : Reg) (s : State) : Out := .next (srOp 1 false (fun a b => rotl64 a (shamt b)) xd xa xb s)

/-- MUL: bits 63:0 of the product (R95). -/
def execMul (xd xa xb : Reg) (s : State) : Out := .next (srOp 3 true (fun a b => a * b) xd xa xb s)

/-- MULH (R95). -/
def execMulh (xd xa xb : Reg) (s : State) : Out := .next (srOp 3 true (mulhWord) xd xa xb s)

/-- MULHU (R95). -/
def execMulhu (xd xa xb : Reg) (s : State) : Out := .next (srOp 3 true (mulhuWord) xd xa xb s)

/-- DIV (R96). -/
def execDiv (xd xa xb : Reg) (s : State) : Out := .next (srOp 22 true (fun a b => (divRem true a b).1) xd xa xb s)

/-- DIVU (R96). -/
def execDivu (xd xa xb : Reg) (s : State) : Out := .next (srOp 22 true (fun a b => (divRem false a b).1) xd xa xb s)

/-- REM (R96). -/
def execRem (xd xa xb : Reg) (s : State) : Out := .next (srOp 22 true (fun a b => (divRem true a b).2) xd xa xb s)

/-- REMU (R96). -/
def execRemu (xd xa xb : Reg) (s : State) : Out := .next (srOp 22 true (fun a b => (divRem false a b).2) xd xa xb s)

/-- MIN by sint(64) (R95). -/
def execMin (xd xa xb : Reg) (s : State) : Out := .next (srOp 1 false (fun a b => if a.slt b then a else b) xd xa xb s)

/-- MAX by sint(64) (R95). -/
def execMax (xd xa xb : Reg) (s : State) : Out := .next (srOp 1 false (fun a b => if a.slt b then b else a) xd xa xb s)

/-- MINU (R95). -/
def execMinu (xd xa xb : Reg) (s : State) : Out := .next (srOp 1 false (fun a b => if a.ult b then a else b) xd xa xb s)

/-- MAXU (R95). -/
def execMaxu (xd xa xb : Reg) (s : State) : Out := .next (srOp 1 false (fun a b => if a.ult b then b else a) xd xa xb s)

/-- SLT (R95). -/
def execSlt (xd xa xb : Reg) (s : State) : Out := .next (srOp 1 false (fun a b => boolWord (a.slt b)) xd xa xb s)

/-- SLTU (R95). -/
def execSltu (xd xa xb : Reg) (s : State) : Out := .next (srOp 1 false (fun a b => boolWord (a.ult b)) xd xa xb s)

/-- SEQ (R95). -/
def execSeq (xd xa xb : Reg) (s : State) : Out := .next (srOp 1 false (fun a b => boolWord (a == b)) xd xa xb s)

/-- SNE (R95). -/
def execSne (xd xa xb : Reg) (s : State) : Out := .next (srOp 1 false (fun a b => boolWord (a != b)) xd xa xb s)

/-- SEL: xa if xc is not zero, else xb (R95). -/
def execSel (xd xa xb xc : Reg) (s : State) : Out :=
  .next (s.guarded [s.rdX xa, s.rdX xb, s.rdX xc, s.wrX xd]
    (State.putX xd (if s.x xc = 0 then s.x xb else s.x xa) 1 false))

/-- CLZ (R95). -/
def execClz (xd xa : Reg) (s : State) : Out := .next (srOp1 1 false clzWord xd xa s)

/-- CTZ (R95). -/
def execCtz (xd xa : Reg) (s : State) : Out := .next (srOp1 1 false ctzWord xd xa s)

/-- POPC (R95). -/
def execPopc (xd xa : Reg) (s : State) : Out := .next (srOp1 1 false popcWord xd xa s)

/-- BFX (R97, R98). -/
def execBfx (xd xa : Reg) (pos wm1 : Fin 64) (s : State) : Out := .next (srOp1 1 false (bfxWord pos.val wm1.val) xd xa s)

/-- BFI: reads its own xd as a source (R98). -/
def execBfi (xd xa : Reg) (pos wm1 : Fin 64) (s : State) : Out :=
  .next (s.guarded [s.rdX xa, s.rdX xd, s.wrX xd]
    (State.putX xd (bfiWord pos.val wm1.val (s.x xd) (s.x xa)) 1 false))

/-- ADDX: xa + (xb << s) (R95). -/
def execAddx (xd xa xb : Reg) (sh : Fin 8) (s : State) : Out := .next (srOp 1 true (fun a b => a + (b <<< sh.val)) xd xa xb s)

/-! ## Immediate forms (R97) -/

/-- ADDI (R97). -/
def execAddi (xd xa : Reg) (imm : BitVec 46) (s : State) : Out := .next (srOp1 1 true (fun a => a + sext46 imm) xd xa s)

/-- ANDI (R97). -/
def execAndi (xd xa : Reg) (imm : BitVec 46) (s : State) : Out := .next (srOp1 1 false (fun a => a &&& sext46 imm) xd xa s)

/-- ORI (R97). -/
def execOri (xd xa : Reg) (imm : BitVec 46) (s : State) : Out := .next (srOp1 1 false (fun a => a ||| sext46 imm) xd xa s)

/-- XORI (R97). -/
def execXori (xd xa : Reg) (imm : BitVec 46) (s : State) : Out := .next (srOp1 1 false (fun a => a ^^^ sext46 imm) xd xa s)

/-- SHLI (R97). -/
def execShli (xd xa : Reg) (n : Fin 64) (s : State) : Out := .next (srOp1 1 false (fun a => a <<< n.val) xd xa s)

/-- SHRI (R97). -/
def execShri (xd xa : Reg) (n : Fin 64) (s : State) : Out := .next (srOp1 1 false (fun a => a >>> n.val) xd xa s)

/-- SRAI (R97). -/
def execSrai (xd xa : Reg) (n : Fin 64) (s : State) : Out := .next (srOp1 1 false (fun a => a.sshiftRight n.val) xd xa s)

/-- MULI: latency 3 (R97). -/
def execMuli (xd xa : Reg) (imm : BitVec 46) (s : State) : Out := .next (srOp1 3 true (fun a => a * sext46 imm) xd xa s)

/-- SLTI (R97). -/
def execSlti (xd xa : Reg) (imm : BitVec 46) (s : State) : Out := .next (srOp1 1 false (fun a => boolWord (a.slt (sext46 imm))) xd xa s)

/-- SLTIU: unsigned against the sign-extended immediate (R97). -/
def execSltiu (xd xa : Reg) (imm : BitVec 46) (s : State) : Out := .next (srOp1 1 false (fun a => boolWord (a.ult (sext46 imm))) xd xa s)

/-- MOVI: the sign-extended immediate (R97). -/
def execMovi (xd : Reg) (imm : BitVec 46) (s : State) : Out :=
  .next (s.guarded [s.wrX xd] (State.putX xd (sext46 imm) 1 false))

/-- MOVHI: (imm << 46) OR xa[45:0] (R97). -/
def execMovhi (xd xa : Reg) (imm : BitVec 18) (s : State) : Out :=
  .next (srOp1 1 false (fun a => imm ++ (a.setWidth 46)) xd xa s)

/-! ## Loads and stores (R100) -/

/-- LDB: 1 byte(s), sign-extended (R100). -/
def execLdb (xd xa : Reg) (imm : BitVec 46) (s : State) : Out := .next (loadOp 0x38 1 true xd xa imm s)

/-- LDBU: 1 byte(s), zero-extended (R100). -/
def execLdbu (xd xa : Reg) (imm : BitVec 46) (s : State) : Out := .next (loadOp 0x39 1 false xd xa imm s)

/-- LDH: 2 byte(s), sign-extended (R100). -/
def execLdh (xd xa : Reg) (imm : BitVec 46) (s : State) : Out := .next (loadOp 0x3A 2 true xd xa imm s)

/-- LDHU: 2 byte(s), zero-extended (R100). -/
def execLdhu (xd xa : Reg) (imm : BitVec 46) (s : State) : Out := .next (loadOp 0x3B 2 false xd xa imm s)

/-- LDW: 4 byte(s), sign-extended (R100). -/
def execLdw (xd xa : Reg) (imm : BitVec 46) (s : State) : Out := .next (loadOp 0x3C 4 true xd xa imm s)

/-- LDWU: 4 byte(s), zero-extended (R100). -/
def execLdwu (xd xa : Reg) (imm : BitVec 46) (s : State) : Out := .next (loadOp 0x3D 4 false xd xa imm s)

/-- LDD: 8 byte(s), zero-extended (R100). -/
def execLdd (xd xa : Reg) (imm : BitVec 46) (s : State) : Out := .next (loadOp 0x3E 8 false xd xa imm s)

/-- STB: 1 byte(s) of xd (R100). -/
def execStb (xd xa : Reg) (imm : BitVec 46) (s : State) : Out := .next (storeOp 0x3F 1 xd xa imm s)

/-- STH: 2 byte(s) of xd (R100). -/
def execSth (xd xa : Reg) (imm : BitVec 46) (s : State) : Out := .next (storeOp 0x40 2 xd xa imm s)

/-- STW: 4 byte(s) of xd (R100). -/
def execStw (xd xa : Reg) (imm : BitVec 46) (s : State) : Out := .next (storeOp 0x41 4 xd xa imm s)

/-- STD: 8 byte(s) of xd (R100). -/
def execStd (xd xa : Reg) (imm : BitVec 46) (s : State) : Out := .next (storeOp 0x42 8 xd xa imm s)

end Sys2Proof.Machine
end

