-- ==== Sys2Proof/Machine/Control.lean ====
section
/-! DEFINITION. Control: transfers, loops, safe points, segment ends, HALT, TRAP and ERET (R114 to R146). -/

namespace Sys2Proof.Machine

/-! ## Code memory -/

/-- The code unit at an address; an unwritten unit is empty without a start flag (R66). -/
def State.codeAt (s : State) (a : Nat) : CodeUnit :=
  match s.seq.code.find? fun c => c.1 = a with
  | some c => c.2
  | none => { unit := 0, start := false }

/-- Code units that the bundle at an address takes (R63). -/
def State.sizeAt (s : State) (a : Nat) : Nat := if (s.codeAt a).unit = 0xFFFF then 25 else 1

/-- Address of the bundle after the one at an address. -/
def State.after (s : State) (a : Nat) : Nat := a + s.sizeAt a

/-! ## Transfers (R114, R115, R119) -/

/-- A loop fault with its detail (R137). -/
def loopFault (d : Nat) : TrapReq := { cls := 5, cause := 0x0F, code := 0, detail := BitVec.ofNat 40 d }

/-- The loop fault of a transfer at, or one or two bundles before, the innermost level's end (R119). -/
def State.nearEnd (s : State) : Option TrapReq :=
  match s.seq.loops with
  | [] => none
  | l :: _ =>
    let a := s.seq.pc.toNat
    let b := s.after a
    trapIf (l.stop.toNat = a || l.stop.toNat = b || l.stop.toNat = s.after b) (loopFault l.n.val)

/-- A transfer to a target, or none when it is not taken; two delay bundles follow either way (R80, R115). -/
def State.transfer (target : Option Word) (s : State) : State :=
  s.onSeq fun q => { q with xfer := some { left := 2, target := target }, effect := .xfer }

/-- A conditional branch (R114). -/
def branchOp (cond : Word → Word → Bool) (xa xb : Reg) (target : BitVec 15) (s : State) : State :=
  s.guarded [s.rdX xa, s.rdX xb, s.nearEnd]
    (State.transfer (if cond (s.x xa) (s.x xb) then some (target.setWidth 64) else none))

/-- x30's value for a call: the address of the bundle after the second delay bundle (R80). -/
def State.linkWord (s : State) : Word :=
  BitVec.ofNat 64 (s.after (s.after (s.after s.seq.pc.toNat)))

/-- A call to a target (R114, R115). -/
def callOp (checks : List (Option TrapReq)) (target : Word) (s : State) : State :=
  s.guarded (checks ++ [s.wrX 30, s.nearEnd]) fun s => (s.transfer (some target)).putX 30 s.linkWord 1 false

/-- BEQ (R114). -/
def execBeq (xa xb : Reg) (target : BitVec 15) (s : State) : Out := .next (branchOp (fun a b => a == b) xa xb target s)

/-- BNE (R114). -/
def execBne (xa xb : Reg) (target : BitVec 15) (s : State) : Out := .next (branchOp (fun a b => a != b) xa xb target s)

/-- BLT (R114). -/
def execBlt (xa xb : Reg) (target : BitVec 15) (s : State) : Out := .next (branchOp BitVec.slt xa xb target s)

/-- BGE (R114). -/
def execBge (xa xb : Reg) (target : BitVec 15) (s : State) : Out :=
  .next (branchOp (fun a b => !a.slt b) xa xb target s)

/-- BLTU (R114). -/
def execBltu (xa xb : Reg) (target : BitVec 15) (s : State) : Out := .next (branchOp BitVec.ult xa xb target s)

/-- BGEU (R114). -/
def execBgeu (xa xb : Reg) (target : BitVec 15) (s : State) : Out :=
  .next (branchOp (fun a b => !a.ult b) xa xb target s)

/-- JMP (R114). -/
def execJmp (target : BitVec 15) (s : State) : Out :=
  .next (s.guarded [s.nearEnd] (State.transfer (some (target.setWidth 64))))

/-- JMPX: the target is checked when the transfer is made (R115). -/
def execJmpx (xa : Reg) (s : State) : Out := .next (s.guarded [s.rdX xa, s.nearEnd] (State.transfer (some (s.x xa))))

/-- CALL (R114). -/
def execCall (target : BitVec 15) (s : State) : Out := .next (callOp [] (target.setWidth 64) s)

/-- CALLX (R114). -/
def execCallx (xa : Reg) (s : State) : Out := .next (callOp [s.rdX xa] (s.x xa) s)

/-- RET: to x30 (R114). -/
def execRet (s : State) : Out := .next (s.guarded [s.rdX 30, s.nearEnd] (State.transfer (some (s.x 30))))

/-! ## Loops (R116 to R120) -/

/-- Is the end of a LOOP no bundle start (R117)? -/
def State.loopEndBad (s : State) (stop : BitVec 15) : Option TrapReq :=
  trapIf (!(s.codeAt stop.toNat).start) { cls := 1, cause := 0x01, code := 0, detail := BitVec.ofNat 40 stop.toNat }

/-- The loop faults of LOOP for a trip count (R117). -/
def State.loopTrap (s : State) (n : Fin 4) (t : Nat) (stop : BitVec 15) : Option TrapReq :=
  let next := s.after s.seq.pc.toNat
  let outer := match s.seq.loops with
    | [] => false
    | l :: _ => decide (l.stop.toNat < stop.toNat)
  trapIf (33554431 < t || s.seq.loops.length = 4 || (s.seq.loops.any fun l => l.n = n) || s.seq.suspended
    || stop.toNat < next || outer) (loopFault n.val)

/-- LOOP: a new innermost level, or the body skipped when the count is 0 (R117). -/
def execLoop (lc : Fin 4) (xa : Reg) (trip : BitVec 25) (last : BitVec 15) (s : State) : Out :=
  let t := if xa = 0 then trip.toNat else (s.x xa).toNat
  .next (s.guarded [s.loopEndBad last, s.rdX xa, s.loopTrap lc t last, s.writeFault (.lc lc)] fun s =>
    let u := s.enqueue (.lc lc 0) 1 false
    if t = 0 then u.onSeq fun q => { q with effect := .skip (s.after last.toNat) }
    else u.onSeq fun q => { q with loops := { n := lc, start := BitVec.ofNat 15 (s.after s.seq.pc.toNat),
                                              stop := last, trip := BitVec.ofNat 25 t } :: q.loops })

/-- The loop faults of LEXIT (R119, R120). -/
def State.lexitTrap (s : State) : Option TrapReq :=
  match s.seq.loops with
  | [] => some (loopFault 0xFF)
  | [_] => none
  | l :: m :: _ => trapIf (l.stop == m.stop) (loopFault l.n.val)

/-- Address after the end of the innermost level. -/
def State.afterLoop (s : State) : Word :=
  match s.seq.loops with
  | [] => 0
  | l :: _ => BitVec.ofNat 64 (s.after l.stop.toNat)

/-- LEXIT: leaves the innermost level when xa is x0 or not zero (R120). -/
def execLexit (xa : Reg) (s : State) : Out :=
  .next (s.guarded [s.rdX xa, s.nearEnd, s.lexitTrap] fun s =>
    if xa = 0 || s.x xa ≠ 0 then
      (s.transfer (some s.afterLoop)).onSeq fun q => { q with loops := q.loops.drop 1 }
    else s.transfer none)

/-! ## Units at work -/

/-- Does a station of this pair of queues hold a command? -/
def Queues.busy (q : Queues) : Bool := !q.normal.isEmpty || !q.prio.isEmpty

/-- Does the matrix station hold a command, queued or running? -/
def Matrix.busy (m : Matrix) : Bool := m.q.busy || m.array.isSome || m.drain.isSome || m.zero.isSome

/-- Does a shaping station hold a command? -/
def Shaping.busy (h : Shaping) : Bool :=
  h.tisQ.busy || h.cvsQ.busy || h.trsQ.busy || h.tis.isSome || h.cvs.isSome || h.trs.isSome

/-- Does st6 hold a command? -/
def Timed.busy (t : Timed) : Bool := t.q.busy || t.send.isSome || !t.sent.isEmpty || !t.recvs.isEmpty

/-- Does st5 hold a command? -/
def Copy.busy (c : Copy) : Bool := (c.ents.any fun e => !e.cmd.saved) || !c.abns.isEmpty

/-- Does st5 hold a timed command, or is a landing window of a timed transfer armed (R126)? -/
def State.timedBusy (s : State) : Bool :=
  (s.cp.ents.any fun e => e.timed) || (s.tm.wins.toList.any fun w => w.armed)

/-- Is a pending bit set, or a row of the vector station on its way? A write to x0 sets no pending bit (R77, R78, R122). -/
def State.pendingAny (s : State) : Bool := s.seq.writes.any fun w => w.dest.key.isSome || w.isPush

/-- The schedule faults of SAFE (R122, R187, R432). -/
def State.safeTrap (s : State) (cp : Option (Fin 256)) : Option TrapReq :=
  firstTrap [
    trapIf s.pendingAny (schedFault 7 2),
    trapIf (!s.ann.lmovs.isEmpty) (schedFault 5 8),
    trapIf (s.sh.busy || s.tm.busy) (schedFault 7 2),
    trapIf (cp.isSome && (s.mx.busy || s.cp.busy)) (schedFault 7 1)]

/-- A staged spare map takes effect (R227). -/
def State.takeSpare (s : State) : State := s.onHl fun h => { h with spareNow := h.spareNew }

/-- Is the loaded image timed? -/
def State.timedImage (s : State) : Bool :=
  match s.prog with
  | some p => p.timed
  | none => false

/-- SAFE: SAFECT restarts; in an untimed image a staged spare map takes effect when both units are idle (R122, R123,
R227). -/
def execSafe (cp : Option (Fin 256)) (s : State) : Out :=
  .next (s.guarded [s.safeTrap cp] fun s =>
    let u := (s.onSys fun r => { r with safect := 0 }).onSeq fun q => { q with effect := .safe cp }
    if !s.timedImage && s.mx.array.isNone && s.mx.drain.isNone && s.mx.zero.isNone then u.takeSpare else u)

/-! ## Segments (R125 to R130) -/

/-- The segment table of the loaded shape. -/
def State.segTable (s : State) : List Segment :=
  match s.prog with
  | some p => p.segs
  | none => []

/-- The control-word signature as it stands (R127). -/
def State.signature (s : State) : BitVec 32 := s.seq.crc ^^^ 0xFFFFFFFF#32

/-- The expected signature that SEGEND selects (R128). -/
def State.expectedSig (s : State) (g : Segment) : Option (BitVec 32) :=
  let w := fieldNat s.sys.lwh 0 16
  let h := fieldNat s.sys.lwh 16 16
  let x := fieldNat s.sys.lxy 0 16
  let y := fieldNat s.sys.lxy 16 16
  let n := match s.prog with
    | some p => p.nsig
    | none => 1
  g.sigs[s.sys.lmod.toNat % n * w * h + w * y + x]?

/-- Segment-relative cycle in hand (R124); a resumed segment counts on from its SAFE (R435). -/
def State.relCycle (s : State) : Nat := s.now - s.seg.startAt + s.seg.resumedAt

/-- The checks of SEGEND at its issue: quiet units, then the signature (R126). -/
def State.segendTrap (s : State) (g : Segment) : Option TrapReq :=
  firstTrap [
    trapIf (s.pendingAny || !s.ann.lmovs.isEmpty || s.sh.busy || s.mx.busy || s.tm.busy || s.timedBusy)
      (schedFault 7 0),
    trapIf (!s.seg.noSig && s.expectedSig g ≠ some s.signature)
      { cls := 5, cause := 0x12, code := 0, detail := s.signature.setWidth 40 }]

/-- Every port reset as by PRST (R129, R183). -/
def State.resetPorts (s : State) : State := (List.finRange 8).foldl (fun t q => t.resetPort q) s

/-- The boundary's zeroing: tile registers, accumulators, ports; the B buffer is emptied (R129, R229). -/
def State.boundaryZero (s : State) : State :=
  ((s.resetPorts).onSeq fun q => { q with tiles := Vector.replicate 128 0 }).onMx fun m =>
    { m with acc0 := Acc.zero, acc1 := Acc.zero, bbuf := none }

/-- The boundary shadow, with the address of the segment's first bundle (R130). -/
def State.takeShadow (s : State) (pc : BitVec 15) : Shadow :=
  { regs := s.seq.regs, lc := s.seq.lc, loops := s.seq.loops, maskRow := s.seq.maskRow, maskCol := s.seq.maskCol,
    srkey := s.sys.srkey, srkctr := s.sys.srkctr, uhvec := s.sys.uhvec, sems := s.sems, ft := s.mx.ft,
    tol := s.mx.tol, nestS := s.mx.shadow, nestA := s.mx.active, pc := pc, safect := s.sys.safect,
    crc := 0xFFFFFFFF#32 }

/-- SEGEND at its issue cycle, later than which it is a cycle-count mismatch: the checks, then the boundary begins (R126, R129); a staged spare map takes effect in
it (R227), and a paired cell that is not fenced sends its compare word (R367, R387). The sequencer holds the bundle before its cycle. -/
def execSegend (seg : BitVec 16) (count : BitVec 21) (s : State) : Out :=
  match s.timedImage && s.seq.mode == .user, s.segTable[seg.toNat]? with
  | false, _ => .next (s.takeTrap { cls := 2, cause := 0x02, code := 0, detail := 0x11 })
  | true, none => .next (s.takeTrap (reservedTrap 40))
  | true, some g =>
    if s.seg.inSeg && s.relCycle < count.toNat - 1 then .next (s.onSeq fun q => { q with effect := .hold })
    else if s.seg.inSeg && count.toNat ≤ s.relCycle then
      .next (s.takeTrap { cls := 5, cause := 0x11, code := 0, detail := BitVec.ofNat 40 s.seg.idx })
    else .next (s.guarded [s.segendTrap g] fun s =>
      let t := s.boundaryZero.takeSpare
      let t := t.onHl fun h => { h with segSig := s.signature.setWidth 16 }
      let t := t.onSeq fun q => { q with effect := .segend }
      if s.ax.lkcfg.getLsbD 0 then
        let w : CompareWord := { seg := seg, replay := BitVec.ofNat 8 s.seg.replays, count := count.setWidth 32,
                                 sig := s.signature, lxy := s.sys.lxy.setWidth 32 }
        let q := fieldNat s.ax.lkcfg 1 5
        let t := t.onSeg fun g => { g with cmpOwn := some w, cmpTwin := none, cmpBy := s.now + 3072 }
        if s.hl.fenced then t
        else t.emit (.compare s.twin q (s.absc + 12 + s.planeLat q (s.peerCell s.twin)) w)
      else t)

/-! ## HALT, TRAP, ERET (R133, R139, R140) -/

/-- HALT: no further bundle; the loop stack is emptied; writes in flight land. In a timed image user code may halt only in
the bundle that follows the last boundary (R133). -/
def execHalt (status : BitVec 16) (s : State) : Out :=
  .next (s.guarded [
      trapIf (s.timedImage && s.seq.mode == .user && !(s.seg.ended && !s.seq.suspended))
        { cls := 1, cause := 0x01, code := 0, detail := (s.codeAt s.seq.pc.toNat).unit.setWidth 40 },
      trapIf (s.seq.mode == .user && status.getLsbD 15) (reservedTrap 0)] fun s =>
    s.landAll.onSeq fun q => { q with run := .halted, loops := [], xfer := none, haltSt := some status, effect := .halt })

/-- TRAP: the trap is taken in the next cycle, with TEPC at the next bundle in sequence (R139). -/
def execTrap (id : BitVec 16) (arg : BitVec 40) (s : State) : Out :=
  .next (s.oweTrap { cause := 0x10, code := id, baddr := s.seq.pc, slot := 0, detail := arg })

/-- ERET: supervisor-only; returns by TCAUSE and TEPC (R140). -/
def execEret (s : State) : Out :=
  .next (s.guarded [trapIf (s.seq.mode == .user) (privTrap 0x14)] fun s =>
    s.returnTrap.onSeq fun q => { q with effect := .eret })

end Sys2Proof.Machine
end

