-- ==== Sys2Proof/Machine/Sync.lean ====
section
/-! DEFINITION. Semaphore instructions, FENCE and the sector hand-over (R306 to R319). -/

namespace Sys2Proof.Machine

/-- The engine-error trap of a SWAIT (R312, R137). -/
def engineError (n : Fin 256) (m : Sem) : TrapReq :=
  { cls := 5, cause := 0x0D, code := 0, detail := BitVec.ofNat 40 (n.val + m.status.toNat * 256) }

/-- SWAIT: traps on the error bit, passes at the threshold, else holds the bundle (R312). -/
def execSwait (sem : Fin 256) (xt : Reg) (scope : Scope) (s : State) : Out :=
  let m := s.sems[sem]
  match scope with
  | .cell | .rect | .module | .domain | .system =>
    .next (s.guarded [s.rdX xt, trapIf m.err (engineError sem m)] fun s =>
      if (s.x xt).toNat ≤ m.cnt.toNat then s else s.onSeq fun q => { q with effect := .hold })

/-- SSIG: adds xt[35:0] (R313). A saturation by it records st7, and as it is no command, a free index (R307; log 8). -/
def execSsig (sem : Fin 256) (xt : Reg) (s : State) : Out :=
  .next (s.guarded [s.rdX xt] fun s =>
    let f := s.fresh
    f.2.onSem sem (Sem.add ((s.x xt).toNat % 2 ^ 36) 7 ((Config.freeWord f.1).setWidth 16)))

/-- The word of SRD: counter and error bit, or the status word (R314). -/
def Sem.word (m : Sem) (status : Bool) : Word :=
  if status then m.status.setWidth 64 else BitVec.ofNat 64 (m.cnt.toNat + (if m.err then 2 ^ 36 else 0))

/-- SRD: the state as visible in the cycle, readable at c + 2 (R314). -/
def execSrd (xd : Reg) (sem : Fin 256) (status : Bool) (s : State) : Out :=
  .next (s.guarded [s.wrX xd] (State.putX xd (s.sems[sem].word status) 2 false))

/-- SSET: replaces the counter with xt[35:0] (R313). -/
def execSset (sem : Fin 256) (xt : Reg) (s : State) : Out :=
  .next (s.guarded [s.rdX xt] (State.onSem sem fun m => { m with cnt := (s.x xt).setWidth 36 }))

/-- SCLRE: clears the error bit and the status word (R313). -/
def execSclre (sem : Fin 256) (s : State) : Out :=
  .next (s.onSem sem fun m => { m with err := false, status := 0 })

/-- FENCE: stores of earlier bundles come before every sector read of the engine commands issued in this bundle or later;
commands issued before it are not ordered by it (R316). The scope bears on readers of other cells only. Stores of this
bundle stand after it and stay uncovered. -/
def execFence (scope : Scope) (s : State) : Out :=
  match scope with
  | .cell | .rect | .module | .domain | .system => .next (s.onAnn fun a => { a with
    unfenced := a.unfenced.map fun c => if c.fenced.isNone then { c with fenced := some s.now } else c })

/-- Ownership after SREL in a cycle (R317). -/
def releaseSet (now : Nat) (mask : BitVec 8) (own : Vector Own 8) : Vector Own 8 :=
  Vector.ofFn fun i => if mask.getLsbD i && own[i] == Own.held false then Own.releasing false now else own[i]

/-- SREL: each named sector HELD by the running program is released (R317). -/
def execSrel (mask : BitVec 8) (s : State) : Out :=
  .next (s.onAnn fun a => { a with own := releaseSet s.now mask a.own })

/-- A sector that a context saved in the save area held (R424). -/
def State.savedHolds (s : State) (sec : Fin 8) : Bool :=
  s.ann.own[sec] == Own.kept

/-- The lowest named sector that a saved context holds (R424). -/
def State.savedNamed (s : State) (mask : BitVec 8) : Option (Fin 8) :=
  (List.finRange 8).find? fun i => mask.getLsbD i && s.savedHolds i

/-- Ownership after SACQ's rules for one cycle (R318). -/
def acquire (mask : BitVec 8) (own : Vector Own 8) : Vector Own 8 :=
  Vector.ofFn fun i =>
    if mask.getLsbD i then
      match own[i] with
      | .free => .held false
      | .releasing false _ => .held false
      | o => o
    else own[i]

/-- SACQ: takes what it can at once and holds the bundle until every named sector is HELD (R318). A sector of a saved
context raises the local-address fault of R424. -/
def execSacq (mask : BitVec 8) (s : State) : Out :=
  .next (s.guarded [(s.savedNamed mask).map fun i => localFault (i.val * Config.sectorBytes)] fun s =>
    let own := acquire mask s.ann.own
    let t := s.onAnn fun a => { a with own := own }
    if (List.finRange 8).all fun i => !mask.getLsbD i || own[i] == Own.held false then t
    else t.onSeq fun q => { q with effect := .hold })

end Sys2Proof.Machine
end

