-- ==== Sys2Proof/Machine/Abandon.lean ====
section
/-! DEFINITION. Abandoning engine commands, clearing a cell, ending a launch (R31, R131, R387, R414). -/

namespace Sys2Proof.Machine

/-! ## Commands abandoned -/

/-- The commands of a pair of queues that stay. -/
def Queues.keep (f : Cmd → Bool) (q : Queues) : Queues :=
  { q with normal := q.normal.filter f, prio := q.prio.filter f }

/-- An occupant that stays only if its command does. -/
def keepIf {α : Type} (f : α → Bool) (o : Option α) : Option α :=
  match o with
  | some a => if f a then some a else none
  | none => none

/-- Is what an agenda item does still wanted: is the command or unit it belongs to still at work? -/
def State.actLive (s : State) : Act → Bool
  | .ev .matrixStep => s.mx.array.isSome
  | .ev .swap => s.mx.array.isSome
  | .ev .drain => s.mx.array.isSome
  | .micro .arrayRead => s.mx.array.isSome
  | .micro .stepEnd => s.mx.array.isSome
  | .micro (.drainClaim a) => if a then s.mx.adrain.isSome else s.mx.drain.isSome
  | .micro (.drainWrite a) => if a then s.mx.adrain.isSome else s.mx.drain.isSome
  | .micro (.drainCheck a) => if a then s.mx.adrain.isSome else s.mx.drain.isSome
  | .micro (.shapeTick .tis) => s.sh.tis.isSome
  | .micro (.shapeTick .cvs) => s.sh.cvs.isSome
  | .micro (.shapeTick .trs) => s.sh.trs.isSome
  | .micro (.shapeWrite .tis) => s.sh.tis.isSome
  | .micro (.shapeWrite .cvs) => s.sh.cvs.isSome
  | .micro (.shapeWrite .trs) => s.sh.trs.isSome
  | .micro .sendTick => s.tm.send.isSome
  | .micro (.copyClaim i _ _ _) => s.cp.ents.any fun e => e.cmd.idx = i
  | .micro (.owe (some i) _) => s.cp.ents.any fun e => e.cmd.idx = i
  | .micro .recvTick => !s.tm.recvs.isEmpty
  | .ev (.clredResult w) => s.tm.recvs.any fun r => r.win = w
  | .ev (.copyRowIssue (.own i _)) => s.cp.ents.any fun e => e.cmd.idx = i
  | .ev (.copyRowLand (.own i _) _ _) => s.cp.ents.any fun e => e.cmd.idx = i
  | .ev (.hbmBankAccess i _) => s.cp.ents.any fun e => e.cmd.idx = i
  | .ev (.translationComplete i) => s.cp.ents.any fun e => e.cmd.idx = i
  | .ev (.putAcknowledgement i _ _) => s.cp.ents.any fun e => e.cmd.idx = i
  | .ev (.atomTimeout i) => s.cp.ents.any fun e => e.cmd.idx = i
  | .ev (.completionTimeout i) => s.cp.ents.any fun e => e.cmd.idx = i
  | .ev (.commandCompletion .array i) => s.mx.array.any fun r => r.cmd.idx = i
  | .ev (.commandCompletion .drain i) => (s.mx.drain.any fun r => r.cmd.idx = i) || (s.mx.zero.any fun c => c.idx = i)
  | .ev (.commandCompletion .tis i) => s.sh.tis.any fun r => r.cmd.idx = i
  | .ev (.commandCompletion .cvs i) => s.sh.cvs.any fun r => r.cmd.idx = i
  | .ev (.commandCompletion .trs i) => s.sh.trs.any fun r => r.cmd.idx = i
  | .ev (.commandCompletion .cps i) => (s.cp.ents.any fun e => e.cmd.idx = i) || s.cp.abns.any fun a => a.1.idx = i
  | .ev (.commandCompletion .cls i) => (s.tm.send.any fun r => r.cmd.idx = i) || s.tm.sent.any fun c => c.1.idx = i
  | _ => true

/-- The unknown table of 64 entries takes one more (R324). -/
def addUnknown (n : Nat × BitVec 16 × Nat) (l : List (Nat × BitVec 16 × Nat)) : List (Nat × BitVec 16 × Nat) :=
  if 64 ≤ l.length then l.drop 1 ++ [n] else l ++ [n]

/-- What the unknown table keeps of an ATOM whose request has left: target, sequence number, cycle (R324). -/
def CopyEnt.unknown (e : CopyEnt) : Option (Nat × BitVec 16 × Nat) :=
  match e.cmd.op, e.sent, e.places with
  | .atom _ _ _ _, some _, (_, key) :: _ => some (key, bitsOf e.cmd.xs[3] 0 16, e.t0)
  | _, _, _ => none

/-- The unknown table after the loss of a list of commands (R324). -/
def loseEnts (l : List CopyEnt) (u : List (Nat × BitVec 16 × Nat)) : List (Nat × BitVec 16 × Nat) :=
  (l.filterMap CopyEnt.unknown).foldl (fun u n => addUnknown n u) u

/-- The matrix station runs and queues nothing any more (R229, R424). -/
def State.stopMatrix (s : State) : State :=
  s.onMx fun m => { m with
    q := { m.q with normal := [], prio := [] }, array := none, adrain := none, drain := none, zero := none, ramp := none }

/-- What the matrix station holds of the commands that meet a test: those of the running program, or of its predecessor (R193,
R423). -/
def Matrix.only (f : Cmd → Bool) (m : Matrix) : Matrix :=
  let q := m.q.keep f
  { m with
    q := q, array := keepIf (fun r => f r.cmd) m.array, adrain := keepIf (fun r => f r.cmd) m.adrain,
    drain := keepIf (fun r => f r.cmd) m.drain, zero := keepIf f m.zero,
    ramp := keepIf (fun r => (q.normal ++ q.prio).any fun c => c.idx = r.1) m.ramp }

/-- Commands that do not stay are abandoned without signalling; rows already landed stay (R131, R387, R414). The
receiving unit's tile and the windows go when `windows` is set. -/
def State.abandon (stay : Cmd → Bool) (windows : Bool) (s : State) : State :=
  let t := s.onMx fun m => { m with
    q := m.q.keep stay, array := keepIf (fun r => stay r.cmd) m.array,
    adrain := keepIf (fun r => stay r.cmd) m.adrain, drain := keepIf (fun r => stay r.cmd) m.drain,
    zero := keepIf stay m.zero }
  let t := t.onSh fun h => { h with
    tisQ := h.tisQ.keep stay, cvsQ := h.cvsQ.keep stay, trsQ := h.trsQ.keep stay,
    tis := keepIf (fun r => stay r.cmd) h.tis, cvs := keepIf (fun r => stay r.cmd) h.cvs,
    trs := keepIf (fun r => stay r.cmd) h.trs }
  let t := t.onCp fun c => { c with
    ents := c.ents.filter fun e => stay e.cmd, abns := c.abns.filter fun a => stay a.1,
    unknown := loseEnts (c.ents.filter fun e => !stay e.cmd) c.unknown }
  let t := t.onTm fun m => { m with
    q := m.q.keep stay, send := keepIf (fun r => stay r.cmd) m.send,
    sent := m.sent.filter fun p => stay p.1, recvs := if windows then [] else m.recvs, lost := if windows then [] else m.lost, asm := if windows then [] else m.asm,
    wins := if windows then Vector.replicate 16 LandWin.reset else m.wins }
  let t := { t with agenda := t.agenda.filter fun d => t.actLive d.act }
  t.onAnn fun a => { a with claims := a.claims.filter fun c => match c.owner with
    | .unit _ => false
    | .copy i => t.cp.ents.any fun e => e.cmd.idx = i
    | .landing => !windows
    | _ => true }

/-- Lanes, ports, LMOVs and the sequencer's accesses stop: nothing of a stopped program moves any more. -/
def State.stopLanes (s : State) : State :=
  let t := s.resetPorts.onAnn fun a => { a with
    lmovs := [], pushes := [], drained := [], lanes := [],
    claims := a.claims.filter fun c => match c.owner with
      | .port _ => false
      | .lmov => false
      | .seq => false
      | _ => true }
  let t := { t with agenda := t.agenda.filter fun d => match d.act with
    | .ev (.portPushLand _) => false
    | .ev .lmovRow => false
    | .micro .storeLand => false
    | .micro (.owe none _) => false
    | .micro (.oweCheck _) => false
    | _ => true }
  t.onSeq fun q => { q with stores := [], writes := [], xfer := none, trapDue := none, badTarget := none }

/-- What a replay does to lanes and ports: the ports are reset as by PRST, so that rows pushed before it still land, and an
LMOV's unwritten rows are abandoned. Results and stores of bundles that have issued land (R131, R183, R187; log 51). -/
def State.replayLanes (s : State) : State :=
  let t := s.landAll.resetPorts
  let t := t.onAnn fun a => { a with
    lmovs := [], lanes := a.lanes.filter fun u => u.gen ≠ 0,
    claims := a.claims.filter fun c => c.owner != .lmov }
  let t := { t with agenda := t.agenda.filter fun d => match d.act with
    | .ev .lmovRow => false
    | .micro (.owe none _) => false
    | .micro (.oweCheck _) => false
    | _ => true }
  t.onSeq fun q => { q with xfer := none, trapDue := none, badTarget := none }

/-- What is no longer wanted leaves the agenda. -/
def State.prune (s : State) : State := { s with agenda := s.agenda.filter fun d => s.actLive d.act }

/-! ## The end of a launch -/

/-- The running program's sectors become FREE. -/
def State.freeSectors (s : State) : State :=
  s.onAnn fun a => { a with own := a.own.map fun o => match o with
    | .held false => .free
    | .releasing false _ => .free
    | o => o }

/-- The predecessor's sectors become FREE, and it is gone (R193). -/
def State.freePred (s : State) : State :=
  let t := s.onAnn fun a => { a with own := a.own.map fun o => match o with
    | .held true => .free
    | .releasing true _ => .free
    | o => o }
  { t with pred := none, predOut := [], predAs := none }

/-- The sectors that a saved context keeps become FREE (R414, R426). -/
def State.freeKept (x : SavedCtx) (s : State) : State :=
  s.onAnn fun a => { a with own := Vector.ofFn fun i => match a.own[i] with
    | .kept => if x.keeps i then .free else .kept
    | .keptRel u => if x.keeps i then .free else .keptRel u
    | o => o }

/-- Nothing of a launch's saved context stays on this cell: its sectors become FREE, its copies end without signalling, and CTXSTAT
shows no context (R414, R429). -/
def State.discard (lid : BitVec 32) (s : State) : State :=
  let mine := s.contexts.filter fun x => x.prog.lid = lid
  let t := mine.foldl (fun t x => t.freeKept x) s
  let t := t.onCp fun c => { c with ents := c.ents.filter fun e => e.park ≠ some lid }
  let t := if s.saved.any fun x => x.prog.lid = lid
    then { t with saved := none, sys := { t.sys with ctxstat := t.sys.ctxstat &&& 0x6#64 } } else t
  let t := if s.saving.any fun x => x.prog.lid = lid then { t with saving := none } else t
  State.prune t

/-- The predecessor's launch ends: its commands go with it (R414). -/
def State.endPred (lid : BitVec 32) (s : State) : State :=
  match s.pred with
  | some (l, _) => if l = lid then (s.abandon (fun c => !c.pred || c.saved) false).freePred else s
  | none => s

/-- This cell's program of a launch ends: no issue, no command, every sector FREE, no saved context, no pending request (R414,
R429). -/
def State.endProgram (lid : BitVec 32) (s : State) : State :=
  let t := s.discard lid
  match t.prog with
  | none => t
  | some p =>
    if p.lid ≠ lid then t
    else
      let u := ((t.abandon (fun c => c.pred) true).stopLanes).freeSectors
      let u := u.onSys fun r => { r with ctxstat := r.ctxstat &&& ~~~(6#64) }
      let u := u.onSeq fun q => { q with run := .stopped, loops := [], haltSt := none, suspended := false }
      { u with prog := none, preq := none, ckptOpen := false, frame := none, seg := SegState.reset }

/-- The heap entry that a launch belongs to completes with a status (R413): its record is due at once. -/
def State.finishEntry (id : Nat) (status cstat : BitVec 16) (handle : Word) (s : State) : State :=
  let t := s.onApex fun a => { a with heap := a.heap.map fun e =>
    if e.id = id && e.done.isNone then { e with done := some (status, cstat, handle) } else e }
  t.plan s.now rankEnd (.ev (.packetCompletion id))

/-- Does the running shape of a launch reach a die (R29, R353)? -/
def LaunchRec.onDie (l : LaunchRec) (d : Nat) : Bool :=
  let b := bootOf d
  l.px < b.1 + 16 && b.1 < l.px + l.shapeRec.w && l.py < b.2 + 12 && b.2 < l.py + l.shapeRec.h

/-- Is a timed launch armed on its dies: from its arming to its end or its save (R353)? A resume arms it again with T1 (R435). -/
def LaunchRec.armedNow (l : LaunchRec) : Bool :=
  l.img.timed && (l.st == .armed || l.st == .running || l.st == .saving || l.st == .resuming)

/-- A launch's bank cycles leave the stacks' slot maps (R280). -/
def State.dropSlots (lid : BitVec 32) (s : State) : State :=
  s.onCp fun c => { c with slots := c.slots.filter fun m => m.1 ≠ lid }

/-- The Apex lets a launch go: its record, its arming on the die, its bank cycles and its pins (R280, R281, R353). -/
def State.dropLaunch (l : LaunchRec) (s : State) : State :=
  let armed := l.armedNow && l.onDie s.die
  let t := s.onApex fun a => { a with launches := a.launches.filter fun m => m.lid ≠ l.lid }
  let t := t.dropSlots l.lid
  (if armed then t.onAx fun a => { a with armed := a.armed - 1 } else t).emit (.released l.lid)

/-- Is one cell before another in logical row-major order, module by module? -/
def peerBefore (a b : Peer) : Bool := a.md < b.md || (a.md = b.md && (a.y < b.y || (a.y = b.y && a.x < b.x)))

/-- cstat: the first non-zero status in logical row-major order (R413). -/
def firstStatus (l : List (Peer × BitVec 16)) : BitVec 16 :=
  match (l.filter fun p => p.2 ≠ 0).foldl (fun (a : Option (Peer × BitVec 16)) p => match a with
    | none => some p
    | some b => if peerBefore p.1 b.1 then some p else some b) none with
  | some p => p.2
  | none => 0

/-- A launch ends on this module with a status; cstat is the HALT's own for 0x020D, else the first non-zero one reported (R413,
R414). Other launches may then be dispatched. -/
def State.endHere (lid : BitVec 32) (status cstat : BitVec 16) (s : State) : State :=
  let t := (s.endPred lid).endProgram lid
  match s.apex.launches.find? fun l => l.lid = lid with
  | none => t
  | some l =>
    let c := if status = 0x020D then cstat else firstStatus l.halts
    ((t.dropLaunch l).finishEntry l.entry status c 0).plan s.now rankEnd (.ev .dispatch)

/-- Other modules that hold a part of a launch's run: those of a launch of several modules, or the module of a timed launch's
lockstep twins (R366, R420; log 76). -/
def State.mates (s : State) (p : LaunchPkt) (timed : Bool) : Nat :=
  if p.mlog ≠ 0 then 2 ^ p.mlog - 1 else if timed && s.apex.pair.isSome then 1 else 0

/-- A launch ends with a status on every module that holds it (R414, R420). -/
def State.endLaunch (lid : BitVec 32) (status cstat : BitVec 16) (s : State) : State :=
  let far := s.apex.launches.any fun l => l.lid = lid && s.mates l.pkt l.img.timed ≠ 0
  let t := s.endHere lid status cstat
  if far then t.emit (.remote (.ended lid status)) else t

end Sys2Proof.Machine
end

