-- ==== Sys2Proof/Decode.lean ====
section
/-! DEFINITION. The decoder and the encoder of slot operations (R60, R68 to R75, R466). A slot is read as the natural
number of its 64 bits. Every opcode that R74 does not list is an illegal operation; every field that must be zero and
is not, or that holds a reserved value, is a reserved field, named by the bit position that R466 gives. -/

namespace Sys2Proof

/-- Slot classes (R60); sa and sb share the scalar class. -/
inductive SlotClass where
  | ctl | scalar | vec | eng | lane
  deriving DecidableEq, Repr

/-- The class of the slot with index s (R60). -/
def slotClass (s : Nat) : SlotClass :=
  match s with
  | 0 => .ctl | 1 => .scalar | 2 => .scalar | 3 => .vec | 4 => .eng | _ => .lane

/-- Why a slot does not decode: an opcode outside the map (R75), or a field at a bit position (R466). -/
inductive DecodeErr where
  | illegalOp (op : Nat)
  | reserved (bit : Nat)
  deriving DecidableEq, Repr

/-- Bits lo + n - 1 : lo of a slot. -/
def fld (w lo n : Nat) : Nat := w / 2 ^ lo % 2 ^ n

/-- Position of the lowest set bit among the first `fuel` bits of v. -/
def lowBitFrom (v : Nat) : Nat → Nat → Nat
  | 0, p => p
  | fuel + 1, p => if v / 2 ^ p % 2 = 1 then p else lowBitFrom v fuel (p + 1)

/-- Position of the lowest set bit of a value of at most 64 bits. -/
def lowBit (v : Nat) : Nat := lowBitFrom v 64 0

/-- A field that must be zero (R68): the slot position of its lowest set bit if it is not (R466). -/
def zeroField (w lo n : Nat) : Option Nat :=
  if fld w lo n = 0 then none else some (lo + lowBit (fld w lo n))

/-- A field whose value is reserved: its lowest bit (R466). -/
def badField (lo : Nat) (bad : Bool) : Option Nat := if bad then some lo else none

/-- The failing field at the lowest position (R466). -/
def firstBad : List (Option Nat) → Option Nat
  | [] => none
  | none :: l => firstBad l
  | some p :: l =>
    match firstBad l with
    | none => some p
    | some q => some (if q < p then q else p)

/-- A slot read by its format: the operation, and what its reserved-field checks found. -/
structure Decoded where
  instr : Instr
  chk   : List (Option Nat)
  deriving DecidableEq, Repr

/-- The register named by the field at lo (R68). -/
def regAt (w lo : Nat) : Reg := Fin.ofNat 32 (w / 2 ^ lo)

/-- The format of a code, FP32 for a reserved one (R33). -/
def fmtOf (c : Nat) : Fmt :=
  match c with
  | 0 => .fp32 | 1 => .bf16 | 2 => .fp16 | 3 => .i32 | 4 => .i16 | 5 => .i8 | 6 => .u8
  | 7 => .e4m3 | 8 => .e5m2 | 9 => .e2m1 | 10 => .dx8 | 11 => .dx4 | _ => .fp32

/-- The rounding mode of a code, RNE for a reserved one (R44). -/
def rmOf (c : Nat) : RMode :=
  match c with
  | 0 => .rne | 1 => .rtz | 2 => .rdn | 3 => .rup | 4 => .srk | _ => .rne

/-- The code of a rounding mode (R44). -/
def RMode.code : RMode → Nat
  | .rne => 0 | .rtz => 1 | .rdn => 2 | .rup => 3 | .srk => 4

/-- The scope of a code, cell for a reserved one (R266). -/
def scopeOf (c : Nat) : Scope :=
  match c with
  | 0 => .cell | 1 => .rect | 2 => .module | 3 => .domain | 4 => .system | _ => .cell

/-- The code of a scope (R266). -/
def Scope.code : Scope → Nat
  | .cell => 0 | .rect => 1 | .module => 2 | .domain => 3 | .system => 4

/-- The operand of a code and a row field (R71). -/
def vopOf (c r : Nat) : VOp :=
  if c < 8 then .tile (Fin.ofNat 8 c) (Fin.ofNat 16 r)
  else if c < 16 then .port (Fin.ofNat 8 c)
  else match c with
    | 16 => .bcast
    | 18 => .lidx
    | _ => .zero

/-- The operand code of an operand (R71). -/
def VOp.code : VOp → Nat
  | .tile t _ => t.val
  | .port q => 8 + q.val
  | .bcast => 16
  | .zero => 17
  | .lidx => 18

/-- The row field of an operand (R71). -/
def VOp.rowField : VOp → Nat
  | .tile _ r => r.val
  | _ => 0

/-- A source operand's checks: an assigned code, a zero row field beside a code of 8 or above, and the lane-index row
only in INT32 and FP32, named at the operand field, the lower field of the combination (R71, R150, R466). -/
def srcChk (w lo fmt : Nat) : List (Option Nat) :=
  [badField lo (19 ≤ fld w lo 5 || (fld w lo 5 == 18 && !(fmt == 0 || fmt == 3))),
   if 8 ≤ fld w lo 5 then zeroField w (lo - 4) 4 else none]

/-- A destination operand's checks: a tile row or a port (R71). -/
def dstChk (w : Nat) : List (Option Nat) :=
  [badField 47 (16 ≤ fld w 47 5), if 8 ≤ fld w 47 5 then zeroField w 43 4 else none]

/-- An operand pair that a form does not use is zero (R68). -/
def unusedOp (w lo : Nat) : List (Option Nat) := [zeroField w lo 5, zeroField w (lo - 4) 4]

/-- xs is zero unless one of the operand codes is 16 (R71). -/
def xsChk (w : Nat) (los : List Nat) : List (Option Nat) :=
  [if los.any (fun lo => fld w lo 5 == 16) then none else zeroField w 4 5]

/-- An operand that names the broadcast register: its code must be 16 and its row field zero (R159, R165, R167). -/
def bcastChk (w lo : Nat) : List (Option Nat) := [badField lo (fld w lo 5 != 16), zeroField w (lo - 4) 4]

/-- A mask number 0 to 3 in an operand field, with its row field zero (R158, R167). -/
def maskChk (w lo : Nat) : List (Option Nat) := [badField lo (4 ≤ fld w lo 5), zeroField w (lo - 4) 4]

/-- The shared fields of a vector slot (R71). -/
def vctlOf (w : Nat) : VCtl :=
  { fmt := fmtOf (fld w 52 4), mp := Fin.ofNat 4 (w / 2 ^ 13), cpl := fld w 15 1 == 1,
    rnd := rmOf (fld w 10 3), sat := fld w 9 1 == 1, xs := regAt w 4 }

/-- The operand in a field (R71). -/
def vopAt (w lo : Nat) : VOp := vopOf (fld w lo 5) (fld w (lo - 4) 4)

/-- A rounding field where all five modes are accepted (R44). -/
def rndChk (w lo : Nat) : Option Nat := badField lo (5 ≤ fld w lo 3)

/-- The checks of rnd and sat in a vector slot by what the form accepts (R153). -/
def rsChk (w : Nat) (rnd sat : Bool) : List (Option Nat) :=
  [if rnd then rndChk w 10 else zeroField w 10 3, if sat then none else zeroField w 9 1]

/-- The shared fields of an engine slot (R72). -/
def ectlOf (w : Nat) : ECtl :=
  { wsem := Fin.ofNat 256 (w / 2 ^ 48), wx := regAt w 43, ssem := Fin.ofNat 256 (w / 2 ^ 35),
    sinc := Fin.ofNat 16 (w / 2 ^ 31), xa := regAt w 26, q := fld w 25 1 == 1 }

/-- The checks of an engine slot's shared fields (R72): xa at most x28, and the semaphore fields zero where they are not
used. -/
def ecChk (w : Nat) : List (Option Nat) :=
  [badField 26 (28 < fld w 26 5),
   if fld w 31 4 = 0 then zeroField w 35 8 else none,
   if fld w 43 5 = 0 then zeroField w 48 8 else none]

/-- A command that acts at issue takes no wait, signal or queue field; its xa too is at most x28 (R72, R211). -/
def atIssueChk (w : Nat) : List (Option Nat) :=
  [badField 26 (28 < fld w 26 5), zeroField w 25 1, zeroField w 31 4, zeroField w 35 8, zeroField w 43 5, zeroField w 48 8]

/-- A flag bit of a slot. -/
def bitAt (w lo : Nat) : Bool := fld w lo 1 == 1

/-- The lane of the dir and lane fields (R73). -/
def laneAt (w : Nat) : LaneRef := ⟨bitAt w 46, Fin.ofNat 8 (w / 2 ^ 47)⟩

/-- A local address or an ALU immediate (R69). -/
def imm46 (w : Nat) : BitVec 46 := BitVec.ofNat 46 w


/-- The ATOM operation of a code, add for a reserved one (R322). -/
def atomOpOf (c : Nat) : AtomOp :=
  match c with
  | 0 => .add | 1 => .min | 2 => .max | 3 => .minu | 4 => .maxu | 5 => .and | 6 => .or | 7 => .xchg | 8 => .cas
  | _ => .add

/-- The code of an ATOM operation (R322). -/
def AtomOp.code : AtomOp → Nat
  | .add => 0 | .min => 1 | .max => 2 | .minu => 3 | .maxu => 4 | .and => 5 | .or => 6 | .xchg => 7 | .cas => 8

/-- The ATOM kind of a code, cell for a reserved one (R320). -/
def atomKindOf (c : Nat) : AtomKind :=
  match c with
  | 0 => .cell | 1 => .hbm | 2 => .sem | _ => .cell

/-- The code of an ATOM kind (R320). -/
def AtomKind.code : AtomKind → Nat
  | .cell => 0 | .hbm => 1 | .sem => 2

/-- The ctl slot: formats CB, CL, CS, CM and CX (R70, R74). -/
def decodeCtl (w : Nat) : Option Decoded :=
  match fld w 56 8 with
  | 0x00 => some ⟨.nop, [zeroField w 0 56]⟩
  | 0x01 => some ⟨.beq (regAt w 51) (regAt w 46) (BitVec.ofNat 15 w), [zeroField w 15 9, zeroField w 24 22]⟩
  | 0x02 => some ⟨.bne (regAt w 51) (regAt w 46) (BitVec.ofNat 15 w), [zeroField w 15 9, zeroField w 24 22]⟩
  | 0x03 => some ⟨.blt (regAt w 51) (regAt w 46) (BitVec.ofNat 15 w), [zeroField w 15 9, zeroField w 24 22]⟩
  | 0x04 => some ⟨.bge (regAt w 51) (regAt w 46) (BitVec.ofNat 15 w), [zeroField w 15 9, zeroField w 24 22]⟩
  | 0x05 => some ⟨.bltu (regAt w 51) (regAt w 46) (BitVec.ofNat 15 w), [zeroField w 15 9, zeroField w 24 22]⟩
  | 0x06 => some ⟨.bgeu (regAt w 51) (regAt w 46) (BitVec.ofNat 15 w), [zeroField w 15 9, zeroField w 24 22]⟩
  | 0x07 => some ⟨.jmp (BitVec.ofNat 15 w), [zeroField w 15 9, zeroField w 24 22, zeroField w 46 5, zeroField w 51 5]⟩
  | 0x08 => some ⟨.jmpx (regAt w 51), [zeroField w 0 24, zeroField w 24 22, zeroField w 46 5]⟩
  | 0x09 => some ⟨.call (BitVec.ofNat 15 w), [zeroField w 15 9, zeroField w 24 22, zeroField w 46 5, zeroField w 51 5]⟩
  | 0x0A => some ⟨.callx (regAt w 51), [zeroField w 0 24, zeroField w 24 22, zeroField w 46 5]⟩
  | 0x0B => some ⟨.ret, [zeroField w 0 24, zeroField w 24 22, zeroField w 46 5, zeroField w 51 5]⟩
  | 0x0C => some ⟨.loop (Fin.ofNat 4 (w / 2 ^ 54)) (regAt w 49) (BitVec.ofNat 25 (w / 2 ^ 24)) (BitVec.ofNat 15 w), [zeroField w 15 9, if fld w 49 5 = 0 then none else zeroField w 24 25]⟩
  | 0x0D => some ⟨.lexit (regAt w 51), [zeroField w 0 24, zeroField w 24 22, zeroField w 46 5]⟩
  | 0x10 => some ⟨.safe (if bitAt w 55 then some (Fin.ofNat 256 (w / 2 ^ 40)) else none), [zeroField w 0 40, if bitAt w 55 then none else zeroField w 40 8, zeroField w 48 7]⟩
  | 0x11 => some ⟨.segend (BitVec.ofNat 16 (w / 2 ^ 40)) (BitVec.ofNat 21 w), [badField 0 (fld w 0 21 == 0 || 2 ^ 20 < fld w 0 21), zeroField w 21 19]⟩
  | 0x12 => some ⟨.halt (BitVec.ofNat 16 w), [zeroField w 16 24, zeroField w 40 16]⟩
  | 0x13 => some ⟨.trap (BitVec.ofNat 16 (w / 2 ^ 40)) (BitVec.ofNat 40 w), []⟩
  | 0x14 => some ⟨.eret, [zeroField w 0 40, zeroField w 40 16]⟩
  | 0x18 => some ⟨.swait (Fin.ofNat 256 (w / 2 ^ 48)) (regAt w 43) (scopeOf (fld w 40 3)), [zeroField w 0 35, zeroField w 35 5, badField 40 (5 ≤ fld w 40 3)]⟩
  | 0x19 => some ⟨.ssig (Fin.ofNat 256 (w / 2 ^ 48)) (regAt w 43), [zeroField w 0 35, zeroField w 35 5, zeroField w 40 3]⟩
  | 0x1A => some ⟨.srd (regAt w 35) (Fin.ofNat 256 (w / 2 ^ 48)) (bitAt w 40), [zeroField w 0 35, zeroField w 41 2, zeroField w 43 5]⟩
  | 0x1B => some ⟨.sset (Fin.ofNat 256 (w / 2 ^ 48)) (regAt w 43), [zeroField w 0 35, zeroField w 35 5, zeroField w 40 3]⟩
  | 0x1C => some ⟨.sclre (Fin.ofNat 256 (w / 2 ^ 48)), [zeroField w 0 35, zeroField w 35 5, zeroField w 40 3, zeroField w 43 5]⟩
  | 0x1D => some ⟨.fence (scopeOf (fld w 0 3)), [badField 0 (5 ≤ fld w 0 3), zeroField w 3 21, zeroField w 24 17, zeroField w 41 5, zeroField w 46 5, zeroField w 51 5]⟩
  | 0x1E => some ⟨.srel (BitVec.ofNat 8 w), [badField 0 (fld w 0 8 == 0), zeroField w 8 16, zeroField w 24 17, zeroField w 41 5, zeroField w 46 5, zeroField w 51 5]⟩
  | 0x1F => some ⟨.sacq (BitVec.ofNat 8 w), [badField 0 (fld w 0 8 == 0), zeroField w 8 16, zeroField w 24 17, zeroField w 41 5, zeroField w 46 5, zeroField w 51 5]⟩
  | 0x30 => some ⟨.axrd (regAt w 51) (Fin.ofNat 3 (fld w 0 2)), [badField 0 (fld w 0 2 == 3), zeroField w 2 22, zeroField w 24 17, zeroField w 41 5, zeroField w 46 5]⟩
  | 0x31 => some ⟨.axslew (regAt w 46), [zeroField w 0 24, zeroField w 24 17, zeroField w 41 5, zeroField w 51 5]⟩
  | 0x32 => some ⟨.axskip (regAt w 46), [zeroField w 0 24, zeroField w 24 17, zeroField w 41 5, zeroField w 51 5]⟩
  | 0x33 => some ⟨.hbrd (regAt w 51) (Fin.ofNat 9 (fld w 0 4)), [badField 0 (9 ≤ fld w 0 4), zeroField w 4 20, zeroField w 24 17, zeroField w 41 5, zeroField w 46 5]⟩
  | 0x34 => some ⟨.accuse (Fin.ofNat 4 w), [zeroField w 2 22, zeroField w 24 17, zeroField w 41 5, zeroField w 46 5, zeroField w 51 5]⟩
  | 0x35 => some ⟨.appeal (regAt w 51), [zeroField w 0 24, zeroField w 24 17, zeroField w 41 5, zeroField w 46 5]⟩
  | 0x36 => some ⟨.ifst (regAt w 51), [zeroField w 0 24, zeroField w 24 17, zeroField w 41 5, zeroField w 46 5]⟩
  | 0x39 => some ⟨.spare (regAt w 51), [zeroField w 0 24, zeroField w 24 17, zeroField w 41 5, zeroField w 46 5]⟩
  | 0x37 => some ⟨.spmrd (regAt w 51) (Fin.ofNat 3 (fld w 0 2)), [badField 0 (fld w 0 2 == 3), zeroField w 2 22, zeroField w 24 17, zeroField w 41 5, zeroField w 46 5]⟩
  | 0x38 => some ⟨.spmwr (regAt w 46), [zeroField w 0 24, zeroField w 24 17, zeroField w 41 5, zeroField w 51 5]⟩
  | 0x3A => some ⟨.selfoff, [zeroField w 0 24, zeroField w 24 17, zeroField w 41 5, zeroField w 46 5, zeroField w 51 5]⟩
  | _ => none

/-- The scalar slots: formats SR and SI (R69, R74). -/
def decodeScalar (w : Nat) : Option Decoded :=
  match fld w 56 8 with
  | 0x00 => some ⟨.nop, [zeroField w 0 56]⟩
  | 0x01 => some ⟨.add (regAt w 51) (regAt w 46) (regAt w 41), [zeroField w 0 30, zeroField w 30 6, zeroField w 36 5]⟩
  | 0x02 => some ⟨.sub (regAt w 51) (regAt w 46) (regAt w 41), [zeroField w 0 30, zeroField w 30 6, zeroField w 36 5]⟩
  | 0x03 => some ⟨.and (regAt w 51) (regAt w 46) (regAt w 41), [zeroField w 0 30, zeroField w 30 6, zeroField w 36 5]⟩
  | 0x04 => some ⟨.or (regAt w 51) (regAt w 46) (regAt w 41), [zeroField w 0 30, zeroField w 30 6, zeroField w 36 5]⟩
  | 0x05 => some ⟨.xor (regAt w 51) (regAt w 46) (regAt w 41), [zeroField w 0 30, zeroField w 30 6, zeroField w 36 5]⟩
  | 0x06 => some ⟨.andn (regAt w 51) (regAt w 46) (regAt w 41), [zeroField w 0 30, zeroField w 30 6, zeroField w 36 5]⟩
  | 0x07 => some ⟨.shl (regAt w 51) (regAt w 46) (regAt w 41), [zeroField w 0 30, zeroField w 30 6, zeroField w 36 5]⟩
  | 0x08 => some ⟨.shr (regAt w 51) (regAt w 46) (regAt w 41), [zeroField w 0 30, zeroField w 30 6, zeroField w 36 5]⟩
  | 0x09 => some ⟨.sra (regAt w 51) (regAt w 46) (regAt w 41), [zeroField w 0 30, zeroField w 30 6, zeroField w 36 5]⟩
  | 0x0A => some ⟨.rotl (regAt w 51) (regAt w 46) (regAt w 41), [zeroField w 0 30, zeroField w 30 6, zeroField w 36 5]⟩
  | 0x0B => some ⟨.mul (regAt w 51) (regAt w 46) (regAt w 41), [zeroField w 0 30, zeroField w 30 6, zeroField w 36 5]⟩
  | 0x0C => some ⟨.mulh (regAt w 51) (regAt w 46) (regAt w 41), [zeroField w 0 30, zeroField w 30 6, zeroField w 36 5]⟩
  | 0x0D => some ⟨.mulhu (regAt w 51) (regAt w 46) (regAt w 41), [zeroField w 0 30, zeroField w 30 6, zeroField w 36 5]⟩
  | 0x0E => some ⟨.div (regAt w 51) (regAt w 46) (regAt w 41), [zeroField w 0 30, zeroField w 30 6, zeroField w 36 5]⟩
  | 0x0F => some ⟨.divu (regAt w 51) (regAt w 46) (regAt w 41), [zeroField w 0 30, zeroField w 30 6, zeroField w 36 5]⟩
  | 0x10 => some ⟨.rem (regAt w 51) (regAt w 46) (regAt w 41), [zeroField w 0 30, zeroField w 30 6, zeroField w 36 5]⟩
  | 0x11 => some ⟨.remu (regAt w 51) (regAt w 46) (regAt w 41), [zeroField w 0 30, zeroField w 30 6, zeroField w 36 5]⟩
  | 0x12 => some ⟨.min (regAt w 51) (regAt w 46) (regAt w 41), [zeroField w 0 30, zeroField w 30 6, zeroField w 36 5]⟩
  | 0x13 => some ⟨.max (regAt w 51) (regAt w 46) (regAt w 41), [zeroField w 0 30, zeroField w 30 6, zeroField w 36 5]⟩
  | 0x14 => some ⟨.minu (regAt w 51) (regAt w 46) (regAt w 41), [zeroField w 0 30, zeroField w 30 6, zeroField w 36 5]⟩
  | 0x15 => some ⟨.maxu (regAt w 51) (regAt w 46) (regAt w 41), [zeroField w 0 30, zeroField w 30 6, zeroField w 36 5]⟩
  | 0x16 => some ⟨.slt (regAt w 51) (regAt w 46) (regAt w 41), [zeroField w 0 30, zeroField w 30 6, zeroField w 36 5]⟩
  | 0x17 => some ⟨.sltu (regAt w 51) (regAt w 46) (regAt w 41), [zeroField w 0 30, zeroField w 30 6, zeroField w 36 5]⟩
  | 0x18 => some ⟨.seq (regAt w 51) (regAt w 46) (regAt w 41), [zeroField w 0 30, zeroField w 30 6, zeroField w 36 5]⟩
  | 0x19 => some ⟨.sne (regAt w 51) (regAt w 46) (regAt w 41), [zeroField w 0 30, zeroField w 30 6, zeroField w 36 5]⟩
  | 0x1A => some ⟨.sel (regAt w 51) (regAt w 46) (regAt w 41) (regAt w 36), [zeroField w 0 30, zeroField w 30 6]⟩
  | 0x1B => some ⟨.clz (regAt w 51) (regAt w 46), [zeroField w 0 30, zeroField w 30 6, zeroField w 36 5, zeroField w 41 5]⟩
  | 0x1C => some ⟨.ctz (regAt w 51) (regAt w 46), [zeroField w 0 30, zeroField w 30 6, zeroField w 36 5, zeroField w 41 5]⟩
  | 0x1D => some ⟨.popc (regAt w 51) (regAt w 46), [zeroField w 0 30, zeroField w 30 6, zeroField w 36 5, zeroField w 41 5]⟩
  | 0x1E => some ⟨.bfx (regAt w 51) (regAt w 46) (Fin.ofNat 64 w) (Fin.ofNat 64 (w / 2 ^ 6)), [badField 0 (64 < fld w 0 6 + fld w 6 6 + 1), zeroField w 12 34]⟩
  | 0x1F => some ⟨.bfi (regAt w 51) (regAt w 46) (Fin.ofNat 64 w) (Fin.ofNat 64 (w / 2 ^ 6)), [badField 0 (64 < fld w 0 6 + fld w 6 6 + 1), zeroField w 12 34]⟩
  | 0x20 => some ⟨.addx (regAt w 51) (regAt w 46) (regAt w 41) (Fin.ofNat 8 (w / 2 ^ 30)), [zeroField w 0 30, zeroField w 33 3, zeroField w 36 5]⟩
  | 0x28 => some ⟨.addi (regAt w 51) (regAt w 46) (imm46 w), []⟩
  | 0x29 => some ⟨.andi (regAt w 51) (regAt w 46) (imm46 w), []⟩
  | 0x2A => some ⟨.ori (regAt w 51) (regAt w 46) (imm46 w), []⟩
  | 0x2B => some ⟨.xori (regAt w 51) (regAt w 46) (imm46 w), []⟩
  | 0x2C => some ⟨.shli (regAt w 51) (regAt w 46) (Fin.ofNat 64 w), [zeroField w 6 40]⟩
  | 0x2D => some ⟨.shri (regAt w 51) (regAt w 46) (Fin.ofNat 64 w), [zeroField w 6 40]⟩
  | 0x2E => some ⟨.srai (regAt w 51) (regAt w 46) (Fin.ofNat 64 w), [zeroField w 6 40]⟩
  | 0x2F => some ⟨.muli (regAt w 51) (regAt w 46) (imm46 w), []⟩
  | 0x30 => some ⟨.slti (regAt w 51) (regAt w 46) (imm46 w), []⟩
  | 0x31 => some ⟨.sltiu (regAt w 51) (regAt w 46) (imm46 w), []⟩
  | 0x32 => some ⟨.movi (regAt w 51) (imm46 w), [zeroField w 46 5]⟩
  | 0x33 => some ⟨.movhi (regAt w 51) (regAt w 46) (BitVec.ofNat 18 w), [zeroField w 18 28]⟩
  | 0x38 => some ⟨.ldb (regAt w 51) (regAt w 46) (imm46 w), []⟩
  | 0x39 => some ⟨.ldbu (regAt w 51) (regAt w 46) (imm46 w), []⟩
  | 0x3A => some ⟨.ldh (regAt w 51) (regAt w 46) (imm46 w), []⟩
  | 0x3B => some ⟨.ldhu (regAt w 51) (regAt w 46) (imm46 w), []⟩
  | 0x3C => some ⟨.ldw (regAt w 51) (regAt w 46) (imm46 w), []⟩
  | 0x3D => some ⟨.ldwu (regAt w 51) (regAt w 46) (imm46 w), []⟩
  | 0x3E => some ⟨.ldd (regAt w 51) (regAt w 46) (imm46 w), []⟩
  | 0x3F => some ⟨.stb (regAt w 51) (regAt w 46) (imm46 w), []⟩
  | 0x40 => some ⟨.sth (regAt w 51) (regAt w 46) (imm46 w), []⟩
  | 0x41 => some ⟨.stw (regAt w 51) (regAt w 46) (imm46 w), []⟩
  | 0x42 => some ⟨.std (regAt w 51) (regAt w 46) (imm46 w), []⟩
  | 0x48 => some ⟨.fadd (regAt w 51) (regAt w 46) (regAt w 41) (rmOf (fld w 30 3)), [zeroField w 0 30, rndChk w 30, zeroField w 33 3, zeroField w 36 5]⟩
  | 0x49 => some ⟨.fsub (regAt w 51) (regAt w 46) (regAt w 41) (rmOf (fld w 30 3)), [zeroField w 0 30, rndChk w 30, zeroField w 33 3, zeroField w 36 5]⟩
  | 0x4A => some ⟨.fmul (regAt w 51) (regAt w 46) (regAt w 41) (rmOf (fld w 30 3)), [zeroField w 0 30, rndChk w 30, zeroField w 33 3, zeroField w 36 5]⟩
  | 0x4B => some ⟨.ffma (regAt w 51) (regAt w 46) (regAt w 41) (regAt w 36) (rmOf (fld w 30 3)), [zeroField w 0 30, rndChk w 30, zeroField w 33 3]⟩
  | 0x4C => some ⟨.fdiv (regAt w 51) (regAt w 46) (regAt w 41) (rmOf (fld w 30 3)), [zeroField w 0 30, rndChk w 30, zeroField w 33 3, zeroField w 36 5]⟩
  | 0x4D => some ⟨.fsqrt (regAt w 51) (regAt w 46) (rmOf (fld w 30 3)), [zeroField w 0 30, rndChk w 30, zeroField w 33 3, zeroField w 36 5, zeroField w 41 5]⟩
  | 0x4E => some ⟨.fmin (regAt w 51) (regAt w 46) (regAt w 41), [zeroField w 0 30, zeroField w 30 6, zeroField w 36 5]⟩
  | 0x4F => some ⟨.fmax (regAt w 51) (regAt w 46) (regAt w 41), [zeroField w 0 30, zeroField w 30 6, zeroField w 36 5]⟩
  | 0x50 => some ⟨.feq (regAt w 51) (regAt w 46) (regAt w 41), [zeroField w 0 30, zeroField w 30 6, zeroField w 36 5]⟩
  | 0x51 => some ⟨.flt (regAt w 51) (regAt w 46) (regAt w 41), [zeroField w 0 30, zeroField w 30 6, zeroField w 36 5]⟩
  | 0x52 => some ⟨.fle (regAt w 51) (regAt w 46) (regAt w 41), [zeroField w 0 30, zeroField w 30 6, zeroField w 36 5]⟩
  | 0x53 => some ⟨.fcvtws (regAt w 51) (regAt w 46) (rmOf (fld w 30 3)) (bitAt w 33), [zeroField w 0 30, rndChk w 30, zeroField w 34 2, zeroField w 36 5, zeroField w 41 5]⟩
  | 0x54 => some ⟨.fcvtsw (regAt w 51) (regAt w 46) (rmOf (fld w 30 3)), [zeroField w 0 30, rndChk w 30, zeroField w 33 3, zeroField w 36 5, zeroField w 41 5]⟩
  | 0x55 => some ⟨.fclass (regAt w 51) (regAt w 46), [zeroField w 0 30, zeroField w 30 6, zeroField w 36 5, zeroField w 41 5]⟩
  | 0x58 => some ⟨.sysrd (regAt w 51) (BitVec.ofNat 12 w), [zeroField w 12 34, zeroField w 46 5]⟩
  | 0x59 => some ⟨.syswr (regAt w 46) (BitVec.ofNat 12 w), [zeroField w 12 34, zeroField w 51 5]⟩
  | 0x5A => some ⟨.sysset (regAt w 51) (regAt w 46) (BitVec.ofNat 12 w), [zeroField w 12 34]⟩
  | 0x5B => some ⟨.sysclr (regAt w 51) (regAt w 46) (BitVec.ofNat 12 w), [zeroField w 12 34]⟩
  | _ => none

/-- The vec slot: format VR (R71, R74, R153). -/
def decodeVec (w : Nat) : Option Decoded :=
  match fld w 56 8 with
  | 0x00 => some ⟨.nop, [zeroField w 0 56]⟩
  | 0x01 => some ⟨.vadd (vctlOf w) (vopAt w 47) (vopAt w 38) (vopAt w 29), badField 52 (!(fld w 52 4 ≤ 2)) :: zeroField w 0 4 :: (rsChk w true true ++ dstChk w ++ srcChk w 38 (fld w 52 4) ++ srcChk w 29 (fld w 52 4) ++ unusedOp w 20 ++ xsChk w [38, 29])⟩
  | 0x02 => some ⟨.vsub (vctlOf w) (vopAt w 47) (vopAt w 38) (vopAt w 29), badField 52 (!(fld w 52 4 ≤ 2)) :: zeroField w 0 4 :: (rsChk w true true ++ dstChk w ++ srcChk w 38 (fld w 52 4) ++ srcChk w 29 (fld w 52 4) ++ unusedOp w 20 ++ xsChk w [38, 29])⟩
  | 0x03 => some ⟨.vmul (vctlOf w) (vopAt w 47) (vopAt w 38) (vopAt w 29), badField 52 (!(fld w 52 4 ≤ 2)) :: zeroField w 0 4 :: (rsChk w true true ++ dstChk w ++ srcChk w 38 (fld w 52 4) ++ srcChk w 29 (fld w 52 4) ++ unusedOp w 20 ++ xsChk w [38, 29])⟩
  | 0x04 => some ⟨.vfma (vctlOf w) (vopAt w 47) (vopAt w 38) (vopAt w 29) (vopAt w 20), badField 52 (!(fld w 52 4 ≤ 2)) :: zeroField w 0 4 :: (rsChk w true true ++ dstChk w ++ srcChk w 38 (fld w 52 4) ++ srcChk w 29 (fld w 52 4) ++ srcChk w 20 (fld w 52 4) ++ xsChk w [38, 29, 20])⟩
  | 0x05 => some ⟨.vfms (vctlOf w) (vopAt w 47) (vopAt w 38) (vopAt w 29) (vopAt w 20), badField 52 (!(fld w 52 4 ≤ 2)) :: zeroField w 0 4 :: (rsChk w true true ++ dstChk w ++ srcChk w 38 (fld w 52 4) ++ srcChk w 29 (fld w 52 4) ++ srcChk w 20 (fld w 52 4) ++ xsChk w [38, 29, 20])⟩
  | 0x06 => some ⟨.vmin (vctlOf w) (vopAt w 47) (vopAt w 38) (vopAt w 29), badField 52 (!(fld w 52 4 ≤ 2)) :: zeroField w 0 4 :: (rsChk w false false ++ dstChk w ++ srcChk w 38 (fld w 52 4) ++ srcChk w 29 (fld w 52 4) ++ unusedOp w 20 ++ xsChk w [38, 29])⟩
  | 0x07 => some ⟨.vmax (vctlOf w) (vopAt w 47) (vopAt w 38) (vopAt w 29), badField 52 (!(fld w 52 4 ≤ 2)) :: zeroField w 0 4 :: (rsChk w false false ++ dstChk w ++ srcChk w 38 (fld w 52 4) ++ srcChk w 29 (fld w 52 4) ++ unusedOp w 20 ++ xsChk w [38, 29])⟩
  | 0x08 => some ⟨.vabs (vctlOf w) (vopAt w 47) (vopAt w 38), badField 52 (!(fld w 52 4 ≤ 2)) :: zeroField w 0 4 :: (rsChk w false false ++ dstChk w ++ srcChk w 38 (fld w 52 4) ++ unusedOp w 29 ++ unusedOp w 20 ++ xsChk w [38])⟩
  | 0x09 => some ⟨.vneg (vctlOf w) (vopAt w 47) (vopAt w 38), badField 52 (!(fld w 52 4 ≤ 2)) :: zeroField w 0 4 :: (rsChk w false false ++ dstChk w ++ srcChk w 38 (fld w 52 4) ++ unusedOp w 29 ++ unusedOp w 20 ++ xsChk w [38])⟩
  | 0x0A => some ⟨.vdiv (vctlOf w) (vopAt w 47) (vopAt w 38) (vopAt w 29), badField 52 (!(fld w 52 4 ≤ 2)) :: zeroField w 0 4 :: (rsChk w true true ++ dstChk w ++ srcChk w 38 (fld w 52 4) ++ srcChk w 29 (fld w 52 4) ++ unusedOp w 20 ++ xsChk w [38, 29])⟩
  | 0x0B => some ⟨.vsqrt (vctlOf w) (vopAt w 47) (vopAt w 38), badField 52 (!(fld w 52 4 ≤ 2)) :: zeroField w 0 4 :: (rsChk w true true ++ dstChk w ++ srcChk w 38 (fld w 52 4) ++ unusedOp w 29 ++ unusedOp w 20 ++ xsChk w [38])⟩
  | 0x0C => some ⟨.vrcp (vctlOf w) (vopAt w 47) (vopAt w 38), badField 52 (!(fld w 52 4 ≤ 2)) :: zeroField w 0 4 :: (rsChk w true true ++ dstChk w ++ srcChk w 38 (fld w 52 4) ++ unusedOp w 29 ++ unusedOp w 20 ++ xsChk w [38])⟩
  | 0x0D => some ⟨.vrsq (vctlOf w) (vopAt w 47) (vopAt w 38), badField 52 (!(fld w 52 4 ≤ 2)) :: zeroField w 0 4 :: (rsChk w true true ++ dstChk w ++ srcChk w 38 (fld w 52 4) ++ unusedOp w 29 ++ unusedOp w 20 ++ xsChk w [38])⟩
  | 0x10 => some ⟨.viadd (vctlOf w) (vopAt w 47) (vopAt w 38) (vopAt w 29), badField 52 (!(3 ≤ fld w 52 4 && fld w 52 4 ≤ 6)) :: zeroField w 0 4 :: (rsChk w false true ++ dstChk w ++ srcChk w 38 (fld w 52 4) ++ srcChk w 29 (fld w 52 4) ++ unusedOp w 20 ++ xsChk w [38, 29])⟩
  | 0x11 => some ⟨.visub (vctlOf w) (vopAt w 47) (vopAt w 38) (vopAt w 29), badField 52 (!(3 ≤ fld w 52 4 && fld w 52 4 ≤ 6)) :: zeroField w 0 4 :: (rsChk w false true ++ dstChk w ++ srcChk w 38 (fld w 52 4) ++ srcChk w 29 (fld w 52 4) ++ unusedOp w 20 ++ xsChk w [38, 29])⟩
  | 0x12 => some ⟨.vimul (vctlOf w) (vopAt w 47) (vopAt w 38) (vopAt w 29), badField 52 (!(3 ≤ fld w 52 4 && fld w 52 4 ≤ 6)) :: zeroField w 0 4 :: (rsChk w false true ++ dstChk w ++ srcChk w 38 (fld w 52 4) ++ srcChk w 29 (fld w 52 4) ++ unusedOp w 20 ++ xsChk w [38, 29])⟩
  | 0x13 => some ⟨.vimin (vctlOf w) (vopAt w 47) (vopAt w 38) (vopAt w 29), badField 52 (!(3 ≤ fld w 52 4 && fld w 52 4 ≤ 6)) :: zeroField w 0 4 :: (rsChk w false false ++ dstChk w ++ srcChk w 38 (fld w 52 4) ++ srcChk w 29 (fld w 52 4) ++ unusedOp w 20 ++ xsChk w [38, 29])⟩
  | 0x14 => some ⟨.vimax (vctlOf w) (vopAt w 47) (vopAt w 38) (vopAt w 29), badField 52 (!(3 ≤ fld w 52 4 && fld w 52 4 ≤ 6)) :: zeroField w 0 4 :: (rsChk w false false ++ dstChk w ++ srcChk w 38 (fld w 52 4) ++ srcChk w 29 (fld w 52 4) ++ unusedOp w 20 ++ xsChk w [38, 29])⟩
  | 0x15 => some ⟨.vand (vctlOf w) (vopAt w 47) (vopAt w 38) (vopAt w 29), badField 52 (!(fld w 52 4 ≤ 6)) :: zeroField w 0 4 :: (rsChk w false false ++ dstChk w ++ srcChk w 38 (fld w 52 4) ++ srcChk w 29 (fld w 52 4) ++ unusedOp w 20 ++ xsChk w [38, 29])⟩
  | 0x16 => some ⟨.vor (vctlOf w) (vopAt w 47) (vopAt w 38) (vopAt w 29), badField 52 (!(fld w 52 4 ≤ 6)) :: zeroField w 0 4 :: (rsChk w false false ++ dstChk w ++ srcChk w 38 (fld w 52 4) ++ srcChk w 29 (fld w 52 4) ++ unusedOp w 20 ++ xsChk w [38, 29])⟩
  | 0x17 => some ⟨.vxor (vctlOf w) (vopAt w 47) (vopAt w 38) (vopAt w 29), badField 52 (!(fld w 52 4 ≤ 6)) :: zeroField w 0 4 :: (rsChk w false false ++ dstChk w ++ srcChk w 38 (fld w 52 4) ++ srcChk w 29 (fld w 52 4) ++ unusedOp w 20 ++ xsChk w [38, 29])⟩
  | 0x18 => some ⟨.vshl (vctlOf w) (vopAt w 47) (vopAt w 38) (vopAt w 29), badField 52 (!(3 ≤ fld w 52 4 && fld w 52 4 ≤ 6)) :: zeroField w 0 4 :: (rsChk w false false ++ dstChk w ++ srcChk w 38 (fld w 52 4) ++ srcChk w 29 (fld w 52 4) ++ unusedOp w 20 ++ xsChk w [38, 29])⟩
  | 0x19 => some ⟨.vshr (vctlOf w) (vopAt w 47) (vopAt w 38) (vopAt w 29), badField 52 (!(3 ≤ fld w 52 4 && fld w 52 4 ≤ 6)) :: zeroField w 0 4 :: (rsChk w false false ++ dstChk w ++ srcChk w 38 (fld w 52 4) ++ srcChk w 29 (fld w 52 4) ++ unusedOp w 20 ++ xsChk w [38, 29])⟩
  | 0x1A => some ⟨.vsra (vctlOf w) (vopAt w 47) (vopAt w 38) (vopAt w 29), badField 52 (!(3 ≤ fld w 52 4 && fld w 52 4 ≤ 5)) :: zeroField w 0 4 :: (rsChk w false false ++ dstChk w ++ srcChk w 38 (fld w 52 4) ++ srcChk w 29 (fld w 52 4) ++ unusedOp w 20 ++ xsChk w [38, 29])⟩
  | 0x1B => some ⟨.vimad (vctlOf w) (vopAt w 47) (vopAt w 38) (vopAt w 29) (vopAt w 20), badField 52 (!(3 ≤ fld w 52 4 && fld w 52 4 ≤ 6)) :: zeroField w 0 4 :: (rsChk w false true ++ dstChk w ++ srcChk w 38 (fld w 52 4) ++ srcChk w 29 (fld w 52 4) ++ srcChk w 20 (fld w 52 4) ++ xsChk w [38, 29, 20])⟩
  | 0x20 => some ⟨.vceq (vctlOf w) (Fin.ofNat 4 (w / 2 ^ 47)) (vopAt w 38) (vopAt w 29) (Fin.ofNat 4 w), badField 52 (!(fld w 52 4 ≤ 2)) :: badField 0 (32 / (fmtOf (fld w 52 4)).width ≤ fld w 0 4) :: (rsChk w false false ++ maskChk w 47 ++ srcChk w 38 (fld w 52 4) ++ srcChk w 29 (fld w 52 4) ++ unusedOp w 20 ++ xsChk w [38, 29])⟩
  | 0x21 => some ⟨.vcne (vctlOf w) (Fin.ofNat 4 (w / 2 ^ 47)) (vopAt w 38) (vopAt w 29) (Fin.ofNat 4 w), badField 52 (!(fld w 52 4 ≤ 2)) :: badField 0 (32 / (fmtOf (fld w 52 4)).width ≤ fld w 0 4) :: (rsChk w false false ++ maskChk w 47 ++ srcChk w 38 (fld w 52 4) ++ srcChk w 29 (fld w 52 4) ++ unusedOp w 20 ++ xsChk w [38, 29])⟩
  | 0x22 => some ⟨.vclt (vctlOf w) (Fin.ofNat 4 (w / 2 ^ 47)) (vopAt w 38) (vopAt w 29) (Fin.ofNat 4 w), badField 52 (!(fld w 52 4 ≤ 2)) :: badField 0 (32 / (fmtOf (fld w 52 4)).width ≤ fld w 0 4) :: (rsChk w false false ++ maskChk w 47 ++ srcChk w 38 (fld w 52 4) ++ srcChk w 29 (fld w 52 4) ++ unusedOp w 20 ++ xsChk w [38, 29])⟩
  | 0x23 => some ⟨.vcle (vctlOf w) (Fin.ofNat 4 (w / 2 ^ 47)) (vopAt w 38) (vopAt w 29) (Fin.ofNat 4 w), badField 52 (!(fld w 52 4 ≤ 2)) :: badField 0 (32 / (fmtOf (fld w 52 4)).width ≤ fld w 0 4) :: (rsChk w false false ++ maskChk w 47 ++ srcChk w 38 (fld w 52 4) ++ srcChk w 29 (fld w 52 4) ++ unusedOp w 20 ++ xsChk w [38, 29])⟩
  | 0x24 => some ⟨.vcun (vctlOf w) (Fin.ofNat 4 (w / 2 ^ 47)) (vopAt w 38) (vopAt w 29) (Fin.ofNat 4 w), badField 52 (!(fld w 52 4 ≤ 2)) :: badField 0 (32 / (fmtOf (fld w 52 4)).width ≤ fld w 0 4) :: (rsChk w false false ++ maskChk w 47 ++ srcChk w 38 (fld w 52 4) ++ srcChk w 29 (fld w 52 4) ++ unusedOp w 20 ++ xsChk w [38, 29])⟩
  | 0x25 => some ⟨.viclt (vctlOf w) (Fin.ofNat 4 (w / 2 ^ 47)) (vopAt w 38) (vopAt w 29) (Fin.ofNat 4 w), badField 52 (!(3 ≤ fld w 52 4 && fld w 52 4 ≤ 5)) :: badField 0 (32 / (fmtOf (fld w 52 4)).width ≤ fld w 0 4) :: (rsChk w false false ++ maskChk w 47 ++ srcChk w 38 (fld w 52 4) ++ srcChk w 29 (fld w 52 4) ++ unusedOp w 20 ++ xsChk w [38, 29])⟩
  | 0x26 => some ⟨.vicltu (vctlOf w) (Fin.ofNat 4 (w / 2 ^ 47)) (vopAt w 38) (vopAt w 29) (Fin.ofNat 4 w), badField 52 (!(3 ≤ fld w 52 4 && fld w 52 4 ≤ 6)) :: badField 0 (32 / (fmtOf (fld w 52 4)).width ≤ fld w 0 4) :: (rsChk w false false ++ maskChk w 47 ++ srcChk w 38 (fld w 52 4) ++ srcChk w 29 (fld w 52 4) ++ unusedOp w 20 ++ xsChk w [38, 29])⟩
  | 0x27 => some ⟨.viceq (vctlOf w) (Fin.ofNat 4 (w / 2 ^ 47)) (vopAt w 38) (vopAt w 29) (Fin.ofNat 4 w), badField 52 (!(3 ≤ fld w 52 4 && fld w 52 4 ≤ 6)) :: badField 0 (32 / (fmtOf (fld w 52 4)).width ≤ fld w 0 4) :: (rsChk w false false ++ maskChk w 47 ++ srcChk w 38 (fld w 52 4) ++ srcChk w 29 (fld w 52 4) ++ unusedOp w 20 ++ xsChk w [38, 29])⟩
  | 0x28 => some ⟨.vsel (vctlOf w) (vopAt w 47) (vopAt w 38) (vopAt w 29), badField 52 (!(fld w 52 4 ≤ 6)) :: zeroField w 0 4 :: (rsChk w false false ++ dstChk w ++ srcChk w 38 (fld w 52 4) ++ srcChk w 29 (fld w 52 4) ++ unusedOp w 20 ++ xsChk w [38, 29])⟩
  | 0x29 => some ⟨.vmov (vctlOf w) (vopAt w 47) (vopAt w 38), badField 52 (fld w 52 4 != 0) :: zeroField w 0 4 :: (rsChk w false false ++ dstChk w ++ srcChk w 38 (fld w 52 4) ++ unusedOp w 29 ++ unusedOp w 20 ++ xsChk w [38])⟩
  | 0x2A => some ⟨.vlane (vctlOf w) (vopAt w 47) (vopAt w 38), badField 52 (!(fld w 52 4 ≤ 6)) :: zeroField w 0 4 :: (rsChk w false false ++ dstChk w ++ srcChk w 38 (fld w 52 4) ++ bcastChk w 29 ++ unusedOp w 20 ++ xsChk w [38, 29])⟩
  | 0x2C => some ⟨.vrot (vctlOf w) (vopAt w 47) (vopAt w 38), badField 52 (!(fld w 52 4 ≤ 6)) :: zeroField w 0 4 :: (rsChk w false false ++ dstChk w ++ srcChk w 38 (fld w 52 4) ++ bcastChk w 29 ++ unusedOp w 20 ++ xsChk w [38, 29])⟩
  | 0x2B => some ⟨.vperm (vctlOf w) (vopAt w 47) (vopAt w 38) (vopAt w 29), badField 52 (fld w 52 4 != 0 && fld w 52 4 != 3) :: zeroField w 0 4 :: (rsChk w false false ++ dstChk w ++ srcChk w 38 (fld w 52 4) ++ srcChk w 29 (fld w 52 4) ++ unusedOp w 20 ++ xsChk w [38, 29])⟩
  | 0x2D => some ⟨.viota (vctlOf w) (vopAt w 47), badField 52 (fld w 52 4 != 3) :: zeroField w 0 4 :: (rsChk w false false ++ dstChk w ++ bcastChk w 38 ++ unusedOp w 29 ++ unusedOp w 20 ++ xsChk w [38])⟩
  | 0x30 => some ⟨.vradd (vctlOf w) (vopAt w 47) (vopAt w 38), badField 52 (!(fld w 52 4 ≤ 2)) :: zeroField w 0 4 :: badField 10 (4 ≤ fld w 10 3) :: (dstChk w ++ srcChk w 38 (fld w 52 4) ++ unusedOp w 29 ++ unusedOp w 20 ++ xsChk w [38])⟩
  | 0x31 => some ⟨.vrmax (vctlOf w) (vopAt w 47) (vopAt w 38), badField 52 (!(fld w 52 4 ≤ 6)) :: zeroField w 0 4 :: (rsChk w false false ++ dstChk w ++ srcChk w 38 (fld w 52 4) ++ unusedOp w 29 ++ unusedOp w 20 ++ xsChk w [38])⟩
  | 0x32 => some ⟨.vrmin (vctlOf w) (vopAt w 47) (vopAt w 38), badField 52 (!(fld w 52 4 ≤ 6)) :: zeroField w 0 4 :: (rsChk w false false ++ dstChk w ++ srcChk w 38 (fld w 52 4) ++ unusedOp w 29 ++ unusedOp w 20 ++ xsChk w [38])⟩
  | 0x33 => some ⟨.vamax (vctlOf w) (vopAt w 47) (vopAt w 38), badField 52 (!(fld w 52 4 ≤ 2)) :: zeroField w 0 4 :: (rsChk w false false ++ dstChk w ++ srcChk w 38 (fld w 52 4) ++ unusedOp w 29 ++ unusedOp w 20 ++ xsChk w [38])⟩
  | 0x38 => some ⟨.vcvt (vctlOf w) (vopAt w 47) (vopAt w 38) (fmtOf (fld w 0 3)) (bitAt w 3), badField 52 (!(fld w 52 4 ≤ 6)) :: badField 0 (fld w 0 3 == 7 || fld w 0 3 == fld w 52 4 || (fmtOf (fld w 0 3)).width == 4 * (fmtOf (fld w 52 4)).width || (fmtOf (fld w 52 4)).width == 4 * (fmtOf (fld w 0 3)).width || (bitAt w 3 && (fmtOf (fld w 0 3)).width == (fmtOf (fld w 52 4)).width)) :: (rsChk w true true ++ dstChk w ++ srcChk w 38 (fld w 0 3) ++ unusedOp w 29 ++ unusedOp w 20 ++ xsChk w [38])⟩
  | 0x39 => some ⟨.vrint (vctlOf w) (vopAt w 47) (vopAt w 38), badField 52 (!(fld w 52 4 ≤ 2)) :: zeroField w 0 4 :: (rsChk w true false ++ dstChk w ++ srcChk w 38 (fld w 52 4) ++ unusedOp w 29 ++ unusedOp w 20 ++ xsChk w [38])⟩
  | 0x3A => some ⟨.vrng (vctlOf w) (vopAt w 47), badField 52 (fld w 52 4 != 0 && fld w 52 4 != 3) :: zeroField w 0 4 :: badField 4 (fld w 4 1 == 1) :: (rsChk w false false ++ dstChk w ++ bcastChk w 38 ++ unusedOp w 29 ++ unusedOp w 20 ++ xsChk w [38])⟩
  | 0x40 => some ⟨.mset (Fin.ofNat 4 (w / 2 ^ 47)) (bitAt w 0), badField 0 (2 ≤ fld w 0 4) :: zeroField w 52 4 :: zeroField w 13 3 :: (rsChk w false false ++ maskChk w 47 ++ unusedOp w 38 ++ unusedOp w 29 ++ unusedOp w 20 ++ [zeroField w 4 5])⟩
  | 0x41 => some ⟨.mand (Fin.ofNat 4 (w / 2 ^ 47)) (Fin.ofNat 4 (w / 2 ^ 38)) (Fin.ofNat 4 (w / 2 ^ 29)), zeroField w 0 4 :: zeroField w 52 4 :: zeroField w 13 3 :: (rsChk w false false ++ maskChk w 47 ++ maskChk w 38 ++ maskChk w 29 ++ unusedOp w 20 ++ [zeroField w 4 5])⟩
  | 0x42 => some ⟨.mor (Fin.ofNat 4 (w / 2 ^ 47)) (Fin.ofNat 4 (w / 2 ^ 38)) (Fin.ofNat 4 (w / 2 ^ 29)), zeroField w 0 4 :: zeroField w 52 4 :: zeroField w 13 3 :: (rsChk w false false ++ maskChk w 47 ++ maskChk w 38 ++ maskChk w 29 ++ unusedOp w 20 ++ [zeroField w 4 5])⟩
  | 0x43 => some ⟨.mnot (Fin.ofNat 4 (w / 2 ^ 47)) (Fin.ofNat 4 (w / 2 ^ 38)), zeroField w 0 4 :: zeroField w 52 4 :: zeroField w 13 3 :: (rsChk w false false ++ maskChk w 47 ++ maskChk w 38 ++ unusedOp w 29 ++ unusedOp w 20 ++ [zeroField w 4 5])⟩
  | 0x44 => some ⟨.mpop (vopAt w 47) (Fin.ofNat 4 (w / 2 ^ 38)), zeroField w 0 4 :: badField 52 (fld w 52 4 != 3) :: zeroField w 13 3 :: (rsChk w false false ++ dstChk w ++ [zeroField w 43 4] ++ maskChk w 38 ++ unusedOp w 29 ++ unusedOp w 20 ++ [zeroField w 4 5])⟩
  | 0x45 => some ⟨.mrow (Fin.ofNat 4 (w / 2 ^ 47)) (regAt w 4), zeroField w 0 4 :: zeroField w 52 4 :: zeroField w 13 3 :: (rsChk w false false ++ maskChk w 47 ++ bcastChk w 38 ++ unusedOp w 29 ++ unusedOp w 20)⟩
  | 0x46 => some ⟨.mcol (Fin.ofNat 4 (w / 2 ^ 47)) (regAt w 4), zeroField w 0 4 :: zeroField w 52 4 :: zeroField w 13 3 :: (rsChk w false false ++ maskChk w 47 ++ bcastChk w 38 ++ unusedOp w 29 ++ unusedOp w 20)⟩
  | 0x48 => some ⟨.tzero (Fin.ofNat 8 (w / 2 ^ 47)) (Fin.ofNat 16 (w / 2 ^ 43)) (bitAt w 0) (Fin.ofNat 4 (w / 2 ^ 13)) (bitAt w 15), badField 0 (2 ≤ fld w 0 4) :: zeroField w 52 4 :: badField 47 (8 ≤ fld w 47 5) :: (if fld w 0 4 = 0 then none else zeroField w 43 4) :: (rsChk w false false ++ unusedOp w 38 ++ unusedOp w 29 ++ unusedOp w 20 ++ [zeroField w 4 5])⟩
  | 0x49 => some ⟨.tcpy (Fin.ofNat 8 (w / 2 ^ 47)) (Fin.ofNat 8 (w / 2 ^ 38)) (Fin.ofNat 4 (w / 2 ^ 13)) (bitAt w 15), zeroField w 0 4 :: zeroField w 52 4 :: badField 47 (8 ≤ fld w 47 5) :: zeroField w 43 4 :: badField 38 (8 ≤ fld w 38 5) :: zeroField w 34 4 :: (rsChk w false false ++ unusedOp w 29 ++ unusedOp w 20 ++ [zeroField w 4 5])⟩
  | _ => none

/-- The eng slot: format EC (R72, R74). -/
def decodeEng (w : Nat) : Option Decoded :=
  match fld w 56 8 with
  | 0x00 => some ⟨.nop, [zeroField w 0 56]⟩
  | 0x01 => some ⟨.mxcfg (regAt w 26) (Fin.ofNat 10 (fld w 0 4)), badField 0 (10 ≤ fld w 0 4) :: zeroField w 4 21 :: (atIssueChk w)⟩
  | 0x02 => some ⟨.mxgo (ectlOf w) (Fin.ofNat 16 w) (bitAt w 4) (Fin.ofNat 4 (w / 2 ^ 5)) (bitAt w 7) (bitAt w 8), zeroField w 9 16 :: ([] ++ ecChk w)⟩
  | 0x03 => some ⟨.mxldb (ectlOf w) (Fin.ofNat 16 w) (bitAt w 4), zeroField w 5 20 :: ([] ++ ecChk w)⟩
  | 0x04 => some ⟨.accz (ectlOf w) (bitAt w 0) (bitAt w 1), zeroField w 2 23 :: ([badField 0 (fld w 0 2 == 0), zeroField w 26 5] ++ ecChk w)⟩
  | 0x05 => some ⟨.accdr (ectlOf w) (Fin.ofNat 16 w) (bitAt w 4) (bitAt w 5), zeroField w 6 19 :: ([badField 31 (fld w 31 4 == 0)] ++ ecChk w)⟩
  | 0x06 => some ⟨.ftset (regAt w 26) (Fin.ofNat 16 w), zeroField w 4 21 :: (atIssueChk w)⟩
  | 0x07 => some ⟨.tolset (regAt w 26) (Fin.ofNat 8 w), zeroField w 3 22 :: (atIssueChk w)⟩
  | 0x08 => some ⟨.mxstat (regAt w 0) (Fin.ofNat 7 (fld w 5 4)), badField 5 (7 ≤ fld w 5 4) :: zeroField w 9 16 :: zeroField w 26 5 :: (atIssueChk w)⟩
  | 0x09 => some ⟨.mxabn (bitAt w 0) (bitAt w 1), badField 0 (fld w 0 2 == 0) :: zeroField w 2 23 :: zeroField w 26 5 :: (atIssueChk w)⟩
  | 0x10 => some ⟨.cvt (ectlOf w) (fmtOf (fld w 0 4)) (Fin.ofNat 16 (w / 2 ^ 4)) (rmOf (fld w 8 3)) (bitAt w 11) (bitAt w 12) (bitAt w 13) (bitAt w 14) (bitAt w 15) (bitAt w 16), zeroField w 17 8 :: ([badField 0 (12 ≤ fld w 0 4 || (bitAt w 12 && fld w 0 4 < 7)), rndChk w 8, badField 15 (bitAt w 16 && !bitAt w 15)] ++ ecChk w)⟩
  | 0x11 => some ⟨.qamax (ectlOf w) (Fin.ofNat 16 w) (bitAt w 4) (bitAt w 5), zeroField w 6 19 :: ([] ++ ecChk w)⟩
  | 0x12 => some ⟨.qscl (ectlOf w) (fmtOf (fld w 0 4)) (Fin.ofNat 8 (w / 2 ^ 4)) (bitAt w 7), zeroField w 8 17 :: ([badField 0 (!(fld w 0 4 == 1 || fld w 0 4 == 2 || (4 ≤ fld w 0 4 && fld w 0 4 ≤ 9)))] ++ ecChk w)⟩
  | 0x13 => some ⟨.trn (ectlOf w) (bitAt w 0), zeroField w 1 24 :: ([] ++ ecChk w)⟩
  | 0x14 => some ⟨.tbld (ectlOf w) (Fin.ofNat 4 w), zeroField w 2 23 :: ([] ++ ecChk w)⟩
  | 0x15 => some ⟨.tbev (ectlOf w) (Fin.ofNat 4 w) (fmtOf (fld w 2 4)) (fmtOf (fld w 6 4)) (rmOf (fld w 10 3)) (bitAt w 13) (bitAt w 14), zeroField w 15 10 :: ([badField 2 (3 ≤ fld w 2 4 || (!bitAt w 14 && (fmtOf (fld w 2 4)).width != (fmtOf (fld w 6 4)).width)), badField 6 (3 ≤ fld w 6 4), rndChk w 10] ++ ecChk w)⟩
  | 0x16 => some ⟨.gsum (ectlOf w) (fmtOf (fld w 0 4)) (bitAt w 4), zeroField w 5 20 :: ([badField 0 (12 ≤ fld w 0 4 || (bitAt w 4 && fld w 0 4 < 7))] ++ ecChk w)⟩
  | 0x17 => some ⟨.gver (ectlOf w), zeroField w 0 25 :: ([] ++ ecChk w)⟩
  | 0x20 => some ⟨.cpl (ectlOf w), zeroField w 0 25 :: ([] ++ ecChk w)⟩
  | 0x21 => some ⟨.cpc (ectlOf w), zeroField w 0 25 :: ([] ++ ecChk w)⟩
  | 0x22 => some ⟨.cph (ectlOf w), zeroField w 0 25 :: ([] ++ ecChk w)⟩
  | 0x23 => some ⟨.cpv (ectlOf w), zeroField w 0 25 :: ([] ++ ecChk w)⟩
  | 0x24 => some ⟨.cpabn (ectlOf w) (bitAt w 0), zeroField w 1 24 :: ([] ++ ecChk w)⟩
  | 0x28 => some ⟨.tsend (ectlOf w), zeroField w 0 25 :: ([] ++ ecChk w)⟩
  | 0x29 => some ⟨.trecv (ectlOf w), zeroField w 0 25 :: ([] ++ ecChk w)⟩
  | 0x2A => some ⟨.clred (ectlOf w) (fmtOf (fld w 0 4)) (rmOf (fld w 4 3)) (bitAt w 7), zeroField w 8 17 :: ([badField 0 (12 ≤ fld w 0 4 || (3 ≤ fld w 0 4 && fld w 0 4 ≤ 6)), badField 4 (4 ≤ fld w 4 3)] ++ ecChk w)⟩
  | 0x2B => some ⟨.clgath (ectlOf w), zeroField w 0 25 :: ([] ++ ecChk w)⟩
  | 0x2C => some ⟨.clbcst (ectlOf w), zeroField w 0 25 :: ([] ++ ecChk w)⟩
  | 0x30 => some ⟨.atom (ectlOf w) (atomOpOf (fld w 0 4)) (atomKindOf (fld w 4 2)) (bitAt w 6), zeroField w 7 18 :: ([badField 0 (9 ≤ fld w 0 4 || (fld w 4 2 == 2 && fld w 0 4 != 0)), badField 4 (fld w 4 2 == 3)] ++ ecChk w)⟩
  | _ => none

/-- The lane slot: format LN (R73, R74, R180). -/
def decodeLane (w : Nat) : Option Decoded :=
  match fld w 56 8 with
  | 0x00 => some ⟨.nop, [zeroField w 0 56]⟩
  | 0x01 => some ⟨.pbind (Fin.ofNat 8 (w / 2 ^ 53)) (Fin.ofNat 8 (w / 2 ^ 50)) (laneAt w) (Fin.ofNat 8 (w / 2 ^ 43)) (regAt w 38) (bitAt w 18), [zeroField w 0 18, zeroField w 35 3, zeroField w 19 16, badField 47 (6 ≤ fld w 47 3), badField 43 (fld w 43 3 == 0 || fld w 43 3 == 5 || fld w 43 3 == 7)]⟩
  | 0x02 => some ⟨.pwalk (Fin.ofNat 8 (w / 2 ^ 53)) (regAt w 38) (Fin.ofNat 4 (w / 2 ^ 35)), [zeroField w 0 18, zeroField w 18 1, zeroField w 19 16, zeroField w 50 3, zeroField w 47 3, zeroField w 46 1, zeroField w 43 3, badField 35 (4 ≤ fld w 35 3)]⟩
  | 0x03 => some ⟨.prst (Fin.ofNat 8 (w / 2 ^ 53)), [zeroField w 0 18, zeroField w 18 1, zeroField w 19 16, zeroField w 35 3, zeroField w 38 5, zeroField w 50 3, zeroField w 47 3, zeroField w 46 1, zeroField w 43 3]⟩
  | 0x04 => some ⟨.ptag (Fin.ofNat 8 (w / 2 ^ 53)) (BitVec.ofNat 16 (w / 2 ^ 19)), [zeroField w 0 18, zeroField w 18 1, zeroField w 35 3, zeroField w 38 5, zeroField w 50 3, zeroField w 47 3, zeroField w 46 1, zeroField w 43 3]⟩
  | 0x05 => some ⟨.pstamp (Fin.ofNat 8 (w / 2 ^ 53)) (BitVec.ofNat 16 (w / 2 ^ 19)), [zeroField w 0 18, zeroField w 18 1, zeroField w 35 3, zeroField w 38 5, zeroField w 50 3, zeroField w 47 3, zeroField w 46 1, zeroField w 43 3]⟩
  | 0x06 => some ⟨.lmov (Fin.ofNat 8 (w / 2 ^ 50)) (laneAt w) (Fin.ofNat 8 (w / 2 ^ 43)) (regAt w 38), [zeroField w 0 18, zeroField w 18 1, zeroField w 19 16, zeroField w 35 3, zeroField w 53 3, badField 47 (6 ≤ fld w 47 3), badField 43 (fld w 50 3 == fld w 43 3)]⟩
  | 0x07 => some ⟨.pstat (Fin.ofNat 8 (w / 2 ^ 53)) (regAt w 38) (Fin.ofNat 32 (fld w 19 16)), [zeroField w 0 18, zeroField w 18 1, zeroField w 35 3, zeroField w 50 3, zeroField w 47 3, zeroField w 46 1, zeroField w 43 3, badField 19 ((6 ≤ fld w 19 16 && fld w 19 16 < 16) || 32 ≤ fld w 19 16), if 4 ≤ fld w 19 16 then zeroField w 53 3 else none]⟩
  | 0x08 => some ⟨.pflush (Fin.ofNat 8 (w / 2 ^ 53)), [zeroField w 0 18, zeroField w 18 1, zeroField w 19 16, zeroField w 35 3, zeroField w 38 5, zeroField w 50 3, zeroField w 47 3, zeroField w 46 1, zeroField w 43 3]⟩
  | _ => none

/-- A slot word read in its class, before its reserved-field checks are judged. -/
def readSlot (c : SlotClass) (w : Nat) : Option Decoded :=
  match c with
  | .ctl => decodeCtl w
  | .scalar => decodeScalar w
  | .vec => decodeVec w
  | .eng => decodeEng w
  | .lane => decodeLane w

/-- A slot of 64 bits decodes to its operation, or to the error that R75 or R466 names. -/
def decodeSlot (c : SlotClass) (w : Nat) : Except DecodeErr Instr :=
  match readSlot c w with
  | none => .error (.illegalOp (fld w 56 8))
  | some d =>
    match firstBad d.chk with
    | some p => .error (.reserved p)
    | none => .ok d.instr

/-- The bits of slot s of a bundle (R60). -/
def slotBits (b : Bundle) (s : Nat) : Nat := b.toNat / 2 ^ (64 * s) % 2 ^ 64

/-- The operation in slot s of a bundle, or its error. -/
def decodeBundleSlot (b : Bundle) (s : Nat) : Except DecodeErr Instr := decodeSlot (slotClass s) (slotBits b s)

/-! ## The encoder -/

/-- Format SR (R69). -/
def srWord (op : Nat) (xd xa xb xc : Reg) (fn : Nat) : Nat :=
  op * 2 ^ 56 + xd.val * 2 ^ 51 + xa.val * 2 ^ 46 + xb.val * 2 ^ 41 + xc.val * 2 ^ 36 + fn * 2 ^ 30

/-- Format SI (R69). -/
def siWord (op : Nat) (xd xa : Reg) (imm : Nat) : Nat := op * 2 ^ 56 + xd.val * 2 ^ 51 + xa.val * 2 ^ 46 + imm

/-- Format CB (R70). -/
def cbWord (op : Nat) (xa xb : Reg) (target : Nat) : Nat :=
  op * 2 ^ 56 + xa.val * 2 ^ 51 + xb.val * 2 ^ 46 + target

/-- Format CM (R70). -/
def cmWord (op id arg : Nat) : Nat := op * 2 ^ 56 + id * 2 ^ 40 + arg

/-- Format CS (R70). -/
def csWord (op : Nat) (sem : Fin 256) (xt : Reg) (flags : Nat) (xd : Reg) : Nat :=
  op * 2 ^ 56 + sem.val * 2 ^ 48 + xt.val * 2 ^ 43 + flags * 2 ^ 40 + xd.val * 2 ^ 35

/-- Format CX (R70). -/
def cxWord (op : Nat) (xd xa : Reg) (imm : Nat) : Nat := op * 2 ^ 56 + xd.val * 2 ^ 51 + xa.val * 2 ^ 46 + imm

/-- Format VR (R71). -/
def vrWord (op : Nat) (c : VCtl) (od odr oa oar ob obr oc ocr k : Nat) : Nat :=
  op * 2 ^ 56 + c.fmt.code * 2 ^ 52 + od * 2 ^ 47 + odr * 2 ^ 43 + oa * 2 ^ 38 + oar * 2 ^ 34 + ob * 2 ^ 29
    + obr * 2 ^ 25 + oc * 2 ^ 20 + ocr * 2 ^ 16 + c.cpl.toNat * 2 ^ 15 + c.mp.val * 2 ^ 13 + c.rnd.code * 2 ^ 10
    + c.sat.toNat * 2 ^ 9 + c.xs.val * 2 ^ 4 + k

/-- Format VR for the mask and whole-tile operations, whose row, rounding and saturation fields are zero (R167). -/
def vmWord (op fmt od oa ob xs k : Nat) : Nat :=
  op * 2 ^ 56 + fmt * 2 ^ 52 + od * 2 ^ 47 + oa * 2 ^ 38 + ob * 2 ^ 29 + xs * 2 ^ 4 + k

/-- Format EC (R72). -/
def ecWord (op : Nat) (e : ECtl) (k : Nat) : Nat :=
  op * 2 ^ 56 + e.wsem.val * 2 ^ 48 + e.wx.val * 2 ^ 43 + e.ssem.val * 2 ^ 35 + e.sinc.val * 2 ^ 31
    + e.xa.val * 2 ^ 26 + e.q.toNat * 2 ^ 25 + k

/-- Format EC for the commands that act at issue (R211). -/
def ecRaw (op : Nat) (xa : Reg) (k : Nat) : Nat := op * 2 ^ 56 + xa.val * 2 ^ 26 + k

/-- Format LN (R73). -/
def lnWord (op : Nat) (port sec : Fin 8) (lane : LaneRef) (stn : Fin 8) (xa : Reg) (lvl tag : Nat) : Nat :=
  op * 2 ^ 56 + port.val * 2 ^ 53 + sec.val * 2 ^ 50 + lane.num.val * 2 ^ 47 + lane.ccw.toNat * 2 ^ 46
    + stn.val * 2 ^ 43 + xa.val * 2 ^ 38 + lvl * 2 ^ 35 + tag * 2 ^ 19

/-- The class and the bits of an instruction that a slot can hold; none for an event (R69 to R74). NOP encodes in
any class; it is given in ctl. -/
def encode : Instr → Option (SlotClass × Nat)
  | .nop => some (.ctl, 0)
  | .add xd xa xb => some (.scalar, srWord 1 xd xa xb 0 0)
  | .sub xd xa xb => some (.scalar, srWord 2 xd xa xb 0 0)
  | .and xd xa xb => some (.scalar, srWord 3 xd xa xb 0 0)
  | .or xd xa xb => some (.scalar, srWord 4 xd xa xb 0 0)
  | .xor xd xa xb => some (.scalar, srWord 5 xd xa xb 0 0)
  | .andn xd xa xb => some (.scalar, srWord 6 xd xa xb 0 0)
  | .shl xd xa xb => some (.scalar, srWord 7 xd xa xb 0 0)
  | .shr xd xa xb => some (.scalar, srWord 8 xd xa xb 0 0)
  | .sra xd xa xb => some (.scalar, srWord 9 xd xa xb 0 0)
  | .rotl xd xa xb => some (.scalar, srWord 10 xd xa xb 0 0)
  | .mul xd xa xb => some (.scalar, srWord 11 xd xa xb 0 0)
  | .mulh xd xa xb => some (.scalar, srWord 12 xd xa xb 0 0)
  | .mulhu xd xa xb => some (.scalar, srWord 13 xd xa xb 0 0)
  | .div xd xa xb => some (.scalar, srWord 14 xd xa xb 0 0)
  | .divu xd xa xb => some (.scalar, srWord 15 xd xa xb 0 0)
  | .rem xd xa xb => some (.scalar, srWord 16 xd xa xb 0 0)
  | .remu xd xa xb => some (.scalar, srWord 17 xd xa xb 0 0)
  | .min xd xa xb => some (.scalar, srWord 18 xd xa xb 0 0)
  | .max xd xa xb => some (.scalar, srWord 19 xd xa xb 0 0)
  | .minu xd xa xb => some (.scalar, srWord 20 xd xa xb 0 0)
  | .maxu xd xa xb => some (.scalar, srWord 21 xd xa xb 0 0)
  | .slt xd xa xb => some (.scalar, srWord 22 xd xa xb 0 0)
  | .sltu xd xa xb => some (.scalar, srWord 23 xd xa xb 0 0)
  | .seq xd xa xb => some (.scalar, srWord 24 xd xa xb 0 0)
  | .sne xd xa xb => some (.scalar, srWord 25 xd xa xb 0 0)
  | .sel xd xa xb xc => some (.scalar, srWord 26 xd xa xb xc 0)
  | .clz xd xa => some (.scalar, srWord 27 xd xa 0 0 0)
  | .ctz xd xa => some (.scalar, srWord 28 xd xa 0 0 0)
  | .popc xd xa => some (.scalar, srWord 29 xd xa 0 0 0)
  | .bfx xd xa pos wm1 => some (.scalar, siWord 30 xd xa (wm1.val * 2 ^ 6 + pos.val))
  | .bfi xd xa pos wm1 => some (.scalar, siWord 31 xd xa (wm1.val * 2 ^ 6 + pos.val))
  | .addx xd xa xb sh => some (.scalar, srWord 32 xd xa xb 0 sh.val)
  | .addi xd xa imm => some (.scalar, siWord 40 xd xa imm.toNat)
  | .andi xd xa imm => some (.scalar, siWord 41 xd xa imm.toNat)
  | .ori xd xa imm => some (.scalar, siWord 42 xd xa imm.toNat)
  | .xori xd xa imm => some (.scalar, siWord 43 xd xa imm.toNat)
  | .shli xd xa n => some (.scalar, siWord 44 xd xa n.val)
  | .shri xd xa n => some (.scalar, siWord 45 xd xa n.val)
  | .srai xd xa n => some (.scalar, siWord 46 xd xa n.val)
  | .muli xd xa imm => some (.scalar, siWord 47 xd xa imm.toNat)
  | .slti xd xa imm => some (.scalar, siWord 48 xd xa imm.toNat)
  | .sltiu xd xa imm => some (.scalar, siWord 49 xd xa imm.toNat)
  | .movi xd imm => some (.scalar, siWord 50 xd 0 imm.toNat)
  | .movhi xd xa imm => some (.scalar, siWord 51 xd xa imm.toNat)
  | .ldb xd xa imm => some (.scalar, siWord 56 xd xa imm.toNat)
  | .ldbu xd xa imm => some (.scalar, siWord 57 xd xa imm.toNat)
  | .ldh xd xa imm => some (.scalar, siWord 58 xd xa imm.toNat)
  | .ldhu xd xa imm => some (.scalar, siWord 59 xd xa imm.toNat)
  | .ldw xd xa imm => some (.scalar, siWord 60 xd xa imm.toNat)
  | .ldwu xd xa imm => some (.scalar, siWord 61 xd xa imm.toNat)
  | .ldd xd xa imm => some (.scalar, siWord 62 xd xa imm.toNat)
  | .stb xd xa imm => some (.scalar, siWord 63 xd xa imm.toNat)
  | .sth xd xa imm => some (.scalar, siWord 64 xd xa imm.toNat)
  | .stw xd xa imm => some (.scalar, siWord 65 xd xa imm.toNat)
  | .std xd xa imm => some (.scalar, siWord 66 xd xa imm.toNat)
  | .fadd xd xa xb rnd => some (.scalar, srWord 72 xd xa xb 0 rnd.code)
  | .fsub xd xa xb rnd => some (.scalar, srWord 73 xd xa xb 0 rnd.code)
  | .fmul xd xa xb rnd => some (.scalar, srWord 74 xd xa xb 0 rnd.code)
  | .ffma xd xa xb xc rnd => some (.scalar, srWord 75 xd xa xb xc rnd.code)
  | .fdiv xd xa xb rnd => some (.scalar, srWord 76 xd xa xb 0 rnd.code)
  | .fsqrt xd xa rnd => some (.scalar, srWord 77 xd xa 0 0 rnd.code)
  | .fmin xd xa xb => some (.scalar, srWord 78 xd xa xb 0 0)
  | .fmax xd xa xb => some (.scalar, srWord 79 xd xa xb 0 0)
  | .feq xd xa xb => some (.scalar, srWord 80 xd xa xb 0 0)
  | .flt xd xa xb => some (.scalar, srWord 81 xd xa xb 0 0)
  | .fle xd xa xb => some (.scalar, srWord 82 xd xa xb 0 0)
  | .fcvtws xd xa rnd sat => some (.scalar, srWord 83 xd xa 0 0 (rnd.code + 8 * sat.toNat))
  | .fcvtsw xd xa rnd => some (.scalar, srWord 84 xd xa 0 0 rnd.code)
  | .fclass xd xa => some (.scalar, srWord 85 xd xa 0 0 0)
  | .sysrd xd num => some (.scalar, siWord 88 xd 0 num.toNat)
  | .syswr xa num => some (.scalar, siWord 89 0 xa num.toNat)
  | .sysset xd xa num => some (.scalar, siWord 90 xd xa num.toNat)
  | .sysclr xd xa num => some (.scalar, siWord 91 xd xa num.toNat)
  | .beq xa xb target => some (.ctl, cbWord 1 xa xb target.toNat)
  | .bne xa xb target => some (.ctl, cbWord 2 xa xb target.toNat)
  | .blt xa xb target => some (.ctl, cbWord 3 xa xb target.toNat)
  | .bge xa xb target => some (.ctl, cbWord 4 xa xb target.toNat)
  | .bltu xa xb target => some (.ctl, cbWord 5 xa xb target.toNat)
  | .bgeu xa xb target => some (.ctl, cbWord 6 xa xb target.toNat)
  | .jmp target => some (.ctl, cbWord 7 0 0 target.toNat)
  | .jmpx xa => some (.ctl, cbWord 8 xa 0 0)
  | .call target => some (.ctl, cbWord 9 0 0 target.toNat)
  | .callx xa => some (.ctl, cbWord 10 xa 0 0)
  | .ret => some (.ctl, cbWord 11 0 0 0)
  | .loop lc xa trip last => some (.ctl, 12 * 2 ^ 56 + lc.val * 2 ^ 54 + xa.val * 2 ^ 49 + trip.toNat * 2 ^ 24 + last.toNat)
  | .lexit xa => some (.ctl, cbWord 13 xa 0 0)
  | .safe cp => some (.ctl, cmWord 16 (match cp with | none => 0 | some c => 0x8000 + c.val) 0)
  | .segend seg count => some (.ctl, cmWord 17 seg.toNat count.toNat)
  | .halt status => some (.ctl, cmWord 18 0 status.toNat)
  | .trap id arg => some (.ctl, cmWord 19 id.toNat arg.toNat)
  | .eret => some (.ctl, cmWord 20 0 0)
  | .swait sem xt scope => some (.ctl, csWord 24 sem xt scope.code 0)
  | .ssig sem xt => some (.ctl, csWord 25 sem xt 0 0)
  | .srd xd sem status => some (.ctl, csWord 26 sem 0 status.toNat xd)
  | .sset sem xt => some (.ctl, csWord 27 sem xt 0 0)
  | .sclre sem => some (.ctl, csWord 28 sem 0 0 0)
  | .fence scope => some (.ctl, cxWord 29 0 0 scope.code)
  | .srel mask => some (.ctl, cxWord 30 0 0 mask.toNat)
  | .sacq mask => some (.ctl, cxWord 31 0 0 mask.toNat)
  | .axrd xd form => some (.ctl, cxWord 48 xd 0 form.val)
  | .axslew xa => some (.ctl, cxWord 49 0 xa 0)
  | .axskip xa => some (.ctl, cxWord 50 0 xa 0)
  | .hbrd xd n => some (.ctl, cxWord 51 xd 0 n.val)
  | .accuse side => some (.ctl, cxWord 52 0 0 side.val)
  | .appeal xd => some (.ctl, cxWord 53 xd 0 0)
  | .ifst xd => some (.ctl, cxWord 54 xd 0 0)
  | .spmrd xd n => some (.ctl, cxWord 55 xd 0 n.val)
  | .spmwr xa => some (.ctl, cxWord 56 0 xa 0)
  | .spare xd => some (.ctl, cxWord 57 xd 0 0)
  | .selfoff => some (.ctl, cxWord 58 0 0 0)
  | .vadd c od oa ob => some (.vec, vrWord 1 c od.code od.rowField oa.code oa.rowField ob.code ob.rowField 0 0 0)
  | .vsub c od oa ob => some (.vec, vrWord 2 c od.code od.rowField oa.code oa.rowField ob.code ob.rowField 0 0 0)
  | .vmul c od oa ob => some (.vec, vrWord 3 c od.code od.rowField oa.code oa.rowField ob.code ob.rowField 0 0 0)
  | .vfma c od oa ob oc => some (.vec, vrWord 4 c od.code od.rowField oa.code oa.rowField ob.code ob.rowField oc.code oc.rowField 0)
  | .vfms c od oa ob oc => some (.vec, vrWord 5 c od.code od.rowField oa.code oa.rowField ob.code ob.rowField oc.code oc.rowField 0)
  | .vmin c od oa ob => some (.vec, vrWord 6 c od.code od.rowField oa.code oa.rowField ob.code ob.rowField 0 0 0)
  | .vmax c od oa ob => some (.vec, vrWord 7 c od.code od.rowField oa.code oa.rowField ob.code ob.rowField 0 0 0)
  | .vabs c od oa => some (.vec, vrWord 8 c od.code od.rowField oa.code oa.rowField 0 0 0 0 0)
  | .vneg c od oa => some (.vec, vrWord 9 c od.code od.rowField oa.code oa.rowField 0 0 0 0 0)
  | .vdiv c od oa ob => some (.vec, vrWord 10 c od.code od.rowField oa.code oa.rowField ob.code ob.rowField 0 0 0)
  | .vsqrt c od oa => some (.vec, vrWord 11 c od.code od.rowField oa.code oa.rowField 0 0 0 0 0)
  | .vrcp c od oa => some (.vec, vrWord 12 c od.code od.rowField oa.code oa.rowField 0 0 0 0 0)
  | .vrsq c od oa => some (.vec, vrWord 13 c od.code od.rowField oa.code oa.rowField 0 0 0 0 0)
  | .viadd c od oa ob => some (.vec, vrWord 16 c od.code od.rowField oa.code oa.rowField ob.code ob.rowField 0 0 0)
  | .visub c od oa ob => some (.vec, vrWord 17 c od.code od.rowField oa.code oa.rowField ob.code ob.rowField 0 0 0)
  | .vimul c od oa ob => some (.vec, vrWord 18 c od.code od.rowField oa.code oa.rowField ob.code ob.rowField 0 0 0)
  | .vimin c od oa ob => some (.vec, vrWord 19 c od.code od.rowField oa.code oa.rowField ob.code ob.rowField 0 0 0)
  | .vimax c od oa ob => some (.vec, vrWord 20 c od.code od.rowField oa.code oa.rowField ob.code ob.rowField 0 0 0)
  | .vand c od oa ob => some (.vec, vrWord 21 c od.code od.rowField oa.code oa.rowField ob.code ob.rowField 0 0 0)
  | .vor c od oa ob => some (.vec, vrWord 22 c od.code od.rowField oa.code oa.rowField ob.code ob.rowField 0 0 0)
  | .vxor c od oa ob => some (.vec, vrWord 23 c od.code od.rowField oa.code oa.rowField ob.code ob.rowField 0 0 0)
  | .vshl c od oa ob => some (.vec, vrWord 24 c od.code od.rowField oa.code oa.rowField ob.code ob.rowField 0 0 0)
  | .vshr c od oa ob => some (.vec, vrWord 25 c od.code od.rowField oa.code oa.rowField ob.code ob.rowField 0 0 0)
  | .vsra c od oa ob => some (.vec, vrWord 26 c od.code od.rowField oa.code oa.rowField ob.code ob.rowField 0 0 0)
  | .vimad c od oa ob oc => some (.vec, vrWord 27 c od.code od.rowField oa.code oa.rowField ob.code ob.rowField oc.code oc.rowField 0)
  | .vceq c md oa ob k => some (.vec, vrWord 32 c md.val 0 oa.code oa.rowField ob.code ob.rowField 0 0 k.val)
  | .vcne c md oa ob k => some (.vec, vrWord 33 c md.val 0 oa.code oa.rowField ob.code ob.rowField 0 0 k.val)
  | .vclt c md oa ob k => some (.vec, vrWord 34 c md.val 0 oa.code oa.rowField ob.code ob.rowField 0 0 k.val)
  | .vcle c md oa ob k => some (.vec, vrWord 35 c md.val 0 oa.code oa.rowField ob.code ob.rowField 0 0 k.val)
  | .vcun c md oa ob k => some (.vec, vrWord 36 c md.val 0 oa.code oa.rowField ob.code ob.rowField 0 0 k.val)
  | .viclt c md oa ob k => some (.vec, vrWord 37 c md.val 0 oa.code oa.rowField ob.code ob.rowField 0 0 k.val)
  | .vicltu c md oa ob k => some (.vec, vrWord 38 c md.val 0 oa.code oa.rowField ob.code ob.rowField 0 0 k.val)
  | .viceq c md oa ob k => some (.vec, vrWord 39 c md.val 0 oa.code oa.rowField ob.code ob.rowField 0 0 k.val)
  | .vsel c od oa ob => some (.vec, vrWord 40 c od.code od.rowField oa.code oa.rowField ob.code ob.rowField 0 0 0)
  | .vmov c od oa => some (.vec, vrWord 41 c od.code od.rowField oa.code oa.rowField 0 0 0 0 0)
  | .vlane c od oa => some (.vec, vrWord 42 c od.code od.rowField oa.code oa.rowField 16 0 0 0 0)
  | .vperm c od oa ob => some (.vec, vrWord 43 c od.code od.rowField oa.code oa.rowField ob.code ob.rowField 0 0 0)
  | .vrot c od oa => some (.vec, vrWord 44 c od.code od.rowField oa.code oa.rowField 16 0 0 0 0)
  | .viota c od => some (.vec, vrWord 45 c od.code od.rowField 16 0 0 0 0 0 0)
  | .vradd c od oa => some (.vec, vrWord 48 c od.code od.rowField oa.code oa.rowField 0 0 0 0 0)
  | .vrmax c od oa => some (.vec, vrWord 49 c od.code od.rowField oa.code oa.rowField 0 0 0 0 0)
  | .vrmin c od oa => some (.vec, vrWord 50 c od.code od.rowField oa.code oa.rowField 0 0 0 0 0)
  | .vamax c od oa => some (.vec, vrWord 51 c od.code od.rowField oa.code oa.rowField 0 0 0 0 0)
  | .vcvt c od oa src part => some (.vec, vrWord 56 c od.code od.rowField oa.code oa.rowField 0 0 0 0 (src.code + 8 * part.toNat))
  | .vrint c od oa => some (.vec, vrWord 57 c od.code od.rowField oa.code oa.rowField 0 0 0 0 0)
  | .vrng c od => some (.vec, vrWord 58 c od.code od.rowField 16 0 0 0 0 0 0)
  | .mset md ones => some (.vec, vmWord 64 0 md.val 0 0 0 ones.toNat)
  | .mand md ma mb => some (.vec, vmWord 65 0 md.val ma.val mb.val 0 0)
  | .mor md ma mb => some (.vec, vmWord 66 0 md.val ma.val mb.val 0 0)
  | .mnot md ma => some (.vec, vmWord 67 0 md.val ma.val 0 0 0)
  | .mpop od ma => some (.vec, vmWord 68 3 od.code ma.val 0 0 0 + od.rowField * 2 ^ 43)
  | .mrow md xs => some (.vec, vmWord 69 0 md.val 16 0 xs.val 0)
  | .mcol md xs => some (.vec, vmWord 70 0 md.val 16 0 xs.val 0)
  | .tzero t row whole mp cpl => some (.vec, vmWord 72 0 t.val 0 0 0 whole.toNat + row.val * 2 ^ 43 + mp.val * 2 ^ 13 + cpl.toNat * 2 ^ 15)
  | .tcpy td ta mp cpl => some (.vec, vmWord 73 0 td.val ta.val 0 0 0 + mp.val * 2 ^ 13 + cpl.toNat * 2 ^ 15)
  | .mxcfg xa entry => some (.eng, ecRaw 1 xa entry.val)
  | .mxgo e fbase fmode lcn ga zacc => some (.eng, ecWord 2 e (fbase.val + fmode.toNat * 2 ^ 4 + lcn.val * 2 ^ 5 + ga.toNat * 2 ^ 7 + zacc.toNat * 2 ^ 8))
  | .mxldb e fe ga => some (.eng, ecWord 3 e (fe.val + ga.toNat * 2 ^ 4))
  | .accz e a0 a1 => some (.eng, ecWord 4 e (a0.toNat + a1.toNat * 2))
  | .accdr e fe acc0 keep => some (.eng, ecWord 5 e (fe.val + acc0.toNat * 2 ^ 4 + keep.toNat * 2 ^ 5))
  | .ftset xa entry => some (.eng, ecRaw 6 xa entry.val)
  | .tolset xa entry => some (.eng, ecRaw 7 xa entry.val)
  | .mxstat xd n => some (.eng, ecRaw 8 0 (xd.val + n.val * 2 ^ 5))
  | .mxabn a d => some (.eng, ecRaw 9 0 (a.toNat + d.toNat * 2))
  | .cvt e dfmt fe rnd sat bcol ch chrow tns inv => some (.eng, ecWord 16 e (dfmt.code + fe.val * 2 ^ 4 + rnd.code * 2 ^ 8 + sat.toNat * 2 ^ 11 + bcol.toNat * 2 ^ 12 + ch.toNat * 2 ^ 13 + chrow.toNat * 2 ^ 14 + tns.toNat * 2 ^ 15 + inv.toNat * 2 ^ 16))
  | .qamax e fe zp init => some (.eng, ecWord 17 e (fe.val + zp.toNat * 2 ^ 4 + init.toNat * 2 ^ 5))
  | .qscl e tfmt m pow2 => some (.eng, ecWord 18 e (tfmt.code + m.val * 2 ^ 4 + pow2.toNat * 2 ^ 7))
  | .trn e keep => some (.eng, ecWord 19 e (keep.toNat))
  | .tbld e slot => some (.eng, ecWord 20 e (slot.val))
  | .tbev e slot ifmt ofmt rnd sat tile => some (.eng, ecWord 21 e (slot.val + ifmt.code * 2 ^ 2 + ofmt.code * 2 ^ 6 + rnd.code * 2 ^ 10 + sat.toNat * 2 ^ 13 + tile.toNat * 2 ^ 14))
  | .gsum e fmt bcol => some (.eng, ecWord 22 e (fmt.code + bcol.toNat * 2 ^ 4))
  | .gver e => some (.eng, ecWord 23 e (0))
  | .cpl e => some (.eng, ecWord 32 e (0))
  | .cpc e => some (.eng, ecWord 33 e (0))
  | .cph e => some (.eng, ecWord 34 e (0))
  | .cpv e => some (.eng, ecWord 35 e (0))
  | .cpabn e all => some (.eng, ecWord 36 e (all.toNat))
  | .tsend e => some (.eng, ecWord 40 e (0))
  | .trecv e => some (.eng, ecWord 41 e (0))
  | .clred e ofmt rnd sat => some (.eng, ecWord 42 e (ofmt.code + rnd.code * 2 ^ 4 + sat.toNat * 2 ^ 7))
  | .clgath e => some (.eng, ecWord 43 e (0))
  | .clbcst e => some (.eng, ecWord 44 e (0))
  | .atom e op kind retry => some (.eng, ecWord 48 e (op.code + kind.code * 2 ^ 4 + retry.toNat * 2 ^ 6))
  | .pbind q sec lane stn xa wr => some (.lane, lnWord 1 q sec lane stn xa 0 0 + wr.toNat * 2 ^ 18)
  | .pwalk q xa lvl => some (.lane, lnWord 2 q 0 ⟨false, 0⟩ 0 xa lvl.val 0)
  | .prst q => some (.lane, lnWord 3 q 0 ⟨false, 0⟩ 0 0 0 0)
  | .ptag q tag => some (.lane, lnWord 4 q 0 ⟨false, 0⟩ 0 0 0 tag.toNat)
  | .pstamp q tag => some (.lane, lnWord 5 q 0 ⟨false, 0⟩ 0 0 0 tag.toNat)
  | .lmov src lane dst xa => some (.lane, lnWord 6 0 src lane dst xa 0 0)
  | .pstat q xd n => some (.lane, lnWord 7 q 0 ⟨false, 0⟩ 0 xd 0 n.val)
  | .pflush q => some (.lane, lnWord 8 q 0 ⟨false, 0⟩ 0 0 0 0)
  | .cycleCountMismatch => none
  | .safePointStarvationFault => none
  | .arithmeticCheckFault _ => none
  | .resultWriteback => none
  | .segmentStart => none
  | .holdEnd => none
  | .replayNotice _ _ => none
  | .replayAck _ => none
  | .replayStart => none
  | .replayWaitTimeout => none
  | .compareWord _ => none
  | .timestampBeatSend _ => none
  | .timestampBeat _ _ => none
  | .abscissaAutoStep => none
  | .trimUpdate => none
  | .abscissaStep => none
  | .timedFlitRelease _ _ => none
  | .mbaperFlitArrival _ _ => none
  | .meshFlitArrival _ _ => none
  | .commandStart _ _ => none
  | .commandCompletion _ _ => none
  | .matrixStep => none
  | .swap => none
  | .drain => none
  | .portPrefetchRead _ => none
  | .portPushLand _ => none
  | .lmovRow => none
  | .sectorFree _ => none
  | .copyRowIssue _ => none
  | .translationComplete _ => none
  | .atsCompletion _ _ _ => none
  | .hbmBankAccess _ _ => none
  | .copyRowLand _ _ _ => none
  | .putAcknowledgement _ _ _ => none
  | .completionTimeout _ => none
  | .faultRecordRead => none
  | .priGroupResponse _ _ _ => none
  | .atsInvalidation _ _ _ => none
  | .atsInvalidationComplete => none
  | .invalidationComplete => none
  | .atomRequest _ => none
  | .atomResponse _ _ => none
  | .atomTimeout _ => none
  | .fabricPathLost _ => none
  | .replayEntryExpiry => none
  | .timedRowLand _ => none
  | .clredResult _ => none
  | .heartbeatSend => none
  | .heartbeat _ _ => none
  | .periodEnd => none
  | .accusation _ _ => none
  | .appealMessage _ _ => none
  | .readmissionVote _ _ => none
  | .fenceNotice _ _ => none
  | .liftNotice _ _ => none
  | .voteWindowEnd _ => none
  | .domainBoundary => none
  | .fenceGraceEnd _ => none
  | .appealExpiry => none
  | .ifstComplete => none
  | .spareFlashWrite => none
  | .queueDoorbell _ _ => none
  | .queueFetch _ _ _ => none
  | .launch _ _ _ => none
  | .cond _ => none
  | .loopNode _ => none
  | .loopNodeReread _ => none
  | .switch _ => none
  | .signalWrite _ => none
  | .signalMsix _ => none
  | .fencePacket _ => none
  | .dispatch => none
  | .remoteLaunch _ _ => none
  | .readyReport _ _ => none
  | .armingDeadline _ => none
  | .armedStart _ => none
  | .cellStart _ => none
  | .haltReport _ _ _ => none
  | .packetCompletion _ => none
  | .watchdogLimit _ => none
  | .preemptionRequest _ _ => none
  | .saveComplete => none
  | .fullSaveComplete => none
  | .checkpointAck _ _ => none
  | .fenceReport _ _ _ _ => none
  | .resumeStart _ => none
  | .apexMismatch => none
  | .apexRestart => none
  | .eventRecordWrite => none
  | .eventHeadWrite _ => none
  | .pageServiced _ _ _ _ => none
  | .invalidateDeviceTables _ _ _ _ => none
  | .suspendLaunch _ _ => none
  | .abandonLaunch _ _ => none
  | .abandonCopy _ _ _ _ => none
  | .enableQueue _ _ => none
  | .resetQueue _ _ => none
  | .stageFirmware _ _ _ _ _ => none
  | .activateFirmware _ => none
  | .firmwareActivation => none
  | .clearServiceHold _ _ _ => none
  | .vfBind _ _ => none
  | .apertureAccess _ _ _ => none
  | .getMeasurements => none
  | .rdmaWrite _ _ _ => none
  | .rdmaRead _ _ _ => none
  | .rdmaSend _ _ => none
  | .powerOn => none
  | .moduleReset => none
  | .thermalTrip => none
  | .registerWrite _ _ _ => none
  | .illegalCodeUnitFetch => none
  | .memoryBitError _ _ _ _ => none
  | .cellFallsSilent => none

/-- The slot index in which a bundle holds an operation of a class alone (sa for a scalar one). -/
def SlotClass.index : SlotClass → Nat
  | .ctl => 0 | .scalar => 1 | .vec => 3 | .eng => 4 | .lane => 5

/-- The bundle that holds one operation and NOP in the other slots (R60). -/
def encodeBundle (i : Instr) : Option Bundle :=
  (encode i).map (fun p => BitVec.ofNat 384 (p.2 * 2 ^ (64 * p.1.index)))

/-- The first operation other than NOP among a bundle's slots from s on, NOP if there is none; an undecodable slot
refuses the bundle. -/
def firstOp (b : Bundle) : Nat → Nat → Option Instr
  | 0, _ => some .nop
  | n + 1, s =>
    match decodeBundleSlot b s with
    | .error _ => none
    | .ok .nop => firstOp b n (s + 1)
    | .ok i =>
      match firstOp b n (s + 1) with
      | none => none
      | some _ => some i

/-- The instruction in a bundle whose low bits are given, for the host: bit 0 is bundle bit 0 (R60), and every bundle
bit above the given ones is zero. -/
def decodeTableWord (nbits w : Nat) : Option Instr := firstOp (BitVec.ofNat 384 (w % 2 ^ nbits)) 6 0

end Sys2Proof
end

