-- ==== Sys2Proof/Machine/Tiles.lean ====
section
/-! DEFINITION. Guarded tiles: layout, header fields, element values, checksums, exact verification, construction
(R202 to R205, R237). -/

namespace Sys2Proof.Machine

/-! ## The header row (R203) -/

/-- The header fields of a guarded tile (R203). -/
structure Hdr where
  code   : Nat
  orient : Bool
  flag   : Bool
  tag    : BitVec 16
  vrows  : Nat
  vcols  : Nat
  ty     : BitVec 32
  tx     : BitVec 32
  corner : Nat
  /-- The 256 bytes of the scales field, little-endian. -/
  scales : Nat
  deriving DecidableEq, Repr

/-- Bytes off to off + n - 1 of a row as a number. -/
def rowField (r : Row) (off n : Nat) : Nat := getField r.toNat (8 * off) (8 * n)

/-- The header fields of a row. -/
def hdrOf (r : Row) : Hdr :=
  { code := rowField r 0 1 % 16, orient := r.getLsbD 4, flag := r.getLsbD 8, tag := BitVec.extractLsb' 16 16 r, vrows := rowField r 4 1,
    vcols := rowField r 5 1, ty := BitVec.extractLsb' 64 32 r, tx := BitVec.extractLsb' 96 32 r, corner := rowField r 16 4,
    scales := rowField r 64 256 }

/-- The format of a header's code, if it is one. -/
def tileFmt (c : Nat) : Option Fmt := if c ≤ 0xB then some (fmtOf c) else none

/-- Scale bytes that a format uses (R204). -/
def scaleBytes (f : Fmt) : Nat :=
  match f with
  | .e4m3 => 128
  | .e5m2 => 128
  | .e2m1 => 128
  | .dx8 => 256
  | .dx4 => 256
  | _ => 0

/-- Rows of a guarded tile of a format (R202). -/
def tileRows (f : Fmt) : Nat := f.width + 2

/-- Are the header's reserved bits and bytes zero, its extents below 64 and its format code assigned (R203, R204)? -/
def hdrZero (r : Row) : Bool :=
  match tileFmt (hdrOf r).code with
  | none => false
  | some f =>
    rowField r 0 1 / 32 = 0 && rowField r 1 1 / 2 = 0 && (hdrOf r).vrows < 64 && (hdrOf r).vcols < 64
      && rowField r 6 2 = 0 && rowField r 20 44 = 0 && rowField r 320 192 = 0
      && (hdrOf r).scales / 256 ^ scaleBytes f = 0

/-- The header row of a tile (R203, R204): a format without blocks has orientation 0, unused scale bytes are zero. -/
def hdrRow (f : Fmt) (h : Hdr) : Row :=
  BitVec.ofNat 4096 (f.code + (if h.orient && f.isBlock then 16 else 0) + (if h.flag then 2 ^ 8 else 0)
    + h.tag.toNat * 2 ^ 16 + h.vrows % 64 * 2 ^ 32 + h.vcols % 64 * 2 ^ 40 + h.ty.toNat * 2 ^ 64 + h.tx.toNat * 2 ^ 96
    + h.corner % 2 ^ 32 * 2 ^ 128 + h.scales % 256 ^ scaleBytes f * 2 ^ 512)

/-! ## Elements (R202, R204) -/

/-- A list cut into pieces of `n`; `fuel` bounds their number. -/
def chunks {α : Type} (n : Nat) : Nat → List α → List (List α)
  | 0, _ => []
  | fuel + 1, l => l.take n :: chunks n fuel (l.drop n)

/-- The 64 rows of 64 element codes in a tile's data rows (R202). -/
def tileCodes (f : Fmt) (data : List Row) : List (List Nat) :=
  chunks 64 64 ((data.take f.width).map (rowElems f.width)).flatten

/-- The data rows of 64 × 64 element codes (R202). -/
def tileData (f : Fmt) (codes : List (List Nat)) : List Row :=
  (chunks (4096 / f.width) f.width codes.flatten).map (rowOfElems f.width)

/-- The index of the block of element (i, j) (R204). -/
def blockIdx (orient : Bool) (i j : Nat) : Nat := if orient then 2 * j + i / 32 else 2 * i + j / 32

/-- The scale or header of a block by index (R204). -/
def blockHdr (f : Fmt) (scales idx : Nat) : Nat :=
  match f with
  | .dx8 => scales / 256 ^ (2 * idx) % 65536
  | .dx4 => scales / 256 ^ (2 * idx) % 65536
  | _ => scales / 256 ^ idx % 256

/-- The value of an element: a NaN with its FP32 pattern, an infinity, or an exact number (R35 to R42, R48, R50). -/
inductive EVal where
  | nan (c : Nat)
  | inf (s : Bool)
  | fin (x : Exact)
  deriving DecidableEq, Repr

/-- Value of a code of a floating-point format without a scale. -/
def floatVal (F : FFormat) (c : Nat) : EVal :=
  if F.isNaN c then .nan (nanWiden F c) else if F.isInf c then .inf (F.sign c) else .fin (F.exact c)

/-- Value of an element code under its block's scale or header, 0 for a format without blocks. -/
def elemVal (f : Fmt) (hdr c : Nat) : EVal :=
  if f.isFp then floatVal (floatFormat f) c
  else if f.isInt then .fin (exactInt (intValue f c))
  else if blockIsNaN f hdr then .nan (widenNanBlock f c)
  else match f with
    | .dx8 => .fin (dxExact f hdr c)
    | .dx4 => .fin (dxExact f hdr c)
    | _ =>
      match floatVal (floatFormat f) c with
      | .fin x => .fin { x with e := x.e + (hdr % 256 : Nat) - 127 }
      | v => v

/-- Values of a tile's valid region, by rows (R205). -/
def tileVals (f : Fmt) (h : Hdr) (codes : List (List Nat)) : List (List EVal) :=
  (codes.take (h.vrows + 1)).zipIdx.map fun p => (p.1.take (h.vcols + 1)).zipIdx.map fun q =>
    elemVal f (if f.isBlock then blockHdr f h.scales (blockIdx h.orient p.2 q.2) else 0) q.1

/-- Is some DX block of the valid region malformed (R41)? -/
def tileMalformed (f : Fmt) (h : Hdr) : Bool :=
  (f == .dx8 || f == .dx4) && (List.range 128).any fun idx =>
    let line := idx / 2
    let first := 32 * (idx % 2)
    let inside := if h.orient then line ≤ h.vcols && first ≤ h.vrows else line ≤ h.vrows && first ≤ h.vcols
    inside && dxMalformed f (blockHdr f h.scales idx)

/-! ## Checksums (R205) -/

/-- A checksum sum that is a NaN is the default NaN. R205 says only that a NaN element makes its sums NaN; R38 asks for the
default NaN of the matrix station, and R222 that a drain's sums are those that every other station recomputes (DESIGN CHOICE,
log 53). -/
def sumNaN (c : Nat) : Nat := if f32.isNaN c then f32.defaultNaN else c

/-- A checksum sum takes one more value, rounded once (R205). A NaN gives the default NaN by `sumNaN` (log 53). -/
def addVal (acc : Nat) (v : EVal) : Nat :=
  match v with
  | .nan _ => f32.defaultNaN
  | .inf s => sumNaN (fpAdd f32 rne false acc (f32.infinity s))
  | .fin x =>
    if x.m = 0 || f32.isNaN acc || f32.isInf acc then acc
    else f32.round rne false ((f32.exact acc).add .rne x)

/-- The sum of a list of values in order, from +0. -/
def sumVals (l : List EVal) : Nat := l.foldl addVal 0

/-- The column sums of the rows of a valid region, in row order (R205). -/
def columnSums (vals : List (List EVal)) : List Nat :=
  vals.foldl (fun acc row => acc.zipIdx.map fun p => match row[p.2]? with
    | some v => addVal p.1 v
    | none => p.1) (List.replicate 64 0)

/-- The row sums, 64 of them (R205). -/
def rowSums (vals : List (List EVal)) : List Nat := (vals.map sumVals ++ List.replicate 64 0).take 64

/-- The corner: the sum of the column sums in order (R205); a NaN is the default one (log 53). -/
def cornerSum (rc : List Nat) : Nat := rc.foldl (fun a c => sumNaN (fpAdd f32 rne false a c)) 0

/-- The trailer row from rc and cc (R205). -/
def trailerRow (rc cc : List Nat) : Row := rowOfElems 32 (rc ++ cc)

/-- rc and cc of a trailer row (R205). -/
def trailerVecs (r : Row) : List Nat × List Nat := let l := rowElems 32 r; (l.take 64, l.drop 64)

/-! ## Verification and construction -/

/-- The exact check of a tile's rows, header first and trailer last, against its stored checksums: 0 or the failure
code 0x22 or 0x30 (R205, R237). -/
def tileCheck (f : Fmt) (rows : List Row) : Nat :=
  let h := hdrOf (rows.headD 0)
  if tileMalformed f h then 0x22
  else
    let vals := tileVals f h (tileCodes f rows.tail)
    let rc := columnSums vals
    let cc := rowSums vals
    if trailerRow rc cc = (rows[tileRows f - 1]?).getD 0 && cornerSum rc = h.corner then 0 else 0x30

/-- A tile with its checksums: header, data rows, trailer, in order of the sector rows (R202 to R205). Elements outside
the valid region are written as zero. -/
def makeTile (f : Fmt) (h : Hdr) (codes : List (List Nat)) : List Row :=
  let codes := codes.zipIdx.map fun p => p.1.zipIdx.map fun q => if p.2 ≤ h.vrows && q.2 ≤ h.vcols then q.1 else 0
  let vals := tileVals f h codes
  let rc := columnSums vals
  hdrRow f { h with corner := cornerSum rc } :: (tileData f codes ++ [trailerRow rc (rowSums vals)])

/-- The order in which a tile's rows are written: data rows, trailer, header, each with its place in the tile (R220,
R236). -/
def writeOrder (rows : List Row) : List (Nat × Row) :=
  match rows with
  | [] => []
  | h :: l => (l.zipIdx.map fun p => (p.2 + 1, p.1)) ++ [(0, h)]

end Sys2Proof.Machine
end

