-- ==== Sys2Proof/Machine/MatrixMath.lean ====
section
/-! DEFINITION. The arithmetic of the matrix station: format and tolerance entries, block sums, a step's products with
its checksum row and column and its magnitudes, the drain's checks and correction, the spare map (R55 to R58, R198,
R206, R207, R217, R220 to R222, R228, R397). -/

namespace Sys2Proof.Machine

/-! ## The levels of a nest (R208) -/

/-- One level of a nest (R208). -/
structure Lvl where
  trip : Nat
  sa   : Int
  sb   : Int
  sc   : Int
  role : Nat
  en   : Bool
  deriving DecidableEq, Repr

/-- A level's word; a level not in use has trip 1, no strides and no role action (R208). -/
def lvlOf (v : Word) : Lvl :=
  if v.getLsbD 45 then
    { trip := fieldNat v 0 12 + 1, sa := sintOf 10 (fieldNat v 12 10), sb := sintOf 10 (fieldNat v 22 10),
      sc := sintOf 10 (fieldNat v 32 10), role := fieldNat v 42 3, en := true }
  else { trip := 1, sa := 0, sb := 0, sc := 0, role := 0, en := false }

/-- The six levels of a nest table, innermost first. -/
def nestLvls (n : Vector Word 10) : List Lvl := (n.toList.take 6).map lvlOf

/-- Does a nest table hold a drain role (R211)? -/
def hasDrain (n : Vector Word 10) : Bool := (nestLvls n).any fun l => l.en && l.role == 5

/-! ## Table entries (R206, R207) -/

/-- Fields of a format-table entry (R206). -/
structure FtEnt where
  fa  : Nat
  fb  : Nat
  fd  : Nat
  rnd : Nat
  sat : Bool
  za  : Nat
  zb  : Nat
  zpa : Bool
  zpb : Bool
  hi  : Nat
  deriving DecidableEq, Repr

/-- The fields of an entry's word. -/
def ftOf (v : Word) : FtEnt :=
  { fa := fieldNat v 0 4, fb := fieldNat v 4 4, fd := fieldNat v 8 4, rnd := fieldNat v 12 3, sat := v.getLsbD 15,
    za := fieldNat v 21 8, zb := fieldNat v 29 8, zpa := v.getLsbD 37, zpb := v.getLsbD 38, hi := fieldNat v 42 22 }

/-- Is the pair of formats one of R199's? -/
def pairOk (a b : Nat) : Bool :=
  ([(7, 7), (7, 8), (8, 7), (9, 9), (10, 10), (11, 11), (1, 1), (2, 2), (5, 5), (5, 6), (6, 5), (6, 6)] :
    List (Nat × Nat)).contains (a, b)

/-- The failure code of an entry in a matrix command, and of its tolerance where the command uses that: 0x21, 0x23, or 0 (R206,
R207). An offset d too large for its DX format fails no matrix command: R206 gives the field to the convert station
(DESIGN CHOICE, log 69). -/
def ftCode (e : FtEnt) (uses : Bool) (tau : BitVec 32) : Nat :=
  if e.hi ≠ 0 || 2 < e.fd || 4 < e.rnd || 0xB < e.fa || 0xB < e.fb then 0x21
  else if e.zpa && !(e.fa = 5 || e.fa = 6) || e.zpb && !(e.fb = 5 || e.fb = 6) then 0x21
  else if uses && (tau.toNat = 0 || 0x7F800000 ≤ tau.toNat) then 0x21
  else if !pairOk e.fa e.fb then 0x23 else 0

/-- Cycles of a step (R199). -/
def stepCycles (e : FtEnt) : Nat :=
  match (fmtOf e.fa).width with
  | 4 => 32
  | 8 => 64
  | _ => 128

/-- The rounding mode of a 3-bit code below 5 (R44). -/
def rmodeOf (n : Nat) : RMode :=
  match n with
  | 0 => .rne | 1 => .rtz | 2 => .rdn | 3 => .rup | _ => .srk

/-! ## Block sums (R55, R56) -/

/-- An operand of a block product: a NaN, an infinity, or an integer at the block's exponent. -/
inductive BVal where
  | nan
  | inf (s : Bool)
  | fin (v : Int)
  deriving DecidableEq, Repr

/-- The operands of one K block of a row of A or of a column of B: a NaN block, the exponent, the values. -/
structure KBlock where
  nan : Bool
  e   : Int
  vs  : List BVal
  deriving DecidableEq, Repr

/-- The product of two operands; infinity times zero is a NaN (R56). -/
def BVal.mul (a b : BVal) : BVal :=
  match a, b with
  | .nan, _ => .nan
  | _, .nan => .nan
  | .fin x, .fin y => .fin (x * y)
  | .inf s, .inf t => .inf (s != t)
  | .inf s, .fin y => if y = 0 then .nan else .inf (s != decide (y < 0))
  | .fin x, .inf t => if x = 0 then .nan else .inf (decide (x < 0) != t)

/-- The sum of products: opposite infinities give a NaN (R56). -/
def BVal.add (a b : BVal) : BVal :=
  match a, b with
  | .nan, _ => .nan
  | _, .nan => .nan
  | .fin x, .fin y => .fin (x + y)
  | .inf s, .inf t => if s = t then .inf s else .nan
  | .inf s, .fin _ => .inf s
  | .fin _, .inf t => .inf t

/-- The exact sum of a block's products. -/
def blockDot (a b : List BVal) : BVal := (List.zipWith BVal.mul a b).foldl BVal.add (.fin 0)

/-- What a block adds to an accumulator: its sum promoted to FP32 (R56). -/
def blockSum (a b : KBlock) : Nat :=
  if a.nan || b.nan then f32.defaultNaN
  else match blockDot a.vs b.vs with
    | .nan => f32.defaultNaN
    | .inf s => f32.infinity s
    | .fin v => f32.round rne false { exactInt v with e := a.e + b.e }

/-- A NaN that an accumulator takes is the default NaN (R56, R58). -/
def accNaN (c : Nat) : Nat := if f32.isNaN c then f32.defaultNaN else c

/-- An accumulator after the blocks of a row and a column, in increasing K order (R56). -/
def accBlocks (acc : Nat) (a b : List KBlock) : Nat :=
  (List.zipWith blockSum a b).foldl (fun x p => accNaN (fpAdd f32 rne false x p)) acc

/-- An accumulator after the products of BF16 or FP16 operands, each added with one rounding (R58). -/
def accFused (acc : Nat) (a b : List Nat) : Nat :=
  (List.zip a b).foldl (fun x p => accNaN (fpFma f32 rne false false p.1 p.2 x)) acc

/-- An element of an MX, DX or 8-bit integer block as an integer at the grid of its format (R35, R40, R42, R55). -/
def gridVal (f : Fmt) (z : Int) (hdr c : Nat) : BVal :=
  match f with
  | .i8 => .fin (intValue f c - z)
  | .u8 => .fin (intValue f c - z)
  | .dx8 =>
    let x := dxExact f hdr c
    .fin (x.at (((min (hdr % 256) (hdr / 256 % 256) : Nat) : Int) - 127 - 5))
  | .dx4 =>
    let x := dxExact f hdr c
    .fin (x.at (((min (hdr % 256) (hdr / 256 % 256) : Nat) : Int) - 127 - 1))
  | _ =>
    let F := floatFormat f
    if F.isNaN c then .nan else if F.isInf c then .inf (F.sign c) else .fin ((F.exact c).at F.emin)

/-- The exponent of a block's grid (R55, R56). -/
def gridExp (f : Fmt) (hdr : Nat) : Int :=
  match f with
  | .i8 => 0
  | .u8 => 0
  | .dx8 => ((min (hdr % 256) (hdr / 256 % 256) : Nat) : Int) - 127 - 5
  | .dx4 => ((min (hdr % 256) (hdr / 256 % 256) : Nat) : Int) - 127 - 1
  | _ => (floatFormat f).emin + (hdr % 256 : Nat) - 127

/-- One K block of operands with a header. -/
def kblock (f : Fmt) (z : Int) (hdr : Nat) (cs : List Nat) : KBlock :=
  { nan := f.isBlock && blockIsNaN f hdr, e := gridExp f hdr, vs := cs.map (gridVal f z hdr) }

/-- The K blocks of line `i` of a tile: of row i of A, or of column i of B (R56, R204). `hdr` gives the header of a
block by its number in the line. -/
def kblocks (f : Fmt) (z : Int) (hdr : Nat → Nat) (cs : List Nat) : List KBlock :=
  ((chunks 32 2 cs).filter fun l => !l.isEmpty).zipIdx.map fun p => kblock f z (hdr p.2) p.1

/-- An FP32 value less an integer, exactly, at the grid of FP32's lowest bit (R217). -/
def ckVal (c : Nat) (sub : Int) : BVal :=
  if f32.isNaN c then .nan
  else if f32.isInf c then .inf (f32.sign c)
  else .fin ((f32.exact c).at f32.emin - sub * 2 ^ 149)

/-- The K blocks of a line of checksums (R217). -/
def ckBlocks (sub : Int) (cs : List Nat) : List KBlock :=
  ((chunks 32 2 cs).filter fun l => !l.isEmpty).map fun l => { nan := false, e := f32.emin, vs := l.map (ckVal · sub) }

/-! ## Magnitudes (R217) -/

/-- The magnitude of an element, zero point subtracted; none for a NaN or an infinity. -/
def magOf (f : Fmt) (z : Int) (hdr c : Nat) : Option Exact :=
  match f with
  | .i8 => some { exactInt (intValue f c - z) with s := false }
  | .u8 => some { exactInt (intValue f c - z) with s := false }
  | _ => match elemVal f hdr c with
    | .fin x => some { x with s := false }
    | _ => none

/-- The exact sum of magnitudes; none when one is infinite. -/
def addMag (a b : Option Exact) : Option Exact :=
  match a, b with
  | some x, some y => some (x.add .rne y)
  | _, _ => none

/-- The exact product of magnitudes. -/
def mulMag (a b : Option Exact) : Option Exact :=
  match a, b with
  | some x, some y => some (x.mul y)
  | _, _ => none

/-- The exact value zero. -/
def exactZero : Exact := { s := false, m := 0, e := 0 }

/-- The exact sum of a list of magnitudes. -/
def sumMags (l : List (Option Exact)) : Option Exact := l.foldl addMag (some exactZero)

/-- A magnitude sum after a step's contribution, rounded up once (R217). -/
def addMu (mu : Nat) (x : Option Exact) : Nat :=
  match x with
  | none => f32.infinity false
  | some v => if f32.isInf mu then mu else f32.round { mode := .rup } false ((f32.exact mu).add .rup v)

/-! ## A step (R217) -/

/-- A tile as the array reads it: format, header, codes by rows, trailer vectors. -/
structure ATile where
  f   : Fmt
  h   : Hdr
  cs  : List (List Nat)
  rc  : List Nat
  cc  : List Nat
  deriving DecidableEq, Repr

/-- A tile from its rows. -/
def atileOf (f : Fmt) (rows : List Row) : ATile :=
  let t := trailerVecs ((rows[f.width + 1]?).getD 0)
  { f := f, h := hdrOf (rows.headD 0), cs := tileCodes f rows.tail, rc := t.1, cc := t.2 }

/-- Columns of a list of rows, 64 of them. -/
def columnsOf (cs : List (List Nat)) : List (List Nat) := (List.range 64).map fun j => cs.map fun r => (r[j]?).getD 0

/-- The zero point of an entry for an operand format (R42, R206). -/
def zeroPoint (on : Bool) (f : Fmt) (z : Nat) : Int := if on then intValue f z else 0

/-- The lines of an operand, of elements and of checksums last: 65 of them, the ones outside its extent empty. -/
def linesOf {α : Type} (n : Nat) (data : List α) (ck : α) (none_ : α) : Vector α 65 :=
  Vector.ofFn fun i => if i.val = 64 then ck else if i.val < n then (data[i.val]?).getD none_ else none_

/-- acc0 after a step whose A and B tiles are given, with their zero points (R217). -/
def stepAcc (acc : Acc) (a b : ATile) (za zb : Int) : Acc :=
  let kx := a.h.vcols + 1
  let mx := a.h.vrows + 1
  let nx := b.h.vcols + 1
  let arows := (a.cs.take mx).map (List.take kx)
  let bcols := ((columnsOf (b.cs.take kx)).take nx)
  let rc := a.rc.take kx
  let cc := b.cc.take kx
  let plain := a.f.isFp
  let hdrA := fun (i k : Nat) => if a.f.isBlock then blockHdr a.f a.h.scales (blockIdx a.h.orient i k) else 0
  let hdrB := fun (k j : Nat) => if b.f.isBlock then blockHdr b.f b.h.scales (blockIdx b.h.orient k j) else 0
  let el : Vector (Vector (BitVec 32) 65) 65 :=
    if plain then
      let la := linesOf mx (arows.map (List.map (toF32 a.f))) rc []
      let lb := linesOf nx (bcols.map (List.map (toF32 b.f))) cc []
      Vector.ofFn fun m => Vector.ofFn fun n =>
        BitVec.ofNat 32 (accFused acc.el[m][n].toNat la[m] lb[n])
    else
      let la := linesOf mx (arows.zipIdx.map fun p => kblocks a.f za (fun k => hdrA p.2 (32 * k)) p.1)
        (ckBlocks (mx * za) rc) []
      let lb := linesOf nx (bcols.zipIdx.map fun p => kblocks b.f zb (fun k => hdrB (32 * k) p.2) p.1)
        (ckBlocks (nx * zb) cc) []
      Vector.ofFn fun m => Vector.ofFn fun n =>
        BitVec.ofNat 32 (accBlocks acc.el[m][n].toNat la[m] lb[n])
  let ma := arows.zipIdx.map fun p => p.1.zipIdx.map fun q => magOf a.f za (hdrA p.2 q.2) q.1
  let mb := bcols.zipIdx.map fun p => p.1.zipIdx.map fun q => magOf b.f zb (hdrB q.2 p.2) q.1
  let sa := (List.range kx).map fun k => sumMags (ma.map fun r => (r[k]?).getD (some exactZero))
  let sb := (List.range kx).map fun k => sumMags (mb.map fun r => (r[k]?).getD (some exactZero))
  { el := el
    mcol := Vector.ofFn fun n => match mb[n.val]? with
      | some l => BitVec.ofNat 32 (addMu acc.mcol[n].toNat (sumMags (List.zipWith mulMag sa l)))
      | none => acc.mcol[n]
    mrow := Vector.ofFn fun m => match ma[m.val]? with
      | some l => BitVec.ofNat 32 (addMu acc.mrow[m].toNat (sumMags (List.zipWith mulMag l sb)))
      | none => acc.mrow[m]
    nb := acc.nb + BitVec.ofNat 32 (if plain then kx else (kx + 31) / 32) }

/-- The failure code of a step's headers: 0x25, 0x22 or 0 (R216). A format without blocks ignores its orientation bit
(R204). -/
def stepHdrCode (fa fb : Fmt) (ra rb : Row) : Nat :=
  let ha := hdrOf ra
  let hb := hdrOf rb
  if !hdrZero ra || !hdrZero rb || ha.code ≠ fa.code || hb.code ≠ fb.code then 0x25
  else if fa.isBlock && ha.orient || fb.isBlock && !hb.orient then 0x25
  else if ha.vcols ≠ hb.vrows then 0x25
  else if tileMalformed fa ha || tileMalformed fb hb then 0x22 else 0

/-! ## Spare rows and columns (R198, R397) -/

/-- The logical number of a physical one when some are retired; none if it is retired or spare (R198). -/
def logicalOf (retired : List Nat) (p : Nat) : Option Nat :=
  if retired.contains p then none
  else
    let k := p - (retired.eraseDups.filter fun r => r < p).length
    if k ≤ 64 then some k else none

/-- The physical number of a logical one (R198); 127 if there is none. -/
def physicalOf (retired : List Nat) (k : Nat) : Nat :=
  ((List.range 67).find? fun p => logicalOf retired p = some k).getD 127

/-- The rows and the columns that a spare map retires (R397). -/
def retiredRows (v : Word) : List Nat := [fieldNat v 0 7, fieldNat v 7 7]
def retiredCols (v : Word) : List Nat := [fieldNat v 14 7]

/-! ## The drain (R220 to R222, R228) -/

/-- An FP32 value with a bit changed at an element of a 65 × 65 array. -/
def mapEl (f : Nat → Nat → BitVec 32 → BitVec 32) (el : Vector (Vector (BitVec 32) 65) 65) :
    Vector (Vector (BitVec 32) 65) 65 :=
  Vector.ofFn fun m => Vector.ofFn fun n => f m.val n.val el[m][n]

/-- The accumulator as the drain reads it under MXINJ (R228). -/
def injectEl (inj spare : Word) (el : Vector (Vector (BitVec 32) 65) 65) : Vector (Vector (BitVec 32) 65) 65 :=
  let lr := logicalOf (retiredRows spare) (fieldNat inj 0 7)
  let lc := logicalOf (retiredCols spare) (fieldNat inj 7 7)
  let bit : BitVec 32 := 1#32 <<< fieldNat inj 14 5
  match fieldNat inj 19 2 with
  | 1 => if lr.isSome && lc.isSome
      then mapEl (fun m n v => if lr = some m && lc = some n then v ^^^ bit else v) el else el
  | 2 => mapEl (fun m _ v => if lr = some m then v ||| bit else v) el
  | 3 => mapEl (fun _ n v => if lc = some n then v ||| bit else v) el
  | _ => el

/-- The FP32 sum of a list in order, from +0. -/
def sumF32 (l : List Nat) : Nat := l.foldl (fun a c => fpAdd f32 rne false a c) 0

/-- Column n's data elements, the row `skip` left out. -/
def elCol (el : Vector (Vector (BitVec 32) 65) 65) (n : Fin 65) (skip : Nat) : List Nat :=
  ((el.toList.take 64).zipIdx.filter fun p => p.2 ≠ skip).map fun p => p.1[n].toNat

/-- Row m's data elements. -/
def elRow (el : Vector (Vector (BitVec 32) 65) 65) (m : Fin 65) : List Nat := (el[m].toList.take 64).map BitVec.toNat

/-- bound(μ) := τ × (nb + 65) × μ, rounded up once (R220). -/
def checkBound (tau : BitVec 32) (nb : Nat) (mu : Nat) : Nat :=
  if f32.isInf mu then mu
  else f32.round { mode := .rup } false (((f32.exact tau.toNat).mul (exactInt (nb + 65))).mul (f32.exact mu))

/-- within(s, p, μ) of R220, with μ's bound. -/
def withinBound (s p bound : Nat) : Bool :=
  let bad := fun c => f32.isNaN c || f32.isInf c
  if bad s || bad p then bad s && bad p
  else if f32.isInf bound then true
  else
    let d := (f32.exact s).add .rne (f32.exact p).neg
    !(f32.exact bound).magLt d

/-- Does column n's check pass (R220)? -/
def colCheck (tau : BitVec 32) (acc : Acc) (el : Vector (Vector (BitVec 32) 65) 65) (n : Fin 64) : Bool :=
  let n' : Fin 65 := ⟨n.val, by omega⟩
  withinBound (sumF32 (elCol el n' 64)) el[64][n'].toNat (checkBound tau acc.nb.toNat acc.mcol[n].toNat)

/-- Does row m's check pass (R220)? -/
def rowCheck (tau : BitVec 32) (acc : Acc) (el : Vector (Vector (BitVec 32) 65) 65) (m : Fin 64) : Bool :=
  let m' : Fin 65 := ⟨m.val, by omega⟩
  withinBound (sumF32 (elRow el m')) el[m'][64].toNat (checkBound tau acc.nb.toNat acc.mrow[m].toNat)

/-- Element (m, n) set. -/
def setEl (m n : Fin 64) (v : BitVec 32) (el : Vector (Vector (BitVec 32) 65) 65) : Vector (Vector (BitVec 32) 65) 65 :=
  mapEl (fun i j w => if i = m.val && j = n.val then v else w) el

/-- Element (m, n) as its column gives it (R221). -/
def correction (el : Vector (Vector (BitVec 32) 65) 65) (m n : Fin 64) : BitVec 32 :=
  let n' : Fin 65 := ⟨n.val, by omega⟩
  BitVec.ofNat 32 (fpSub f32 rne false el[64][n'].toNat (sumF32 (elCol el n' m.val)))

/-- Element (m, n) replaced from its column (R221). -/
def correctEl (el : Vector (Vector (BitVec 32) 65) 65) (m n : Fin 64) : Vector (Vector (BitVec 32) 65) 65 :=
  setEl m n (correction el m n) el

/-- The outcome of a drain's checks: the elements to write and the one corrected, or the failed rows and columns. -/
inductive DrainCheck where
  | pass (el : Vector (Vector (BitVec 32) 65) 65) (corrected : Option (Fin 64 × Fin 64))
  | fail (rows cols : List (Fin 64))
  deriving DecidableEq, Repr

/-- The rows, and the columns, whose checks fail (R220). -/
def failedRows (tau : BitVec 32) (acc : Acc) (el : Vector (Vector (BitVec 32) 65) 65) : List (Fin 64) :=
  (List.finRange 64).filter fun m => !rowCheck tau acc el m
def failedCols (tau : BitVec 32) (acc : Acc) (el : Vector (Vector (BitVec 32) 65) 65) : List (Fin 64) :=
  (List.finRange 64).filter fun n => !colCheck tau acc el n

/-- The checks of R220 and the correction of R221. -/
def drainCheck (tau : BitVec 32) (acc : Acc) (el : Vector (Vector (BitVec 32) 65) 65) : DrainCheck :=
  let rf := failedRows tau acc el
  let cf := failedCols tau acc el
  match rf, cf with
  | [], [] => .pass el none
  | [m], [n] =>
    let e := correctEl el m n
    if colCheck tau acc e n && rowCheck tau acc e m then .pass e (some (m, n)) else .fail rf cf
  | _, _ => .fail rf cf

/-- Selector 5's word (R213). -/
def lastUnWord (spare : Word) (rf cf : List (Fin 64)) : Word :=
  let fr := (rf.head?.map Fin.val).getD 127
  let fc := (cf.head?.map Fin.val).getD 127
  let pr := if rf.isEmpty then 127 else physicalOf (retiredRows spare) fr
  let pc := if cf.isEmpty then 127 else physicalOf (retiredCols spare) fc
  BitVec.ofNat 64 (rf.length + cf.length * 2 ^ 7 + fr * 2 ^ 14 + fc * 2 ^ 21 + pr * 2 ^ 28 + pc * 2 ^ 35)

/-- An output element of a drain (R222): FP32 passes, BF16 and FP16 are rounded. -/
def drainElem (fd : Fmt) (r : Rnd) (sat : Bool) (c : Nat) : Nat :=
  if fd == .fp32 then c else fpToFp f32 (floatFormat fd) r sat c

/-- A keyed rounding's generator output for an element index (R46, R164). -/
def srkRnd (mode : RMode) (key ctr : Word) (i : Nat) : Rnd :=
  { mode := mode, rv := if mode == .srk then (qk64 key (ctr + BitVec.ofNat 64 i)).toNat else 0 }

end Sys2Proof.Machine
end

