-- ==== Sys2Proof/Machine/SysAccess.lean ====
section
/-! DEFINITION. System registers: their numbers, access codes, values and layouts, and the four system-access
instructions (R105 to R113, R253, R254, R276, R277, R298, R352, R353, R391, R428, R429, R457). -/

namespace Sys2Proof.Machine

/-- Access codes of R106. -/
inductive Access where
  | ro | ur | urw | sr | s
  deriving DecidableEq, Repr

/-- Is this cell its die's boot cell (R10)? -/
def State.bootCell (s : State) : Bool :=
  let x := fieldNat s.sys.pxy 0 16
  let y := fieldNat s.sys.pxy 16 16
  (x = 0 || x = 16) && (y = 0 || y = 12)

/-- The access code of a register number; none when it is unassigned (R107). The PHY window is assigned on a boot
cell only. -/
def State.sysAccess (s : State) (num : BitVec 12) : Option Access :=
  let n := num.toNat
  if n ≤ 0x005 then some .ro
  else if n = 0x008 || n = 0x009 || n = 0x020 || n = 0x102 then some .urw
  else if 0x010 ≤ n && n ≤ 0x01F then some .ur
  else if 0x040 ≤ n && n ≤ 0x042 then some .sr
  else if 0x080 ≤ n && n ≤ 0x085 then some .s
  else if n = 0x0A0 then some .ur
  else if n = 0x0A1 then some .s
  else if n = 0x100 || n = 0x103 then some .ro
  else if n = 0x101 || n = 0x108 || n = 0x109 then some .ur
  else if n = 0x110 || n = 0x111 then some .s
  else if n = 0x200 || n = 0x210 then some .s
  else if 0x220 ≤ n && n ≤ 0x222 then some .ro
  else if n = 0x223 then some .ur
  else if n = 0x300 then some .sr
  else if n = 0x301 || n = 0x302 then some .sr
  else if n = 0x308 then some .ro
  else if 0x310 ≤ n && n ≤ 0x321 then some .sr
  else if n = 0x330 then some .s
  else if n = 0x331 then some .sr
  else if n = 0x340 || n = 0x341 then some .s
  else if n = 0x342 then some .sr
  else if n = 0x400 || n = 0x401 then some .sr
  else if 0xC00 ≤ n && s.bootCell then
    (if n % 16 ≤ 3 then some .s else if n % 16 = 4 then some .sr else none)
  else none

/-- Status word of a shaping station (R254). -/
def shapeStat (q : Queues) (r : Option ShapeRun) : Word :=
  let base := q.normal.length * 2 ^ 8 + q.prio.length * 2 ^ 16
  match r with
  | none => BitVec.ofNat 64 base
  | some r => BitVec.ofNat 64 (1 + base + r.cmd.idx.toNat * 2 ^ 24 + r.i % 2 ^ 16 * 2 ^ 48)

/-- Is the command a copy that CPSEL can name (R265)? -/
def isCopyOp : Instr → Bool
  | .cpl _ => true
  | .cpc _ => true
  | .cph _ => true
  | .cpv _ => true
  | _ => false

/-- CPSTAT (R276). -/
def Copy.stat (c : Copy) : Word :=
  let oldest := match c.ents with
    | [] => 0
    | e :: _ => e.cmd.idx.toNat
  BitVec.ofNat 64 (c.ents.length + (c.ents.filter fun e => e.paused).length * 2 ^ 10 + oldest * 2 ^ 24)

/-- Rows of a run, of a copy (R266): inner and outer. -/
def copyInner (x : Word) : Nat := fieldNat x 12 9 + 1

/-- CPMPC: state of the copy named by CPSEL (R277). -/
def Copy.mpc (c : Copy) : Word :=
  match c.ents.find? fun e => e.cmd.idx = c.sel.setWidth 24 && isCopyOp e.cmd.op with
  | none => 0
  | some e =>
    let inner := copyInner e.cmd.xs[0]
    BitVec.ofNat 64 (1 + (if e.start.isSome then 2 else 0) + (if e.paused then 4 else 0) + (if e.timed then 8 else 0)
      + e.nissue / inner % 512 * 2 ^ 4 + e.nissue % inner * 2 ^ 13 + (e.rows - e.nissue) * 2 ^ 22
      + (e.nissue - e.nland) * 2 ^ 32)

/-- AXSTAT (R353). -/
def Abscissa.stat (a : Abscissa) : Word :=
  let live := (a.ports.toList.filter fun p => p.heard && p.live).length
  BitVec.ofNat 64 (a.err.toNat + live * 2 ^ 16 + (if a.ref then 2 ^ 21 else 0) + (if a.clamp then 2 ^ 22 else 0)
    + (if a.armed = 0 then 0 else 2 ^ 23))

/-- AXPEND (R352). -/
def Abscissa.pendWord (a : Abscissa) : Word :=
  match a.pend with
  | none => 0
  | some n => BitVec.ofNat 64 (wrapInt 6 n + 64)

/-- TWSTAT (R352). -/
def Timed.stat (now : Nat) (t : Timed) : Word :=
  let bits := fun (f : LandWin → Bool) => t.wins.toList.zipIdx.foldl (fun n p => if f p.1 then n + 2 ^ p.2 else n) 0
  BitVec.ofNat 64 (bits (fun w => w.armed && w.from_ ≤ now) + bits LandWin.failed * 2 ^ 16)

/-- The value that SYSRD reads (R105). Unassigned numbers are trapped before. -/
def State.sysRead (s : State) (num : BitVec 12) : Word :=
  match num.toNat with
  | 0x000 => s.sys.lxy
  | 0x001 => s.sys.lwh
  | 0x002 => s.sys.lmod
  | 0x003 => s.sys.shape
  | 0x004 => s.sys.dictn
  | 0x005 => s.sys.safect
  | 0x008 => s.sys.srkey
  | 0x009 => s.sys.srkctr
  | 0x020 => s.sys.uhvec
  | 0x040 => s.sys.pxy
  | 0x041 => s.sys.pdie
  | 0x042 => s.sys.pmod
  | 0x080 => s.sys.tvec
  | 0x081 => s.sys.tepc
  | 0x082 => s.sys.tcause
  | 0x083 => s.sys.tinfo
  | 0x084 => s.sys.tsav0
  | 0x085 => s.sys.tsav1
  | 0x0A0 => s.sys.arcstat
  | 0x0A1 => s.sys.arcinj
  | 0x100 => s.cp.stat
  | 0x101 => s.cp.fail
  | 0x102 => s.cp.sel
  | 0x103 => s.cp.mpc
  | 0x108 => s.cp.vladdr
  | 0x109 => s.cp.vlinfo
  | 0x110 => s.cp.ctx
  | 0x111 => s.cp.pasid
  | 0x200 => s.mx.inj
  | 0x210 => s.sh.inj
  | 0x220 => shapeStat s.sh.tisQ s.sh.tis
  | 0x221 => shapeStat s.sh.cvsQ s.sh.cvs
  | 0x222 => shapeStat s.sh.trsQ s.sh.trs
  | 0x223 => s.sh.fail
  | 0x300 => s.ax.stat
  | 0x301 => s.ax.trim.setWidth 64
  | 0x302 => s.ax.pendWord
  | 0x308 => s.tm.stat s.now
  | 0x330 => s.ax.lkcfg
  | 0x331 => s.ax.lkcnt.setWidth 64
  | 0x340 => s.hl.pkey
  | 0x341 => s.hl.pmifsig
  | 0x342 => s.hl.pmlast
  | 0x400 => s.sys.ctxstat
  | 0x401 => s.sys.ctxver
  | n =>
    if 0x010 ≤ n && n < 0x020 then s.sys.mbox[n - 0x010]?.getD 0
    else if 0x310 ≤ n && n ≤ 0x321 then ((s.ax.ports[n - 0x310]?).map (·.hlat)).getD 0
    else if 0xC00 ≤ n then
      let p := (s.phy[(n - 0xC00) / 16]?).getD Phy.reset
      match n % 16 with
      | 0 => p.ctl
      | 1 => p.rdly
      | 2 => p.wdly
      | 3 => p.repair
      | 4 => p.stat
      | _ => 0
    else 0

/-- Bits of a register's layout that must be zero (R135, R136, R228, R255, R276, R285, R298, R366, R391, R457). -/
def sysZeroMask (num : BitVec 12) : Nat :=
  match num.toNat with
  | 0x082 => 0xF000 + (2 ^ 64 - 2 ^ 47)
  | 0x083 => 0xFC0000
  | 0x0A1 => 2 ^ 64 - 2 ^ 2
  | 0x102 => 2 ^ 64 - 2 ^ 24
  | 0x109 => 2 ^ 64 - 2 ^ 56
  | 0x110 => 2 ^ 64 - 2 ^ 49
  | 0x111 => 2 ^ 64 - 2 ^ 21
  | 0x200 => 2 ^ 64 - 2 ^ 21
  | 0x210 => 2 ^ 64 - 2 ^ 2
  | 0x330 => 2 ^ 64 - 2 ^ 15
  | n =>
    if 0xC00 ≤ n then
      match n % 16 with
      | 0 => 2 ^ 64 - 2 ^ 2
      | 1 => 0x8080808080808080
      | 2 => 0x8080808080808080
      | 3 => 2 ^ 64 - 2 ^ 15 + 2 ^ 7
      | _ => 0
    else 0

/-- A position of a layout that a value breaks beyond its zero fields: a reserved value or combination (R135, R457,
R458, R466). -/
def State.sysReserved (s : State) (num : BitVec 12) (v : Word) : Option Nat :=
  let n := num.toNat
  if n = 0x082 then (if fieldNat v 9 2 = 3 then some 9 else none)
  else if 0xC00 ≤ n && n % 16 = 3 then
    (if v.getLsbD 6 && v.getLsbD 14 && fieldNat v 0 6 = fieldNat v 8 6 then some 0 else none)
  else if 0xC00 ≤ n && n % 16 = 0 then
    (if v.getLsbD 0 && !(s.sysRead num).getLsbD 0 && s.ax.armed ≠ 0 then some 0 else none)
  else none

/-- The lowest position at which a value breaks the register's layout (R466: 64 plus the position). -/
def State.sysValueTrap (s : State) (num : BitVec 12) (v : Word) : Option TrapReq :=
  if num = 0x300 then trapIf (v ≠ 0) (reservedTrap 0) else
  let bad := v.toNat &&& sysZeroMask num
  let z := if bad = 0 then none else some (lowestSet 64 bad)
  let r := s.sysReserved num v
  match z, r with
  | none, none => none
  | some a, none => some (reservedTrap (64 + a))
  | none, some b => some (reservedTrap (64 + b))
  | some a, some b => some (reservedTrap (64 + min a b))

/-- The trap of reading or writing a number in the mode in hand (R106, R107, R466). AXSTAT takes a supervisor write of
0, which clears its clamp bit (R353, log 13). -/
def State.sysTrap (s : State) (num : BitVec 12) (rd wr : Bool) : Option TrapReq :=
  let user := s.seq.mode == .user
  match s.sysAccess num with
  | none => some (reservedTrap 0)
  | some a =>
    let bad := wr && !(num = 0x300 && !user) && (match a with
      | .ro => true
      | .sr => true
      | _ => false)
    let priv := user && (match a with
      | .ro => false
      | .ur => wr
      | .urw => false
      | .sr => rd
      | .s => true)
    if bad then some (reservedTrap 0) else if priv then some (privTrap num.toNat) else none

/-- The pending bit of a register read or written (R77, R78). -/
def State.sysPend (s : State) (num : BitVec 12) (wr : Bool) : Option TrapReq :=
  if wr then s.writeFault (.sys num) else s.readFault (.sys num)

/-- SYSRD (R105): readable at c + 2. -/
def execSysrd (xd : Reg) (num : BitVec 12) (s : State) : Out :=
  .next (s.guarded [s.sysTrap num true false, s.sysPend num false, s.wrX xd]
    (State.putX xd (s.sysRead num) 2 false))

/-- SYSWR (R105): in effect from c + 1. -/
def execSyswr (xa : Reg) (num : BitVec 12) (s : State) : Out :=
  .next (s.guarded [s.sysTrap num false true, s.rdX xa, s.sysPend num true, valueTrap [s.rdX xa] (s.sysValueTrap num (s.x xa))]
    (State.enqueue (.sys num (s.x xa)) 1 false))

/-- A read and a write in one action (R105). -/
def sysModify (f : Word → Word → Word) (xd xa : Reg) (num : BitVec 12) (s : State) : State :=
  let v := s.sysRead num
  s.guarded [s.sysTrap num true true, s.rdX xa, s.sysPend num false, s.sysPend num true, s.wrX xd,
      valueTrap [s.rdX xa, s.sysPend num false] (s.sysValueTrap num (f v (s.x xa)))]
    fun s => (s.putX xd v 2 false).enqueue (.sys num (f v (s.x xa))) 1 false

/-- SYSSET: sets the bits of xa (R105). -/
def execSysset (xd xa : Reg) (num : BitVec 12) (s : State) : Out := .next (sysModify (fun v a => v ||| a) xd xa num s)

/-- SYSCLR: clears the bits of xa (R105). -/
def execSysclr (xd xa : Reg) (num : BitVec 12) (s : State) : Out := .next (sysModify (fun v a => v &&& ~~~a) xd xa num s)

end Sys2Proof.Machine
end

