-- ==== Sys2Proof/Machine/Fetch.lean ====
section
/-! DEFINITION. Fetching a bundle and what is found before any slot acts; the sequencer's own events: an illegal code
unit, a late SEGEND, starvation, results that land, suppressed results (R63 to R66, R75, R76, R77,
R111, R121 to R126). -/

namespace Sys2Proof.Machine

/-! ## Fetch -/

/-- An illegal-code trap of the bundle at pc, with no slot to blame. -/
def State.codeTrap (s : State) (detail : Nat) : TrapRec :=
  { cause := 0x01, code := 0, baddr := s.seq.pc, slot := 7, detail := BitVec.ofNat 40 detail }

/-- Literal bundle after an escape unit (R64). -/
def State.literal (s : State) (a : Nat) : Bundle :=
  BitVec.ofNat 384 (packElems 16 ((List.range 24).map fun j => (s.codeAt (a + 1 + j)).unit.toNat))

/-- Dictionary bundle by index; an unwritten one is zero. -/
def State.dictAt (s : State) (i : Nat) : Bundle :=
  match s.seq.dict.find? fun d => d.1 = i with
  | some d => d.2
  | none => 0

/-- The bundle at the program counter, or the illegal-code trap of its fetch (R63, R66, R115). -/
def State.fetch (s : State) : Except TrapRec Bundle :=
  let a := s.seq.pc.toNat
  let c := s.codeAt a
  match s.seq.badTarget with
  | some v => .error (s.codeTrap (v.toNat % 2 ^ 40))
  | none =>
    if s.seq.mode == .user && Config.runtimeBase ≤ a then .error (s.codeTrap a)
    else if s.seq.arrived && !c.start then .error (s.codeTrap a)
    else if c.unit = 0xFFFF then
      if (if s.seq.mode == .user then Config.runtimeBase else Config.codeUnits) < a + 25
      then .error (s.codeTrap c.unit.toNat) else .ok (s.literal a)
    else if 0x800 ≤ c.unit.toNat || s.sys.dictn.toNat ≤ c.unit.toNat then .error (s.codeTrap c.unit.toNat)
    else .ok (s.dictAt c.unit.toNat)

/-- Does the bundle at pc still owe its escape's empty cycle (R65)? -/
def State.owesEscape (s : State) : Bool :=
  !s.seq.escPaid && s.seq.badTarget.isNone && (s.codeAt s.seq.pc.toNat).unit == 0xFFFF

/-! ## What is found before the slots act -/

/-- May an opcode of the ctl slot not stand in a delay bundle: BEQ to RET, LOOP, LEXIT, SAFE to ERET (R74, R80, R121)? The
opcode decides, whatever the slot's other fields hold (R76). -/
def barredInDelay (op : Nat) : Bool := (1 ≤ op && op ≤ 0x0D) || (0x10 ≤ op && op ≤ 0x14)

/-- Must the other slots of the ctl operation's bundle be NOP (R121, R125, R133)? -/
def standsAlone : Instr → Bool
  | .safe _ | .segend _ _ | .halt _ => true
  | _ => false

/-- A trap with its class (R76) and slot. -/
def slotTrap (s : State) (slot : Fin 8) (cls cause detail : Nat) : Nat × TrapRec :=
  (cls, { cause := BitVec.ofNat 8 cause, code := 0, baddr := s.seq.pc, slot := slot, detail := BitVec.ofNat 40 detail })

/-- Is the access of a SYSRD, SYSWR, SYSSET or SYSCLR one that fails at its register number (R106, R466)? -/
def State.numberBad (s : State) (w : Nat) : Bool :=
  let op := w / 2 ^ 56
  0x58 ≤ op && op ≤ 0x5B && (s.sysTrap (BitVec.ofNat 12 w) (op ≠ 0x59) (op ≠ 0x58)).any fun t => t.cls = 3

/-- The lowest field of a slot whose value the state of the machine makes one that the instruction does not accept (R133, R211,
R466): a system register's number, HALT's status in user mode, the sinc of an MXGO whose nest drains. -/
def State.stateField (s : State) (slot : Fin 8) (w : Nat) : Option Nat :=
  let op := w / 2 ^ 56
  if (slot = 1 || slot = 2) && s.numberBad w then some 0
  else if slot = 0 && op = 0x12 && s.seq.mode == .user && bitAt w 15 then some 0
  else if slot = 4 && op = 0x02 && fld w 31 4 = 0 && hasDrain s.mx.shadow then some 31
  else none

/-- The trap of a slot that does not decode, with its bits (R75, R466): of several failing fields the lowest. -/
def decodeTrap (s : State) (slot : Fin 8) (w : Nat) : DecodeErr → Nat × TrapRec
  | .illegalOp op => slotTrap s slot 2 0x02 op
  | .reserved b => slotTrap s slot 3 0x03 (min b ((s.stateField slot w).getD b))

/-- The first slot from 1 on that is not NOP (R121, R466). -/
def otherSlot (b : Bundle) : Option (Fin 8) := [1, 2, 3, 4, 5].find? fun i => slotBits b i.val ≠ 0

/-- The ctl operation of a bundle, NOP where it does not decode. -/
def ctlOf (b : Bundle) : Instr :=
  match decodeBundleSlot b 0 with
  | .ok i => i
  | .error _ => .nop

/-- The opcode of a bundle's ctl slot (R69, R70). -/
def ctlOpcode (b : Bundle) : Nat := slotBits b 0 / 2 ^ 56

/-- The traps that the ctl operation's own bundle rules raise: in a delay bundle, a SEGEND outside a timed image's user code
(R125), or beside other slots. -/
def State.ctlTraps (s : State) (b : Bundle) : List (Nat × TrapRec) :=
  let i := ctlOf b
  (if s.seq.xfer.isSome && barredInDelay (ctlOpcode b)
    then [slotTrap s 0 1 0x01 (s.codeAt s.seq.pc.toNat).unit.toNat] else []) ++
  (if ctlOpcode b = 0x11 && !(s.timedImage && s.seq.mode == .user) then [slotTrap s 0 2 0x02 0x11] else []) ++
  (if standsAlone i then match otherSlot b with
    | some k => [slotTrap s k 3 0x03 (lowestSet 64 (slotBits b k.val))]
    | none => [] else [])

/-- The traps of the slots that do not decode. -/
def State.decodeTraps (s : State) (b : Bundle) : List (Nat × TrapRec) :=
  ([0, 1, 2, 3, 4, 5] : List (Fin 8)).filterMap fun k => match decodeBundleSlot b k.val with
    | .error e => some (decodeTrap s k (slotBits b k.val) e)
    | .ok _ => none

/-- The trap of the first failing class and, in it, of the lowest slot (R76). -/
def firstClass : List (Nat × TrapRec) → Option (Nat × TrapRec)
  | [] => none
  | t :: l =>
    match firstClass l with
    | none => some t
    | some u => some (if u.1 < t.1 || (u.1 = t.1 && u.2.slot < t.2.slot) then u else t)

/-- The illegal-code or illegal-operation trap that the fetch at pc raises, if any (R63, R75). -/
def State.fetchTrap (s : State) : Option TrapRec :=
  match s.fetch with
  | .error t => some t
  | .ok b => (firstClass (s.ctlTraps b ++ s.decodeTraps b)).bind fun t => if t.1 ≤ 2 then some t.2 else none

/-- ILLEGAL_CODE_UNIT_FETCH: the trap in place of the bundle (R63, R66, R75). -/
def execIllegalCodeUnitFetch (s : State) : Out :=
  match s.fetchTrap with
  | some t => .next (s.enterTrap t)
  | none => .next s

/-! ## Faults by the cycle -/

/-- Count of the running segment by its table entry (R125, R126). -/
def State.segCount (s : State) : Nat :=
  match s.segTable[s.seg.idx]? with
  | some g => g.count
  | none => 0

/-- The count of the SEGEND that stands at pc, if one does. -/
def State.segendHere (s : State) : Option Nat :=
  match s.fetch with
  | .ok b => match ctlOf b with
    | .segend _ c => some c.toNat
    | _ => none
  | .error _ => none

/-- Is the segment's SEGEND late in this cycle: by its own count where it stands at pc, by the segment table's before it is
reached (R126)? A closed segment's is past. -/
def State.segendLate (s : State) : Bool :=
  s.seg.inSeg && !s.seg.closed && (match s.seq.mode, s.segendHere with
    | .user, some c => decide (c ≤ s.relCycle)
    | _, _ => s.relCycle == s.segCount)

/-- CYCLE_COUNT_MISMATCH (R126, R137). -/
def execCycleCountMismatch (s : State) : Out :=
  .next (s.enterTrap { cause := 0x11, code := 0, baddr := s.seq.pc, slot := 7, detail := BitVec.ofNat 40 s.seg.idx })

/-- Is the next bundle replaced by the starvation fault (R123)? One fault for each run of SAFECT. -/
def State.isStarved (s : State) : Bool := decide (4097 ≤ s.sys.safect.toNat) && !s.seq.starved

/-- SAFE_POINT_STARVATION_FAULT (R123, R137). -/
def execSafePointStarvationFault (s : State) : Out :=
  .next ((s.enterTrap { cause := 0x0E, code := 0, baddr := s.seq.pc, slot := 7, detail := s.sys.safect.setWidth 40 }).onSeq
    fun q => { q with starved := true })

/-! ## Results that land -/

/-- Rows pushed by the vector station reach their ports in their own cycle (R151, R179). -/
def State.landWrite (w : PendingWrite) (s : State) : State :=
  match w.dest with
  | .push q gen v cols => s.arrivePush q gen v cols
  | d => s.landDest d

/-- The write in flight that lands next: the first due. -/
def State.nextWrite (s : State) : Option PendingWrite := s.seq.writes.find? fun w => decide (w.due ≤ s.now)

/-- RESULT_WRITEBACK: the first result that is due lands, and its pending bit clears (R77). -/
def execResultWriteback (s : State) : Out :=
  match s.nextWrite with
  | none => .next s
  | some w => .next ((s.landWrite w).onSeq fun q => { q with writes := q.writes.erase w })

/-- The slot of a unit of the bundle. -/
def arcSlot : ArcUnit → Option (Fin 8)
  | .sa => some 1
  | .sb => some 2
  | .vec => some 3
  | _ => none

/-- ARCSTAT's number of a unit that it counts (R112). -/
def arcCode : ArcUnit → Nat
  | .sa => 0 | .sb => 1 | .vec => 2 | .tis => 3 | .cvs => 4 | .sums => 0 | .recv => 0

/-- The arithmetic-check trap of a unit (R111, R137). -/
def arcTrap (u : ArcUnit) (baddr : BitVec 15) (slot : Fin 8) : TrapRec :=
  { cause := 0x0C, code := 0, baddr := baddr, slot := slot, detail := BitVec.ofNat 40 (arcCode u) }

/-- A check fails in its cycle: every result that it stands over is suppressed, the fault is counted, and its trap falls
due (R111 to R113, R170). -/
def State.suppress (u : ArcUnit) (w : PendingWrite) (s : State) : State :=
  let t := (s.seq.writes.filter w.sameCheck).foldl (fun t v => t.unpush v) s
  ((t.onSeq fun q => { q with writes := q.writes.filter fun v => !w.sameCheck v }).noteCheck w).oweCheck
    (arcTrap u w.baddr w.slot)

/-- The checks of a slot that are still open: its instructions with results in flight. -/
def State.openChecks (s : State) (slot : Fin 8) : List PendingWrite :=
  firstOfChecks (s.seq.writes.filter fun w => w.slot = slot)

/-- The stores of a slot on their way, whose checks complete before they are made (R111). -/
def State.openStores (s : State) (slot : Fin 8) : List PendingStore := s.seq.stores.filter fun w => w.slot = slot

/-- A store whose check fails does not take place (R111). -/
def State.dropStore (u : ArcUnit) (w : PendingStore) (s : State) : State :=
  ((s.onSeq fun q => { q with stores := q.stores.erase w }).countArc (arcCode u)).oweCheck (arcTrap u w.baddr w.slot)

end Sys2Proof.Machine
end

