-- ==== Sys2Proof/Machine/Segments.lean ====
section
/-! DEFINITION. Segments: the boundary and its hold, the start of a segment, replay, lockstep pairs, and the keeper's
instructions (R124 to R131, R345 to R353, R362 to R368, R390). -/

namespace Sys2Proof.Machine

/-! ## Boundaries and holds -/

/-- The segment in hand by its table entry. -/
def State.segment (s : State) : Option Segment := s.segTable[s.seg.idx]?

/-- This cell's hold set (R362). -/
def State.myHolds (s : State) : List (Fin 256 × Nat) :=
  match s.segment with
  | some g => (g.holds.filter fun h => h.1 = s.cellIdx).map (·.2)
  | none => []

/-- Does the launch hold this cell alone? -/
def State.loneCell (s : State) : Bool :=
  s.shapeSize == (1, 1) && (match s.prog with
    | some p => p.mcount == 1
    | none => true)

/-- This cell as a replay group names it: its logical coordinates and its module's position in the launch (R365). -/
def State.member (s : State) : Peer :=
  { s.self with md := s.self.md - (match s.prog with
      | some q => q.mfirst
      | none => 0) }

/-- The group that this cell belongs to in the running segment: the one that lists it, else the cell alone (R31, R365). -/
def State.fullGroup (s : State) : List Peer :=
  match s.segment with
  | some g => (g.groups.find? fun l => l.contains s.member).getD [s.member]
  | none => [s.member]

/-- Cells of the launch. -/
def State.launchCells (s : State) : Nat :=
  s.shapeSize.1 * s.shapeSize.2 * (match s.prog with
    | some p => p.mcount
    | none => 1)

/-- Has another replay group of the launch replayed the segment that the boundary closes (R363)? It does so at other cells:
a free choice where there is one (log 6). -/
def State.othersReplayed (s : State) : Bool :=
  s.fullGroup.length < s.launchCells && Config.freeBool s.freeCtr

/-- Is the boundary held for the whole launch (R363)? A checkpointed image also holds it until the rows of a
checkpoint are acknowledged (R434). -/
def State.boundaryHeld (s : State) : Bool :=
  (match s.segment with
    | some g => !g.holds.isEmpty
    | none => false) || decide (0 < s.seg.replays) || s.ax.lkcfg.getLsbD 0 || s.ckptOpen || s.othersReplayed

/-- Does the running launch include its die's boot cell, so that it is the die's keeper launch (R350)? -/
def State.keeperLaunch (s : State) : Bool :=
  match s.prog with
  | some p =>
    let b := bootOf s.die
    p.timed && p.px ≤ b.1 && b.1 < p.px + s.shapeSize.1 && p.py ≤ b.2 && b.2 < p.py + s.shapeSize.2
  | none => false

/-- The boundary after a SEGEND (R129): the keeper's part (R346, R349) and the compare word's deadline (R368) are set. The
shadow's SAFECT is that of the SEGEND cycle (R130 names no cycle of the boundary: DESIGN CHOICE, log 50). -/
def State.beginBoundary (s : State) : State :=
  let v := s.absc
  let t := s.onSeq fun q => { q with run := .boundary v (if s.boundaryHeld then 0 else v + 65) s.boundaryHeld }
  let t : State := { t.onSeg fun g => { g with bsafe := s.sys.safect, ready := none } with freeCtr := t.freeCtr + 1 }
  let t := if s.keeperLaunch
    then (t.plan (s.now + 1) rankRead (.micro (.boundary 1))).plan (s.now + 32) rankRead (.ev .abscissaStep) else t
  if s.ax.lkcfg.getLsbD 0 then t.plan (s.now + 3072) rankRead (.ev (.compareWord none)) else t

/-- A hold semaphore whose error bit is set (R362). -/
def State.holdError (s : State) : Option (Fin 256) :=
  (s.myHolds.find? fun h => (s.sems[h.1]).err).map (·.1)

/-- Does every hold semaphore stand at its threshold, or in error (R362)? -/
def State.holdReady (s : State) : Bool :=
  (s.myHolds.all fun h => (s.sems[h.1]).err || h.2 ≤ (s.sems[h.1]).cnt.toNat) && !s.ckptOpen

/-- The first value from `v` on with a phase modulo 14,400 (R279, R363). -/
def alignPhase (v phase : Nat) : Nat := v + (14400 + phase % 14400 - v % 14400) % 14400

/-- The common resume cycle for a latest ready cycle (R363). -/
def State.resumeCycle (s : State) (r : Nat) : Nat :=
  match s.segTable[s.seg.idx + 1]? with
  | some g => if g.timedHbm then alignPhase (r + 3072) g.phase else r + 3072
  | none => r + 3072

/-- Has a value that comes for the common resume cycle the form that R363 gives it: at least 3,072 after this cell's ready
cycle, and at the next segment's phase where that counts? -/
def State.mayResume (s : State) : Bool :=
  match s.seg.ready with
  | none => false
  | some r => s.resumeCycle r ≤ s.absc && (match s.segTable[s.seg.idx + 1]? with
    | some g => !g.timedHbm || s.absc % 14400 = g.phase % 14400
    | none => true)

/-- A held boundary's resume cycle has come: the cell's own where the launch has no other cell, else one that comes from
outside (R363). -/
def State.holdEnds (s : State) : Bool :=
  match s.seq.run with
  | .boundary _ r true => s.holdReady && (if r = 0 then s.mayResume else r ≤ s.absc)
  | _ => false

/-- The range registers of a segment on this cell (R190). -/
def rangesOf (cell : Nat) (g : Segment) : Vector (Option RangeReg) 16 :=
  let l := (g.ranges.filter fun r => r.1 = cell).map (·.2)
  Vector.ofFn fun i => l[i.val]?

/-- The links' incoming masks of a segment on this cell (R382). -/
def State.loadMasks (g : Segment) (s : State) : State :=
  s.onHl fun h => { h with sides := Vector.ofFn fun i =>
    let m := (g.masks.find? fun k => k.1 = s.cellIdx && k.2.1 = i).map (·.2.2)
    { h.sides[i] with mask := m.getD 0 } }

/-- The last segment that a launch has run on this cell since PMLAST (R398). -/
def State.noteSegment (i : Nat) (s : State) : State :=
  s.onHl fun h => { h with ran := h.ran.map fun r => if r.1 = s.lid then (r.1, r.2.1, i) else r }

/-- The segment with an index begins in this cycle at pc: origin, shadow, range registers, an empty signature (R124,
R127, R129, R130, R190). -/
def State.startSegment (i : Nat) (g : Segment) (s : State) : State :=
  let h := { s.takeShadow s.seq.pc with safect := s.seg.bsafe }
  let t := s.onSeg fun q => { SegState.reset with
    inSeg := true, idx := i, origin := s.ax.value, startAt := s.now, shadow := some h, since := s.now,
    cmpBy := q.cmpBy }
  let t := ((t.noteSegment i).loadMasks g).onAnn fun a => { a with ranges := rangesOf s.cellIdx g }
  t.onSeq fun q => { q with run := .running, issueAt := s.now, escPaid := true, crc := 0xFFFFFFFF#32, xfer := none }

/-- After the last boundary only a HALT may follow (R124). -/
def State.afterLast (s : State) : State :=
  (s.onSeg fun q => { q with inSeg := false, ended := true, replays := 0, closed := false }).onSeq fun q =>
    { q with run := .running, issueAt := s.now, escPaid := true }

/-- The next segment, or the end of the last, begins. -/
def State.nextSegment (s : State) : State :=
  match s.segTable[s.seg.idx + 1]? with
  | some g => s.startSegment (s.seg.idx + 1) g
  | none => s.afterLast

/-- Is the sequencer in a boundary? -/
def Seq.inBoundary (q : Seq) : Bool :=
  match q.run with
  | .boundary _ _ _ => true
  | _ => false

/-- SEGMENT_START: a boundary that is not held ends (R129), or the first bundle of a segment issues at last, whose place a trap
had taken (R124, R362). -/
def execSegmentStart (s : State) : Out :=
  match s.seq.run with
  | .boundary _ _ false => .next s.nextSegment
  | .running => .next (if s.seg.closed then s.nextSegment else s)
  | _ => .next s

/-- The engine-error trap of a hold semaphore in place of the next segment's first bundle (R362): that segment begins when the
bundle issues after all (R124). -/
def State.holdTrap (n : Fin 256) (s : State) : State :=
  let e := engineError n s.sems[n]
  ((s.onSeq fun q => { q with run := .running }).onSeg fun g => { g with closed := true }).enterTrap
    { cause := e.cause, code := 0, baddr := s.seq.pc, slot := 7, detail := e.detail }

/-- HOLD_END: the common resume cycle of a held boundary; SAFECT reads 0 (R363). A hold semaphore with its error bit
set raises the engine-error trap in place of the next segment's first bundle (R362). No resume cycle comes earlier than
3,072 cycles after the cell is ready; a semaphore in error holds it back no longer (log 15). -/
def execHoldEnd (s : State) : Out :=
  .next (if s.holdEnds then
      match s.holdError with
      | some n => s.holdTrap n
      | none => (s.onSys fun r => { r with safect := 0 }).nextSegment
    else s)

/-! ## Replay (R131, R365, R390) -/

/-- The other members of this cell's replay group. -/
def State.group (s : State) : List Peer := s.fullGroup.filter fun p => p ≠ s.member

/-- Does the group span modules? -/
def State.groupSpans (s : State) : Bool := s.fullGroup.any fun p => p.md ≠ s.member.md

/-- The first value from `v` on that is a multiple of 64 and, in a segment with timed HBM, has the segment's phase
(R365). Where no value is both, the manual states none: a free multiple (log 8). -/
def State.replayCycle (s : State) (v : Nat) : Nat :=
  let u := (v + 63) / 64 * 64
  match s.segment with
  | some g =>
    if g.timedHbm then
      match (List.range 225).find? fun k => (u + 64 * k) % 14400 = g.phase % 14400 with
      | some k => u + 64 * k
      | none => u + 64 * Config.freeDelay s.freeCtr
    else u
  | none => u

/-- Does a notice name a cycle before the segment's bundles began to issue, so that it is one of an earlier run (log 43)? -/
def State.staleNotice (s : State) (f : Nat) : Bool := f < s.seg.origin.toNat + s.seg.resumedAt

/-- Has a cell of the group sent a replay notice that has not reached this cell: its own, or one that is on its way (R365)? -/
def State.noticeSent (s : State) : Bool :=
  (s.agenda.any fun d => match d.act with
    | .ev (.replayNotice _ _) => true
    | _ => false) || s.inbox.any fun p => match p.2 with
    | .replayNotice f _ => decide (f < s.absc) && !s.staleNotice f
    | _ => false

/-- A replay notice goes to the other cells of the group, in cycle f + 1: over the mesh, or to another module by the lowest plane
that is live for timed traffic (R365). A fenced cell sends none (R387). -/
def State.sendNotice (f q : Nat) (s : State) : State :=
  let first := match s.prog with
    | some p => p.mfirst
    | none => 0
  if s.hl.fenced then s
  else (s.fullGroup.filter fun p => p ≠ s.member).foldl (fun t p =>
    let c := s.peerCell p
    let to_ : Peer := { p with md := p.md + first }
    if p.md = s.member.md then t.emit (.notice to_ none (f + 1 + meshLat s.phys c) f q)
    else match (List.range 18).find? s.portLive with
      | some k => t.emit (.notice to_ (some k) (f + 1 + s.planeLat k c) f q)
      | none => t) s

/-- The boundary shadow restored with the increments that are kept (R130, R131). -/
def State.restoreShadow (h : Shadow) (s : State) : State :=
  let sems := s.seg.kept.foldl (fun (v : Vector Sem 256) i => v.set i.sem (i.apply v[i.sem])) h.sems
  let t := s.onSeq fun q => { q with
    regs := h.regs, lc := h.lc, loops := h.loops, maskRow := h.maskRow, maskCol := h.maskCol, pc := h.pc,
    mode := .user, suspended := false, arrived := false, escPaid := true, crc := h.crc,
    tiles := Vector.replicate 128 0 }
  let t := t.onSys fun r => { r with srkey := h.srkey, srkctr := h.srkctr, uhvec := h.uhvec, safect := h.safect }
  let t := t.onMx fun m => { m with
    ft := h.ft, tol := h.tol, shadow := h.nestS, active := h.nestA, acc0 := Acc.zero, acc1 := Acc.zero, bbuf := none }
  { t with sems := sems, frame := none, fails := [], incs := s.incs.filter fun i => i.keep }

/-- Was the command issued before the boundary, so that a replay keeps it (R131)? -/
def State.keptCmd (s : State) (c : Cmd) : Bool := c.pred || decide (c.issued < s.seg.since)

/-- The cell goes back to the start of its segment: the segment's commands and every matrix command are abandoned, the
shadow is restored, and the compare of its SEGEND is off (R131, R229, R368). -/
def State.backToStart (h : Shadow) (s : State) : State :=
  (((s.stopMatrix.abandon s.keptCmd true).replayLanes).restoreShadow h).onSeg fun g =>
    { g with closed := false, cmpOwn := none, cmpTwin := none }

/-- The replay limit is passed: the cell stops at the start of the segment, and the launch ends (R31). -/
def State.exhaust (s : State) : State :=
  (match s.seg.inSeg, s.seg.shadow with
    | true, some h => s.backToStart h
    | _, _ => s).endLaunch s.lid 0x0201 0

/-- An L2 cause in this cycle starts the replay of the segment, or joins one that is pending (R31, R365). -/
def State.raiseReplay (s : State) : State :=
  if !s.seg.inSeg || s.seg.pending.isSome || s.noticeSent then s
  else if 2 ≤ s.seg.replays then s.exhaust
  else
    let f := s.absc
    let q := s.replayCycle (f + (if s.groupSpans then 3072 else 512))
    (({ s with freeCtr := s.freeCtr + 1 }).plan (s.now + 1) rankWriteback (.ev (.replayNotice f q))).sendNotice f q

/-- A replay that waits is given 65,536 cycles from a cycle on (R390). -/
def State.waitReplay (from_ : Nat) (s : State) : State :=
  (s.onSeg fun g => { g with waitBy := from_ + 65536 }).plan (from_ + 65536) rankEnd (.ev .replayWaitTimeout)

/-- REPLAY_NOTICE: issue stops, the cell goes back to the start of its segment (R31, R131, R365); it acknowledges the
notice, unless it is fenced, and the start waits for every other member's word (R387, R390). -/
def execReplayNotice (f q : Nat) (s : State) : Out :=
  match s.seg.inSeg && !s.staleNotice f, s.seg.shadow, s.seg.pending with
  | true, some h, none =>
    if 2 ≤ s.seg.replays then .next s.exhaust
    else
      let t := (s.backToStart h).onSeq fun r => { r with run := .replayWait q }
      let t := t.onSeg fun g => { g with pending := some (f, q, s.group) }
      let put := fun (r : PreReq) => { r with skip := some s.seg.idx }
      let t : State := { t with preq := t.preq.map put }
      .next ((if s.hl.fenced then t else t.emit (.ack f)).waitReplay (s.clockOf (q - 64)))
  | _, _, _ => .next s

/-- REPLAY_ACK: a member's acknowledgement, from which a longer wait counts anew; the last one, when it comes after Q - 64,
sets Q anew (R390). -/
def execReplayAck (cell : Peer) (s : State) : Out :=
  match s.seg.pending with
  | none => .next s
  | some (f, q, w) =>
    let rest := w.filter fun p => p ≠ cell
    let q' := if rest.isEmpty && !w.isEmpty && q - 64 < s.absc then s.replayCycle (s.absc + 64) else q
    let t := (s.onSeg fun g => { g with pending := some (f, q', rest) }).onSeq fun r => match r.run with
      | .replayWait _ => { r with run := .replayWait q' }
      | _ => r
    .next (if rest ≠ w then t.waitReplay (max s.now (s.clockOf (q - 64))) else t)

/-- REPLAY_START: the segment's first bundle issues at Q; after a resume the origin is Q less the resume point
(R348, R365, R435). -/
def execReplayStart (s : State) : Out :=
  match s.seq.run, s.seg.pending with
  | .replayWait _, some (_, _, []) =>
    let t := s.onSeg fun g => { g with
      pending := none, replays := g.replays + 1, startAt := s.now,
      origin := s.ax.value - BitVec.ofNat 64 g.resumedAt }
    let t := t.onHl fun h => { h with replays := if h.replays = 255 then 255 else h.replays + 1 }
    let h := match s.seg.shadow with
      | some h => h.safect
      | none => s.sys.safect
    .next ((t.onSys fun r => { r with safect := h }).onSeq fun q => { q with run := .running, issueAt := s.now, starved := false })
  | _, _ => .next s

/-- REPLAY_WAIT_TIMEOUT: 65,536 cycles without an acknowledgement end the launch with the replay-exhausted status (R390). -/
def execReplayWaitTimeout (s : State) : Out :=
  match s.seq.run, s.seg.pending with
  | .replayWait _, some (_, _, _ :: _) => .next (if s.seg.waitBy ≤ s.now then s.exhaust else s)
  | _, _ => .next s

/-! ## Lockstep pairs (R366 to R368) -/

/-- LKCNT rises, holding at its top (R352), and the replay starts in this cell's group and in its twin's (R368). -/
def State.lockMismatch (s : State) : State :=
  let t := s.onAx fun a => { a with lkcnt := bump32 1 a.lkcnt }
  (if s.hl.fenced then t else t.emit (.pairNotice s.twin s.absc)).raiseReplay

/-- COMPARE_WORD: the twin's word arrives, or the cycle has come by which the word of the last SEGEND is due (R368). -/
def execCompareWord (w : Option CompareWord) (s : State) : Out :=
  match s.seg.cmpOwn, w with
  | none, _ => .next s
  | some o, some v =>
    let t := s.onSeg fun g => { g with cmpTwin := some v }
    .next (if v = o then t else t.lockMismatch)
  | some _, none =>
    let t := s.onSeg fun g => { g with cmpOwn := none }
    .next (if s.now < s.seg.cmpBy then s else if s.seg.cmpTwin.isNone then t.lockMismatch else t)

/-! ## The Abscissa's instructions (R347 to R351) -/

/-- The value that AXRD writes (R348). -/
def State.axWord (s : State) (form : Fin 3) : Word :=
  let start := match s.prog with
    | some p => p.start
    | none => 0
  match form with
  | 0 => if s.timedImage then s.ax.value - s.seg.origin else s.ax.value - start
  | 1 => s.ax.value - start
  | _ => s.ax.value

/-- AXRD (R348): form 2 in supervisor mode only. -/
def execAxrd (xd : Reg) (form : Fin 3) (s : State) : Out :=
  .next (s.guarded [trapIf (form = 2 && s.seq.mode == .user) (privTrap 0x30), s.wrX xd]
    (State.putX xd (s.axWord form) 2 false))

/-- A clamped value as AXSLEW and AXSKIP send it to its register: 32 bits, and in bit 32 whether it was clamped. -/
def clampWord (c : Int) (clamped : Bool) : Word :=
  BitVec.ofNat 64 ((BitVec.ofInt 32 c).toNat + (if clamped then 2 ^ 32 else 0))

/-- AXSLEW: the trim, clamped, in force from the next cycle on (R351). -/
def execAxslew (xa : Reg) (s : State) : Out :=
  .next (s.guarded [trapIf (s.seq.mode == .user) (privTrap 0x31), s.rdX xa] fun s =>
    let v := sintOf 32 (s.x xa).toNat
    let c := clampInt (-50000) 50000 v
    s.enqueue (.sys 0x301 (clampWord c (decide (c ≠ v)))) 1 false)

/-- AXSKIP: a pending step, clamped to 16 either way, from the next cycle on (R61, R349). -/
def execAxskip (xa : Reg) (s : State) : Out :=
  .next (s.guarded [trapIf (s.seq.mode == .user) (privTrap 0x32), s.rdX xa] fun s =>
    let v := (s.x xa).toInt
    let c := clampInt (-16) 16 v
    s.enqueue (.sys 0x302 (clampWord c (decide (c ≠ v)))) 1 false)

end Sys2Proof.Machine
end

