-- ==== Sys2Proof/Machine/Bundle.lean ====
section
/-! DEFINITION. What follows a bundle's slots: the next address, delay bundles, loop ends, the signature, safe points
and segment ends (R66, R80, R115, R118, R121 to R129, R423, R434). -/

namespace Sys2Proof.Machine

/-! ## The next address -/

/-- Fetch goes to an address; an address above code memory traps at its fetch (R66, R115). -/
def Seq.goTo (v : Word) (arrived : Bool) (issueAt : Nat) (q : Seq) : Seq :=
  { q with pc := v.setWidth 15, badTarget := if v.toNat < Config.codeUnits then none else some v,
           arrived := arrived, issueAt := issueAt, escPaid := false }

/-- Delay bundles left after one more has issued: the outstanding transfer, and the target if it is now due (R80). -/
def Xfer.next (x : Xfer) : Option Xfer × Option Word :=
  if x.left ≤ 1 then (none, x.target) else (some { x with left := x.left - 1 }, none)

/-- Where fetch goes after a bundle whose ctl operation asked for `e`, and what becomes of the outstanding transfer
(R66, R80, R115, R117). R66 checks the start flag of a transfer's target and of a loop's, not of the bundle after a skipped
loop. -/
def State.advance (s : State) (e : Effect) (q : Seq) : Seq :=
  let next : Word := BitVec.ofNat 64 (s.after s.seq.pc.toNat)
  match e with
  | .skip t => { q with xfer := none }.goTo (BitVec.ofNat 64 t) false (s.now + 2)
  | .xfer => q.goTo next false (s.now + 1)
  | _ =>
    match s.seq.xfer with
    | none => q.goTo next false (s.now + 1)
    | some x =>
      match x.next with
      | (y, some v) => { q with xfer := y }.goTo v true (s.now + 1)
      | (y, none) => { q with xfer := y }.goTo next false (s.now + 1)

/-! ## Loop ends (R118) -/

/-- The loop-end action at an address: the levels, the counters, and the start address if it loops back (R118). -/
def loopEnd (a : BitVec 15) : List LoopLevel → Vector (BitVec 25) 4 →
    List LoopLevel × Vector (BitVec 25) 4 × Option (BitVec 15)
  | [], lc => ([], lc, none)
  | l :: ls, lc =>
    if l.stop = a then
      let c := lc[l.n] + 1
      if c.toNat < l.trip.toNat then (l :: ls, lc.set l.n c, some l.start) else loopEnd a ls (lc.set l.n c)
    else (l :: ls, lc, none)

/-- Are loop ends matched and bytes fed: user mode, and no trap being handled (R118, R138)? -/
def Seq.follows (q : Seq) : Bool := q.mode == .user && !q.suspended

/-- The loop-end action after the bundle at an address (R118); looping back is a transfer to a checked target (R66). -/
def Seq.endLoops (a : BitVec 15) (now : Nat) (q : Seq) : Seq × Option (BitVec 15) :=
  match loopEnd a q.loops q.lc with
  | (ls, lc, none) => ({ q with loops := ls, lc := lc }, none)
  | (ls, lc, some v) => ({ q with loops := ls, lc := lc }.goTo (v.setWidth 64) true (now + 1), some v)

/-! ## The signature (R127) -/

/-- The 32 bytes of the four registers that an engine slot names, as read at issue; beyond x31 they read as zero. -/
def State.engBytes (s : State) (b : Bundle) : List Byte :=
  let w := slotBits b 4
  if fld w 56 8 = 0 then []
  else ((List.range 4).map fun k =>
    let n := fld w 26 5 + k
    bytesOf 8 (if h : n < 32 then (s.x ⟨n, h⟩).toNat else 0)).flatten

/-- The bytes that a bundle feeds to the signature: its own, its engine operands, a taken target, a loop's start
(R127). -/
def State.sigBytes (s : State) (b : Bundle) (taken : Option Word) (back : Option (BitVec 15)) : List Byte :=
  bytesOf 48 b.toNat ++ s.engBytes b
    ++ (match taken with
      | some v => bytesOf 2 v.toNat
      | none => [])
    ++ (match back with
      | some v => bytesOf 2 v.toNat
      | none => [])

/-! ## Safe points -/

/-- Is a pre-emption to begin after the SAFE in hand (R138, R401, R423, R425, R434, R437)? -/
def State.preempts (s : State) : Bool :=
  match s.preq with
  | none => false
  | some r => s.seq.follows && s.apex.frozen.isNone && !s.ckptOpen && s.prog.isSome && !(s.seg.inSeg && r.skip == some s.seg.idx) &&
      (match r.atP with
      | some p => decide (p ≤ s.absc)
      | none => true)

/-- Is the SAFE in hand a congruence point of a checkpointed image (R434)? -/
def State.checkpoints (s : State) (cp : Option (Fin 256)) : Bool :=
  cp.isSome && s.seq.follows && (match s.prog with
    | some p => p.ckpt
    | none => false)

/-- Untimed copies pause (R423). -/
def State.pauseCopies (s : State) : State :=
  s.onCp fun c => { c with ents := c.ents.map fun e => if e.timed || e.cmd.pred then e else { e with held := true } }

/-- A checkpoint begins: its rows are saved in the 512 cycles after the SAFE (R434). -/
def State.beginCkpt (cp : Fin 256) (s : State) : State :=
  let t := { s with ckptOpen := true }
  (t.onSeq fun q => { q with issueAt := s.now + 513 }).plan (s.now + 512) rankEnd (.micro (.saveRow cp))

/-- A pre-emption begins: no bundle issues, copies pause, the save takes 512 cycles (R423). -/
def State.beginSave (cp : Option (Fin 256)) (s : State) : State :=
  let put := fun (r : PreReq) => { r with cp := cp }
  let t : State := { s.pauseCopies.onSeq fun q => { q with run := .preempted } with preq := s.preq.map put }
  (t.plan s.now rankEnd (.micro .loseAtoms)).plan (s.now + 512) rankEnd (.ev .saveComplete)

/-- After the SAFE at an address: a checkpoint's save at a congruence point of a checkpointed image, and a pre-emption's (R423,
R434). A pre-emption at such a SAFE stops issue there, and its save area is written once the checkpoint's rows are acknowledged
(DEDUCED, log 78). -/
def State.afterSafe (a : BitVec 15) (cp : Option (Fin 256)) (s : State) : State :=
  let s := s.onSeq fun q => { q with starved := false, safeAt := a, safeCp := cp, safeNow := s.now }
  let t := if s.checkpoints cp then s.beginCkpt (cp.getD 0) else s
  if s.preempts then t.beginSave cp else t

/-! ## After the slots -/

/-- The state after a bundle: `s` before it, `t` after its slots (R66, R80, R118, R127). -/
def State.finish (s : State) (b : Bundle) (t : State) : State :=
  let e := t.seq.effect
  let t := t.onSeq fun q => { q with effect := .none, slot := 0 }
  match e with
  | .hold => t
  | .eret => t
  | .halt => t
  | _ =>
    let u := (t.onSeq (s.advance e)).onSeg fun g => if s.seq.follows then { g with ended := false } else g
    let p := if s.seq.follows then u.seq.endLoops s.seq.pc s.now else (u.seq, none)
    let u := u.onSeq fun _ => p.1
    let taken := match e with
      | .xfer => t.seq.xfer.bind (·.target)
      | _ => none
    let u := if s.seg.inSeg && s.seq.follows && e != .segend
      then u.onSeq fun q => { q with crc := crcBytes q.crc (s.sigBytes b taken p.2) } else u
    match e with
    | .safe cp => u.afterSafe s.seq.pc cp
    | .segend => u.beginBoundary
    | _ => u

end Sys2Proof.Machine
end

