-- ==== Sys2Proof/Machine/Lane.lean ====
section
/-! DEFINITION. The lane instructions, and the events of ports, LMOV and sector ownership (R173 to R197). -/

namespace Sys2Proof.Machine

/-! ## Lanes -/

/-- Does a new occupancy meet one that stands (R176)? -/
def State.laneBusy (s : State) (u : LaneUse) : Bool := s.ann.lanes.any fun v => v.meets u

/-- The lane-conflict fault of an occupancy: a reserved lane or a shared segment (R17, R176). -/
def State.laneTrap (s : State) (u : LaneUse) : Option TrapReq :=
  trapIf (laneReserved u.lane || s.laneBusy u) (laneFault u.lane)

/-- Path of a binding: its start and its hops (R181). -/
def bindPath (wr : Bool) (sec stn : Fin 8) (ccw : Bool) : Nat × Nat :=
  if wr then (stnPos stn, hopsOf ccw (stnPos stn) (secPos sec)) else (secPos sec, hopsOf ccw (secPos sec) (stnPos stn))

/-! ## Ports -/

/-- The occupancy of a binding (R176). -/
def State.bindUse (s : State) (sec : Fin 8) (lane : LaneRef) (stn : Fin 8) (wr : Bool) : LaneUse :=
  let p := bindPath wr sec stn lane.ccw
  { lane := lane, segs := segsOf lane.ccw p.1 p.2, from_ := s.now, until_ := none, gen := s.ann.gen }

/-- The port that PBIND sets (R181). -/
def State.bindPort (s : State) (sec : Fin 8) (lane : LaneRef) (stn : Fin 8) (x : Word) (wr : Bool) : PortState :=
  { bound := true, wr := wr, sec := sec, lane := lane, stn := stn, base := Fin.ofNat 512 (fieldNat x 0 9),
    esz := fieldNat x 9 4 + 1, lvls := Vector.replicate 4 { count := 1, stride := 0 }, k := 0, nread := 0, rows := [],
    arm := .none, tag := 0, gen := s.ann.gen }

/-- PBIND (R181). -/
def execPbind (q : Fin 8) (sec : Fin 8) (lane : LaneRef) (stn : Fin 8) (xa : Reg) (wr : Bool) (s : State) : Out :=
  let u := s.bindUse sec lane stn wr
  let p := s.bindPort sec lane stn (s.x xa) wr
  .next (s.guarded [s.rdX xa, trapIf s.ann.ports[q].bound (portFault q), s.laneTrap u, s.secFault sec,
      if wr then none else s.prefetchFault p] fun s =>
    let t := s.onAnn fun a => { a with ports := a.ports.set q p, lanes := a.lanes ++ [u], gen := a.gen + 1 }
    if wr then t else t.startPrefetch q)

/-- Level lvl of a walk set from a register (R182). -/
def setLevel (x : Word) (lvl : Fin 4) (p : PortState) : PortState :=
  { p with lvls := p.lvls.set lvl { count := fieldNat x 0 12 + 1, stride := sintOf 10 (fieldNat x 12 10) } }

/-- PWALK: legal on a bound port with k = 0; a read port's prefetch restarts (R182). -/
def execPwalk (q : Fin 8) (xa : Reg) (lvl : Fin 4) (s : State) : Out :=
  let p := setLevel (s.x xa) lvl s.ann.ports[q]
  let v := s.unclaimReads q (s.now + 1)
  .next (s.guarded [s.rdX xa, trapIf (!p.bound || p.k ≠ 0) (portFault q),
      if p.wr then none else v.prefetchFault p] fun s =>
    let t := s.onPort q fun _ => p
    if p.wr then t else t.startPrefetch q)

/-- PRST (R183). -/
def execPrst (q : Fin 8) (s : State) : Out := .next (s.resetPort q)

/-- PTAG: arms a bound read port (R184). -/
def execPtag (q : Fin 8) (tag : BitVec 16) (s : State) : Out :=
  .next (s.guarded [trapIf (!s.ann.ports[q].bound || s.ann.ports[q].wr) (portFault q)]
    (State.onPort q fun p => { p with arm := .ptag, tag := tag }))

/-- PSTAMP: arms a bound write port (R185). -/
def execPstamp (q : Fin 8) (tag : BitVec 16) (s : State) : Out :=
  .next (s.guarded [trapIf (!s.ann.ports[q].bound || !s.ann.ports[q].wr) (portFault q)]
    (State.onPort q fun p => { p with arm := .pstamp, tag := tag }))

/-- PFLUSH: prefetch restarts from row k (R186). -/
def execPflush (q : Fin 8) (s : State) : Out :=
  let p := s.ann.ports[q]
  .next (s.guarded [trapIf (!p.bound || p.wr) (portFault q), (s.unclaimReads q (s.now + 1)).prefetchFault p]
    (State.startPrefetch q))

/-- PORT_PREFETCH_READ: the port reads its next walk row (R178). -/
def execPortPrefetchRead (q : Fin 8) (s : State) : Out :=
  let p := s.ann.ports[q]
  if p.bound && !p.wr && p.nread < p.total then
    let r := s.readRow p.sec (p.walkRow p.nread)
    .next (r.2.onPort q fun p => { p with rows := p.rows ++ [(s.now + p.hops + 1, r.1)], nread := p.nread + 1 })
  else .next s

/-- PORT_PUSH_LAND: the first row due on a port's lane is written (R179); a released binding ends with its last row
(R183). -/
def execPortPushLand (q : Fin 8) (s : State) : Out :=
  match s.ann.pushes.find? fun u => u.q = q && u.at_ ≤ s.now with
  | none => .next s
  | some u =>
    let t := (s.writeRowMasked u.sec u.row u.data u.cols).onAnn fun a => { a with pushes := a.pushes.erase u }
    .next (t.onAnn fun a => { a with drained := a.drained.filter fun p => (t.lastLanding p).isSome })

/-! ## LMOV (R187) -/

/-- The occupancy of an LMOV (R187). -/
def State.lmovUse (s : State) (src : Fin 8) (lane : LaneRef) (dst : Fin 8) (count : Nat) : LaneUse :=
  let h := hopsOf lane.ccw (secPos src) (secPos dst)
  { lane := lane, segs := segsOf lane.ccw (secPos src) h, from_ := s.now + 1, until_ := some (s.now + count + h), gen := 0 }

/-- The claims of an LMOV: cycle, sector, row, write (R173, R187). -/
def lmovClaims (now : Nat) (src dst : Fin 8) (sr dr count hops : Nat) : List (Nat × Fin 8 × Nat × Bool) :=
  (List.range count).map (fun i => (now + 1 + i, src, (sr + i) % 512, false))
    ++ (List.range count).map (fun i => (now + 1 + i + hops, dst, (dr + i) % 512, true))

/-- LMOV: the claims of all its rows at issue, and the first row's read in the next cycle (R187). -/
def execLmov (src : Fin 8) (lane : LaneRef) (dst : Fin 8) (xa : Reg) (s : State) : Out :=
  let x := s.x xa
  let count := fieldNat x 32 9 + 1
  let h := hopsOf lane.ccw (secPos src) (secPos dst)
  let u := s.lmovUse src lane dst count
  let cl := lmovClaims s.now src dst (fieldNat x 0 9) (fieldNat x 16 9) count h
  .next (s.guarded [s.rdX xa, s.laneTrap u, s.secFault src, s.secFault dst,
      firstTrap (cl.map fun c => s.claimFault c.2.1 c.2.2.1 c.1 c.2.2.2 7)] fun s =>
    let t := cl.foldl (fun v c => v.claim c.2.1 c.1 c.2.2.2 .lmov) s
    (t.onAnn fun a => { a with
      lanes := a.lanes ++ [u],
      lmovs := a.lmovs ++ [{ ssec := src, srow := fieldNat x 0 9, dsec := dst, drow := fieldNat x 16 9, count := count,
                             start := s.now, hops := h, nread := 0, nwrit := 0, buf := [] }] }).plan
      (s.now + 1) rankRead (.ev .lmovRow))

/-- Replace one LMOV. -/
def State.setLmov (i : Nat) (r : LmovRun) (s : State) : State :=
  s.onAnn fun a => { a with lmovs := if r.nwrit = r.count then a.lmovs.eraseIdx i else a.lmovs.set i r }

/-- LMOV_ROW: a row due is read, and its write is set hops cycles later; else a row due is written (R187). -/
def execLmovRow (s : State) : Out :=
  match s.ann.lmovs.findIdx? fun r => r.nread < r.count && r.start + 1 + r.nread ≤ s.now with
  | some i =>
    match s.ann.lmovs[i]? with
    | none => .next s
    | some r =>
      let v := s.readRow r.ssec ((r.srow + r.nread) % 512)
      let t := (v.2.setLmov i { r with nread := r.nread + 1, buf := r.buf ++ [v.1] }).plan (s.now + r.hops) rankWrite
        (.ev .lmovRow)
      .next (if r.nread + 1 < r.count then t.plan (s.now + 1) rankRead (.ev .lmovRow) else t)
  | none =>
    match s.ann.lmovs.findIdx? fun r => r.nwrit < r.nread && r.start + 1 + r.nwrit + r.hops ≤ s.now with
    | none => .next s
    | some i =>
      match s.ann.lmovs[i]? with
      | none => .next s
      | some r =>
        let v := r.buf.headD 0
        .next ((s.writeRow r.dsec ((r.drow + r.nwrit) % 512) v).setLmov i
          { r with nwrit := r.nwrit + 1, buf := r.buf.drop 1 })

/-! ## Status (R188 to R190, R193) -/

/-- PSTAT selector 0 (R189). The exhausted bit reads 1 once k is N, before any access past it: R177 can be read either way (DESIGN
CHOICE, log 67). -/
def PortState.word (p : PortState) : Word :=
  if !p.bound then 0
  else BitVec.ofNat 64 (1 + (if p.wr then 2 else 0) + p.sec.val * 2 ^ 2 + (if p.lane.ccw then 2 ^ 5 else 0)
    + p.lane.num.val * 2 ^ 6 + p.stn.val * 2 ^ 9 + p.base.val * 2 ^ 12 + (p.esz - 1) * 2 ^ 21
    + (match p.arm with
      | .none => 0
      | .ptag => 2 ^ 25
      | .pstamp => 2 ^ 26)
    + (if p.arm == .none then 0 else p.tag.toNat * 2 ^ 27) + (if p.total ≤ p.k then 2 ^ 43 else 0))

/-- Count and stride of a level (R188). -/
def Level.word (l : Level) : Nat := l.count - 1 + wrapInt 10 l.stride * 2 ^ 12

/-- Code of a sector's state (R193, R424). -/
def State.ownCode (s : State) (i : Fin 8) : Nat :=
  match s.ann.own[i] with
  | .free => 0
  | .held p => if p then 2 else 1
  | .kept => 2
  | .releasing _ _ => 3
  | .keptRel _ => 3

/-- A range register's word (R190). -/
def rangeWord : Option RangeReg → Nat
  | none => 0
  | some r => 1 + (if r.write then 2 else 0) + r.sec.val * 2 ^ 2 + r.first.val * 2 ^ 5 + r.last.val * 2 ^ 14
      + r.stmask.toNat * 2 ^ 23

/-- PSTAT's word (R188). -/
def State.pstatWord (s : State) (q : Fin 8) (sel : Nat) : Word :=
  let p := s.ann.ports[q]
  match sel with
  | 0 => p.word
  | 1 => BitVec.ofNat 64 (p.k + p.rows.length * 2 ^ 52)
  | 2 => BitVec.ofNat 64 (p.lvls[0].word + p.lvls[1].word * 2 ^ 32)
  | 3 => BitVec.ofNat 64 (p.lvls[2].word + p.lvls[3].word * 2 ^ 32)
  | 4 => BitVec.ofNat 64 ((List.finRange 8).foldl (fun n i => n + s.ownCode i * 4 ^ i.val) 0)
  | 5 => BitVec.ofNat 64 (s.ann.eccCorr.toNat + s.ann.eccPois.toNat * 2 ^ 32)
  | n => BitVec.ofNat 64 (rangeWord ((s.ann.ranges[n - 16]?).getD none))

/-- PSTAT: readable at c + 2 (R188). -/
def execPstat (q : Fin 8) (xd : Reg) (sel : Fin 32) (s : State) : Out :=
  .next (s.guarded [s.wrX xd] (State.putX xd (s.pstatWord q sel.val) 2 false))

/-! ## Ownership (R193, R317) -/

/-- Does a pair of queues hold a command that meets a test? -/
def Queues.has (f : Cmd → Bool) (q : Queues) : Bool := q.normal.any f || q.prio.any f

/-- Is a matrix command that meets a test queued or running? -/
def Matrix.anyCmd (m : Matrix) (f : Cmd → Bool) : Bool :=
  m.q.has f || (m.array.any fun r => f r.cmd) || (m.drain.any fun r => f r.cmd) || m.zero.any f

/-- Is a command that meets a test queued or running in any station? -/
def State.anyCmd (s : State) (f : Cmd → Bool) : Bool :=
  s.mx.anyCmd f || s.sh.tisQ.has f || s.sh.cvsQ.has f || s.sh.trsQ.has f || (s.sh.tis.any fun r => f r.cmd)
  || (s.sh.cvs.any fun r => f r.cmd) || (s.sh.trs.any fun r => f r.cmd)
  || (s.cp.ents.any fun e => f e.cmd) || (s.cp.abns.any fun a => f a.1)
  || s.tm.q.has f || (s.tm.send.any fun r => f r.cmd) || s.tm.sent.any fun p => f p.1

/-- May a RELEASING sector become FREE: has every command that its releaser issued before its SREL ended (R317)? -/
def State.releaseDone (s : State) (sec : Fin 8) : Bool :=
  match s.ann.own[sec] with
  | .releasing p upto => !s.anyCmd fun c => c.pred == p && !c.saved && decide (c.issued < upto)
  | .keptRel upto => !(s.anyCmd fun c => s.keepsFor c sec && decide (c.issued < upto))
      && !s.contexts.any fun x => x.keeps sec && x.mx.anyCmd fun c => decide (c.issued < upto)
  | _ => false

/-- SECTOR_FREE (R193, R317). -/
def execSectorFree (sec : Fin 8) (s : State) : Out :=
  .next (if s.releaseDone sec then s.onAnn fun a => { a with own := a.own.set sec .free } else s)

end Sys2Proof.Machine
end

