-- ==== Sys2Proof/Machine/Engine.lean ====
section
/-! DEFINITION. What the stations' commands share: capture at issue, queues, waits, claims, failures, completion
(R72, R200, R201, R213, R223, R231, R235, R238, R308 to R310, R319). -/

namespace Sys2Proof.Machine

/-- Station number of a unit (R21). -/
def stationOf : EUnit → Nat
  | .array => 0 | .drain => 0 | .tis => 2 | .cvs => 3 | .trs => 4 | .cps => 5 | .cls => 6

/-- The queues of a unit's station; st5 has none (R200, R231, R261, R358). -/
def State.queues (s : State) : EUnit → Queues
  | .array => s.mx.q
  | .drain => s.mx.q
  | .tis => s.sh.tisQ
  | .cvs => s.sh.cvsQ
  | .trs => s.sh.trsQ
  | .cps => Queues.reset
  | .cls => s.tm.q

/-- Change the queues of a unit's station. -/
def State.onQueues (u : EUnit) (f : Queues → Queues) (s : State) : State :=
  match u with
  | .array => s.onMx fun m => { m with q := f m.q }
  | .drain => s.onMx fun m => { m with q := f m.q }
  | .tis => s.onSh fun h => { h with tisQ := f h.tisQ }
  | .cvs => s.onSh fun h => { h with cvsQ := f h.cvsQ }
  | .trs => s.onSh fun h => { h with trsQ := f h.trsQ }
  | .cps => s
  | .cls => s.onTm fun m => { m with q := f m.q }

/-! ## Capture at issue (R72, R214, R233) -/

/-- The register k places after xa, as read; beyond x31 it reads as zero. -/
def State.xAt (s : State) (xa : Reg) (k : Nat) : Word := if h : xa.val + k < 32 then s.x ⟨xa.val + k, h⟩ else 0

/-- The schedule fault of reading wx and n registers from xa (R77, R230, R256). -/
def State.cmdFault (s : State) (e : ECtl) (n : Nat) : Option TrapReq :=
  firstTrap (s.rdX e.wx :: (List.range n).map fun k =>
    if h : e.xa.val + k < 32 then s.rdX ⟨e.xa.val + k, h⟩ else none)

/-- Index of a station's next command (R213, R274). -/
def State.nextIdx (s : State) (u : EUnit) : BitVec 24 :=
  match u with
  | .cps => s.cp.count
  | u => (s.queues u).count

/-- The station's count after one more command (R213). -/
def State.countCmd (u : EUnit) (s : State) : State :=
  match u with
  | .cps => s.onCp fun c => { c with count := c.count + 1 }
  | u => s.onQueues u fun q => { q with count := q.count + 1 }

/-- A command as captured: its operands, its wait, the keyed generator's registers (R46, R72, R310). -/
def State.capture (s : State) (u : EUnit) (e : ECtl) (op : Instr) : Cmd :=
  { idx := s.nextIdx u, op := op, xs := Vector.ofFn fun k => s.xAt e.xa k.val,
    wait := if e.wx = 0 then none else some (e.wsem, s.x e.wx), ssem := e.ssem, sinc := e.sinc, prio := e.q,
    issued := s.now, baddr := s.seq.pc, pred := false, key := s.sys.srkey, ctr := s.sys.srkctr, ft := 0, tau := 0,
    nest := Vector.replicate 10 0, mrow := 0, mcol := 0 }

/-- A command with the format entry it names, and the tolerance that entry names (R206, R214, R219, R233). -/
def State.withFt (s : State) (fe : Fin 16) (c : Cmd) : Cmd :=
  let v := s.mx.ft[fe]
  { c with ft := v, tau := s.mx.tol[Fin.ofNat 8 (fieldNat v 39 3)] }

/-! ## Failures (R213, R223, R238) -/

/-- A failure of a command with sinc = 0, recorded by its station (R213, R238, R276). -/
def State.recordFail (u : EUnit) (c : Cmd) (code : Nat) (s : State) : State :=
  let low := code + c.idx.toNat * 2 ^ 8
  match u with
  | .array => s.onMx fun m => { m with fail := BitVec.ofNat 32 low }
  | .drain => s.onMx fun m => { m with fail := BitVec.ofNat 32 low }
  | .tis => s.hwSys 0x223 (fun t => t.sh.fail) fun _ => BitVec.ofNat 64 low
  | .cvs => s.hwSys 0x223 (fun t => t.sh.fail) fun _ => BitVec.ofNat 64 (low + 2 ^ 32)
  | .trs => s.hwSys 0x223 (fun t => t.sh.fail) fun _ => BitVec.ofNat 64 (low + 2 * 2 ^ 32)
  | .cps => s.hwSys 0x101 (fun t => t.cp.fail) fun _ => BitVec.ofNat 64 low
  | .cls => s

/-- A command fails with a code: its semaphore, its station's record, or the predecessor's outcomes (R223, R238, R306, R309). -/
def State.cmdFails (u : EUnit) (c : Cmd) (code detail : Nat) (s : State) : State :=
  if c.sinc = 0 then
    let t := s.recordFail u c code
    if c.pred then t.notePred c (BitVec.ofNat 8 code) else t
  else s.failCmd c (BitVec.ofNat 8 code) (BitVec.ofNat 8 detail) 

/-- A TBLD that fails leaves its slot invalid (R247, R249). -/
def State.spoilTable (c : Cmd) (s : State) : State :=
  match c.op with
  | .tbld _ k => s.onSh fun h => { h with
      slots := h.slots.set k none, tblBad := h.tblBad.filter fun p => p.1 ≠ k.val,
      tblFlaw := h.tblFlaw.filter fun p => p.1 ≠ k.val }
  | _ => s

/-- A failure whose detail is the station (R307). -/
def State.plainFail (u : EUnit) (c : Cmd) (code : Nat) (s : State) : State :=
  (s.spoilTable c).cmdFails u c code (stationOf u)

/-! ## Queues and waits (R200, R231, R310) -/

/-- A command joins its queue, or fails when 16 wait there (R200, R231). -/
def State.enqueueCmd (u : EUnit) (c : Cmd) (s : State) : State :=
  let q := s.queues u
  let t := s.countCmd u
  if 16 ≤ (if c.prio then q.prio else q.normal).length then t.plainFail u c 0x28
  else t.onQueues u fun q =>
    if c.prio then { q with prio := q.prio ++ [c] } else { q with normal := q.normal ++ [c] }

/-- How a command's wait stands in a cycle (R310). -/
inductive WaitSt where
  | ready | hold | fail (code : Nat)
  deriving DecidableEq, Repr

/-- The wait tested against the semaphore as visible (R310). -/
def State.waitTest (s : State) (c : Cmd) : WaitSt :=
  match c.wait with
  | none => .ready
  | some (n, thr) =>
    let m := s.sems[n]
    if 2 ^ 36 ≤ thr.toNat then .fail 0x33
    else if m.err then .fail 0x29
    else if thr.toNat ≤ m.cnt.toNat then .ready else .hold

/-- Does the head of a queue act in this cycle: does its wait fail, or may it start (R200)? -/
def State.headActs (s : State) (free : Cmd → Bool) (next : Nat) (q : List Cmd) : Option Cmd :=
  match q with
  | [] => none
  | c :: _ =>
    if s.now < next || s.now ≤ c.issued then none
    else match s.waitTest c with
      | .hold => none
      | .ready => if free c then some c else none
      | .fail _ => some c

/-- The head that acts next, the priority queue's first (R200). -/
def State.nextHead (s : State) (u : EUnit) (free : Cmd → Bool) : Option Cmd :=
  let q := s.queues u
  match s.headActs free q.nextP q.prio with
  | some c => some c
  | none => s.headActs free q.nextN q.normal

/-- A head leaves its queue; the next one stands at the head from the next cycle on (R310). -/
def Queues.leave (now : Nat) (c : Cmd) (q : Queues) : Queues :=
  if c.prio then { q with prio := q.prio.drop 1, nextP := now + 1 } else { q with normal := q.normal.drop 1, nextN := now + 1 }

/-! ## Claims (R201, R235, R319) -/

/-- The code with which claiming an access fails, if it does: ownership, ports of the sector, range set (R201, R235,
R319). -/
def State.claimCode (s : State) (c : Cmd) (stn : Nat) (sec : Fin 8) (row cyc : Nat) (write : Bool) : Option Nat :=
  if !s.cmdHolds c sec then some 0x2E
  else if !s.claimOk sec cyc write then some 0x2B
  else if (s.rangeBreak write sec row stn).isSome then some 0x2C
  else none

/-- A read claimed for the next cycle, at the end of this one, and made: nothing comes between them (R174, R201, R333). -/
def State.claimRead (u : EUnit) (c : Cmd) (sec : Fin 8) (row : Nat) (s : State) : Row × State :=
  (s.claim sec (s.now + 1) false (.unit u)).cmdRow c.issued s.seg.inSeg sec row

/-! ## Completion -/

/-- A command completes: its semaphore rises by its sinc, or by the bytes landed (R72, R308). -/
def State.cmdDone (c : Cmd) (bytes : Nat) (s : State) : State := s.signalCmd c bytes

end Sys2Proof.Machine
end

