-- ==== Sys2Proof/Machine/Hbm.lean ====
section
/-! DEFINITION. HBM: places in a stack, banks and refresh, the row protection of the stacks, windows, and the walk of
the device tables (R278 to R288, R457 to R459, R467). -/

namespace Sys2Proof.Machine

/-! ## Places (R278) -/

/-- Stack of a physical address. -/
def stackOf (a : Nat) : Nat := a / 2 ^ 36 % 8

/-- Pseudo-channel of a physical address. -/
def pchOf (a : Nat) : Nat := a % 2 ^ 36 / 512 % 64

/-- Bank of a physical address. -/
def bankOf (a : Nat) : Nat := a % 2 ^ 36 / 512 / 64 % 16

/-- Place of the stack's channel among this die's PHY registers, if the stack is the die's own (R457, R459). -/
def State.phyOf (s : State) (a : Nat) : Option Nat :=
  if stackOf a / 2 = s.die then some (stackOf a % 2 * 32 + pchOf a / 2) else none

/-- Die distance from this cell's die to the die of a stack (R11). -/
def State.stackDist (s : State) (a : Nat) : Nat := dieDist s.die (stackOf a / 2)

/-! ## Banks (R278 to R280) -/

/-- Is a bank being refreshed at a counter value (R279)? -/
def refreshing (bank t : Nat) : Bool := 900 * bank ≤ t % 14400 && t % 14400 < 900 * bank + 720

/-- Is the channel of an address in training mode (R458)? -/
def State.training (s : State) (a : Nat) : Bool :=
  match s.phyOf a with
  | some ch => ((s.phy[ch]?).getD Phy.reset).ctl.getLsbD 0
  | none => false

/-- Is the bank of an address occupied by an earlier access or in refresh in this cycle? -/
def State.bankHeld (s : State) (a : Nat) : Bool :=
  refreshing (bankOf a) s.absc ||
    s.cp.banks.any fun b => b.1 = stackOf a && b.2.1 = pchOf a && b.2.2.1 = bankOf a && s.now < b.2.2.2

/-- Is the bank busy for a timed access (R280)? -/
def State.bankBusy (s : State) (a : Nat) : Bool := s.bankHeld a || s.training a

/-- Would an untimed access in this cycle hold the bank in a cycle of the slot map (R280)? A channel in training mode is left out of the
map (R458). -/
def State.inSlotMap (s : State) (a : Nat) : Bool :=
  !s.training a && s.cp.slots.any fun m => m.2.1 = stackOf a && m.2.2.1 = pchOf a && m.2.2.2.1 = bankOf a
    && m.2.2.2.2 < s.absc + 176 && s.absc < m.2.2.2.2 + 176

/-- The bank is held for 176 cycles (R278). -/
def State.takeBank (a : Nat) (s : State) : State :=
  let live := s.cp.banks.filter fun b => s.now < b.2.2.2
  s.onCp fun c => { c with banks := (stackOf a, pchOf a, bankOf a, s.now + 176) :: live }

/-! ## What a row reads as (R458, R459, R467) -/

/-- The delay codes in use for reads and for writes: the old or the new ones for an access within 64 cycles of a write (R458). -/
def State.codesOf (s : State) (p : Phy) : Word × Word :=
  (if s.now < p.since + 64 && Config.freeBool s.freeCtr then p.oldR else p.rdly,
   if s.now < p.sinceW + 64 && Config.freeBool (s.freeCtr + 1) then p.oldW else p.wdly)

/-- The lane that carries lane l under a REPAIR word: 64 and 65 are the spare lanes (R458). -/
def steer (repair : Word) (l : Nat) : Nat :=
  if repair.getLsbD 6 && fieldNat repair 0 6 = l then 64
  else if repair.getLsbD 14 && fieldNat repair 8 6 = l then 65 else l

/-- The bits of a row that lane l carries: bit l of each double (R459). -/
def laneOf (r : Row) (l : Nat) : Word :=
  BitVec.ofNat 64 ((List.range 64).foldl (fun n k => if r.getLsbD (64 * k + l) then n + 2 ^ k else n) 0)

/-- The row with a word's bits on lane l. -/
def onLane (l : Nat) (v : Word) : Row :=
  BitVec.ofNat 4096 ((List.range 64).foldl (fun n k => if v.getLsbD k then n + 2 ^ (64 * k + l) else n) 0)

/-- The delay code of a lane: that of its byte group, for a spare lane that of the lane it replaces (R458, R459). -/
def laneCode (codes : Word) (l : Nat) : Nat := fieldNat codes (8 * (l / 8)) 8

/-- What a lane delivers of the bits given to it: those bits where it passes at the code, free ones elsewhere (R461; log 37). -/
def carried (ch lane : Nat) (write : Bool) (code : Nat) (v : Word) (n : Nat) : Word :=
  if Config.lanePasses ch lane write code then v else Config.laneBits ch lane write code v n

/-- The channel of an address, over the module's stacks (R278, R459). -/
def channelOf (a : Nat) : Nat := stackOf a * 32 + pchOf a / 2

/-- A row as it comes to stand on the lanes of its channel, which has delay codes and a repair (R458, R459). -/
def State.rawOf (s : State) (p : Phy) (a : Nat) (r : Row) : RawRow :=
  let codes := (s.codesOf p).2
  let put := fun (l : Nat) => carried (channelOf a) (steer p.repair l) true (laneCode codes l) (laneOf r l) (s.freeCtr + 2 + l)
  let err := fun (l : Nat) => if steer p.repair l = l then onLane l (put l ^^^ laneOf r l) else 0
  { row := a / 512, err := (List.range 64).foldl (fun e l => e ||| err l) 0, repair := p.repair,
    spare0 := put (fieldNat p.repair 0 6), spare1 := put (fieldNat p.repair 8 6) }

/-- The bits that stand where a repair looks for lane l of a stored row; free ones where the write put none (R458). -/
def State.storedLane (s : State) (raw : RawRow) (repair : Word) (v : Row) (l : Nat) : Word :=
  match steer repair l with
  | 64 => if raw.repair.getLsbD 6 then raw.spare0 else Config.freeWord (s.freeCtr + 2 + l)
  | 65 => if raw.repair.getLsbD 14 then raw.spare1 else Config.freeWord (s.freeCtr + 2 + l)
  | _ => if steer raw.repair l = l then laneOf v l ^^^ laneOf raw.err l else Config.freeWord (s.freeCtr + 2 + l)

/-- The wrong bits of a row as its channel reads it. A row that the channel has not written stands as it was given (log 37). -/
def State.rowErr (s : State) (p : Phy) (a : Nat) (v : Row) : Row :=
  let codes := (s.codesOf p).1
  let stored := fun (l : Nat) => match s.cp.hbmRaw.find? fun x => x.row = a / 512 with
    | some raw => s.storedLane raw p.repair v l
    | none => laneOf v l
  (List.range 64).foldl (fun e l => e ||| onLane l
    (carried (channelOf a) (steer p.repair l) false (laneCode codes l) (stored l) (s.freeCtr + 2 + l) ^^^ laneOf v l)) 0

/-- Symbols that an error pattern touches in word w of a row: symbol l is bit l of the word's eight doubles. -/
def symbolsHit (e : Row) (w : Nat) : Nat :=
  let v : BitVec 512 := BitVec.extractLsb' (512 * w) 512 e
  let m : Word := (List.range 8).foldl (fun a d => a ||| BitVec.extractLsb' (64 * d) 64 v) 0
  ((List.range 64).filter fun l => m.getLsbD l).length

/-- What the stack's code makes of word w of a row with wrong bits: the bits that stay wrong, whether it corrects the word, and whether it
detects an error that it cannot correct. With three or more symbols hit the outcome is free (R467; log 37). -/
def eccWord (e : Row) (n w : Nat) : Row × Bool × Bool :=
  let mask : Row := BitVec.ofNat 4096 ((2 ^ 512 - 1) * 2 ^ (512 * w))
  match symbolsHit e w with
  | 0 => (0, false, false)
  | 1 => (0, true, false)
  | 2 => (e &&& mask, false, true)
  | _ => match (Config.freeWord (n + w)).toNat % 3 with
    | 0 => (e &&& mask, false, true)
    | 1 => (e &&& mask, false, false)
    | _ => (Config.miscorrected (n + w) &&& mask, true, false)

/-- A counter half of PHYSTAT rises by one, holding at its top (R457). -/
def phyCount (hi : Bool) (v : Word) : Word :=
  let c := fieldNat v 0 32
  let u := fieldNat v 32 32
  BitVec.ofNat 64 (if hi then c + min (u + 1) 0xFFFFFFFF * 2 ^ 32 else min (c + 1) 0xFFFFFFFF + u * 2 ^ 32)

/-- A row as an HBM access reads it, whether it is reported uncorrectable, and the state with the channel's counts: each word is
corrected by itself, and the row counts once of each kind (R457, R459, R467). Channels of other dies pass (log 37). -/
def State.readHbm (s : State) (a : Nat) : (Row × Bool) × State :=
  let v := s.cp.hbm.row a
  let bad := s.cp.hbmBad.contains (a / 512)
  match s.phyOf a with
  | none => ((v, bad), s)
  | some ch =>
    let p := (s.phy[ch]?).getD Phy.reset
    let e := s.rowErr p a v
    let t : State := { s with freeCtr := s.freeCtr + 80 }
    if p.ctl.getLsbD 1 then ((v ^^^ e, false), t)
    else
      let words := (List.range 8).map (eccWord e (s.freeCtr + 70))
      let rep := bad || words.any fun w => w.2.2
      let t := if words.any fun w => w.2.1 then t.onPhy ch fun p => { p with stat := phyCount false p.stat } else t
      let t := if rep then t.onPhy ch fun p => { p with stat := phyCount true p.stat } else t
      ((words.foldl (fun r w => r ^^^ w.1) v, rep), t)

/-- A row written to HBM, with check symbols of its data; it stands on its lanes as they carry it (R458, R459, R467). A row written whole
reads well again. -/
def State.writeHbm (a : Nat) (r : Row) (s : State) : State :=
  let raw := s.cp.hbmRaw.filter fun x => x.row ≠ a / 512
  let t := s.onCp fun c => { c with
    hbm := c.hbm.setRow a r, hbmBad := c.hbmBad.filter fun k => k ≠ a / 512,
    hbmRaw := match s.phyOf a with
      | none => raw
      | some ch => s.rawOf ((s.phy[ch]?).getD Phy.reset) a r :: raw }
  { t with freeCtr := s.freeCtr + 80 }

/-! ## Device tables (R284 to R288) -/

/-- How the translation of an address ends (R287). -/
inductive WalkEnd where
  /-- The walk stops with a fault record of a kind. -/
  | record (kind : Nat)
  /-- Failure 0x35; `placed` says that a record of kind 5 is written too. -/
  | table (placed : Bool)
  /-- A table's row that HBM reports uncorrectable (R273). -/
  | bad
  /-- A page: base and size of its addresses, its frame, rights, and the module that holds it. -/
  | page (base size frame : Nat) (rd wr : Bool) (rem : Option Nat)
  deriving DecidableEq, Repr

/-- A table entry's frame: bits 47:16 in place. -/
def entryFrame (e : Word) : Nat := fieldNat e 16 32 * 2 ^ 16

/-- Physical address of the entry that a walk reads in a level's table (R284). -/
def walkAddr (dva lvl table : Nat) : Nat := table + 8 * (dva / 2 ^ (42 - 13 * lvl) % 8192)

/-- One level of the walk: an end, or the next table (R287). -/
def walkStep (m : Memory) (dva : Nat) (write : Bool) (lvl table : Nat) : WalkEnd ⊕ Nat :=
  let sh := 42 - 13 * lvl
  let e : Word := BitVec.ofNat 64 (m.readNat (walkAddr dva lvl table) 8)
  let f := entryFrame e
  if !e.getLsbD 0 then .inl (.record 1)
  else if e.getLsbD 1 then
    if lvl = 0 || f % 2 ^ sh ≠ 0 || 2 ^ 39 ≤ f then .inl (.table false)
    else if e.getLsbD 4 then .inl (.record 3)
    else if !(if write then e.getLsbD 3 else e.getLsbD 2) then .inl (.record 2)
    else .inl (.page (dva / 2 ^ sh * 2 ^ sh) (2 ^ sh) f (e.getLsbD 2) (e.getLsbD 3)
      (if e.getLsbD 5 then some (fieldNat e 7 9) else none))
  else if lvl = 2 then .inl (.table false)
  else if e.getLsbD 4 || e.getLsbD 5 || e.getLsbD 6 || 2 ^ 39 ≤ f then .inl (.table true)
  else .inr f

/-- The walk from a level's table: its end, and the tables it passed, by level (R287, R288). -/
def walkFrom (m : Memory) (dva : Nat) (write : Bool) : Nat → Nat → Nat → WalkEnd × List (Nat × Nat)
  | 0, _, _ => (.table false, [])
  | n + 1, lvl, table =>
    match walkStep m dva write lvl table with
    | .inl e => (e, [])
    | .inr t =>
      let r := walkFrom m dva write n (lvl + 1) t
      (r.1, (lvl + 1, t) :: r.2)

/-- The address space of a CPCTX word (R285). -/
def ctxAsid (ctx : Word) : BitVec 16 := ctx.setWidth 16

/-- The level-0 table's address of a CPCTX word (R285). -/
def ctxRoot (ctx : Word) : Nat := fieldNat ctx 16 32 * 2 ^ 16

/-- Addresses that a table of a level serves. -/
def levelSpan (lvl : Nat) : Nat := 2 ^ (55 - 13 * lvl)

/-- The deepest table that the walk caches hold for an address, if the map unit uses it: a free choice (R284). -/
def State.walkStart (s : State) (ctx : Word) (dva : Nat) : Nat × Nat :=
  let hit := s.cp.walks.filter fun w => w.asid = ctxAsid ctx && dva / levelSpan w.lvl * levelSpan w.lvl = w.base
  if Config.freeBool s.freeCtr then
    hit.foldl (fun a w => if a.1 < w.lvl then (w.lvl, w.table) else a) (0, ctxRoot ctx)
  else (0, ctxRoot ctx)

/-- The walk for an address of a context as the tables stand: its end, and the tables it passed (R287). -/
def State.walkEnd (s : State) (ctx : Word) (dva : Nat) (write : Bool) : WalkEnd × List (Nat × Nat) :=
  let b := s.walkStart ctx dva
  walkFrom s.cp.hbm dva write 3 b.1 b.2

/-- Physical addresses of the entries that the walk reads. -/
def State.walkReads (s : State) (ctx : Word) (dva : Nat) (write : Bool) : List Nat :=
  (s.walkStart ctx dva :: (s.walkEnd ctx dva write).2).map fun p => walkAddr dva p.1 p.2

/-- Is a bank that the walk needs held, or kept by the slot map? A walk's reads are untimed HBM reads (R280, R287). -/
def State.walkHeld (s : State) (ctx : Word) (dva : Nat) (write : Bool) : Bool :=
  (s.walkReads ctx dva write).any fun a => s.bankHeld a || s.inSlotMap a

/-- A read of the walk: its bank is taken and its row read under the stack's protection (R278, R287, R467). -/
def State.walkRead (p : Bool × State) (a : Nat) : Bool × State :=
  let v := (p.2.takeBank a).readHbm (a / 512 * 512)
  (p.1 || v.1.2, v.2)

/-- The walk for an address of a context, with what the map unit then holds (R287, R288). The reads of its levels fall in one
cycle here, and find the entries as they stand in HBM (log 6). -/
def State.walkPage (s : State) (ctx : Word) (dva : Nat) (write : Bool) : WalkEnd × State :=
  let r := s.walkEnd ctx dva write
  let v := (s.walkReads ctx dva write).foldl State.walkRead (false, { s with freeCtr := s.freeCtr + 1 })
  let add := fun (l : List WalkEnt) (p : Nat × Nat) =>
    let w : WalkEnt := { asid := ctxAsid ctx, lvl := p.1, base := dva / levelSpan p.1 * levelSpan p.1, table := p.2 }
    if l.contains w then l else w :: l
  let t := v.2.onCp fun c => { c with walks := r.2.foldl add c.walks }
  if v.1 then (.bad, v.2)
  else match r.1 with
  | .page base size f rd wr rem =>
    let e : TlbEnt := { asid := ctxAsid ctx, base := base, size := size, frame := f, rd := rd, wr := wr, rem := rem }
    (r.1, t.onCp fun c => { c with tlb := e :: c.tlb.filter fun x => x ≠ e })
  | _ => (r.1, t)

/-- A translation that the TLB holds and grants, if the map unit finds it there: a free choice (R284, R288). -/
def State.tlbHit (s : State) (ctx : Word) (dva : Nat) (write : Bool) : Option TlbEnt :=
  if Config.freeBool s.freeCtr then
    s.cp.tlb.find? fun e => e.asid = ctxAsid ctx && e.base ≤ dva && dva < e.base + e.size && (if write then e.wr else e.rd)
  else none

/-- Where an address of a page leads; none for a module outside the domain (R287, R297). -/
def pagePlace (base frame : Nat) (rem : Option Nat) (dva : Nat) : Option Xlate :=
  match rem with
  | none => some (.hbm (frame + (dva - base)))
  | some m => if m < Config.domainModules then some (.far m (frame + (dva - base))) else none

end Sys2Proof.Machine
end

