-- ==== Sys2Proof/Machine/Reports.lean ====
section
/-! DEFINITION. What the Apex writes and reads in memory: the event queue, DVAs of a queue's context, and packets and
writes that wait for a page (R403 to R405, R411, R415, R446). -/

namespace Sys2Proof.Machine

/-! ## The event queue (R415, R446) -/

/-- An event of the Apex with a counter value: its record is written once the queue has room. -/
def State.pushEventAt (absc : Word) (kind queue cell : Nat) (lid : BitVec 32) (data : Nat) (s : State) : State :=
  let r : EventRec := { kind := BitVec.ofNat 8 kind, queue := BitVec.ofNat 8 queue, cell := BitVec.ofNat 16 cell, lid := lid,
                        absc := absc, data := BitVec.ofNat 128 data }
  (s.onApex fun a => { a with events := a.events ++ [r] }).plan s.now rankEnd (.ev .eventRecordWrite)

/-- An event of the Apex in this cycle. -/
def State.pushEvent (kind queue cell : Nat) (lid : BitVec 32) (data : Nat) (s : State) : State :=
  s.pushEventAt s.ax.value kind queue cell lid data

/-- A physical mesh cell as the records hold it: x in bits 4:0, y in bits 9:5 (R292, R415). -/
def cellWord (c : Nat × Nat) : Nat := c.1 % 32 + c.2 % 32 * 32

/-- The 32 bytes of a record (R415). -/
def EventRec.bytes (r : EventRec) : List Byte :=
  bytesOf 1 r.kind.toNat ++ bytesOf 1 r.queue.toNat ++ bytesOf 2 r.cell.toNat ++ bytesOf 4 r.lid.toNat
    ++ bytesOf 8 r.absc.toNat ++ bytesOf 16 r.data.toNat

/-- EVENT_RECORD_WRITE: a held record is written while the queue has room (R446). -/
def execEventRecordWrite (s : State) : Out :=
  let a := s.apex
  match a.events with
  | [] => .next s
  | r :: rest =>
    if 2 ^ a.evlg ≤ (a.evtail - a.evhead).toNat then .next s
    else
      let at_ := a.evbase.toNat + 32 * (a.evtail.toNat % 2 ^ a.evlg)
      let t := (s.onApex fun a => { a with events := rest, evtail := a.evtail + 1 }).emit (.hostWrite at_ r.bytes)
      .next (if rest.isEmpty then t else t.plan s.now rankEnd (.ev .eventRecordWrite))

/-- EVENT_HEAD_WRITE: the driver has consumed records (R446). Before the endpoint accepts accesses nothing happens
(R453). -/
def execEventHeadWrite (head : BitVec 32) (s : State) : Out :=
  .next (if s.apex.boot == .up
    then (s.onApex fun a => { a with evhead := head }).plan s.now rankEnd (.ev .eventRecordWrite) else s)

/-! ## DVAs of a queue's context (R403, R405, R411) -/

/-- Where a DVA of a queue's context leads: a place, a fault record's kind, or a violation (R287, R289, R297). -/
inductive QPlace where
  | at_ (x : Xlate)
  | fault (kind : Nat)
  | ask
  | violation
  deriving DecidableEq, Repr

/-- The translation of a DVA for a queue (R287, R289): `ask` when the host must be asked. -/
def State.queuePlace (s : State) (d : QueueDesc) (dva : Nat) (write : Bool) : QPlace :=
  if 2 ^ 54 ≤ dva then
    if !d.pasid.getLsbD 20 then .violation
    else match s.cp.ats.find? fun a => a.pasid = d.pasid.setWidth 20 && a.page = dva % 2 ^ 54 / 4096
        && (if write then a.wr else a.rd) with
      | some a => .at_ (.host (a.frame * 4096 + dva % 4096))
      | none => .ask
  else if d.root = 0 then .violation
  else match (walkFrom s.cp.hbm dva write 3 0 (d.root.toNat * 2 ^ 16)).1 with
    | .record k => .fault k
    | .table _ => .violation
    | .bad => .violation
    | .page base _ f _ _ rem => match pagePlace base f rem dva with
      | some x => .at_ x
      | none => .violation

/-- The little-endian number in n bytes from a DVA on, each translated by itself, where all lie in this module's HBM. -/
def State.dvaNat (s : State) (d : QueueDesc) (dva n : Nat) : Option Nat :=
  (List.range n).foldr (fun k acc => match acc, s.queuePlace d (dva + k) false with
    | some v, .at_ (.hbm a) => some (v * 256 + (s.cp.hbm.get a).toNat)
    | _, _ => none) (some 0)

/-- Bytes written to HBM. -/
def State.putHbm (a : Nat) (l : List Byte) (s : State) : State := s.onCp fun c => { c with hbm := c.hbm.write a l }

/-- Bytes written where a translation leads. -/
def State.putAt (x : Xlate) (l : List Byte) (s : State) : State :=
  match x with
  | .hbm a => s.putHbm a l
  | .far m a => s.emit (.moduleWrite m a l)
  | .host a => s.emit (.hostWrite a l)

/-- The 64-bit word at a lower-half DVA of a queue's context, of this module's HBM or another's (R289, R408; log 75). -/
def State.queueWord (s : State) (d : QueueDesc) (dva : Nat) : Option Nat :=
  match s.queuePlace d dva false with
  | .at_ (.hbm a) => some (s.cp.hbm.readNat a 8)
  | .at_ (.far m a) => some ((List.range 8).foldr (fun k n => n * 256 + (Config.farByte m (a + k) s.now).toNat) 0)
  | _ => none

/-- Change a queue. -/
def State.onQueue (q : Fin 64) (f : QueueDesc → QueueDesc) (s : State) : State :=
  s.onApex fun a => { a with queues := a.queues.set q (f a.queues[q]) }

/-- Change a heap entry. -/
def State.onHeap (id : Nat) (f : HeapEnt → HeapEnt) (s : State) : State :=
  s.onApex fun a => { a with heap := a.heap.map fun e => if e.id = id then f e else e }

/-- DVA of the packet that a queue fetches next (R405). -/
def QueueDesc.nextDva (d : QueueDesc) : Nat := d.base.toNat + 128 * (d.head.toNat % 2 ^ d.lgsz)

/-- One page request to the host: at most 1,024 are outstanding, later ones wait (R290). -/
def State.pageRequest (pasid : BitVec 20) (page : Nat) (s : State) : State :=
  if s.apex.pris.contains (pasid, page) || s.apex.priWait.contains (pasid, page) then s
  else if s.apex.pris.length < 1024 then
    (s.onApex fun a => { a with pris := a.pris ++ [(pasid, page)] }).emit (.priReq pasid page true)
  else s.onApex fun a => { a with priWait := a.priWait ++ [(pasid, page)] }

/-- A queue parks on a page, with an event of kind 5; a host page is asked for (R290, R405). -/
def State.parkQueue (q : Fin 64) (s : State) : State :=
  let d := s.apex.queues[q]
  let a := d.nextDva
  let t := (s.onQueue q fun d => { d with st := .fetchFaulted }).pushEvent 5 q.val 0 0 (if 2 ^ 54 ≤ a then a / 4096 * 4096 else a / 65536 * 65536)
  if 2 ^ 54 ≤ a then t.pageRequest (d.pasid.setWidth 20) (a % 2 ^ 54 / 4096) else t

/-- Address of a SIGNAL's write. -/
def HeapEnt.signalAddr (e : HeapEnt) : Option Nat :=
  match e.body with
  | .signal 0 a _ _ => some a
  | _ => none

/-- A SIGNAL waits for its page, with an event of kind 5 (R411). -/
def State.parkSignal (e : HeapEnt) (a : Nat) (s : State) : State :=
  let d := s.apex.queues[e.q]
  let t := (s.onHeap e.id fun e => { e with st := .paused }).pushEvent 5 e.q.val 0 0 (if 2 ^ 54 ≤ a then a / 4096 * 4096 else a / 65536 * 65536)
  if 2 ^ 54 ≤ a then t.pageRequest (d.pasid.setWidth 20) (a % 2 ^ 54 / 4096) else t

/-- Does a DVA of a queue's context lie on a page: of a host's PASID, or of an asid's 64 KiB? -/
def QueueDesc.onPage (d : QueueDesc) (host : Bool) (ctx : Nat) (page : Nat) (a : Nat) : Bool :=
  if host then 2 ^ 54 ≤ a && d.pasid.toNat % 2 ^ 20 = ctx && a % 2 ^ 54 / 4096 = page
  else a < 2 ^ 54 && d.asid.toNat = ctx && a / 65536 = page

/-- A page that fetches and SIGNALs wait for is served, or refused: the queue fetches the same index again or stands in
ERROR, as it does with more packets than its ring holds; the SIGNAL is written or ends with 0x020C (R404, R405, R411). -/
def State.serveApex (host : Bool) (ctx page : Nat) (ok : Bool) (s : State) : State :=
  let t := (List.finRange 64).foldl (fun u q =>
    let d := u.apex.queues[q]
    if d.st == .fetchFaulted && d.onPage host ctx page d.nextDva then
      if !ok || 2 ^ d.lgsz < (d.tail - d.head).toNat then u.onQueue q fun d => { d with st := .error }
      else (u.onQueue q fun d => { d with st := .active }).plan (s.now + 1) rankEnd (.ev (.queueFetch q none none))
    else u) s
  (t.apex.heap.filter fun e => e.st == .paused).foldl (fun u e => match e.signalAddr with
    | none => u
    | some a =>
      if (u.apex.queues[e.q]).onPage host ctx page a then
        if ok then (u.onHeap e.id fun e => { e with st := .waiting }).plan (s.now + 1) rankEnd (.ev (.signalWrite e.id))
        else u.finishEntry e.id 0x020C 0 0
      else u) t

/-- A host translation comes to the Apex: fetches and SIGNALs that asked for it go on, or park; a refusal of the host
parks a fetch, and is a violation for a SIGNAL (R289, R297, R405, R411). -/
def State.apexAts (pasid : BitVec 20) (page : Nat) (r : AtsResult) (s : State) : State :=
  let t := (List.finRange 64).foldl (fun u q =>
    let d := u.apex.queues[q]
    if d.st == .active && d.head ≠ d.tail && d.onPage true pasid.toNat page d.nextDva then match r with
      | .granted _ true _ => u.plan (s.now + 1) rankEnd (.ev (.queueFetch q none none))
      | _ => u.parkQueue q
    else u) s
  (t.apex.heap.filter fun e => e.st == .running).foldl (fun u e => match e.signalAddr with
    | none => u
    | some a =>
      if (u.apex.queues[e.q]).onPage true pasid.toNat page a then match r with
        | .granted _ _ true => u.plan (s.now + 1) rankEnd (.ev (.signalWrite e.id))
        | .granted _ _ false => u.parkSignal e a
        | .unsupported => u.finishEntry e.id 0x020C 0 0
      else u) t

end Sys2Proof.Machine
end

