-- ==== Sys2Proof/Machine/ShapeMath.lean ====
section
/-! DEFINITION. The arithmetic of the shaping stations: conversion of a tile, the largest magnitude and the scales it
gives, transposition, checksums made anew, table images and their evaluation (R237 to R250). -/

namespace Sys2Proof.Machine

/-! ## Verification (R237) -/

/-- The check of a source tile: 0, or 0x25, 0x2A, 0x22, 0x30 (R237). `tag`: the tag it must carry. -/
def verifyTile (f : Nat) (tag : Option (BitVec 16)) (rows : List Row) : Nat :=
  let r := rows.headD 0
  let h := hdrOf r
  match tileFmt f with
  | none => 0x25
  | some fm =>
    if !hdrZero r || h.code ≠ f || (!fm.isBlock && h.orient) then 0x25
    else if tag.isSome && tag ≠ some h.tag then 0x2A
    else tileCheck fm rows

/-! ## Conversion (R242, R243) -/

/-- The exact product of two values; NaN v passes with its payload, a NaN scale or infinity times zero gives the
default NaN (R242). -/
def EVal.scale (v f : EVal) : EVal :=
  match v, f with
  | .nan c, _ => .nan c
  | _, .nan _ => .nan f32.defaultNaN
  | .fin x, .fin y => .fin (x.mul y)
  | .inf s, .inf t => .inf (s != t)
  | .inf s, .fin y => if y.m = 0 then .nan f32.defaultNaN else .inf (s != y.s)
  | .fin x, .inf t => if x.m = 0 then .nan f32.defaultNaN else .inf (x.s != t)

/-- The exact value one. -/
def oneVal : EVal := .fin (exactInt 1)

/-- A value rounded once into a floating-point format without blocks (R47, R49, R50). -/
def roundVal (F : FFormat) (r : Rnd) (sat : Bool) (v : EVal) : Nat :=
  match v with
  | .nan c => nanNarrow F c
  | .inf s => F.infinity s
  | .fin x => F.round r sat x

/-- A value rounded to an integer format with a zero point (R53, R242). -/
def intVal (f : Fmt) (r : Rnd) (sat : Bool) (z : Int) (v : EVal) : Nat :=
  let lo := (intRange f).1
  let hi := (intRange f).2
  match v with
  | .nan _ => if sat then wrapInt (intWidth f) z else intIndefinite f
  | .inf s => if sat then wrapInt (intWidth f) (if s then lo else hi) else intIndefinite f
  | .fin x =>
    let q := roundInt r x + z
    if lo ≤ q && q ≤ hi then wrapInt (intWidth f) q
    else if sat then wrapInt (intWidth f) (clampInt lo hi q) else intIndefinite f

/-- The value of a source element, an integer's zero point subtracted (R242). -/
def srcVal (f : Fmt) (z : Int) (hdr c : Nat) : EVal := if f.isInt then .fin (exactInt (intValue f c - z)) else elemVal f hdr c

/-- What CVT takes from its slot, its entry and its scale row. -/
structure CvtArgs where
  dfmt : Fmt
  rnd  : RMode
  sat  : Bool
  bcol : Bool
  d    : Nat
  za   : Int
  zb   : Int
  key  : Word
  ctr  : Word
  ord  : Nat
  deriving DecidableEq, Repr

/-- The scale factor of element (i, j) (R242). -/
def cvtScale (row : Row) (tns inv ch chrow : Bool) (i j : Nat) : EVal :=
  let f0 := if tns then floatVal f32 (rowField row (if inv then 268 else 264) 4) else oneVal
  if ch then f0.scale (floatVal f32 (rowField row (4 * (if chrow then i else j)) 4)) else f0

/-- The FP32 inputs of the blocks of a block destination, by block index, each narrowed: header and codes (R51, R52). -/
def cvtBlocks (a : CvtArgs) (ys : List (List Nat)) : List (Nat × List Nat) :=
  let cols := columnsOf ys
  (List.range 128).map fun idx =>
    let line := idx / 2
    let b := idx % 2
    let l := ((if a.bcol then cols else ys)[line]?).getD []
    let seg := (l.drop (32 * b)).take 32
    let at_ := fun (k : Nat) => if a.bcol then 64 * (32 * b + k) + line else 64 * line + 32 * b + k
    let r := fun k => srkRnd a.rnd a.key a.ctr (4096 * a.ord + at_ k)
    if a.dfmt == .dx8 || a.dfmt == .dx4 then narrowDX a.dfmt a.d r seg else narrowMX a.dfmt r seg

/-- The scales field from the blocks' headers (R204). -/
def scalesOf (f : Fmt) (l : List (Nat × List Nat)) : Nat :=
  packElems (if f == .dx8 || f == .dx4 then 16 else 8) (l.map (·.1))

/-- The codes of a tile from its blocks (R204). -/
def codesOfBlocks (bcol : Bool) (l : List (Nat × List Nat)) : List (List Nat) :=
  let lines := chunks 64 64 (l.map (·.2)).flatten
  if bcol then columnsOf lines else lines

/-- CVT of one verified tile (R242, R243): the rows of the output tile. `factor` gives the scale of element (i, j). -/
def cvtTile (a : CvtArgs) (f : Fmt) (tag : BitVec 16) (factor : Nat → Nat → EVal) (rows : List Row) : List Row :=
  let h := hdrOf (rows.headD 0)
  let z := ((tileCodes f rows.tail).zipIdx).map fun p => p.1.zipIdx.map fun q =>
    if p.2 ≤ h.vrows && q.2 ≤ h.vcols then
      (srcVal f a.zb (if f.isBlock then blockHdr f h.scales (blockIdx h.orient p.2 q.2) else 0) q.1).scale (factor p.2 q.2)
    else .fin exactZero
  let out : Hdr := { h with code := a.dfmt.code, orient := a.bcol, tag := tag, corner := 0, scales := 0 }
  if a.dfmt.isBlock then
    let bl := cvtBlocks a (z.map fun l => l.map (roundVal f32 rne false))
    makeTile a.dfmt { out with scales := scalesOf a.dfmt bl } (codesOfBlocks a.bcol bl)
  else
    makeTile a.dfmt out (z.zipIdx.map fun p => p.1.zipIdx.map fun q =>
      let r := srkRnd a.rnd a.key a.ctr (4096 * a.ord + 64 * p.2 + q.2)
      if a.dfmt.isInt then intVal a.dfmt r a.sat a.za q.1 else roundVal (floatFormat a.dfmt) r a.sat q.1)

/-! ## The largest magnitude and the scales (R239 to R241) -/

/-- A tile's values folded into the largest magnitude and the two flags (R240). -/
def foldMax (acc : Exact × Bool × Bool) (v : EVal) : Exact × Bool × Bool :=
  match v with
  | .nan _ => (acc.1, true, acc.2.2)
  | .inf _ => (acc.1, acc.2.1, true)
  | .fin x => (if acc.1.magLt x then { x with s := false } else acc.1, acc.2)

/-- The values of the valid region of a tile with a zero point subtracted (R240). -/
def amaxVals (f : Fmt) (z : Int) (rows : List Row) : List EVal :=
  let h := hdrOf (rows.headD 0)
  if f.isInt then
    (((tileCodes f rows.tail).take (h.vrows + 1)).map fun l => (l.take (h.vcols + 1)).map fun c => srcVal f z 0 c).flatten
  else (tileVals f h (tileCodes f rows.tail)).flatten

/-- Is a stat word one that QAMAX and QSCL refuse (R239)? -/
def statBad (w : Word) : Bool :=
  fieldNat w 34 30 ≠ 0 || (w.getLsbD 31 && fieldNat w 0 31 ≠ 0) || 0x7F800000 ≤ fieldNat w 0 31

/-- The stat word from a magnitude and two flags (R240). -/
def statWord (m : Exact) (nan inf : Bool) : Word :=
  let big := (f32.exact 0x7F7FFFFF).magLt m
  let a := if big then 0x7F7FFFFF else f32.round { mode := .rup } true { m with s := false }
  BitVec.ofNat 64 (a + (if nan then 2 ^ 32 else 0) + (if inf || big then 2 ^ 33 else 0))

/-- The largest finite magnitude of QSCL's target formats (R241). -/
def qsclTop (f : Fmt) : Exact :=
  match f with
  | .fp16 => exactInt 65504
  | .i16 => exactInt 32767
  | .i8 => exactInt 127
  | .u8 => exactInt 255
  | .e4m3 => exactInt 448
  | .e5m2 => exactInt 57344
  | .e2m1 => exactInt 6
  | _ => f32.exact 0x7F7FFFFF

/-- QSCL's scale word (R241). -/
def scaleWord (f : Fmt) (m : Nat) (pow2 : Bool) (w : Word) : Word :=
  let amax := fieldNat w 0 31
  let s :=
    if amax = 0 || w.getLsbD 32 || w.getLsbD 33 then 0x3F800000
    else
      let t := qsclTop f
      let g := ({ t with e := t.e - m } : Exact).div (f32.exact amax)
      if pow2 then
        let k := g.ilog2
        f32.round rne false { s := false, m := 1, e := if 127 < k then 127 else k }
      else
        let c := f32.round rne false g
        if f32.isInf c then 0x7F7FFFFF else c
  let inv := f32.round rne false ((exactInt 1).div (f32.exact s))
  let inv := if f32.isInf inv then 0x7F7FFFFF else inv
  BitVec.ofNat 64 (inv * 2 ^ 32 + s)

/-! ## Checksums made anew, transposition (R244, R246) -/

/-- GSUM's trailer and header for one tile, or 0x22 (R244). -/
def gsumTile (f : Fmt) (bcol : Bool) (tag : BitVec 16) (vr vc : Nat) (ty tx : BitVec 32) (rows : List Row) :
    Except Nat (Row × Row) :=
  let h : Hdr := { hdrOf (rows.headD 0) with
    code := f.code, orient := bcol, flag := false, tag := tag, vrows := vr, vcols := vc, ty := ty, tx := tx }
  if tileMalformed f h then .error 0x22
  else
    let vals := tileVals f h (tileCodes f rows.tail)
    let rc := columnSums vals
    .ok (trailerRow rc (rowSums vals), hdrRow f { h with corner := cornerSum rc })

/-- TRN of one verified tile (R246). -/
def trnTile (f : Fmt) (tag : Option (BitVec 16)) (rows : List Row) : List Row :=
  let h := hdrOf (rows.headD 0)
  makeTile f { h with
      orient := if f.isBlock then !h.orient else false, tag := tag.getD h.tag, vrows := h.vcols, vcols := h.vrows,
      ty := h.tx, tx := h.ty } (columnsOf (tileCodes f rows.tail))

/-! ## Tables (R248 to R250) -/

/-- The descriptor's lgn byte (R248). -/
def tableLgn (desc : Row) : Nat := rowField desc 8 1

/-- Rows of a table image whose descriptor fixes n (R249). -/
def tableRows (desc : Row) : Nat := if tableLgn desc ≤ 8 then 1 + (2 ^ tableLgn desc + 31) / 32 else 1

/-- Is an FP32 code finite? -/
def finite32 (c : Nat) : Bool := !(f32.isNaN c || f32.isInf c)

/-- The slot that a table image gives, none for a malformed one (R249). -/
def tableOf (rows : List Row) : Option TableSlot :=
  let d := rows.headD 0
  let lgn := tableLgn d
  if 8 < lgn then none
  else
    let n := 2 ^ lgn
    let segs := (List.range n).map fun k =>
      let r := (rows[1 + k / 32]?).getD 0
      let o := 16 * (k % 32)
      (rowField r o 4, rowField r (o + 4) 4, rowField r (o + 8) 4, rowField r (o + 12) 4)
    let a := rowField d 0 4
    let b := rowField d 4 4
    let bytes := bytesOf 20 d.toNat ++ (segs.map fun q =>
      bytesOf 4 q.1 ++ bytesOf 4 q.2.1 ++ bytesOf 4 q.2.2.1 ++ bytesOf 4 q.2.2.2).flatten
    let crc := crcBytes 0xFFFFFFFF#32 bytes ^^^ 0xFFFFFFFF#32
    let ok := rowField d 9 1 / 16 = 0 && rowField d 10 2 = 0 && rowField d 24 488 = 0
      && finite32 a && finite32 b
      && segs.all (fun q => finite32 q.1 && finite32 q.2.1 && finite32 q.2.2.1 && q.2.2.2 == 0)
      && crc.toNat == rowField d 20 4
    if ok then
      some { a := BitVec.ofNat 32 a, b := BitVec.ofNat 32 b, lgn := lgn, modes := BitVec.ofNat 8 (rowField d 9 1),
             clo := BitVec.ofNat 32 (rowField d 12 4), chi := BitVec.ofNat 32 (rowField d 16 4),
             coef := segs.map fun q => (BitVec.ofNat 32 q.1, BitVec.ofNat 32 q.2.1, BitVec.ofNat 32 q.2.2.1) }
    else none

/-- How an element is evaluated: a value given outright, or a segment with its offset t (R250). -/
inductive TblPath where
  | value (y : Nat)
  | seg (k t : Nat)
  deriving DecidableEq, Repr

/-- The path of an input, an FP32 code (R250). -/
def TableSlot.path (s : TableSlot) (x : Nat) : TblPath :=
  let n := 2 ^ s.lgn
  let top := f32OfNat n
  let last := f32OfNat (n - 1)
  if f32.isNaN x then .value (f32.quiet x)
  else
    let u := if f32.isInf x then x else fpFma f32 rne false false x s.a.toNat s.b.toNat
    let edge := fun (below : Bool) (mode : Nat) =>
      match mode with
      | 2 => TblPath.value (if below then s.clo.toNat else s.chi.toNat)
      | 3 => .value x
      | 1 => if f32.isInf x then (if below then .seg 0 0 else .seg (n - 1) 0x3F800000)
             else if below then .seg 0 u else .seg (n - 1) (fpSub f32 rne false u last)
      | _ => if below then .seg 0 0 else .seg (n - 1) 0x3F800000
    if fpLt f32 u 0 then edge true (s.modes.toNat % 4)
    else if fpLe f32 top u then edge false (s.modes.toNat / 4 % 4)
    else
      let k := (roundIntMag { mode := .rtz } (f32.exact u))
      .seg k (fpSub f32 rne false u (f32OfNat k))

/-- The value of an input (R250). -/
def TableSlot.eval (s : TableSlot) (x : Nat) : Nat :=
  match s.path x with
  | .value y => y
  | .seg k t =>
    let c := (s.coef[k]?).getD (0, 0, 0)
    let p := fpFma f32 rne false false c.2.2.toNat t c.2.1.toNat
    fpFma f32 rne false false p t c.1.toNat

/-- Does evaluating an input read a table word? By their places in the table image, the descriptor's fields are in
words 0 to 2, read for every input, and segment k's coefficients in words 64 + 2k and 65 + 2k (R247, R248). -/
def TableSlot.reads (s : TableSlot) (x w : Nat) : Bool :=
  w < 3 || match s.path x with
  | .value _ => false
  | .seg k _ => w = 64 + 2 * k || w = 65 + 2 * k

/-- Does evaluating an input read a table word marked bad? -/
def TableSlot.touches (s : TableSlot) (bad : List Nat) (x : Nat) : Bool := bad.any (s.reads x)

/-- Reads of marked words when a list of inputs is evaluated, each input reading its words once (log 82). -/
def TableSlot.hits (s : TableSlot) (marks : List Nat) (xs : List Nat) : Nat :=
  xs.foldl (fun n x => n + (marks.filter (s.reads x)).length) 0

/-- An output element of TBEV (R250). -/
def tbevElem (s : TableSlot) (ifmt ofmt : Fmt) (r : Rnd) (sat : Bool) (c : Nat) : Nat :=
  drainElem ofmt r sat (s.eval (toF32 ifmt c))

/-- An output row of TBEV without tile: the row's elements, `r` by element index (R250). -/
def tbevRow (s : TableSlot) (ifmt ofmt : Fmt) (r : Nat → Rnd) (sat : Bool) (row : Row) : Row :=
  rowOfElems ofmt.width ((rowElems ifmt.width row).zipIdx.map fun p => tbevElem s ifmt ofmt (r p.2) sat p.1)

/-- TBEV of one verified tile (R243, R250). -/
def tbevTile (s : TableSlot) (ifmt ofmt : Fmt) (r : Nat → Rnd) (sat : Bool) (tag : BitVec 16) (rows : List Row) : List Row :=
  let h := hdrOf (rows.headD 0)
  makeTile ofmt { h with code := ofmt.code, orient := false, tag := tag, scales := 0 }
    ((tileCodes ifmt rows.tail).zipIdx.map fun p => p.1.zipIdx.map fun q =>
      if p.2 ≤ h.vrows && q.2 ≤ h.vcols then tbevElem s ifmt ofmt (r (64 * p.2 + q.2)) sat q.1 else 0)

end Sys2Proof.Machine
end

