-- ==== Sys2Proof/Machine/Entry.lean ====
section
/-! DEFINITION. The copy station's in-flight table: operands of copies, entries, failures, violations, fault records, and
the translation of rows (R261, R264 to R267, R269, R274, R275, R285 to R298). -/

namespace Sys2Proof.Machine

/-! ## Operands of copies (R266, R267) -/

/-- Local sector. -/
def Cmd.lsec (c : Cmd) : Fin 8 := Fin.ofNat 8 (fieldNat c.xs[0] 0 3)

/-- Rows per run. -/
def Cmd.inner (c : Cmd) : Nat := fieldNat c.xs[0] 12 9 + 1

/-- Runs. -/
def Cmd.outer (c : Cmd) : Nat := fieldNat c.xs[0] 21 9 + 1

/-- Is it a put? -/
def Cmd.isPut (c : Cmd) : Bool := c.xs[0].getLsbD 30

/-- Are guarded tiles verified? -/
def Cmd.guards (c : Cmd) : Bool := c.xs[0].getLsbD 31

/-- Is the first tile's tag checked? -/
def Cmd.tchk (c : Cmd) : Bool := c.xs[0].getLsbD 35

/-- Expected tag. -/
def Cmd.copyTag (c : Cmd) : BitVec 16 := bitsOf c.xs[2] 48 16

/-- Rows that a copy moves (R267). -/
def Cmd.copyRows (c : Cmd) : Nat := c.inner * c.outer

/-- Byte stride between runs. -/
def Cmd.rstride (c : Cmd) : Int := sintOf 48 (fieldNat c.xs[2] 0 48)

/-- Row k of the local side (R267). -/
def Cmd.localRow (c : Cmd) (k : Nat) : Nat := (fieldNat c.xs[0] 3 9 + k) % 512

/-- Remote sector, for a remote side in a sector. -/
def Cmd.rsec (c : Cmd) : Fin 8 := Fin.ofNat 8 (fieldNat c.xs[1] 0 3)

/-- Row k of a remote side in a sector (R267). -/
def Cmd.remoteRow (c : Cmd) (k : Nat) : Nat :=
  ((fieldNat c.xs[1] 3 9 : Int) + (k / c.inner : Nat) * (c.rstride / 512) + (k % c.inner : Nat)).emod 512 |>.toNat

/-- Distance in bytes of row k of a remote side in memory from its base (R267). -/
def Cmd.remoteOff (c : Cmd) (k : Nat) : Int := (k / c.inner : Nat) * c.rstride + 512 * (k % c.inner : Nat)

/-- Is it a CPH in window form? -/
def Cmd.isWindow (c : Cmd) : Bool :=
  match c.op with
  | .cph _ => c.xs[1].getLsbD 63
  | _ => false

/-- Window number of a CPH in window form. -/
def Cmd.window (c : Cmd) : Nat := fieldNat c.xs[1] 48 8

/-- Device virtual address of row k (R267, R283); of an ATOM's word (R321). -/
def Cmd.dva (c : Cmd) (k : Nat) : Nat :=
  match c.op with
  | .atom _ _ _ _ => fieldNat c.xs[0] 0 55
  | _ => ((fieldNat c.xs[1] 0 55 : Int) + c.remoteOff k).emod (2 ^ 55) |>.toNat

/-- Opcode of a command of the copy station. -/
def Cmd.opcode (c : Cmd) : Nat :=
  match c.op with
  | .cpl _ => 0x20
  | .cpc _ => 0x21
  | .cph _ => 0x22
  | .cpv _ => 0x23
  | .cpabn _ _ => 0x24
  | .tsend _ => 0x28
  | .trecv _ => 0x29
  | .atom _ _ _ _ => 0x30
  | _ => 0

/-- Does the command write its remote side: what a translation must grant (R286, R292)? -/
def Cmd.writes (c : Cmd) : Bool :=
  match c.op with
  | .atom _ _ _ _ => true
  | _ => c.isPut

/-- The peer named in bits 48:0 of a register (R266). -/
def State.peerOf (s : State) (x : Word) : Peer :=
  { x := fieldNat x 0 16, y := fieldNat x 16 16, md := if x.getLsbD 48 then fieldNat x 32 16 else s.self.md }

/-- Rows of guarded tiles, run by run: the first row, the code and the ordinal of the first failing tile, or the number
of tiles (R272). `tag`: what the first tile of all must carry. -/
def verifyRun (tag : Option (BitVec 16)) : Nat → Nat → Nat → List Row → Except (Nat × Nat × Nat) Nat
  | 0, _, ord, _ => .ok ord
  | _ + 1, _, ord, [] => .ok ord
  | fuel + 1, at_, ord, r :: l =>
    let f := (hdrOf r).code
    let nr := match tileFmt f with
      | some fm => tileRows fm
      | none => 1
    let code := if l.length + 1 < nr then 0x25 else verifyTile f (if ord = 0 then tag else none) ((r :: l).take nr)
    if code ≠ 0 then .error (at_, code, ord) else verifyRun tag fuel (at_ + nr) (ord + 1) ((r :: l).drop nr)

/-- All runs of a guarded transfer (R272). -/
def verifyRuns (tag : Option (BitVec 16)) : Nat → Nat → List (List Row) → Option (Nat × Nat × Nat)
  | _, _, [] => none
  | at_, ord, l :: rest =>
    match verifyRun tag l.length at_ ord l with
    | .error e => some e
    | .ok n => verifyRuns tag (at_ + l.length) n rest

/-- The rows of a transfer in order. -/
def rowsInOrder (n : Nat) (l : List (Nat × Row)) : List Row :=
  (List.range n).map fun k => ((l.find? fun p => p.1 = k).map (·.2)).getD 0

/-! ## Whose program a command belongs to (R193, R319) -/

/-- The launch of a command's program: the running one, or its predecessor. -/
def State.cmdLid (s : State) (c : Cmd) : BitVec 32 := if c.pred then (s.pred.map (·.1)).getD 0 else s.lid

/-- Is a context of a launch saved on this cell with the sector (R424)? -/
def State.keptBy (s : State) (lid : BitVec 32) (sec : Fin 8) : Bool :=
  s.contexts.any fun x => x.prog.lid = lid && x.keeps sec

/-- Whose are the sectors of a launch on this cell: the running program's (false) or its predecessor's (true)? -/
def State.sideOf (s : State) (lid : BitVec 32) : Option Bool :=
  if s.prog.isSome && s.lid = lid then some false
  else if s.pred.any fun p => p.1 = lid then some true else none

/-- May a command of another cell, issued at a counter value, access a sector of this cell: HELD by the command's program, or
RELEASING by it with the command issued before the SREL (R268, R319)? -/
def State.peerHolds (s : State) (lid : BitVec 32) (issued : Nat) (sec : Fin 8) : Bool :=
  match s.ann.own[sec] with
  | .free => false
  | .held q => s.sideOf lid == some q
  | .releasing q upto => s.sideOf lid == some q && decide (issued < s.valueAt upto)
  | .kept => s.keptBy lid sec
  | .keptRel upto => s.keptBy lid sec && decide (issued < s.valueAt upto)

/-! ## Entries (R261) -/

/-- The entry of a command index. -/
def State.ent (s : State) (idx : BitVec 24) : Option CopyEnt := s.cp.ents.find? fun e => e.cmd.idx = idx

/-- Change an entry. -/
def State.onEnt (idx : BitVec 24) (f : CopyEnt → CopyEnt) (s : State) : State :=
  s.onCp fun c => { c with ents := c.ents.map fun e => if e.cmd.idx = idx then f e else e }

/-- CPCTX of the program that issued a command: the register, or for a predecessor's command what it held (R193, R285). -/
def State.ctxOf (s : State) (e : CopyEnt) : Word := if e.cmd.pred then e.ctx else s.cp.ctx

/-- CPPASID of the program that issued a command (R285). -/
def State.pasidOf (s : State) (e : CopyEnt) : Word := if e.cmd.pred then e.pasid else s.cp.pasid

/-- The PASID of an entry's host accesses. -/
def State.hostPasid (s : State) (e : CopyEnt) : BitVec 20 := (s.pasidOf e).setWidth 20

/-- Row `k` of an entry has been issued: it is the next one's turn, and it is in flight until it has landed. -/
def CopyEnt.issued (k : Nat) (e : CopyEnt) : CopyEnt := { e with nissue := k + 1, trans := none, fly := e.fly ++ [k] }

/-- Row `k` of an entry has landed or been acknowledged. -/
def CopyEnt.landed (k : Nat) (e : CopyEnt) : CopyEnt :=
  { e with nland := e.nland + 1, fly := e.fly.erase k, reqs := e.reqs.filter fun q => q.1 ≠ k }

/-- A copy of a saved context: it stays in st5, but neither issues a row nor ends until the context is resumed (R299, R424). -/
def CopyEnt.parked (e : CopyEnt) : Bool := e.park.isSome

/-- A new entry (R261). Of a command that names more than 512 rows, and fails at its start, 512 count as not yet issued
(R267, R277). -/
def newEnt (c : Cmd) (timed : Bool) (rows : Nat) (ctx pasid : Word) : CopyEnt :=
  { cmd := c, timed := timed, start := none, rows := min rows 512, nissue := 0, trans := none, walking := false, nland := 0,
    fly := [], ctx := ctx, pasid := pasid, reqs := [], paused := false, held := false, park := none, wantsRec := none, places := [], data := [], bad := none, failed := none,
    t0 := 0, sent := none }

/-- A command of st5 with an entry is issued; with 512 entries held it fails (R261). -/
def copyIssue (e : ECtl) (op : Instr) (timed : Cmd → Bool) (rows : Cmd → Nat) (s : State) : State :=
  s.guarded [s.cmdFault e 4] fun s =>
    let c := s.capture .cps e op
    let t := s.countCmd .cps
    if 512 ≤ s.cp.ents.length then t.plainFail .cps c 0x28
    else t.onCp fun p => { p with ents := p.ents ++ [newEnt c (timed c) (rows c) s.cp.ctx s.cp.pasid] }

/-- The station looks for rows to issue from the next cycle on (R262). -/
def State.wakeCopies (s : State) : State :=
  if s.agenda.any fun d => d.act == .micro .copyTick then s else s.plan (s.now + 1) 1 (.micro .copyTick)

/-- The station looks at a copy that has just started: in this cycle or the next, as R262 leaves open, unless it is at work already (log
6). -/
def State.firstTick (s : State) : State :=
  let t : State := { s with freeCtr := s.freeCtr + 1 }
  if (s.agenda.any fun d => d.act == .micro .copyTick) || !Config.freeBool s.freeCtr then t.wakeCopies
  else t.plan s.now 1 (.micro .copyTick)

/-- CPABN commands whose last stopped copy has just gone complete in the next cycle (R269). -/
def State.checkAbns (idx : BitVec 24) (s : State) : State :=
  s.cp.abns.foldl (fun t a =>
    if a.2.2.contains idx && !(s.cp.ents.any fun e => a.2.2.contains e.cmd.idx)
    then t.plan (s.now + 1) rankEnd (.ev (.commandCompletion .cps a.1.idx)) else t) s

/-- An entry is freed (R261). -/
def State.dropCopy (idx : BitVec 24) (s : State) : State :=
  let t := s.onCp fun c => { c with ents := c.ents.filter fun e => e.cmd.idx ≠ idx }
  ((t.unclaim (.copy idx) (s.now + 1)).prune).checkAbns idx

/-- A command of st5 fails in this cycle and its entry is freed (R275). -/
def State.copyFails (idx : BitVec 24) (code detail : Nat) (s : State) : State :=
  match s.ent idx with
  | some e => (s.cmdFails .cps e.cmd code detail).dropCopy idx
  | none => s

/-- A copy issues no further row, and fails once the rows that it has issued have landed (R269, R297). -/
def State.stopCopy (idx : BitVec 24) (code detail : Nat) (s : State) : State :=
  match s.ent idx with
  | none => s
  | some e =>
    let f := (e.failed.getD (BitVec.ofNat 8 code, BitVec.ofNat 8 detail))
    if e.nissue ≤ e.nland && !e.parked then s.copyFails idx f.1.toNat f.2.toNat
    else s.onEnt idx fun e => { e with rows := e.nissue, failed := some f, trans := none, walking := false,
                                       paused := false, wantsRec := none }

/-! ## Violations (R297, R298) -/

/-- VLINFO after one more violation (R298). -/
def violationWord (c : Cmd) (kind : Nat) (v : Word) : Word :=
  BitVec.ofNat 64 (min (fieldNat v 0 16 + 1) 0xFFFF + kind * 2 ^ 16 + c.idx.toNat * 2 ^ 24 + c.opcode * 2 ^ 48)

/-- Writes of VLADDR and VLINFO in flight are applied (R105, R298). -/
def State.landViolations (s : State) : State :=
  let mine := fun (w : PendingWrite) => match w.dest with
    | .sys n _ => n = 0x108 || n = 0x109
    | _ => false
  ((s.seq.writes.filter mine).foldl (fun t w => t.landDest w.dest) s).onSeq fun q =>
    { q with writes := q.writes.filter fun w => !mine w }

/-- A violation is recorded (R298). -/
def State.violate (c : Cmd) (kind : Nat) (addr : Word) (s : State) : State :=
  s.landViolations.onCp fun p => { p with vladdr := addr, vlinfo := violationWord c kind p.vlinfo }

/-- The next row of a copy is a violation: it is never made, and the copy fails with 0x34 (R297). -/
def State.violation (idx : BitVec 24) (kind : Nat) (s : State) : State :=
  match s.ent idx with
  | some e => (s.violate e.cmd kind (BitVec.ofNat 64 (e.cmd.dva e.nissue))).stopCopy idx 0x34 5
  | none => s

/-! ## Fault records (R291, R292) -/

/-- The record of the row in hand of a copy (R292). -/
def State.faultRec (s : State) (e : CopyEnt) (kind : Nat) : FaultRec :=
  let c := e.cmd
  let a := c.dva e.nissue
  let atom := match c.op with
    | .atom _ _ _ _ => true
    | _ => false
  { kind := BitVec.ofNat 8 kind, flags := BitVec.ofNat 8 ((if c.writes then 1 else 0) + (if 2 ^ 54 ≤ a then 2 else 0)),
    cell := BitVec.ofNat 16 (s.phys.1 % 32 + s.phys.2 % 32 * 32), cmd := BitVec.ofNat 32 (c.idx.toNat + c.opcode * 2 ^ 24),
    addr := BitVec.ofNat 64 a, oi := BitVec.ofNat 16 (if atom then 0 else e.nissue / c.inner),
    ij := BitVec.ofNat 16 (if atom then 0 else e.nissue % c.inner), left := BitVec.ofNat 16 (e.rows - e.nissue),
    asid := ctxAsid (s.ctxOf e), pasid := BitVec.ofNat 32 (fieldNat (s.pasidOf e) 0 20) }

/-- A record joins the queue, which the Apex reads (R292). -/
def State.pushRecord (r : FaultRec) (s : State) : State :=
  let f := s.fresh
  (f.2.onCp fun c => { c with faultq := c.faultq ++ [r] }).plan (s.now + 1 + Config.freeDelay f.1) rankRead
    (.ev .faultRecordRead)

/-- A copy stops at its next row with a record: paused, or for kind 5 failed; with the queue full it waits for a slot
(R287, R291, R292). -/
def State.faultCopy (idx : BitVec 24) (kind : Nat) (s : State) : State :=
  match s.ent idx with
  | none => s
  | some e =>
    let stop := fun (want : Option Nat) (t : State) => t.onEnt idx fun e =>
      { e with paused := true, trans := none, walking := false, wantsRec := want }
    if 4096 ≤ s.cp.faultq.length then stop (some kind) s
    else
      let t := s.pushRecord (s.faultRec e kind)
      if kind = 5 then t.stopCopy idx 0x35 5 else stop none t

/-- A slot of the queue is free: the first copy that waits for one writes its record (R292). -/
def State.wantedRecord (s : State) : State :=
  match s.cp.ents.find? fun e => e.wantsRec.isSome with
  | some e => match e.wantsRec with
    | some k => s.faultCopy e.cmd.idx k
    | none => s
  | none => s

/-! ## Translation of the row in hand (R283 to R291) -/

/-- The row in hand is translated. -/
def State.translated (idx : BitVec 24) (x : Xlate) (s : State) : State :=
  (s.onEnt idx fun e => { e with trans := some x, walking := false, paused := false }).wakeCopies

/-- A page's translation serves the row in hand, or its module lies outside the domain (R287, R297). -/
def State.placeRow (idx : BitVec 24) (base frame : Nat) (rem : Option Nat) (dva : Nat) (s : State) : State :=
  match pagePlace base frame rem dva with
  | some x => s.translated idx x
  | none => s.violation idx 4

/-- The 4 KiB host page of an upper-half address (R289, R290). -/
def hostPage (dva : Nat) : Nat := dva % 2 ^ 54 / 4096

/-- A request to the host goes out: its completion is awaited (R468). -/
def State.awaitHost (idx : BitVec 24) (k : Nat) (s : State) : State :=
  (s.onEnt idx fun e => { e with reqs := e.reqs ++ [(k, s.now)] }).plan (s.now + Config.pcieTimeout) rankRead
    (.ev (.completionTimeout idx))

/-- The translation of an upper-half row: from the I/O die's cache, or by a request (R289). -/
def State.beginHost (e : CopyEnt) (dva : Nat) (s : State) : State :=
  let idx := e.cmd.idx
  let pasid := s.hostPasid e
  if !(s.pasidOf e).getLsbD 20 then s.violation idx 1
  else
    match s.cp.ats.find? fun a => a.pasid = pasid && a.page = hostPage dva && (if e.cmd.writes then a.wr else a.rd) with
    | some a => s.translated idx (.host (a.frame * 4096 + dva % 4096))
    | none =>
      let t := s.onEnt idx fun e => { e with walking := true }
      ((t.onCp fun c => { c with atsWait := c.atsWait ++ [(idx, pasid, hostPage dva)] }).awaitHost idx 512).emit
        (.atsReq pasid (hostPage dva) e.cmd.writes)

/-- The translation of the row in hand begins: violations, the TLB, a walk, the host (R283, R287 to R289, R297). -/
def State.beginXlate (idx : BitVec 24) (s : State) : State :=
  match s.ent idx with
  | none => s
  | some e =>
    let a := e.cmd.dva e.nissue
    if 2 ^ 54 ≤ a then s.beginHost e a
    else if !(s.ctxOf e).getLsbD 48 then s.violation idx 1
    else
      let t : State := { s with freeCtr := s.freeCtr + 2 }
      match s.tlbHit (s.ctxOf e) a e.cmd.writes with
      | some h => t.placeRow idx h.base h.frame h.rem a
      | none => (t.onEnt idx fun e => { e with walking := true }).plan (s.now + 1 + Config.freeDelay (s.freeCtr + 1)) rankRead
          (.ev (.translationComplete idx))

/-- TRANSLATION_COMPLETE: a walk ends with a translation, a failure or a record, in the first cycle in which its banks are free
(R280, R287, R291). -/
def execTranslationComplete (idx : BitVec 24) (s : State) : Out :=
  .next (match s.ent idx with
    | none => s
    | some e =>
      if !e.walking || e.paused || e.rows ≤ e.nissue then s
      else
        let a := e.cmd.dva e.nissue
        let w := s.walkPage (s.ctxOf e) a e.cmd.writes
        if s.walkHeld (s.ctxOf e) a e.cmd.writes then s.plan (s.now + 1) rankRead (.ev (.translationComplete idx))
        else match w.1 with
        | .bad => w.2.stopCopy idx 0x38 5
        | .record k => w.2.faultCopy idx k
        | .table true => w.2.faultCopy idx 5
        | .table false => w.2.stopCopy idx 0x35 5
        | .page base _ frame _ _ rem => w.2.placeRow idx base frame rem a)

/-- What a host translation brings one copy that waits for it (R289). -/
def State.hostAnswer (page : Nat) (r : AtsResult) (idx : BitVec 24) (s : State) : State :=
  match s.ent idx with
  | none => s
  | some e =>
    let t := s.onEnt idx fun e => { e with reqs := e.reqs.filter fun q => q.1 ≠ 512 }
    let a := e.cmd.dva e.nissue
    if !e.walking || hostPage a ≠ page then t
    else match r with
      | .unsupported => t.violation idx 3
      | .granted frame rd wr =>
        if (if e.cmd.writes then wr else rd) then t.translated idx (.host (frame * 4096 + a % 4096)) else t.faultCopy idx 4

/-- ATS_COMPLETION: the translation is cached if it grants access, and the copies that wait for it go on, fail or stop
(R288, R289); so do fetches and SIGNALs of the Apex (R405, R411). -/
def execAtsCompletion (pasid : BitVec 20) (page : Nat) (r : AtsResult) (s : State) : Out :=
  let waits := (s.cp.atsWait.filter fun w => w.2 = (pasid, page)).map (·.1)
  let t := s.onCp fun c => { c with atsWait := c.atsWait.filter fun w => w.2 ≠ (pasid, page) }
  let t : State := match r with
    | .granted frame rd wr =>
      if rd || wr then
        let old := t.cp.ats.filter fun (a : AtsEnt) => a.pasid ≠ pasid || a.page ≠ page
        t.onCp fun c => { c with ats := { pasid := pasid, page := page, frame := frame, rd := rd, wr := wr } :: old.take 8191 }
      else t
    | .unsupported => t
  .next ((waits.foldl (fun (u : State) i => u.hostAnswer page r i) t).apexAts pasid page r)

/-- A copy of a saved context that lost a request ends with 0x38 when its context goes on (R299, R468). -/
def CopyEnt.timedOut (e : CopyEnt) : CopyEnt :=
  { e with failed := some (e.failed.getD (0x38, 5)), rows := e.nland, fly := [], reqs := [] }

/-- COMPLETION_TIMEOUT: a request to the host without completion in the PCIe completion timeout ends its copy with 0x38, that of a
saved context on its resume (R299, R468). -/
def execCompletionTimeout (idx : BitVec 24) (s : State) : Out :=
  .next (match s.ent idx with
    | none => s
    | some e =>
      if e.reqs.any fun q => q.2 + Config.pcieTimeout ≤ s.now
      then (if e.parked then s.onEnt idx CopyEnt.timedOut else s.copyFails idx 0x38 5) else s)

/-! ## Resuming (R293, R294) -/

/-- A paused copy translates its row again (R294). -/
def State.resumeCopy (idx : BitVec 24) (s : State) : State :=
  (s.onEnt idx fun e => { e with paused := false, trans := none, walking := false }).wakeCopies

/-- The copies paused on a page, by their context, its place and the page size: 64 KiB of an address space, or 4 KiB of a PASID in
the upper half (R290, R293). -/
def State.pausedOn (s : State) (host : Bool) (ctx page : Nat) : List (BitVec 24) :=
  (s.cp.ents.filter fun e =>
    let a := e.cmd.dva e.nissue
    e.paused && e.wantsRec.isNone && (if host then decide (2 ^ 54 ≤ a) && hostPage a = page && (s.hostPasid e).toNat = ctx
      else decide (a < 2 ^ 54) && a / 65536 = page && (ctxAsid (s.ctxOf e)).toNat = ctx)).map (·.cmd.idx)

/-- The copies paused on a page of a PASID or an address space go on, or fail with 0x36 (R290, R293). -/
def State.pageAnswer (host : Bool) (ctx page : Nat) (ok : Bool) (s : State) : State :=
  (s.pausedOn host ctx page).foldl (fun t i => if ok then t.resumeCopy i else t.stopCopy i 0x36 5) s

end Sys2Proof.Machine
end

