-- ==== Sys2Proof/Machine/Atom.lean ====
section
/-! DEFINITION. ATOM: the request, the target's action and replay table, and the ways a request ends (R320 to R325). -/

namespace Sys2Proof.Machine

/-- ATOM (R320, R321): an entry of st5 from issue on. -/
def execAtom (e : ECtl) (op : AtomOp) (kind : AtomKind) (retry : Bool) (s : State) : Out :=
  .next (copyIssue e (.atom e op kind retry) (fun _ => false) (fun _ => 1) s)

/-! ## Operands (R321) -/

/-- Kind of an ATOM command. -/
def Cmd.atomKind (c : Cmd) : AtomKind :=
  match c.op with
  | .atom _ _ k _ => k
  | _ => .cell

/-- Peer of an ATOM of kind cell or sem. -/
def State.atomPeer (s : State) (c : Cmd) : Peer :=
  { x := fieldNat c.xs[3] 37 5, y := fieldNat c.xs[3] 42 5,
    md := if c.xs[3].getLsbD 56 then fieldNat c.xs[3] 47 9 else s.self.md }

/-- Sequence number. -/
def Cmd.seqNo (c : Cmd) : BitVec 16 := bitsOf c.xs[3] 0 16

/-- Sector of the result word. -/
def Cmd.resSec (c : Cmd) : Fin 8 := Fin.ofNat 8 (fieldNat c.xs[3] 16 3)

/-- Row of the result word. -/
def Cmd.resRow (c : Cmd) : Nat := fieldNat c.xs[3] 19 9

/-- Local address of the result word. -/
def Cmd.resAddr (c : Cmd) : Nat := rowAddr c.resSec c.resRow + 8 * fieldNat c.xs[3] 28 6

/-- The failure of an ATOM at its start, if any (R321, R322). -/
def State.atomCode (s : State) (c : Cmd) : Option Nat :=
  let kind := c.atomKind
  let p := s.atomPeer c
  if 5 ≤ fieldNat c.xs[3] 34 3 || (kind ≠ .hbm && !(s.viewOf c).peerOk p) || (kind = .hbm && fieldNat c.xs[0] 0 3 ≠ 0)
    || (kind = .sem && fieldNat c.xs[1] 36 28 ≠ 0) then some 0x33
  else if kind = .hbm && c.xs[0].getLsbD 54 then some 0x34
  else if !s.cmdHolds c c.resSec then some 0x2E
  else if (kind = .hbm || p ≠ (s.viewOf c).self) && (s.hl.fenced
    || (kind ≠ .hbm && s.pathFenced p.md ((s.viewOf c).peerCell p) none)) then some 0x37
  else none

/-- Key of an ATOM's target for the unknown table (R324): a cell, or a stack's die. -/
def State.atomKey (s : State) (c : Cmd) : Nat :=
  match c.atomKind with
  | .hbm => 1
  | _ => let p := s.atomPeer c; 2 * (p.x + 32 * p.y + 1024 * p.md)

/-- The request as it leaves the cell (R321 to R324). -/
def State.atomReq (s : State) (c : Cmd) (addr t0 : Nat) : AtomReq :=
  { src := (s.viewOf c).self, idx := c.idx, lid := s.cmdLid c, issued := s.valueAt c.issued, seq := c.seqNo, t0 := t0,
    retry := match c.op with
      | .atom _ _ _ r => r
      | _ => false,
    op := match c.op with
      | .atom _ o _ _ => o
      | _ => .add,
    kind := c.atomKind, sec := Fin.ofNat 8 (fieldNat c.xs[0] 0 3), row := Fin.ofNat 512 (fieldNat c.xs[0] 3 9),
    word := Fin.ofNat 64 (fieldNat c.xs[0] 12 6), addr := addr, sem := Fin.ofNat 256 (fieldNat c.xs[0] 0 8),
    v := c.xs[1], cmp := c.xs[2] }

/-- The cycle sent with a request: the counter, or for a retry that of the unknown table, else 0 (R323, R324). -/
def State.atomT0 (s : State) (c : Cmd) (key : Nat) : Nat :=
  match c.op with
  | .atom _ _ _ true => ((s.cp.unknown.find? fun u => u.1 = key && u.2.1 = c.seqNo).map (·.2.2)).getD 0
  | _ => s.absc

/-- The request of an ATOM leaves for its target: this cell, this module's HBM, or elsewhere (R323, R324). -/
def State.sendAtom (idx : BitVec 24) (s : State) : State :=
  match s.ent idx with
  | none => s
  | some e =>
    let c := e.cmd
    let p := s.atomPeer c
    let place : Option (Nat × Nat × Option Peer) := match c.atomKind, e.trans with
      | .hbm, some (.hbm a) => some (1 + 2 * stackOf a, a, none)
      | .hbm, some (.far m a) => some (1 + 2 * (stackOf a + 8 * (m + 1)), a, some { x := 0, y := 0, md := m })
      | .hbm, _ => none
      | _, _ => some (s.atomKey c, 0, if p = (s.viewOf c).self then none else some p)
    match place with
    | none => s
    | some (key, a, to_) =>
      let t0 := s.atomT0 c key
      let r := s.atomReq c a t0
      let f := s.fresh
      let t := f.2.onEnt idx fun e => { e.issued 0 with sent := some s.now, t0 := t0, places := [(0, key)] }
      let t := t.plan (s.now + 2 ^ 21) rankWriteback (.ev (.atomTimeout idx))
      match to_ with
      | some q => t.emit (.atom q r)
      | none => t.plan (s.now + 1 + Config.freeDelay f.1) 5 (.ev (.atomRequest r))

/-- An ATOM starts (R321). -/
def State.startAtom (idx : BitVec 24) (s : State) : State :=
  match s.ent idx with
  | none => s
  | some e =>
    match s.atomCode e.cmd with
    | some code => s.copyFails idx code 5
    | none =>
      let t := s.onEnt idx fun e => { e with start := some s.now }
      if e.cmd.atomKind = .hbm then t.wakeCopies else t.sendAtom idx

/-! ## The target (R322, R323) -/

/-- What an ATOM makes of its word (R322). -/
def atomResult (op : AtomOp) (old v cmp : Word) : Word :=
  match op with
  | .add => old + v
  | .min => if old.sle v then old else v
  | .max => if v.sle old then old else v
  | .minu => if old.ule v then old else v
  | .maxu => if v.ule old then old else v
  | .and => old &&& v
  | .or => old ||| v
  | .xchg => v
  | .cas => if old = cmp then v else old

/-- Entries that a replay table keeps for one source, and in all. -/
def sourceEntries : Nat := 64

/-- The floor of a source (R323). -/
def ReplayTab.floorOf (t : ReplayTab) (lid : BitVec 32) (src : Peer) : Nat :=
  match t.floors.find? fun f => f.1 = lid && f.2.1 = src with
  | some f => f.2.2
  | none => t.base

/-- An entry goes, by expiry or eviction, and its source's floor rises to its cycle (R323). -/
def ReplayTab.drop (e : ReplayEnt) (t : ReplayTab) : ReplayTab :=
  let f := max (t.floorOf e.lid e.src) e.t0
  { t with ents := t.ents.erase e,
           floors := (e.lid, e.src, f) :: t.floors.filter fun g => !(g.1 = e.lid && g.2.1 = e.src) }

/-- An entry is entered; the oldest goes when the source would hold 65, or the table is full (R323). -/
def ReplayTab.enter (size : Nat) (e : ReplayEnt) (t : ReplayTab) : ReplayTab :=
  let mine := t.ents.filter fun x => x.lid = e.lid && x.src = e.src
  let t := if sourceEntries ≤ mine.length then match mine with
      | x :: _ => t.drop x
      | [] => t
    else if size ≤ t.ents.length then match t.ents with
      | x :: _ => t.drop x
      | [] => t
    else t
  { t with ents := t.ents ++ [e] }

/-- The table that serves a request. -/
def State.atomTab (s : State) (r : AtomReq) : ReplayTab :=
  match r.kind with
  | .hbm => s.cp.hbmTab[Fin.ofNat 8 (stackOf r.addr)]
  | _ => s.cp.cellTab

/-- Change the table that serves a request. -/
def State.onAtomTab (r : AtomReq) (f : ReplayTab → ReplayTab) (s : State) : State :=
  match r.kind with
  | .hbm => s.onCp fun c => { c with hbmTab := c.hbmTab.set (Fin.ofNat 8 (stackOf r.addr)) (f c.hbmTab[Fin.ofNat 8 (stackOf r.addr)]) }
  | _ => s.onCp fun c => { c with cellTab := f c.cellTab }

/-- Is a request one of this cell's, of the running program or its predecessor, each by its own coordinates (R323)? -/
def State.asked (s : State) (r : AtomReq) : Bool :=
  (s.prog.isSome && s.lid = r.lid && s.self = r.src)
    || s.predAs.any fun g => g.prog.lid = r.lid && r.src = { s.self with x := fieldNat g.lxy 0 16, y := fieldNat g.lxy 16 16 }

/-- The response goes back to the requester (R323, R324). -/
def State.answerAtom (r : AtomReq) (e : AtomEnd) (s : State) : State :=
  if s.asked r then
    let f := s.fresh
    f.2.plan (s.now + 1 + Config.freeDelay f.1) 5 (.ev (.atomResponse r.idx e))
  else s.emit (.atomAns r e)

/-- How a request can be performed now. -/
inductive AtomNow where
  | wait
  | fail (code : Nat)
  /-- The word read is poisoned: the read is counted (R175). -/
  | poisoned (act : State → State)
  | perform (old : Word) (act : State → State)

/-- The action of a request at its target in this cycle (R322): it waits for the sector's free ports and for the bank; on a
semaphore it acts after the bundle of its cycle, with the hardware's increments, when no other of them meets the semaphore in
this cycle (R308, R326). -/
def State.atomNow (s : State) (r : AtomReq) : AtomNow :=
  match r.kind with
  | .sem =>
    if s.hl.fenced then .fail 0x37
    else if s.lid ≠ r.lid then .fail 0x2E
    else if s.phase == .pre then .wait
    else if s.incs.any fun i => i.sem = r.sem then .wait
    else
      let m := s.sems[r.sem]
      .perform (BitVec.ofNat 64 (m.cnt.toNat + (if m.err then 2 ^ 36 else 0))) (State.signal { sem := r.sem, n := r.v.toNat % 2 ^ 36, keep := true, stn := 5, idx := r.idx.setWidth 16 })
  | .cell =>
    let a := rowAddr r.sec r.row.val + 8 * r.word.val
    if s.hl.fenced then .fail 0x37
    else if !s.peerHolds r.lid r.issued r.sec then .fail 0x2E
    else if (s.rangeBreak true r.sec r.row.val 5).isSome then .fail 0x2C
    else if !s.claimOk r.sec s.now false || !s.claimOk r.sec s.now true then .wait
    else if s.ann.poison.contains (a / 8) then .poisoned fun t => (t.claim r.sec s.now false .landing).countEcc (a / 8) 1
    else
      let old : Word := BitVec.ofNat 64 (s.ann.mem.readNat a 8)
      .perform old fun t =>
        (((t.claim r.sec s.now false .landing).claim r.sec s.now true .landing).countEcc (a / 8) 1).writeLocal a
          (bytesOf 8 (atomResult r.op old r.v r.cmp).toNat)
  | .hbm =>
    if s.bankHeld r.addr || s.inSlotMap r.addr then .wait
    else if s.cp.hbmBad.contains (r.addr / 512) then .fail 0x38
    else
      let old : Word := BitVec.ofNat 64 (s.cp.hbm.readNat r.addr 8)
      .perform old fun t => (t.takeBank r.addr).onCp fun c =>
        { c with hbm := c.hbm.write r.addr (bytesOf 8 (atomResult r.op old r.v r.cmp).toNat) }

/-- The table without its expired entries; their sources' floors have risen (R323). -/
def ReplayTab.expire (now : Nat) (t : ReplayTab) : ReplayTab :=
  (t.ents.filter fun e => e.t0 + 2 ^ 22 ≤ now).foldl (fun u e => u.drop e) t

/-- ATOM_REQUEST: entries whose time is over are gone, however the counter came to it; the request is answered from the replay
table, stale, or performed once (R322, R323). -/
def execAtomRequest (r : AtomReq) (s : State) : Out :=
  let s := s.onAtomTab r (ReplayTab.expire s.absc)
  let tab := s.atomTab r
  .next (match tab.ents.find? fun e => e.lid = r.lid && e.src = r.src && e.seq = r.seq with
    | some e => s.answerAtom r (.done e.result)
    | none =>
      if r.retry && (r.t0 + 2 ^ 22 ≤ s.absc || r.t0 ≤ tab.floorOf r.lid r.src) then s.answerAtom r .stale
      else match s.atomNow r with
        | .wait =>
          if r.kind == .sem && s.phase == .pre then s.plan s.now rankEnd (.ev (.atomRequest r))
          else s.plan (s.now + 1) 5 (.ev (.atomRequest r))
        | .fail code => s.answerAtom r (.failed (BitVec.ofNat 8 code))
        | .poisoned act => (act s).answerAtom r (.failed 0x38)
        | .perform old act =>
          let size := match r.kind with
            | .hbm => 16384
            | _ => 4096
          let e : ReplayEnt := { lid := r.lid, src := r.src, seq := r.seq, t0 := r.t0, result := old }
          let t := (act s).onAtomTab r (ReplayTab.enter size e)
          (t.plan (s.clockOf (r.t0 + 2 ^ 22)) rankWriteback (.ev .replayEntryExpiry)).answerAtom r (.done old))

/-- REPLAY_ENTRY_EXPIRY (R323). -/
def execReplayEntryExpiry (s : State) : Out :=
  .next (s.onCp fun c => { c with cellTab := c.cellTab.expire s.absc,
                                  hbmTab := c.hbmTab.map (ReplayTab.expire s.absc) })

/-! ## The requester (R324) -/

/-- The unknown table without the entry of an ATOM that has been answered. -/
def State.knowAtom (e : CopyEnt) (s : State) : State :=
  let key := (e.places.headD (0, 0)).2
  s.onCp fun c => { c with unknown := match e.cmd.op with
    | .atom _ _ _ true => c.unknown.filter fun u => !(u.1 = key && u.2.1 = e.cmd.seqNo)
    | _ => c.unknown }

/-- ATOM_RESPONSE: the result word is written and the command signals in the next cycle, or it fails (R324). A response to
an ATOM that has ended is discarded. -/
def execAtomResponse (idx : BitVec 24) (r : AtomEnd) (s : State) : Out :=
  .next (match s.ent idx with
    | none => s
    | some e =>
      match e.cmd.op, e.sent with
      | .atom _ _ _ _, some _ =>
        let t := s.knowAtom e
        match r with
        | .stale => t.copyFails idx 0x3A 5
        | .failed code => t.copyFails idx code.toNat 5
        | .done v =>
          let c := e.cmd
          if !s.cmdHolds c c.resSec then t.copyFails idx 0x2E 5
          else if (s.rangeBreak true c.resSec c.resRow 5).isSome then t.copyFails idx 0x2C 5
          else if !s.claimOk c.resSec s.now true then s.plan (s.now + 1) 5 (.ev (.atomResponse idx r))
          else
            let t := (t.claim c.resSec s.now true (.copy idx)).writeLocal c.resAddr (bytesOf 8 v.toNat)
            let t := t.onEnt idx fun e => { e.landed 0 with sent := none, nland := 1 }
            t.plan (s.now + 1) rankEnd (.ev (.commandCompletion .cps idx))
      | _, _ => s)

/-- An ATOM's response is lost: it fails with 0x39 and is kept in the unknown table (R324). -/
def State.loseAtom (idx : BitVec 24) (s : State) : State :=
  match s.ent idx with
  | none => s
  | some e =>
    match e.unknown with
    | none => s
    | some u => (s.onCp fun c => { c with unknown := addUnknown u c.unknown }).copyFails idx 0x39 5

/-- ATOM_TIMEOUT: no response within 2^21 cycles of sending (R324). -/
def execAtomTimeout (idx : BitVec 24) (s : State) : Out :=
  .next (match (s.ent idx).bind (·.sent) with
    | some t => if t + 2 ^ 21 ≤ s.now then s.loseAtom idx else s
    | none => s)

/-- FABRIC_PATH_LOST (R324). -/
def execFabricPathLost (idx : BitVec 24) (s : State) : Out := .next (s.loseAtom idx)

/-- Every ATOM in flight is lost: its cell is pre-empted (R324). -/
def State.loseAtoms (s : State) : State :=
  (s.cp.ents.filter fun e => e.unknown.isSome).foldl (fun t e => t.loseAtom e.cmd.idx) s

end Sys2Proof.Machine
end

