-- ==== Sys2Proof/Machine/Copy.lean ====
section
/-! DEFINITION. Copies: the copy commands, their start, timed and untimed rows, landings, acknowledgements, completion,
CPABN, and rows that other cells' copies move (R261 to R277, R280, R281, R468). -/

namespace Sys2Proof.Machine

/-! ## Commands at issue (R265) -/

/-- CPL: timed in a timed image (R264). -/
def execCpl (e : ECtl) (s : State) : Out := .next (copyIssue e (.cpl e) (fun _ => s.timedImage) Cmd.copyRows s)

/-- CPC: untimed (R264). -/
def execCpc (e : ECtl) (s : State) : Out := .next (copyIssue e (.cpc e) (fun _ => false) Cmd.copyRows s)

/-- CPH: timed in window form in a timed image (R264). -/
def execCph (e : ECtl) (s : State) : Out :=
  .next (copyIssue e (.cph e) (fun c => s.timedImage && c.isWindow) Cmd.copyRows s)

/-- CPV: untimed (R264). -/
def execCpv (e : ECtl) (s : State) : Out := .next (copyIssue e (.cpv e) (fun _ => false) Cmd.copyRows s)

/-- CPABN: it holds no entry (R261, R269). -/
def execCpabn (e : ECtl) (all : Bool) (s : State) : Out :=
  .next (s.guarded [s.cmdFault e 4] fun s =>
    let c := s.capture .cps e (.cpabn e all)
    (s.countCmd .cps).onCp fun p => { p with abns := p.abns ++ [(c, none, [])] })

/-! ## Checks at the start (R267, R268, R281) -/

/-- The rows of a side in sectors, by their numbers. -/
def rowList (f : Nat → Nat) (n : Nat) : List Nat := (List.range n).map f

/-- Does a CPL name rows of both sides that are the same? -/
def Cmd.overlaps (c : Cmd) : Bool :=
  let n := c.copyRows
  c.lsec = c.rsec && (rowList c.localRow n).any fun r => (rowList c.remoteRow n).contains r

/-- Is some address of a CPH one with bit 54 set? -/
def Cmd.upper (c : Cmd) : Bool := (List.range c.copyRows).any fun k => 2 ^ 54 ≤ c.dva k

/-- Does the copy break R267's rules? -/
def State.copyBad (s : State) (c : Cmd) : Bool :=
  decide (512 < c.copyRows) || decide (5 ≤ fieldNat c.xs[0] 32 3) || decide (c.rstride % 512 ≠ 0) ||
    match c.op with
    | .cpl _ => c.overlaps
    | .cpc _ => !(s.viewOf c).peerOk (s.peerOf c.xs[3])
    | .cph _ =>
      if c.isWindow then !(s.viewOf c).timedImage || decide (fieldNat c.xs[1] 0 9 ≠ 0)
      else decide (fieldNat c.xs[1] 0 9 ≠ 0) || c.upper
    | .cpv _ => decide (fieldNat c.xs[1] 0 9 ≠ 0)
    | _ => false

/-- Does a window-form copy leave its window or its rights (R281)? -/
def State.windowBad (s : State) (c : Cmd) : Bool :=
  match (s.viewOf c).cp.windows[c.window]? with
  | none => true
  | some w =>
    (c.isPut && !w.wr) || (List.range c.copyRows).any fun k =>
      let o : Int := (fieldNat c.xs[1] 0 48 : Int) + c.remoteOff k
      o < 0 || (w.rows : Int) * 512 ≤ o

/-- Physical address of row k of a window-form copy (R281). -/
def State.windowAddr (s : State) (c : Cmd) (k : Nat) : Nat :=
  match (s.viewOf c).cp.windows[c.window]? with
  | some w => ((w.base : Int) + (fieldNat c.xs[1] 0 48 : Int) + c.remoteOff k).toNat
  | none => 0

/-- Does a copy need a router that is closed: this cell's own when it is fenced, or for a CPC that of a peer known to be fenced, or
of a fenced cell on the way to it (R268, R387, R389)? -/
def State.peerFenced (s : State) (c : Cmd) : Bool :=
  match c.op with
  | .cpl _ => false
  | .cpc _ =>
    let p := s.peerOf c.xs[3]
    let v := s.viewOf c
    p ≠ v.self && (s.hl.fenced || s.pathFenced p.md (v.peerCell p) none)
  | _ => s.hl.fenced

/-- The first bank access of a window-form copy that starts in this cycle (R270). -/
def State.firstBank (s : State) (c : Cmd) : Nat := s.now + 560 + 48 * s.stackDist (s.windowAddr c 0)

/-- A copy starts in this cycle (R261, R267, R270). -/
def State.startCopy (idx : BitVec 24) (s : State) : State :=
  match s.ent idx with
  | none => s
  | some e =>
    let c := e.cmd
    if s.copyBad c then s.copyFails idx 0x33 5
    else if s.peerFenced c then s.copyFails idx 0x37 5
    else if c.isWindow && s.windowBad c then (s.violate c 2 c.xs[1]).copyFails idx 0x34 5
    else
      let t := s.onEnt idx fun e => { e with start := some s.now }
      if !e.timed then t.firstTick
      else
        let t := if c.isWindow then t.plan (s.firstBank c) rankRead (.ev (.hbmBankAccess idx 0)) else t
        if c.isWindow && !c.isPut then t else t.plan s.now rankEnd (.micro (.copyClaim idx 0 false 0))

/-! ## Sides -/

/-- The sector and row that row k is read from, when that is a sector of this cell: a put's local row, a get's remote
row (R267). -/
def Cmd.srcPlace (c : Cmd) (k : Nat) : Fin 8 × Nat :=
  match c.op with
  | .tsend _ => (c.lsec, c.localRow k)
  | _ => if c.isPut then (c.lsec, c.localRow k) else (c.rsec, c.remoteRow k)

/-- The sector and row of this cell that row k lands in. -/
def Cmd.dstPlace (c : Cmd) (k : Nat) : Fin 8 × Nat :=
  match c.op with
  | .cpl _ => if c.isPut then (c.rsec, c.remoteRow k) else (c.lsec, c.localRow k)
  | .cpc _ => if c.isPut then (c.rsec, c.remoteRow k) else (c.lsec, c.localRow k)
  | _ => (c.lsec, c.localRow k)

/-- Are both sides of a copy in this cell: a CPL, or a CPC that names the cell itself? -/
def State.inside (s : State) (c : Cmd) : Bool :=
  match c.op with
  | .cpl _ => true
  | .cpc _ => s.peerOf c.xs[3] = (s.viewOf c).self
  | _ => false

/-- Does the copy read its rows from a sector of this cell? -/
def State.readsHere (s : State) (c : Cmd) : Bool := c.isPut || s.inside c

/-- Cycles between the rows of a timed command (R270, R355). -/
def State.rowStep (s : State) (c : Cmd) : Nat :=
  match c.op with
  | .cpl _ => 1
  | .tsend _ => if (s.peerOf c.xs[3]).md = s.self.md then 2 else 14
  | _ => 2

/-- Does a landing into a sector use ccw5 (R262)? -/
def ccwLanding (sec : Fin 8) : Bool := 8 < (2 * sec.val + 16 - 11) % 16

/-- Is the landing lane of a sector free in this cycle (R262)? -/
def State.laneFree (s : State) (sec : Fin 8) : Bool := !s.cp.lanes.contains (s.now, ccwLanding sec)

/-- The landing lane of a sector is taken in this cycle. -/
def State.takeLane (sec : Fin 8) (s : State) : State :=
  let live := s.cp.lanes.filter fun l => l.1 = s.now
  s.onCp fun c => { c with lanes := (s.now, ccwLanding sec) :: live }

/-- The failure of an untimed access to a sector, if any (R192, R319). -/
def State.accessCode (s : State) (c : Cmd) (sec : Fin 8) (row : Nat) (write : Bool) : Option Nat :=
  if !s.cmdHolds c sec then some 0x2E
  else if (s.rangeBreak write sec row 5).isSome then some 0x2C
  else none

/-! ## Completion (R269, R274, R275) -/

/-- All rows that a copy issued have landed or been acknowledged: it fails now, or completes in its cycle; `gap` is the
number of cycles from now. -/
def State.settle (idx : BitVec 24) (gap : Nat) (s : State) : State :=
  match s.ent idx with
  | none => s
  | some e =>
    if e.nland < e.rows || e.parked then s
    else match e.failed with
      | some f => s.copyFails idx f.1.toNat f.2.toNat
      | none => s.plan (s.now + gap + (if e.cmd.guards then 12 else 0)) rankEnd (.ev (.commandCompletion .cps idx))

/-- What a copy that has moved its rows fails with: the earlier of a poisoned row and a failing tile (R272, R273). A put to
another cell is verified there. The detail is the tile's ordinal for a copy, the station for a TSEND (R307). -/
def State.copyVerdict (s : State) (e : CopyEnt) : Option (Nat × Nat) :=
  let c := e.cmd
  let there := match c.op with
    | .cpc _ => c.isPut && !s.inside c
    | _ => false
  let rows := rowsInOrder e.rows e.data
  let g := if !c.guards || there then none
    else match c.op with
      | .tsend _ => (verifyRuns none 0 0 [rows]).map fun g => (g.1, g.2.1, 5)
      | _ => verifyRuns (if c.tchk then some c.copyTag else none) 0 0 (chunks c.inner c.outer rows)
  match g, e.bad with
  | none, none => none
  | some g, none => some (g.2.1, min g.2.2 255)
  | none, some _ => some (0x38, 5)
  | some g, some k => if k < g.1 then some (0x38, 5) else some (g.2.1, min g.2.2 255)

/-- A command of st5 with an entry reaches its completion cycle (R72, R269, R274, R324, R354, R355). -/
def State.endCopy (idx : BitVec 24) (s : State) : State :=
  match s.cp.abns.find? fun a => a.1.idx = idx with
  | some a => (s.onCp fun c => { c with abns := c.abns.erase a }).cmdDone a.1 0
  | none =>
    match s.ent idx with
    | none => s
    | some e =>
      if e.parked then s
      else match e.cmd.op with
      | .atom _ _ _ _ => (s.cmdDone e.cmd 8).dropCopy idx
      | .trecv _ =>
        let t := s.onTm fun m => { m with wins := m.wins.map fun w => if w.cmd = some idx then LandWin.reset else w }
        (t.cmdDone e.cmd (512 * e.rows)).dropCopy idx
      | _ =>
        match s.copyVerdict e with
        | some v => s.copyFails idx v.1 v.2
        | none => (s.cmdDone e.cmd (512 * e.rows)).dropCopy idx

/-! ## Timed rows (R263, R270) -/

/-- A timed access of the next cycle is claimed: a row to read, or a row to write (R263). -/
def State.copyClaim (idx : BitVec 24) (k : Nat) (write : Bool) (data : Row) (s : State) : State :=
  match s.ent idx with
  | none => s
  | some e =>
    let c := e.cmd
    let p := if write then c.dstPlace k else c.srcPlace k
    match s.claimCode c 5 p.1 p.2 (s.now + 1) write with
    | some code => s.copyFails idx code 5
    | none =>
      let t := s.claim p.1 (s.now + 1) write (.copy idx)
      if write then t.plan (s.now + 1) rankWrite (.ev (.copyRowLand (.own idx k) data .ok))
      else
        let t := t.plan (s.now + 1) rankRead (.ev (.copyRowIssue (.own idx k)))
        if k + 1 < e.rows then t.plan (s.now + s.rowStep c) rankEnd (.micro (.copyClaim idx (k + 1) false 0)) else t

/-- Latency of a timed row to its destination, from its read (R357): row k is read at s + 1 + step k. -/
def State.timedLat (s : State) (p : Peer) (plane : Nat) : Nat :=
  let d := s.peerCell p
  if p.md = s.self.md then 9 + meshLat s.phys d else 11 + s.planeLat plane d

/-- Row k of a TSEND leaves (R355). -/
def State.sendRow (c : Cmd) (k : Nat) (row : Row) (poisoned : Bool) (s : State) : State :=
  let p := s.peerOf c.xs[3]
  let lat := (s.viewOf c).timedLat p (fieldNat c.xs[0] 21 5)
  let r : TimedRow := { lid := s.cmdLid c, issued := s.valueAt c.issued, win := Fin.ofNat 16 (fieldNat c.xs[1] 12 4), sec := Fin.ofNat 8 (fieldNat c.xs[1] 0 3),
                        row := Fin.ofNat 512 (fieldNat c.xs[1] 3 9 + k), data := row, tag := bitsOf c.xs[2] 0 16,
                        first := k = 0, coll := false, poisoned := poisoned, red := none }
  if p = (s.viewOf c).self then s.plan (s.now + lat) rankWrite (.ev (.timedRowLand r)) else s.emit (.timedRow p (s.absc + lat) r)

/-- A timed row of this cell is read in its cycle (R270, R355). -/
def State.issueTimed (e : CopyEnt) (k : Nat) (s : State) : State :=
  let c := e.cmd
  let p := c.srcPlace k
  let v := s.cmdRow c.issued s.seg.inSeg p.1 p.2
  let t := v.2.onEnt c.idx fun e => { e with nissue := k + 1, data := e.data ++ [(k, v.1)] }
  match c.op with
  | .cpl _ => t.plan (s.now + 7) rankEnd (.micro (.copyClaim c.idx k true v.1))
  | .tsend _ => t.sendRow c k v.1 false
  | _ => t

/-! ## Untimed rows (R262, R468) -/

/-- The far side's name of row k of a copy that names a peer (R268, R272). -/
def State.farRow (s : State) (c : Cmd) (k : Nat) : RowSrc :=
  .far (s.viewOf c).self (s.cmdLid c) (s.valueAt c.issued) c.prio c.idx k c.rsec (Fin.ofNat 512 (c.remoteRow k)) c.inner c.outer c.guards c.tchk c.copyTag

/-- A row is on its way to a later stage, after a free number of cycles (R468). -/
def State.later (rank : Nat) (a : Act) (s : State) : State :=
  let f := s.fresh
  f.2.plan (s.now + 1 + Config.freeDelay f.1) rank a

/-- Row k of an untimed copy leaves with its data, or its request does (R262, R268, R287, R289). -/
def State.outRow (e : CopyEnt) (k : Nat) (row : Row) (s : State) : State :=
  let c := e.cmd
  let t := s.onEnt c.idx (CopyEnt.issued k)
  if s.inside c then t.later 5 (.ev (.copyRowLand (.own c.idx k) row .ok))
  else match c.op, e.trans with
    | .cpc _, _ =>
      let p := s.peerOf c.xs[3]
      if c.isPut then t.emit (.copyRow p (s.farRow c k) row) else t.emit (.rowReq p (s.farRow c k))
    | _, some (.hbm a) =>
      (t.onEnt c.idx fun e => { e with places := e.places ++ [(k, a)] }).later rankRead (.ev (.hbmBankAccess c.idx k))
    | _, some (.far m a) => t.emit (.modRow c.idx k m a c.isPut row)
    | _, some (.host a) => (t.awaitHost c.idx k).emit (.hostRow c.idx k (s.hostPasid e) a c.isPut row)
    | _, none => s

/-- An untimed row begins: a local row read, or a request (R262); an access that is not allowed stops the copy (R297,
R319). -/
def State.issueUntimed (e : CopyEnt) (k : Nat) (s : State) : State :=
  let c := e.cmd
  if s.readsHere c then
    let p := c.srcPlace k
    match s.accessCode c p.1 p.2 false with
    | some code => s.stopCopy c.idx code 5
    | none =>
      let v := (s.claim p.1 s.now false (.copy c.idx)).cmdRow c.issued false p.1 p.2
      (v.2.onEnt c.idx fun e => { e with data := e.data ++ [(k, v.1)] }).outRow e k v.1
  else s.outRow e k 0

/-- May an untimed copy issue a row in this cycle: started, not stopped, translated, and its sector's port free (R173,
R262)? -/
def State.issuable (s : State) (e : CopyEnt) : Bool :=
  !e.timed && e.start.isSome && !e.paused && !e.held && decide (e.nissue < e.rows) &&
    match e.cmd.op with
    | .cpl _ => s.claimOk (e.cmd.srcPlace e.nissue).1 s.now false
    | .cpc _ => !s.readsHere e.cmd || s.claimOk (e.cmd.srcPlace e.nissue).1 s.now false
    | .cph _ => e.trans.isSome && (!e.cmd.isPut || s.claimOk e.cmd.lsec s.now false)
    | .cpv _ => e.trans.isSome && (!e.cmd.isPut || s.claimOk e.cmd.lsec s.now false)
    | _ => false

/-- Does an untimed command need the translation of its next row? -/
def CopyEnt.wantsXlate (e : CopyEnt) : Bool :=
  !e.timed && e.start.isSome && !e.paused && !e.held && decide (e.nissue < e.rows) && e.trans.isNone && !e.walking &&
    match e.cmd.op with
    | .cph _ => true
    | .cpv _ => true
    | .atom _ _ k _ => k = .hbm && e.sent.isNone
    | _ => false

/-- Has an untimed command work for the station? -/
def CopyEnt.works (e : CopyEnt) : Bool :=
  !e.timed && e.start.isSome && !e.paused && !e.held && decide (e.nissue < e.rows) && !e.walking

/-- Does a timed row of this cell leave in this cycle, or has one left (R262, R270)? -/
def State.timedLeaves (s : State) : Bool :=
  (s.agenda.any fun d => d.at_ = s.now && match d.act with
    | .ev (.copyRowIssue (.own i _)) => (s.ent i).any fun e => e.timed
    | _ => false) || s.ann.claims.any fun c => c.cyc = s.now && !c.write && match c.owner with
    | .copy i => (s.ent i).any fun e => e.timed
    | _ => false

/-- The station's cycle: translations begin, translated ATOMs leave, and in a cycle that no timed row takes one row begins: rows
of commands issued with q = 1 first, then those of the command issued first (R262). -/
def State.copyTick (s : State) : State :=
  let t := (s.cp.ents.filter CopyEnt.wantsXlate).foldl (fun u e => u.beginXlate e.cmd.idx) s
  let t := (t.cp.ents.filter fun e => match e.cmd.op with
    | .atom _ _ _ _ => e.trans.isSome && e.sent.isNone && !e.held
    | _ => false).foldl (fun u e => u.sendAtom e.cmd.idx) t
  let next := if t.timedLeaves then none
    else match t.cp.ents.find? fun e => e.cmd.prio && t.issuable e with
    | some e => some e
    | none => t.cp.ents.find? fun e => t.issuable e
  let t := match next with
    | some e => t.plan s.now rankRead (.ev (.copyRowIssue (.own e.cmd.idx e.nissue)))
    | none => t
  if t.cp.ents.any CopyEnt.works then t.plan (s.now + 1) 1 (.micro .copyTick) else t

/-! ## HBM (R278 to R280, R468) -/

/-- The cycle in which a get of row k of a window-form copy lands (R270). -/
def State.windowLand (s : State) (e : CopyEnt) (k : Nat) : Nat :=
  e.start.getD 0 + 1152 + 96 * s.stackDist (s.windowAddr e.cmd 0) + 2 * k

/-- A timed bank access: made, or found busy, which owes a schedule fault (R280). -/
def State.timedBank (e : CopyEnt) (k : Nat) (s : State) : State :=
  let c := e.cmd
  let a := s.windowAddr c k
  let land := s.windowLand e k
  let t := if k + 1 < e.rows then s.plan (s.now + 2) rankRead (.ev (.hbmBankAccess c.idx (k + 1))) else s
  let t := t.onEnt c.idx fun e => { e with nissue := max e.nissue (k + 1) }
  if s.bankBusy a then
    let r : TrapRec := { cause := 0x05, code := 0, baddr := c.baddr, slot := 4, detail := BitVec.ofNat 40 (8 + 256 * c.window) }
    t.plan land rankWriteback (.micro (.owe (some c.idx) r))
  else if c.isPut then
    let row := ((e.data.find? fun p => p.1 = k).map (·.2)).getD 0
    let t := ((t.takeBank a).writeHbm a row).onEnt c.idx fun e => { e with nland := e.nland + 1 }
    if e.nland + 1 < e.rows then t
    else t.plan (e.start.getD 0 + 1151 + 96 * s.stackDist (s.windowAddr c 0) + 2 * e.rows) rankEnd
      (.ev (.commandCompletion .cps c.idx))
  else
    let v := (t.takeBank a).readHbm a
    let t := if v.1.2 then v.2.onEnt c.idx fun e => { e with bad := some (min (e.bad.getD k) k) } else v.2
    t.plan (land - 1) rankEnd (.micro (.copyClaim c.idx k true v.1.1))

/-- An untimed bank access takes the first cycle that is free and outside the slot map (R280, R468). -/
def State.untimedBank (e : CopyEnt) (k : Nat) (s : State) : State :=
  let c := e.cmd
  match e.places.find? fun p => p.1 = k with
  | none => s
  | some (_, a) =>
    if s.bankHeld a || s.inSlotMap a then s.plan (s.now + 1) rankRead (.ev (.hbmBankAccess c.idx k))
    else
      let t := (s.takeBank a).onEnt c.idx fun e => { e with places := e.places.filter fun p => p.1 ≠ k }
      if c.isPut then
        let row := ((e.data.find? fun p => p.1 = k).map (·.2)).getD 0
        (t.writeHbm a row).later 5 (.ev (.putAcknowledgement c.idx k .ok))
      else
        let v := t.readHbm a
        v.2.later 5 (.ev (.copyRowLand (.own c.idx k) v.1.1 (if v.1.2 then .poisoned else .ok)))

/-- HBM_BANK_ACCESS (R280, R468). -/
def execHbmBankAccess (idx : BitVec 24) (k : Nat) (s : State) : Out :=
  .next (match s.ent idx with
    | none => s
    | some e => if e.timed then s.timedBank e k else s.untimedBank e k)

/-! ## Landings and acknowledgements -/

/-- A timed row lands in its cycle (R270). -/
def State.landTimed (e : CopyEnt) (k : Nat) (data : Row) (s : State) : State :=
  let c := e.cmd
  let p := c.dstPlace k
  let t := (s.takeLane p.1).writeRow p.1 p.2 data
  let keep := fun (e : CopyEnt) => { e with nland := e.nland + 1,
                                            data := if c.isWindow then e.data ++ [(k, data)] else e.data }
  (t.onEnt c.idx keep).settle c.idx 1

/-- The code and detail that the far side's status gives a copy, beside poison (R268, R272). -/
def farCode : FarStatus → Option (Nat × Nat)
  | .ownership => some (0x2E, 5)
  | .rangeSet => some (0x2C, 5)
  | .fenced => some (0x37, 5)
  | .sectorPort => some (0x2B, 5)
  | .guardFail code tile => some (code.toNat, min tile 255)
  | .ok => none
  | .poisoned => none

/-- A row that did not reach its destination counts as done, and the copy stops (R268). -/
def State.lostRow (idx : BitVec 24) (k : Nat) (f : Nat × Nat) (s : State) : State :=
  (s.onEnt idx (CopyEnt.landed k)).stopCopy idx f.1 f.2

/-- The landing lane, the q bit and the counter value of the issue of an untimed row that lands (R262). -/
def State.landKey (s : State) (a : Act) : Option (Bool × Bool × Nat) :=
  match a with
  | .ev (.copyRowLand (.own i k) _ _) => (s.ent i).bind fun e =>
      if e.timed then none else some (ccwLanding (e.cmd.dstPlace k).1, e.cmd.prio, s.valueAt e.cmd.issued)
  | .ev (.copyRowLand (.far _ _ issued prio _ _ sec _ _ _ _ _ _) _ _) => some (ccwLanding sec, prio, issued)
  | _ => none

/-- Does another untimed row that is ready in this cycle land on the lane first: one of a command issued with q = 1 before one
without, then one of the command issued first (R262)? -/
def State.landsAfter (s : State) (sec : Fin 8) (prio : Bool) (issued : Nat) : Bool :=
  s.agenda.any fun d => d.at_ = s.now && d.rank = 5 && match s.landKey d.act with
    | some k => k.1 == ccwLanding sec && ((k.2.1 && !prio) || (k.2.1 == prio && decide (k.2.2 < issued)))
    | none => false

/-- An untimed row lands, in its turn, in the first cycle that its lane and its sector leave free (R173, R262). -/
def State.landUntimed (e : CopyEnt) (k : Nat) (data : Row) (st : FarStatus) (s : State) : State :=
  let c := e.cmd
  let p := c.dstPlace k
  match farCode st, s.accessCode c p.1 p.2 true with
  | some f, _ => s.lostRow c.idx k f
  | none, some code => s.lostRow c.idx k (code, 5)
  | none, none =>
    if s.landsAfter p.1 c.prio (s.valueAt c.issued) then s.plan s.now 5 (.ev (.copyRowLand (.own c.idx k) data st))
    else if !s.laneFree p.1 || !s.claimOk p.1 s.now true then
      s.plan (s.now + 1) 5 (.ev (.copyRowLand (.own c.idx k) data st))
    else
      let t := ((s.takeLane p.1).claim p.1 s.now true (.copy c.idx)).writeRow p.1 p.2 data
      (t.onEnt c.idx fun e => { e.landed k with
        data := if s.inside c then e.data else e.data ++ [(k, data)],
        bad := if st = .poisoned then some (min (e.bad.getD k) k) else e.bad }).settle c.idx 1

/-- The rows of another cell's guarded put that have landed here, the last one included, and what is found of them
(R272). -/
def State.farVerdict (src : Peer) (lid : BitVec 32) (idx : BitVec 24) (k : Nat) (data : Row) (inner outer : Nat) (tchk : Bool)
    (tag : BitVec 16) (s : State) : FarStatus × State :=
  let mine := fun (p : InPut) => p.src = src && p.lid = lid && p.idx = idx
  let old := ((s.cp.inputs.find? mine).map (·.rows)).getD []
  let rows := old ++ [(k, data)]
  if rows.length < inner * outer then
    (.ok, s.onCp fun c => { c with inputs := { src := src, lid := lid, idx := idx, rows := rows } ::
                                             (c.inputs.filter fun p => !mine p) })
  else
    let t := s.onCp fun c => { c with inputs := c.inputs.filter fun p => !mine p }
    match verifyRuns (if tchk then some tag else none) 0 0 (chunks inner outer (rowsInOrder (inner * outer) rows)) with
    | some g => (.guardFail (BitVec.ofNat 8 g.2.1) g.2.2, t)
    | none => (.ok, t)

/-- COPY_ROW_ISSUE: a row of the cell's own copy begins, or a row that another cell asks for is read and sent back (R262,
R268, R270). A row that another cell reads is held to no range register: R192 says every row access and R268 names landings alone
(DESIGN CHOICE, log 68). -/
def execCopyRowIssue (src : RowSrc) (s : State) : Out :=
  .next (match src with
    | .own idx k =>
      match s.ent idx with
      | none => s
      | some e => if e.rows ≤ k then s else if e.timed then s.issueTimed e k else s.issueUntimed e k
    | .far _ lid issued _ _ _ sec row _ _ _ _ _ =>
      if s.hl.fenced then s.emit (.served src .fenced 0)
      else if !s.peerHolds lid issued sec then s.emit (.served src .ownership 0)
      else if !s.claimOk sec s.now false then s.plan (s.now + 1) rankRead (.ev (.copyRowIssue src))
      else
        let v := (s.claim sec s.now false .landing).readRow sec row.val
        v.2.emit (.served src .ok v.1))

/-- COPY_ROW_LAND: a row of the cell's own copy lands, or a row of another cell's put does, which is acknowledged (R262,
R268, R272). -/
def execCopyRowLand (src : RowSrc) (data : Row) (st : FarStatus) (s : State) : Out :=
  .next (match src with
    | .own idx k =>
      match s.ent idx with
      | none => s
      | some e => if e.timed then s.landTimed e k data else s.landUntimed e k data st
    | .far p lid issued prio idx k sec row inner outer guard tchk tag =>
      if s.hl.fenced then s.emit (.served src .fenced 0)
      else if !s.peerHolds lid issued sec then s.emit (.served src .ownership 0)
      else if (s.rangeBreak true sec row.val 5).isSome then s.emit (.served src .rangeSet 0)
      else if s.landsAfter sec prio issued then s.plan s.now 5 (.ev (.copyRowLand src data st))
      else if !s.laneFree sec || !s.claimOk sec s.now true then
        s.plan (s.now + 1) 5 (.ev (.copyRowLand src data st))
      else
        let t := ((s.takeLane sec).claim sec s.now true .landing).writeRow sec row.val data
        let v := if guard then t.farVerdict p lid idx k data inner outer tchk tag else (.ok, t)
        v.2.emit (.served src (if st = .poisoned then .poisoned else v.1) 0))

/-- PUT_ACKNOWLEDGEMENT: the destination's word on a row of a put (R272, R274, R468). -/
def execPutAcknowledgement (idx : BitVec 24) (k : Nat) (st : FarStatus) (s : State) : Out :=
  .next (match s.ent idx with
    | none => s
    | some e =>
      if e.rows ≤ e.nland then s
      else
        match farCode st with
        | some f => s.lostRow idx k f
        | none => (s.onEnt idx fun e => { e.landed k with
            bad := if st = .poisoned then some (min (e.bad.getD k) k) else e.bad }).settle idx 0)

/-! ## CPABN (R269) -/

/-- May CPABN stop the command: an untimed copy, of no saved context, issued before it (R269, R424)? -/
def CopyEnt.stoppable (e : CopyEnt) : Bool :=
  !e.timed && !e.cmd.saved && match e.cmd.op with
    | .cpl _ => true
    | .cpc _ => true
    | .cph _ => true
    | .cpv _ => true
    | _ => false

/-- A CPABN starts: the copies that it names stop, and it signals in the cycle after their last rows land, at s + 1 at the
earliest (R269). -/
def State.startAbn (idx : BitVec 24) (s : State) : State :=
  match s.cp.abns.find? fun a => a.1.idx = idx with
  | none => s
  | some a =>
    let c := a.1
    let all := match c.op with
      | .cpabn _ b => b
      | _ => false
    let named := (s.cp.ents.filter fun e => e.stoppable && (if all then decide (e.cmd.issued < c.issued)
      else decide (e.cmd.idx = c.xs[0].setWidth 24))).map (·.cmd.idx)
    let t := named.foldl (fun u i => u.stopCopy i 0x27 5) s
    let left := named.filter fun i => (t.ent i).isSome
    let t := t.onCp fun p => { p with abns := p.abns.map fun b => if b.1.idx = idx then (b.1, some s.now, left) else b }
    if left.isEmpty then t.plan (s.now + 1) rankEnd (.ev (.commandCompletion .cps idx)) else t

end Sys2Proof.Machine
end

