-- ==== Sys2Proof/Machine/Timed.lean ====
section
/-! DEFINITION. Timed sends and landing windows (R354 to R357). -/

namespace Sys2Proof.Machine

/-! ## TSEND and TRECV -/

/-- Rows of a timed transfer (R354, R355). -/
def Cmd.timedRows (c : Cmd) : Nat := fieldNat c.xs[0] 12 9 + 1

/-- TSEND (R355). -/
def execTsend (e : ECtl) (s : State) : Out := .next (copyIssue e (.tsend e) (fun _ => true) Cmd.timedRows s)

/-- TRECV (R354). -/
def execTrecv (e : ECtl) (s : State) : Out := .next (copyIssue e (.trecv e) (fun _ => true) Cmd.timedRows s)

/-- Is a plane one that a transfer to a module cannot use: above 17, or its port not live for timed traffic (R344, R355)?
Within the module no port is used. -/
def State.planeBad (s : State) (plane : Nat) (far : Bool) : Bool := 17 < plane || (far && !s.portLive plane)

/-- Does a timed transfer that leaves this cell meet a cell that is known to be fenced: this one, its peer, or a cell on the way to
it, for a peer on another module by the plane's attachment cells (R356, R387, R389)? -/
def State.timedFenced (s : State) (p : Peer) (plane : Nat) : Bool :=
  if p = s.self then false
  else if s.hl.fenced then true
  else s.pathFenced p.md (s.peerCell p) (some plane)

/-- The failure of a TSEND at its start, if any (R355, R356). -/
def State.tsendCode (s : State) (c : Cmd) : Option Nat :=
  let p := s.peerOf c.xs[3]
  let v := s.viewOf c
  if !v.timedImage || s.planeBad (fieldNat c.xs[0] 21 5) (p.md ≠ s.self.md) || !v.peerOk p then some 0x33
  else if v.timedFenced p (fieldNat c.xs[0] 21 5) then some 0x37
  else none

/-- A TSEND starts: its rows and its signal are set (R355, R357). -/
def State.startSend (idx : BitVec 24) (s : State) : State :=
  match s.ent idx with
  | none => s
  | some e =>
    let c := e.cmd
    match s.tsendCode c with
    | some code => s.copyFails idx code 5
    | none =>
      let t := s.onEnt idx fun e => { e with start := some s.now }
      let lat := (s.viewOf c).timedLat (s.peerOf c.xs[3]) (fieldNat c.xs[0] 21 5)
      (t.plan s.now rankEnd (.micro (.copyClaim idx 0 false 0))).plan
        (s.now + 1 + s.rowStep c * (e.rows - 1) + lat + 1) rankEnd (.ev (.commandCompletion .cps idx))

/-- Window of a TRECV. -/
def Cmd.recvWin (c : Cmd) : Fin 16 := Fin.ofNat 16 (fieldNat c.xs[0] 21 4)

/-- A TRECV starts: its window is armed from the next cycle on (R354). -/
def State.startRecv (idx : BitVec 24) (s : State) : State :=
  match s.ent idx with
  | none => s
  | some e =>
    let c := e.cmd
    if !(s.viewOf c).timedImage || s.tm.wins[c.recvWin].armed then s.copyFails idx 0x33 5
    else
      let w : LandWin := { LandWin.reset with
        armed := true, from_ := s.now + 1, cmd := some idx, sec := c.lsec, row := fieldNat c.xs[0] 3 9, total := e.rows,
        tag := bitsOf c.xs[1] 0 16, guard := c.guards }
      (s.onTm fun m => { m with wins := m.wins.set c.recvWin w }).onEnt idx fun e => { e with start := some s.now }

/-! ## Landings (R356) -/

/-- Change a window. -/
def State.onWin (w : Fin 16) (f : LandWin → LandWin) (s : State) : State :=
  s.onTm fun m => { m with wins := m.wins.set w (f m.wins[w]) }

/-- A fault at the destination, taken in place of the bundle of the next cycle (R356). -/
def State.landFault (t : TrapReq) (s : State) : State :=
  s.plan s.now rankEnd (.micro (.owe none
    { cause := t.cause, code := t.code, baddr := s.seq.pc, slot := 7, detail := t.detail }))

/-- The TRECV of a window fails: the window is marked and disarmed, and its rows stay (R356). -/
def State.failWindow (w : Fin 16) (code : Nat) (s : State) : State :=
  let t := (s.onWin w fun _ => { LandWin.reset with failed := true }).onTm fun m => { m with
    asm := m.asm.filter fun a => a.win ≠ w, recvs := m.recvs.filter fun r => r.win ≠ w }
  match (s.tm.wins[w]).cmd with
  | some i => t.copyFails i code 5
  | none => t

/-- Place of a row in a window, if the window holds it (R356). -/
def LandWin.placeOf (w : LandWin) (sec : Fin 8) (row : Nat) : Option Nat :=
  let k := (row + 512 - w.row % 512) % 512
  if w.sec = sec && k < w.total then some k else none

/-- The tiles of a guarded window that are complete are verified: the window after them, or a failure's code (R272,
R356). -/
def LandWin.verify : Nat → LandWin → Except Nat LandWin
  | 0, w => .ok w
  | fuel + 1, w =>
    match w.got.find? fun p => p.1 = w.next with
    | none => .ok w
    | some (_, r) =>
      let f := (hdrOf r).code
      let nr := match tileFmt f with
        | some fm => tileRows fm
        | none => 1
      if w.total < w.next + nr then .error 0x25
      else
        let rows := (List.range nr).filterMap fun j => (w.got.find? fun p => p.1 = w.next + j).map (·.2)
        if rows.length < nr then .ok w
        else
          let code := verifyTile f none rows
          if code ≠ 0 then .error code
          else LandWin.verify fuel { w with next := w.next + nr,
                                            got := w.got.filter fun p => w.next + nr ≤ p.1 }

/-- A row has been written into a window: it counts, its tile may be verified, and the full window signals in the next
cycle (R354, R356). -/
def State.windowRow (w : Fin 16) (k : Nat) (data : Row) (poisoned : Bool) (s : State) : State :=
  let v := s.tm.wins[w]
  let v := { v with count := v.count + 1, got := if v.guard then v.got ++ [(k, data)] else v.got }
  let t := s.onWin w fun _ => v
  if poisoned then t.failWindow w 0x38
  else match (if v.guard then LandWin.verify (v.total + 1) v else .ok v) with
    | .error e => t.failWindow w e
    | .ok v' =>
      let t := t.onWin w fun _ => v'
      match v'.cmd with
      | some i => if v'.total ≤ v'.count then t.plan (s.now + 1) 1 (.ev (.commandCompletion .cps i)) else t
      | none => t

/-- The fault that a sector access of a landing meets: ownership by the command's program (R319), ports, ranges (R356). -/
def State.landTrap (s : State) (lid : BitVec 32) (issued : Nat) (w : Fin 16) (sec : Fin 8) (row : Nat) (write : Bool)
    (cyc stn : Nat) : Option TrapReq :=
  if !s.peerHolds lid issued sec then some (schedFault 6 (32 + w.val))
  else if !s.claimOk sec cyc write then some (sectorFault sec)
  else (s.rangeBreak write sec row stn).map overlapFault

/-- Is the window armed in this cycle? -/
def State.winArmed (s : State) (w : Fin 16) : Bool := (s.tm.wins[w]).armed && (s.tm.wins[w]).from_ ≤ s.now

/-- A row that belongs in a window lands in it, checked (R356). -/
def State.landInWindow (r : TimedRow) (stn : Nat) (s : State) : State :=
  match s.winArmed r.win, (s.tm.wins[r.win]).placeOf r.sec r.row.val with
  | true, some k =>
    match s.landTrap r.lid r.issued r.win r.sec r.row.val true s.now stn with
    | some t => s.landFault t
    | none => (((s.claim r.sec s.now true .landing).takeLane r.sec).writeRow r.sec r.row.val r.data).windowRow r.win k r.data
        r.poisoned
  | _, _ => s.landFault (schedFault 6 r.win.val)

/-- The schedule fault of a port's timed flit (R344, R356). -/
def State.flitFault (p : Fin 18) (s : State) : State := s.landFault (schedFault 6 (16 + p.val))

/-- The port that has dropped a flit of a row that lands in this cycle (R344). -/
def State.lostAt (s : State) (r : TimedRow) : Option (Fin 18) :=
  (s.tm.lost.find? fun l => l.1 = s.now && l.2.2 = r).map (·.2.1)

/-! ## A CLRED's rows (R359, R360) -/

/-- A row of a CLRED tile joins the tile that its window is receiving. -/
def State.joinTile (r : TimedRow) (s : State) : InTile × State :=
  let old := s.tm.asm.find? fun a => a.win = r.win
  let a : InTile := match old with
    | some a => if r.first then { a with rows := [r.data], wend := 0 } else { a with rows := a.rows ++ [r.data] }
    | none => { win := r.win, rows := [r.data], wend := 0 }
  (a, s.onTm fun m => { m with asm := a :: m.asm.filter fun b => b.win ≠ r.win })

/-- Cycles in which a tile has the receiving unit, as far as they are known. -/
def RecvRun.cycles (r : RecvRun) : List Nat :=
  ((List.range r.nadd).map fun j => r.a + 1 + j) ++ match r.w with
    | some w => (List.range (tileRows r.ofmt)).map fun j => w + j
    | none => []

/-- Do two tiles need the receiving unit in one cycle (R360)? -/
def State.recvClash (s : State) (v : RecvRun) : Bool :=
  s.tm.recvs.any fun o => o.win ≠ v.win && o.cycles.any fun c => v.cycles.contains c

/-- The last row of a CLRED tile has landed: the tile is verified and takes the receiving unit, to read its addend's header in
the next cycle (R360). -/
def State.recvTile (a : InTile) (r : TimedRow) (red : Fin 8 × Fin 512 × Fmt × RMode × Bool × BitVec 16) (s : State) : State :=
  let code := verifyTile (hdrOf (a.rows.headD 0)).code none a.rows
  if code ≠ 0 then s.failWindow r.win code
  else
    let v : RecvRun := { win := r.win, sec := r.sec, row := r.row.val, asec := red.1, arow := red.2.1.val, ofmt := red.2.2.1,
                         rnd := red.2.2.2.1, sat := red.2.2.2.2.1, tag := red.2.2.2.2.2, rows := a.rows, addend := [],
                         lid := r.lid, issued := r.issued, a := s.now, w := none, nadd := 1, after := a.wend, out := [],
                         done := false }
    if s.recvClash v then s.landFault (schedFault 6 r.win.val)
    else
      let t := s.onTm fun m => { m with recvs := m.recvs ++ [v],
                                        asm := { a with rows := [] } :: m.asm.filter fun c => c.win ≠ r.win }
      if t.agenda.any fun d => d.act == .micro .recvTick then t else t.plan s.now rankEnd (.micro .recvTick)

/-- A CLRED row lands on its lane in the receiving unit (R360). -/
def State.landRed (r : TimedRow) (red : Fin 8 × Fin 512 × Fmt × RMode × Bool × BitVec 16) (s : State) : State :=
  if r.poisoned then s.failWindow r.win 0x38
  else
    let p := (s.takeLane r.sec).joinTile r
    let nr := match tileFmt (hdrOf (p.1.rows.headD 0)).code with
      | some fm => tileRows fm
      | none => 1
    if p.1.rows.length < nr then p.2 else p.2.recvTile p.1 r red

/-- TIMED_ROW_LAND: a row of a timed send or of a collective step lands in its window, checked (R356, R359, R360); one of which a
port has dropped a flit is not written (R344). The rows of a collective step are verified by tiles. -/
def execTimedRowLand (r : TimedRow) (s : State) : Out :=
  .next (
    let v := s.tm.wins[r.win]
    if s.seg.pending.isSome then s
    else if !s.winArmed r.win || (r.first && r.tag ≠ v.tag) then s.landFault (schedFault 6 r.win.val)
    else match s.lostAt r with
    | some p => (s.onTm fun m => { m with lost := m.lost.filter fun l => l ≠ (s.now, p, r) }).flitFault p
    | none =>
      let t := if r.coll then s.onWin r.win fun w => { w with guard := true } else s
      match r.red with
      | some red => t.landRed r red
      | none => t.landInWindow r (if r.coll then 6 else 5))

end Sys2Proof.Machine
end

