-- ==== Sys2Proof/Machine/AbscissaEv.lean ====
section
/-! DEFINITION. Timestamp beats, the die's own steps and trims, the keeper's part of a boundary, and flits at a Mbaper
port (R343 to R346, R349, R350, R449). -/

namespace Sys2Proof.Machine

/-! ## Phase errors (R343, R353) -/

/-- The phase errors of the ports that are live for timed traffic and have heard a beat. -/
def State.liveErrs (s : State) : List Int :=
  (s.ax.ports.toList.filter fun p => p.heard && p.live).map (·.err)

/-- An integer put into a rising list. -/
def insertInt (v : Int) : List Int → List Int
  | [] => [v]
  | w :: l => if v ≤ w then v :: w :: l else w :: insertInt v l

/-- The median of integers, rounded to nearest; of two nearest integers a free one (log 8). -/
def medianInt (up : Bool) (l : List Int) : Int :=
  let r := l.foldl (fun a v => insertInt v a) []
  let n := r.length
  let a := r[(n - 1) / 2]?.getD 0
  let b := r[n / 2]?.getD 0
  (a + b).fdiv 2 + (if up && (a + b).fmod 2 = 1 then 1 else 0)

/-- The median live phase error. -/
def State.medianErr (s : State) : Int := medianInt (Config.freeBool s.freeCtr) s.liveErrs

/-- A step of n of the counter: n more with this cycle's count, or its value held for |n| cycles more (R349). -/
def State.stepAbscissa (n : Int) (s : State) : State :=
  s.onAx fun a =>
    if 0 ≤ n then { a with jump := a.jump + n.natAbs } else { a with hold := a.hold + n.natAbs }

/-- TIMESTAMP_BEAT_SEND: a port that has trained sends the counter's value (R343, R450). -/
def execTimestampBeatSend (p : Fin 18) (s : State) : Out :=
  .next (if s.ax.ports[p].up then s.emit (.beat p s.ax.value) else s)

/-- TIMESTAMP_BEAT: a beat gives the port's phase error, and AXSTAT the median at it (R343, R353); a port that has not trained carries
none (R450). -/
def execTimestampBeat (p : Fin 18) (stamp : Word) (s : State) : Out :=
  if !s.ax.ports[p].up then .next s else
  let e : Int := (stamp + BitVec.ofNat 64 (s.portH p) - s.ax.value).toInt
  let t := s.onAx fun a => { a with ports := a.ports.set p { a.ports[p] with err := e, heard := true } }
  let m := t.medianErr
  .next { t.onAx fun a => { a with err := BitVec.ofInt 16 m } with freeCtr := t.freeCtr + 1 }

/-! ## Steps and trims of the die's unit (R345, R350) -/

/-- ABSCISSA_AUTO_STEP: with no timed image armed on the die, the counter steps by the median, within 16 either way;
never on the reference die (R342, R345). -/
def execAbscissaAutoStep (s : State) : Out :=
  .next (if s.ax.ref || 0 < s.ax.armed || s.liveErrs.isEmpty then s
    else { s.stepAbscissa (clampInt (-16) 16 s.medianErr) with freeCtr := s.freeCtr + 1 })

/-- The keeper launch of the die, as the Apex has placed it (R350). -/
def State.hasKeeper (s : State) : Bool :=
  s.keeperLaunch || s.apex.launches.any fun l => l.armedNow && l.holdsCell (bootOf s.die)

/-- The trim that cancels an error over 2^20 cycles, in parts per billion to nearest, clamped (R350, R351). -/
def cancelTrim (e : Int) : Int := clampInt (-50000) 50000 ((e * 1000000000 + 2 ^ 19).fdiv (2 ^ 20))

/-- TRIM_UPDATE: timed images armed and no keeper launch: the unit trims (R350). -/
def execTrimUpdate (s : State) : Out :=
  .next (if s.ax.ref || s.ax.armed = 0 || s.hasKeeper || s.liveErrs.isEmpty then s
    else
      let c := cancelTrim s.medianErr
      { s.onAx fun a => { a with trim := BitVec.ofInt 32 c } with freeCtr := s.freeCtr + 1 })

/-- ABSCISSA_STEP: at s + 32 of a boundary of the keeper launch a pending step is applied, or with more than one timed
launch armed on the die discarded (R349, R350). -/
def execAbscissaStep (s : State) : Out :=
  .next (match s.ax.pend with
    | none => s
    | some n =>
      let t := s.onAx fun a => { a with pend := none }
      if s.ax.armed = 1 && !s.ax.ref then t.stepAbscissa n else t)

/-- The keeper routine of the firmware in a boundary of the keeper launch: the rounded median becomes the pending step,
and the trim follows the error, in a proportion the manual does not give (R346, log 8); a clamped value sets AXSTAT.clamp
(R349, R351). Fewer than 3 live ports end the
launch. Firmware's work: a cell without it takes no part. The boundary is that of the boot cell, whose launch the cell in focus runs. -/
def State.keeper (s : State) : State :=
  if !s.firmware || s.ax.ref || !s.keeperLaunch then s
  else if s.liveErrs.length < 3 then s.endLaunch s.lid 0x0202 0
  else
    let m := clampInt (-16) 16 s.medianErr
    let v := sintOf 32 (Config.freeWord (s.freeCtr + 1)).toNat
    let c := clampInt (-50000) 50000 v
    let clamp := s.ax.clamp || m ≠ s.medianErr || c ≠ v
    { s.onAx fun a => { a with pend := some m, trim := BitVec.ofInt 32 c, clamp := clamp } with freeCtr := s.freeCtr + 2 }

/-! ## Flits at a Mbaper port (R344, R355, R449) -/

/-- Cycles from a flit's release cycle to now by the counter's low 16 bits: negative for an early flit. -/
def State.flitLate (s : State) (p : Fin 18) (f : Flit) : Int :=
  (BitVec.ofNat 16 (s.absc) - (f.stamp + BitVec.ofNat 16 (2 * s.portH p))).toInt

/-- A timed flit is dropped at a port: the row that it carries to this cell is not written, and the fault comes with the row's
landing; at once where that has passed or the flit carries no row for this cell (R344, R356, R449). -/
def State.dropFlit (p : Fin 18) (f : Flit) (s : State) : State :=
  match f.row with
  | none => s.flitFault p
  | some (lag, r) =>
    let at_ := (((s.now + lag : Nat) : Int) - s.flitLate p f).toNat
    if at_ < s.now then s.flitFault p
    else
      let t := s.onTm fun m => { m with lost := (at_, p, r) :: m.lost }
      if t.agenda.any fun d => d.at_ = at_ && d.act == .ev (.timedRowLand r) then t else t.plan at_ rankWrite (.ev (.timedRowLand r))

/-- TIMED_FLIT_RELEASE: the deskew buffer lets a timed flit go to its attachment cell, and its row lands after the rest of its
way; the flits of one row bring one landing (R344, R357). -/
def execTimedFlitRelease (p : Fin 18) (f : Flit) (s : State) : Out :=
  .next (if s.flitLate p f ≠ 0 || !s.portLive p.val then s.dropFlit p f
    else match f.row with
      | none => s
      | some (lag, r) =>
        if s.agenda.any fun d => d.at_ = s.now + lag && d.act == .ev (.timedRowLand r) then s
        else s.plan (s.now + lag) rankWrite (.ev (.timedRowLand r)))

/-- The deskew buffer meets a timed flit on its arrival: a flit at most 16 cycles early waits for its cycle, any other is
dropped with a fault (R344). -/
def State.deskew (p : Fin 18) (f : Flit) (s : State) : State :=
  let d := s.flitLate p f
  if f.damaged || !s.portLive p.val || 0 < d || d < -16 then s.dropFlit p f
  else s.plan (s.now + d.natAbs) 1 (.ev (.timedFlitRelease p f))

/-- MBAPER_FLIT_ARRIVAL: a flit that the FEC leaves in error is dropped with a fault if it is timed, and asked for again if it
is not; a sound timed flit goes to the deskew buffer (R449). A port that has not trained carries none (R450). -/
def execMbaperFlitArrival (p : Fin 18) (f : Flit) (s : State) : Out :=
  .next (if !s.ax.ports[p].up then s
    else if f.timed then s.deskew p f
    else if f.damaged then s.emit (.resend p f)
    else s)

end Sys2Proof.Machine
end

