-- ==== Sys2Proof/Machine/Collective.lean ====
section
/-! DEFINITION. The collective station st6: CLRED, CLGATH, CLBCST, its sending and its receiving unit (R358 to R361). -/

namespace Sys2Proof.Machine

/-! ## Commands at issue (R358) -/

/-- A collective step joins its queue. -/
def collIssue (e : ECtl) (op : Instr) (s : State) : State :=
  s.guarded [s.cmdFault e 4] fun s => s.enqueueCmd .cls (s.capture .cls e op)

/-- CLRED (R358). -/
def execClred (e : ECtl) (ofmt : Fmt) (rnd : RMode) (sat : Bool) (s : State) : Out :=
  .next (collIssue e (.clred e ofmt rnd sat) s)

/-- CLGATH (R358). -/
def execClgath (e : ECtl) (s : State) : Out := .next (collIssue e (.clgath e) s)

/-- CLBCST (R358). -/
def execClbcst (e : ECtl) (s : State) : Out := .next (collIssue e (.clbcst e) s)

/-! ## Operands (R358) -/

/-- Is the command a CLRED: its result format, rounding and saturation? -/
def Cmd.red (c : Cmd) : Option (Fmt × RMode × Bool) :=
  match c.op with
  | .clred _ f r b => some (f, r, b)
  | _ => none

/-- The source rows of the tiles of a step: first row and number of rows of each, from the row `at_` on. -/
def State.collTiles (s : State) (sec : Fin 8) (row : Nat) : Nat → Nat → List (Nat × Nat)
  | 0, _ => []
  | n + 1, at_ =>
    let nr := match tileFmt (hdrOf (s.peekRow sec ((row + at_) % 512))).code with
      | some fm => tileRows fm
      | none => 1
    (at_, nr) :: s.collTiles sec row n (at_ + nr)

/-- Rows of a list of tiles. -/
def tilesTotal (l : List (Nat × Nat)) : Nat := l.foldl (fun n p => n + p.2) 0

/-- The group of a CLBCST, if it is an aligned sub-rectangle of the shape on an aligned run of the launch's modules
(R25, R26, R358). -/
def State.bcstGroup (s : State) (x : Word) : Option (List Peer) :=
  let ox := fieldNat x 0 8
  let oy := fieldNat x 8 8
  let w := 2 ^ fieldNat x 16 4
  let h := 2 ^ fieldNat x 20 4
  let mf := fieldNat x 24 9
  let n := 2 ^ fieldNat x 33 4
  match s.prog with
  | none => none
  | some p =>
    if ox % w ≠ 0 || oy % h ≠ 0 || s.shapeSize.1 < ox + w || s.shapeSize.2 < oy + h || mf < p.mfirst
      || p.mfirst + p.mcount < mf + n || (mf - p.mfirst) % n ≠ 0 then none
    else some ((List.range n).flatMap fun m => (List.range h).flatMap fun j => (List.range w).map fun i =>
      { x := ox + i, y := oy + j, md := mf + m })

/-- The destinations of a step; none for a bad peer or group. -/
def State.collDests (s : State) (c : Cmd) : Option (List Peer) :=
  let v := s.viewOf c
  match c.op with
  | .clbcst _ => (v.bcstGroup c.xs[3]).map fun l => l.filter fun p => p ≠ v.self
  | _ =>
    let p := s.peerOf c.xs[3]
    if v.peerOk p then some [p] else none

/-- Does a step reach another module? -/
def State.collFar (s : State) (l : List Peer) : Bool := l.any fun p => p.md ≠ s.self.md

/-- Is a sector one that a collective step can name? -/
def collSec (n : Nat) : Bool := n = 6 || n = 7

/-- The failure of a step at its start, if any (R356, R358). -/
def State.collCode (s : State) (c : Cmd) : Option Nat :=
  let secs := collSec (fieldNat c.xs[0] 0 3) && collSec (fieldNat c.xs[1] 0 3)
    && (c.red.isNone || collSec (fieldNat c.xs[1] 16 3))
  let tiles := s.collTiles c.lsec (fieldNat c.xs[0] 3 9) (fieldNat c.xs[0] 12 6 + 1) 0
  match s.collDests c with
  | none => some 0x33
  | some l =>
    if !(s.viewOf c).timedImage || !secs || s.planeBad (fieldNat c.xs[0] 21 5) (s.collFar l) || 512 < tilesTotal tiles then some 0x33
    else if l.any fun p => (s.viewOf c).timedFenced p (fieldNat c.xs[0] 21 5) then some 0x37
    else none

/-! ## The sending unit (R359) -/

/-- The sending unit is free from a cycle on. -/
def State.freeSend (cyc : Nat) (s : State) : State :=
  ((s.onTm fun m => { m with send := none }).onQueues .cls fun q => { q with nextN := cyc, nextP := cyc }).prune

/-- A step starts (R231, R358, R359). -/
def State.startColl (c : Cmd) (s : State) : State :=
  match s.collCode c with
  | some code => (s.plainFail .cls c code).freeSend (s.now + 1)
  | none =>
    let tiles := s.collTiles c.lsec (fieldNat c.xs[0] 3 9) (fieldNat c.xs[0] 12 6 + 1) 0
    let r : SendRun := { cmd := c, start := s.now, step := if s.collFar ((s.collDests c).getD []) then 14 else 2,
                         tiles := tiles, total := tilesTotal tiles, k := 0, rows := [] }
    (s.onTm fun m => { m with send := some r }).plan s.now rankEnd (.micro .sendTick)

/-- The tile that row k belongs to: its ordinal, first row and number of rows. -/
def SendRun.tileOf (r : SendRun) (k : Nat) : Nat × Nat × Nat :=
  match r.tiles.zipIdx.find? fun p => p.1.1 ≤ k && k < p.1.1 + p.1.2 with
  | some p => (p.2, p.1)
  | none => (0, 0, 0)

/-- Row k of a step as it travels (R359, R360). -/
def State.rowOut (s : State) (r : SendRun) (k : Nat) (data : Row) : TimedRow :=
  let c := r.cmd
  let t := r.tileOf k
  let drow := fieldNat c.xs[1] 3 9
  { lid := s.cmdLid c, issued := s.valueAt c.issued, win := Fin.ofNat 16 (fieldNat c.xs[1] 12 4), sec := Fin.ofNat 8 (fieldNat c.xs[1] 0 3),
    row := Fin.ofNat 512 (match c.red with
      | some d => drow + t.1 * tileRows d.1
      | none => drow + k),
    data := data, tag := bitsOf c.xs[2] 0 16, first := k = 0, coll := true, poisoned := false,
    red := c.red.map fun d => (Fin.ofNat 8 (fieldNat c.xs[1] 16 3), Fin.ofNat 512 (fieldNat c.xs[1] 19 9 + t.2.1), d.1,
      d.2.1, d.2.2, bitsOf c.xs[2] 32 16) }

/-- A row leaves for one destination; it is read in the next cycle (R357, R359). -/
def State.sendTo (c : Cmd) (row : TimedRow) (s : State) (p : Peer) : State :=
  let v := s.viewOf c
  let lat := v.timedLat p (fieldNat c.xs[0] 21 5) + 1
  if p = v.self then s.plan (s.now + lat) rankWrite (.ev (.timedRowLand row)) else s.emit (.timedRow p (s.absc + lat) row)

/-- W of R360 after a list of tiles, and the end of the last one's write. -/
def redEnd (first step nro : Nat) (l : List (Nat × Nat)) : Nat :=
  l.foldl (fun w t => max (first + step * (t.1 + t.2 - 1) + t.2 + 12) w + nro) 0

/-- The cycle in which a step signals: after the latest landing or result write that it causes (R359). -/
def State.collEnd (s : State) (r : SendRun) : Nat :=
  let plane := fieldNat r.cmd.xs[0] 21 5
  let lats := ((s.collDests r.cmd).getD []).map fun p => (s.viewOf r.cmd).timedLat p plane
  let lat := lats.foldl max 0
  match r.cmd.red with
  | some d => redEnd (r.start + 1 + lat) r.step (tileRows d.1) r.tiles
  | none => r.start + 1 + r.step * (r.total - 1) + lat + 1

/-- The sending unit reads its next row, of the next cycle: a tile is verified before its last row leaves (R359). -/
def State.sendTick (s : State) : State :=
  match s.tm.send with
  | none => s
  | some r =>
    let c := r.cmd
    let row := (fieldNat c.xs[0] 3 9 + r.k) % 512
    match s.claimCode c 6 c.lsec row (s.now + 1) false with
    | some code => (s.plainFail .cls c code).freeSend (s.now + 1)
    | none =>
      let v := s.claimRead .cls c c.lsec row
      let t := r.tileOf r.k
      let rows := r.rows ++ [v.1]
      let last := r.k + 1 = t.2.1 + t.2.2
      let code := if last then verifyTile (hdrOf (rows.headD 0)).code none rows else 0
      if code ≠ 0 then (v.2.plainFail .cls c code).freeSend (s.now + 2)
      else
        let u := ((v.2.collDests c).getD []).foldl (State.sendTo c (v.2.rowOut r r.k v.1)) v.2
        if r.k + 1 < r.total then
          (u.onTm fun m => { m with send := some { r with k := r.k + 1, rows := if last then [] else rows } }).plan
            (s.now + r.step) rankEnd (.micro .sendTick)
        else
          ((u.onTm fun m => { m with sent := m.sent ++ [(c, r.total)] }).freeSend (s.now + 2)).plan (s.collEnd r) rankEnd
            (.ev (.commandCompletion .cls c.idx))

/-- A step signals, all its landings done (R359). -/
def State.endColl (idx : BitVec 24) (s : State) : State :=
  match s.tm.sent.find? fun p => p.1.idx = idx with
  | none => s
  | some p => (s.onTm fun m => { m with sent := m.sent.erase p }).cmdDone p.1 (512 * p.2)

/-! ## The receiving unit (R360) -/

/-- The exact sum of two values rounded once to FP32, the first operand's NaN first (R38, R360). -/
def addOnce (a b : EVal) : EVal :=
  let out := fun (c : Nat) => floatVal f32 c
  match a, b with
  | .nan c, _ => .nan (f32.quiet c)
  | _, .nan c => .nan (f32.quiet c)
  | .inf x, .inf y => if x = y then .inf x else .nan f32.defaultNaN
  | .inf x, .fin _ => .inf x
  | .fin _, .inf y => .inf y
  | .fin x, .fin y => out (f32.round rne false (x.add .rne y))

/-- The valid elements of a tile as values, zero elsewhere. -/
def tileGrid (f : Fmt) (h : Hdr) (rows : List Row) : List (List EVal) :=
  (tileCodes f rows.tail).zipIdx.map fun p => p.1.zipIdx.map fun q =>
    if p.2 ≤ h.vrows && q.2 ≤ h.vcols then
      elemVal f (if f.isBlock then blockHdr f h.scales (blockIdx h.orient p.2 q.2) else 0) q.1
    else .fin exactZero

/-- Do two tiles agree in format, orientation and valid region (R360)? -/
def tilesAgree (h g : Hdr) : Bool := h.code = g.code && h.orient = g.orient && h.vrows = g.vrows && h.vcols = g.vcols

/-- The result tile of an addend and an incoming tile, or a code (R360). -/
def redTile (ofmt : Fmt) (rnd : RMode) (sat : Bool) (tag : BitVec 16) (addend incoming : List Row) : Except Nat (List Row) :=
  let g := hdrOf (addend.headD 0)
  let h := hdrOf (incoming.headD 0)
  let code := verifyTile g.code none addend
  if code ≠ 0 then .error code
  else if !tilesAgree h g then .error 0x25
  else match tileFmt h.code with
    | none => .error 0x25
    | some f =>
      let sums := ((tileGrid f g addend).zip (tileGrid f h incoming)).map fun p => (p.1.zip p.2).map fun q => addOnce q.1 q.2
      let out : Hdr := { h with code := ofmt.code, tag := tag, corner := 0, scales := 0 }
      if ofmt.isBlock then
        let a : CvtArgs := { dfmt := ofmt, rnd := rnd, sat := sat, bcol := h.orient, d := if ofmt == .dx4 then 2 else 4, za := 0,
                             zb := 0, key := 0, ctr := 0, ord := 0 }
        let bl := cvtBlocks a (sums.map fun l => l.map (roundVal f32 rne false))
        .ok (makeTile ofmt { out with scales := scalesOf ofmt bl } (codesOfBlocks h.orient bl))
      else .ok (makeTile ofmt out (sums.map fun l => l.map (roundVal (floatFormat ofmt) { mode := rnd } sat)))

/-- Replace a tile of the receiving unit. -/
def State.setRecv (r r' : RecvRun) (s : State) : State :=
  s.onTm fun m => { m with recvs := m.recvs.map fun x => if x = r then r' else x }

/-- A tile leaves the receiving unit. -/
def State.dropRecv (r : RecvRun) (s : State) : State := s.onTm fun m => { m with recvs := m.recvs.erase r }

/-- Place of the j-th written row of a tile: data rows, trailer, header (R360). -/
def writePlace (f : Fmt) (j : Nat) : Nat := if j + 1 = tileRows f then 0 else j + 1

/-- A tile's schedule once the addend's header row is read: the addend's rows, and W (R360). -/
def RecvRun.fixed (r : RecvRun) (row : Row) : RecvRun :=
  let n := match tileFmt (hdrOf row).code with
    | some f => tileRows f
    | none => 1
  { r with nadd := n, w := some (max (r.a + n + 12) r.after) }

/-- A tile's schedule is fixed: its results fall due, the next tile of the window follows it; a clash with another tile raises
the schedule fault of R356 (R360). -/
def State.fixRecv (r v : RecvRun) (s : State) : State :=
  match v.w with
  | none => s
  | some w =>
    if s.recvClash v then (s.landFault (schedFault 6 r.win.val)).dropRecv r
    else
      let t := (s.setRecv r v).onTm fun m => { m with asm := m.asm.map fun a =>
        if a.win = r.win then { a with wend := w + tileRows v.ofmt } else a }
      (List.range (tileRows v.ofmt)).foldl (fun u j => u.plan (w + j) rankWrite (.ev (.clredResult r.win))) t

/-- A tile's access of the next cycle: an addend row is claimed and read, or the write of a result row is claimed. -/
def State.recvStep (r : RecvRun) (s : State) : State :=
  let c := s.now + 1
  let w := r.w.getD 0
  if r.a < c && c ≤ r.a + r.nadd then
    let row := (r.arow + (c - r.a - 1)) % 512
    match s.landTrap r.lid r.issued r.win r.asec row false c 6 with
    | some t => (s.landFault t).dropRecv r
    | none =>
      let v := (s.claim r.asec c false (.unit .cls)).cmdRow 0 true r.asec row
      let r' := { r with addend := r.addend ++ [v.1] }
      if r.w.isNone then v.2.fixRecv r (r'.fixed v.1) else v.2.setRecv r r'
  else if r.w.isSome && w ≤ c && c < w + tileRows r.ofmt then
    match s.landTrap r.lid r.issued r.win r.sec ((r.row + writePlace r.ofmt (c - w)) % 512) true c 6 with
    | some t => (s.landFault t).dropRecv r
    | none => s.claim r.sec c true (.unit .cls)
  else s

/-- The receiving unit's cycle. -/
def State.recvTick (s : State) : State :=
  let t := s.tm.recvs.foldl (fun u r => u.recvStep r) s
  if t.tm.recvs.isEmpty then t else t.plan (s.now + 1) rankEnd (.micro .recvTick)

/-- CLRED_RESULT: the tile's sum is formed at W, and a row of the result is written in each cycle from W on (R360). -/
def execClredResult (win : Fin 16) (s : State) : Out :=
  .next (match s.tm.recvs.find? fun r => r.win = win && r.w.any fun w => w ≤ s.now && s.now < w + tileRows r.ofmt with
    | none => s
    | some r =>
      let p := if r.done then .ok r.out else (redTile r.ofmt r.rnd r.sat r.tag r.addend r.rows).map writeOrder
      match p with
      | .error code => s.failWindow win code
      | .ok [] => s.dropRecv r
      | .ok ((o, row) :: rest) =>
        let t := if rest.isEmpty then s.dropRecv r else s.setRecv r { r with out := rest, done := true }
        match (s.tm.wins[win]).placeOf r.sec ((r.row + o) % 512) with
        | none => t.landFault (schedFault 6 win.val)
        | some k => (t.writeRow r.sec ((r.row + o) % 512) row).windowRow win k row false)

/-- The duplicated lanes of the receiving unit differ on a tile: nothing of it is written, and the TRECV fails with 0x31 (R360).
The event names which of the tiles in the unit. -/
def State.recvMismatch (pick : Nat) (s : State) : State :=
  match (s.tm.recvs.filter fun r => !r.done)[pick]? with
  | some r => s.failWindow r.win 0x31
  | none => s

end Sys2Proof.Machine
end

