-- ==== Sys2Proof/Machine/Matrix.lean ====
section
/-! DEFINITION. The matrix station: its nine commands, the nest of MXGO, swaps and drains (R198 to R230). -/

namespace Sys2Proof.Machine

/-! ## Commands that act at issue (R212, R213) -/

/-- MXCFG (R212). -/
def execMxcfg (xa : Reg) (entry : Fin 10) (s : State) : Out :=
  .next (s.guarded [s.rdX xa] fun s =>
    (s.countCmd .array).onMx fun m => { m with shadow := m.shadow.set entry (s.x xa) })

/-- FTSET (R212). -/
def execFtset (xa : Reg) (entry : Fin 16) (s : State) : Out :=
  .next (s.guarded [s.rdX xa] fun s =>
    (s.countCmd .array).onMx fun m => { m with ft := m.ft.set entry (s.x xa) })

/-- TOLSET (R212). -/
def execTolset (xa : Reg) (entry : Fin 8) (s : State) : Out :=
  .next (s.guarded [s.rdX xa] fun s =>
    (s.countCmd .array).onMx fun m => { m with tol := m.tol.set entry ((s.x xa).setWidth 32) })

/-- A level's iteration; 0 where none runs, as R213 gives none (DESIGN CHOICE, log 72). -/
def Matrix.iterAt (m : Matrix) (l : Nat) : Nat :=
  match m.array with
  | some r => (r.iter[l]?).getD 0
  | none => 0

/-- MXSTAT's word (R213). -/
def Matrix.word (m : Matrix) (sel : Fin 7) : Word :=
  match sel with
  | 0 => BitVec.ofNat 64 ((if m.array.isSome then 1 else 0) + (if m.drain.isSome || m.zero.isSome then 2 else 0)
      + m.q.normal.length * 2 ^ 8 + m.q.prio.length * 2 ^ 16
      + (match m.array with
        | some r => r.cmd.idx.toNat * 2 ^ 24
        | none => 0))
  | 1 => BitVec.ofNat 64 (m.iterAt 0 + m.iterAt 1 * 2 ^ 12 + m.iterAt 2 * 2 ^ 24 + m.iterAt 3 * 2 ^ 36)
  | 2 => BitVec.ofNat 64 (m.iterAt 4 + m.iterAt 5 * 2 ^ 12 + (match m.array with
      | some r => r.left * 2 ^ 32
      | none => 0))
  | 3 => m.fail.setWidth 64
  | 4 => BitVec.ofNat 64 (m.corr.toNat + m.uncorr.toNat * 2 ^ 32)
  | 5 => m.lastUn
  | 6 => BitVec.ofNat 64 (m.acc0.nb.toNat + m.acc1.nb.toNat * 2 ^ 32)

/-- MXSTAT: readable at c + 4; the word is sampled at the end of cycle c (R212). -/
def execMxstat (xd : Reg) (sel : Fin 7) (s : State) : Out :=
  .next (s.guarded [s.wrX xd] fun s =>
    ((s.putX xd (s.mx.word sel) 4 false).countCmd .array).plan s.now (rankEnd + 1) (.micro (.statSample xd sel)))

/-- The sample of MXSTAT at the end of its cycle (R212). -/
def State.statSample (r : Reg) (sel : Fin 7) (s : State) : State :=
  s.onSeq fun q => { q with writes := q.writes.map fun w =>
    match w.dest with
    | .x d _ => if d = r && w.slot = 4 && w.issued = s.now then { w with dest := .x d (s.mx.word sel) } else w
    | _ => w }

/-- Units that a command needs: the array unit, the drain unit (R200). -/
def cmdUnits : Instr → Bool × Bool
  | .accz _ a0 a1 => (a0, a1)
  | .accdr _ _ acc0 _ => (acc0, !acc0)
  | _ => (true, false)

/-- The array unit's command ends; a nested drain of it ends with it. -/
def State.dropArray (s : State) : State :=
  let nested := s.mx.drain.any fun d => d.nested
  (s.onMx fun m => { m with
    array := none, adrain := none, drain := if nested then none else m.drain, afree := s.now + 1,
    zero := if (m.zero.map (·.idx)) = (m.array.map (·.cmd.idx)) then none else m.zero,
    dfree := if nested then s.now + 1 else m.dfree }).prune

/-- The drain unit's own command ends. -/
def State.dropDrain (s : State) : State :=
  (s.onMx fun m => { m with drain := none, zero := none, dfree := s.now + 1 }).prune

/-- The array unit's command fails (R223). -/
def State.failArray (code : Nat) (s : State) : State :=
  match s.mx.array with
  | some r => (s.plainFail .array r.cmd code).dropArray
  | none => s

/-- The command whose drain the drain unit runs fails; for a nest's drain that is the MXGO (R223). -/
def State.failDrain (code : Nat) (s : State) : State :=
  match s.mx.drain with
  | some d => if d.nested then s.failArray code else (s.plainFail .drain d.cmd code).dropDrain
  | none => s

/-- A drain fails. -/
def State.failDrainOf (array : Bool) (code : Nat) (s : State) : State :=
  if array then s.failArray code else s.failDrain code

/-- An abandoned command sets its semaphore's error bit with code 0x27; with sinc = 0 the code stands in selector 3 (R212,
R223). -/
def State.abandoned (c : Cmd) (s : State) : State := s.plainFail .array c 0x27

/-- The array unit's running command is abandoned (R212). -/
def State.abandonArray (s : State) : State :=
  match s.mx.array with
  | some r => (s.abandoned r.cmd).dropArray
  | none => s

/-- The drain unit's running command is abandoned (R212); of a nest's drain that is its MXGO, with acc0 as it stands (DESIGN
CHOICE, log 71). -/
def State.abandonDrain (s : State) : State :=
  match s.mx.drain with
  | some d => if d.nested then s.abandonArray else (s.abandoned d.cmd).dropDrain
  | none => match s.mx.zero with
    | some c =>
      if (s.mx.array.map (·.cmd.idx)) = some c.idx then s.abandonArray else (s.abandoned c).dropDrain
    | none => s

/-- Is a queued command one that MXABN names? -/
def abnNames (a d : Bool) (c : Cmd) : Bool := (a && (cmdUnits c.op).1) || (d && (cmdUnits c.op).2)

/-- MXABN (R212): the running command of each named unit and the unit's queued commands; acc0 is zeroed with the array
unit. -/
def execMxabn (array drain : Bool) (s : State) : Out :=
  let t := s.countCmd .array
  let gone := (t.mx.q.prio ++ t.mx.q.normal).filter (abnNames array drain)
  let t := gone.foldl (fun u c => u.abandoned c) t
  let t := t.onMx fun m => { m with q := m.q.keep fun c => !abnNames array drain c }
  let t := if array then t.abandonArray else t
  let t := if drain then t.abandonDrain else t
  .next (if array then t.onMx fun m => { m with acc0 := Acc.zero } else t)

/-! ## Commands that queue (R211, R214, R218, R219) -/

/-- The bank-rule fault (R19, R214, R137). -/
def bankFault (sec : Nat) : TrapReq := { cls := 5, cause := 0x08, code := 0, detail := BitVec.ofNat 40 sec }

/-- Does the sector number lie in group E, or O for `odd` (R19)? -/
def inBank (odd : Bool) (sec : Nat) : Bool := sec % 2 == (if odd then 1 else 0)

/-- Is a nest table well formed (R208 to R210)? -/
def nestOk (n : Vector Word 10) : Bool :=
  let lv := nestLvls n
  ((n.toList.take 6).all fun v => fieldNat v 46 18 == 0)
    && (([n[6], n[7], n[8]] : List Word).all fun v => fieldNat v 12 52 == 0)
    && fieldNat n[9] 9 55 == 0 && fieldNat n[9] 3 3 != 6 && fieldNat n[9] 6 3 != 6
    && (lv.all fun l => l.role ≤ 5 && !(l.en && l.role == 0 && l.sc != 0) && !(l.en && l.role == 1 && l.sb != 0)
      && !(l.en && l.role == 2 && l.sa != 0))
    && decide (lv.foldl (fun p l => p * l.trip) 1 < 2 ^ 32)

/-- The index of the format entry that MXGO names (R214). -/
def State.mxEntry (s : State) (fbase : Fin 16) (fmode : Bool) (lcn : Fin 4) : Fin 16 :=
  if fmode then Fin.ofNat 16 (s.seq.lc[lcn].toNat + fbase.val) else fbase

/-- MXGO (R211, R214, R230). -/
def execMxgo (e : ECtl) (fbase : Fin 16) (fmode : Bool) (lcn : Fin 4) (ga zacc : Bool) (s : State) : Out :=
  let n := s.mx.shadow
  let mk := Fin.ofNat 4 (fieldNat n[9] 0 2)
  let a := fieldNat n[6] 0 3
  let b := fieldNat n[7] 0 3
  .next (s.guarded [trapIf (e.sinc = 0 && hasDrain n) (reservedTrap 31), s.readFault (.mask mk),
      if fmode then s.readFault (.lc lcn) else none, s.cmdFault e 4,
      trapIf (!(inBank ga a && inBank (!ga) b)) (bankFault a)] fun s =>
    let c := s.withFt (s.mxEntry fbase fmode lcn) (s.capture .array e (.mxgo e fbase fmode lcn ga zacc))
    s.enqueueCmd .array { c with nest := n, mrow := s.seq.maskRow[mk], mcol := s.cols mk (n[9].getLsbD 2) })

/-- MXLDB (R218, R230). -/
def execMxldb (e : ECtl) (fe : Fin 16) (ga : Bool) (s : State) : Out :=
  let b := fieldNat (s.x e.xa) 0 3
  .next (s.guarded [s.cmdFault e 2, trapIf (!inBank (!ga) b) (bankFault b)] fun s =>
    s.enqueueCmd .array (s.withFt fe (s.capture .array e (.mxldb e fe ga))))

/-- ACCZ (R218). -/
def execAccz (e : ECtl) (a0 a1 : Bool) (s : State) : Out :=
  .next (s.guarded [s.cmdFault e 0] fun s => s.enqueueCmd .array (s.capture .array e (.accz e a0 a1)))

/-- ACCDR (R219). -/
def execAccdr (e : ECtl) (fe : Fin 16) (acc0 keep : Bool) (s : State) : Out :=
  .next (s.guarded [s.cmdFault e 4] fun s =>
    s.enqueueCmd .array (s.withFt fe (s.capture .array e (.accdr e fe acc0 keep))))

/-! ## The nest (R209, R210, R215) -/

/-- Sum of iteration times stride over the levels. -/
def strideSum (f : Lvl → Int) (lv : List Lvl) (it : List Nat) : Int :=
  (List.zipWith (fun (l : Lvl) (i : Nat) => (i : Int) * f l) lv it).foldl (· + ·) 0

/-- A tile's place for an iteration: base word, strides (R215). -/
def nestAt (base : Word) (f : Lvl → Int) (lv : List Lvl) (it : List Nat) : Fin 8 × Nat :=
  (Fin.ofNat 8 (fieldNat base 0 3), (((fieldNat base 3 9 : Nat) : Int) + strideSum f lv it).emod 512 |>.toNat)

/-- Is the step of an iteration enabled (R210)? -/
def stepOn (c : Cmd) (it : List Nat) : Bool :=
  let w := c.nest[9]
  let on := fun (l n : Nat) (bit : Nat → Bool) => l = 7 || n ≤ (it[l]?).getD 0 || bit ((it[l]?).getD 0)
  on (fieldNat w 3 3) 16 c.mrow.getLsbD && on (fieldNat w 6 3) 128 c.mcol.getLsbD

/-- The iteration vector after one more step, and the levels whose iteration ends, innermost first (R215). -/
def nestNext : List Lvl → List Nat → List Nat × List Lvl
  | l :: ls, i :: is =>
    if i + 1 < l.trip then ((i + 1) :: is, [l])
    else
      let p := nestNext ls is
      (0 :: p.1, l :: p.2)
  | _, it => (it, [])

/-- Linear index over the levels of a role, the innermost fastest (R215). -/
def roleIdx (role : Nat) : List Lvl → List Nat → Nat
  | l :: ls, i :: is => if l.en && l.role = role then i + l.trip * roleIdx role ls is else roleIdx role ls is
  | _, _ => 0

/-- Fields of the command's format entry as formats. -/
def Cmd.fa (c : Cmd) : Fmt := fmtOf (ftOf c.ft).fa
def Cmd.fb (c : Cmd) : Fmt := fmtOf (ftOf c.ft).fb
def Cmd.fd (c : Cmd) : Fmt := fmtOf (ftOf c.ft).fd

/-- The reads of the step of an iteration, to begin in cycle `t`: each tile's rows in the cycles before the step (log 19:
the manual fixes no cycle for them); of a B tile that the buffer holds only the header (R215). -/
def ArrayRun.prep (r : ArrayRun) (bbuf : Option BBuf) (now t : Nat) (it : List Nat) : ArrayRun :=
  let lv := nestLvls r.cmd.nest
  let a := nestAt r.cmd.nest[6] Lvl.sa lv it
  let b := nestAt r.cmd.nest[7] Lvl.sb lv it
  let on := stepOn r.cmd it
  let held := match bbuf with
    | some f => f.sec = b.1 && f.row = b.2 && !r.reload
    | none => false
  let na := if on then tileRows r.cmd.fa else 0
  let nb := if on then (if held then 1 else tileRows r.cmd.fb) else 0
  { r with aAt := a, bAt := b, on := on, fill := on && !held, na := na, nb := nb, a0 := max (t - na) (now + 1), b0 := max (t - nb) (now + 1),
           bufA := [], bufB := [] }

/-- First cycle in which the rows of the step in hand have all been read. -/
def ArrayRun.readDone (r : ArrayRun) : Nat :=
  max (if r.na = 0 then 0 else r.a0 + r.na) (if r.nb = 0 then 0 else r.b0 + r.nb)

/-- The reads of the step in hand are put on the agenda, each claimed in the cycle before it (R201). -/
def State.planReads (r : ArrayRun) (s : State) : State :=
  if r.na = 0 && r.nb = 0 then s
  else
    let first := if r.na = 0 then r.b0 else if r.nb = 0 then r.a0 else min r.a0 r.b0
    s.plan (first - 1) rankEnd (.micro .arrayRead)

/-- One operand's row is claimed for the next cycle and read: the row, or the failure (R201). -/
def State.arrayRow (s : State) (c : Cmd) (p : Fin 8 × Nat) (k : Nat) : Except Nat (Row × State) :=
  let row := (p.2 + k) % 512
  match s.claimCode c 0 p.1 row (s.now + 1) false with
  | some code => .error code
  | none => .ok (s.claimRead .array c p.1 row)

/-- Does an operand's read fall in the next cycle? -/
def readDue (now first n have_ : Nat) : Bool := have_ < n && first + have_ ≤ now + 1

/-- The array's reads of the next cycle (R201). -/
def State.arrayRead (s : State) : State :=
  match s.mx.array with
  | none => s
  | some r =>
    let ra := if readDue s.now r.a0 r.na r.bufA.length
      then (s.arrayRow r.cmd r.aAt r.bufA.length).map fun p => ({ r with bufA := r.bufA ++ [p.1] }, p.2)
      else .ok (r, s)
    match ra with
    | .error code => s.failArray code
    | .ok (r, s) =>
      let rb := if readDue s.now r.b0 r.nb r.bufB.length
        then (s.arrayRow r.cmd r.bAt r.bufB.length).map fun p => ({ r with bufB := r.bufB ++ [p.1] }, p.2)
        else .ok (r, s)
      match rb with
      | .error code => s.failArray code
      | .ok (r, s) =>
        let t := s.onMx fun m => { m with array := some r }
        if r.bufA.length < r.na || r.bufB.length < r.nb then t.plan (s.now + 1) rankEnd (.micro .arrayRead) else t

/-! ## Starts (R200, R215, R218, R226) -/

/-- An array command that runs from this cycle. A drain with no enabled step before it takes extents of 64 (DESIGN CHOICE,
log 73). -/
def arrayRun (now : Nat) (c : Cmd) : ArrayRun :=
  { cmd := c, start := now, iter := List.replicate 6 0, left := 0, t := now, aAt := (0, 0), bAt := (0, 0), na := 0, nb := 0,
    a0 := 0, b0 := 0, bufA := [], bufB := [], on := false, fill := false, reload := false, vr := 63, vc := 63, due := [], ndrain := 0,
    bytes := 0, dfree := now, seen := false, next := none, paused := false }

/-- MXGO starts (R209, R215, R225): nest and entry are checked, the table installed, acc0 zeroed when asked. A
bad nest comes before a bad entry (DESIGN CHOICE, log 70). -/
def State.startMxgo (c : Cmd) (zacc : Bool) (s : State) : State :=
  let code := if !nestOk c.nest then 0x26 else ftCode (ftOf c.ft) (hasDrain c.nest) c.tau
  if code ≠ 0 then (s.plainFail .array c code).onMx fun m => { m with afree := s.now + 1 }
  else
    let lv := nestLvls c.nest
    let b := nestAt c.nest[7] Lvl.sb lv (List.replicate 6 0)
    let hit := match s.mx.bbuf with
      | some f => f.sec = b.1 && f.row = b.2
      | none => false
    let t := s.now + 12 + (if hit then 0 else tileRows c.fb)
    let r := { arrayRun s.now c with left := lv.foldl (fun (p : Nat) (l : Lvl) => p * l.trip) 1, t := t }
    let r := r.prep s.mx.bbuf s.now t r.iter
    let u := s.onMx fun m => { m with
      active := c.nest, array := some r, acc0 := if zacc then Acc.zero else m.acc0 }
    (u.planReads r).plan (max t r.readDone) rankRead (.ev .matrixStep)

/-- MXLDB starts: the rows from s + 1 on, the signal at s + 4 + nr(B) (R218, R226). -/
def State.startMxldb (c : Cmd) (s : State) : State :=
  let code := ftCode (ftOf c.ft) false c.tau
  if code ≠ 0 then (s.plainFail .array c code).onMx fun m => { m with afree := s.now + 1 }
  else
    let n := tileRows c.fb
    let r := { arrayRun s.now c with
      bAt := (Fin.ofNat 8 (fieldNat c.xs[0] 0 3), fieldNat c.xs[0] 3 9), nb := n, b0 := s.now + 1 }
    ((s.onMx fun m => { m with array := some r }).planReads r).plan (s.now + 4 + n) rankEnd
      (.ev (.commandCompletion .array c.idx))

/-- The drain that an ACCDR makes (R219). -/
def accdrRun (now : Nat) (c : Cmd) (acc : Acc) : DrainRun :=
  { cmd := c, nested := false, d := now, sec := Fin.ofNat 8 (fieldNat c.xs[0] 0 3), row := fieldNat c.xs[0] 3 9, ord := 0,
    vr := fieldNat c.xs[3] 0 6, vc := fieldNat c.xs[3] 6 6, tag := c.xs[1].setWidth 16, ty := bitsOf c.xs[2] 0 32,
    tx := bitsOf c.xs[2] 32 32, acc := acc, out := [] }

/-- A drain begins: the accumulator is read under MXINJ, whose one-shot mode ends (R220, R228). -/
def State.beginDrain (array : Bool) (d : DrainRun) (s : State) : State :=
  let el := injectEl s.mx.inj s.hl.spareNow d.acc.el
  let d := { d with d := s.now, acc := { d.acc with el := el } }
  let t := if fieldNat s.mx.inj 19 2 = 1 then s.hwSys 0x200 (fun t => t.mx.inj) fun v => v &&& ~~~(0x180000#64) else s
  let t := t.onMx fun m => if array then { m with adrain := some d } else { m with drain := some d }
  t.plan (s.now + 72) rankRead (.micro (.drainCheck array))

/-- ACCDR starts (R219, R226). -/
def State.startAccdr (c : Cmd) (acc0 : Bool) (s : State) : State :=
  let u : EUnit := if acc0 then .array else .drain
  let code := ftCode (ftOf c.ft) true c.tau
  if code ≠ 0 then (s.plainFail u c code).onMx fun m =>
    if acc0 then { m with afree := s.now + 1 } else { m with dfree := s.now + 1 }
  else
    let d := accdrRun s.now c (if acc0 then s.mx.acc0 else s.mx.acc1)
    let t := if acc0 then s.onMx fun m => { m with array := some (arrayRun s.now c) } else s
    (t.beginDrain acc0 d).plan (s.now + 80 + tileRows c.fd) rankEnd (.ev (.commandCompletion u c.idx))

/-- ACCZ starts: it signals in the next cycle (R218, R226). -/
def State.startAccz (c : Cmd) (a0 a1 : Bool) (s : State) : State :=
  let t := s.onMx fun m => { m with
    array := if a0 then some (arrayRun s.now c) else m.array, zero := if a1 then some c else m.zero }
  t.plan (s.now + 1) rankEnd (.ev (.commandCompletion (if a0 then .array else .drain) c.idx))

/-- A matrix command starts (R200). -/
def State.startMatrix (c : Cmd) (s : State) : State :=
  match c.op with
  | .mxgo _ _ _ _ _ zacc => s.startMxgo c zacc
  | .mxldb _ _ _ => s.startMxldb c
  | .accz _ a0 a1 => s.startAccz c a0 a1
  | .accdr _ _ acc0 _ => s.startAccdr c acc0
  | _ => s

/-- Are the units that a command needs free (R200), and does the ramp gate let it start (R455)? -/
def State.mxFree (s : State) (c : Cmd) : Bool :=
  let u := cmdUnits c.op
  (!u.1 || (s.mx.array.isNone && s.mx.afree ≤ s.now))
    && (!u.2 || (s.mx.drain.isNone && s.mx.zero.isNone && s.mx.dfree ≤ s.now))
    && (match s.mx.ramp with
      | some r => r.1 ≠ c.idx || decide (r.2 ≤ s.now)
      | none => true)

/-! ## Steps, swaps and drains (R215 to R222, R225) -/

/-- The tag checks of the first reads (R214, R216). -/
def tagsBad (x : Word) (ra rb : Row) : Bool :=
  (x.getLsbD 32 && (hdrOf ra).tag != bitsOf x 0 16) || (x.getLsbD 33 && (hdrOf rb).tag != bitsOf x 16 16)

/-- The step in hand ends: the next one is put on the agenda, or the command's end (R225). -/
def State.endStep (s : State) : State :=
  match s.mx.array with
  | none => s
  | some r =>
    let r := { r with t := s.now, left := r.left - 1, iter := (nestNext (nestLvls r.cmd.nest) r.iter).1, due := [] }
    let t := s.onMx fun m => { m with array := some r }
    if r.left = 0 then t.plan (max (s.now + 130) r.dfree) rankEnd (.ev (.commandCompletion .array r.cmd.idx))
    else t.plan (max s.now r.readDone) rankRead (.ev .matrixStep)

/-- The step in hand has begun: its end and the next step's reads are put on the agenda (R215, R225). -/
def State.stepBegun (r : ArrayRun) (s : State) : State :=
  let lv := nestLvls r.cmd.nest
  let p := nestNext lv r.iter
  let ends := p.2.filter fun l => l.en
  let due := (ends.filter fun l => l.role == 4 || l.role == 5).map fun l => l.role == 5
  let te := r.t + stepCycles (ftOf r.cmd.ft)
  let r : ArrayRun := { r with due := due, reload := r.reload || ends.any fun l => l.role == 3 }
  let next := if due.isEmpty then te else max te r.dfree
  let r := if 1 < r.left then r.prep s.mx.bbuf s.now next p.1 else { r with na := 0, nb := 0, bufA := [], bufB := [] }
  let t := (s.onMx fun m => { m with array := some r }).planReads r
  if due.isEmpty then t.plan te rankWriteback (.micro .stepEnd) else t.plan te rankRead (.ev .swap)

/-- Do the program's own matrix commands stand still: a pre-emption stands, or its program is restored and not started (R229,
R431)? -/
def State.stepsHeld (s : State) : Bool := s.seq.run == .preempted || s.seq.run == .idle

/-- MATRIX_STEP: a step of the nest begins (R210, R215 to R217). While a pre-emption stands, the next step is not begun
(R229). -/
def execMatrixStep (s : State) : Out :=
  match s.mx.array with
  | none => .next s
  | some r =>
    if s.stepsHeld && !r.cmd.pred then .next (s.onMx fun m => { m with array := some { r with paused := true } })
    else if !r.on then .next (s.stepBegun r)
    else
      let b : BBuf := match r.fill, s.mx.bbuf with
        | false, some f => f
        | _, _ => { sec := r.bAt.1, row := r.bAt.2, rows := r.bufB }
      let ha := r.bufA.headD 0
      let hb := r.bufB.headD 0
      let code := stepHdrCode r.cmd.fa r.cmd.fb ha hb
      if code ≠ 0 then .next (s.failArray code)
      else if !r.seen && tagsBad r.cmd.xs[0] ha hb then .next (s.failArray 0x2A)
      else
        let e := ftOf r.cmd.ft
        let acc := stepAcc s.mx.acc0 (atileOf r.cmd.fa r.bufA) (atileOf r.cmd.fb b.rows)
          (zeroPoint e.zpa r.cmd.fa e.za) (zeroPoint e.zpb r.cmd.fb e.zb)
        let t := s.onMx fun m => { m with acc0 := acc, bbuf := some b }
        .next (t.stepBegun { r with
          seen := true, vr := (hdrOf ha).vrows, vc := (hdrOf hb).vcols, reload := r.reload && !r.fill })

/-- The drain that a nest's level makes due (R215, R219). -/
def ArrayRun.drainRun (r : ArrayRun) (d : Nat) : DrainRun :=
  let lv := nestLvls r.cmd.nest
  let c := nestAt r.cmd.nest[8] Lvl.sc lv r.iter
  { cmd := r.cmd, nested := true, d := d, sec := c.1, row := c.2, ord := r.ndrain, vr := r.vr, vc := r.vc,
    tag := r.cmd.xs[1].setWidth 16,
    ty := bitsOf r.cmd.xs[2] 0 32 + BitVec.ofNat 32 (roleIdx 1 lv r.iter),
    tx := bitsOf r.cmd.xs[2] 32 32 + BitVec.ofNat 32 (roleIdx 2 lv r.iter), acc := Acc.zero, out := [] }

/-- Is the drain unit held, or claimed by a drain that is due (R200, R225)? -/
def State.drainHeld (s : State) : Bool :=
  s.mx.drain.isSome || s.mx.zero.isSome || decide (s.now < s.mx.dfree) || (s.mx.array.any fun r => r.next.isSome)

/-- SWAP: when the drain unit is free, acc0 and acc1 are exchanged and acc0 zeroed; a drain role's drain is due 130
cycles later (R215, R225). -/
def execSwap (s : State) : Out :=
  match s.mx.array with
  | none => .next s
  | some r =>
    match r.due with
    | [] => .next s
    | dr :: rest =>
      if s.drainHeld then .next (s.plan (s.now + 1) rankRead (.ev .swap))
      else
        let d := s.now + 130
        let nr := tileRows r.cmd.fd
        let r' := { r with due := rest }
        let r' := if dr then { r' with next := some (r.drainRun d), ndrain := r.ndrain + 1, bytes := r.bytes + 512 * nr,
                                       dfree := d + 80 + nr } else r'
        let t := s.onMx fun m => { m with acc0 := Acc.zero, acc1 := m.acc0, array := some r' }
        let t := if dr then t.plan d rankRead (.ev .drain) else t
        .next (if rest.isEmpty then t.endStep else t.plan s.now rankRead (.ev .swap))

/-- DRAIN: a nest's drain that is due takes the drain unit once it is free (R200, R220, R225). -/
def execDrain (s : State) : Out :=
  match s.mx.array with
  | none => .next s
  | some r =>
    match r.next with
    | none => .next s
    | some d =>
      if s.mx.drain.isSome || s.mx.zero.isSome || s.now < s.mx.dfree then .next (s.plan (s.now + 1) rankRead (.ev .drain))
      else
        let r := { r with next := none, dfree := s.now + 80 + tileRows r.cmd.fd }
        .next ((s.onMx fun m => { m with array := some r }).beginDrain false { d with acc := s.mx.acc1 })

/-- The drain of a unit. -/
def State.drainOf (s : State) (array : Bool) : Option DrainRun := if array then s.mx.adrain else s.mx.drain

/-- Replace the drain of a unit. -/
def State.setDrain (array : Bool) (d : Option DrainRun) (s : State) : State :=
  s.onMx fun m => if array then { m with adrain := d } else { m with drain := d }

/-- The output tile of a drain (R222). -/
def drainTile (d : DrainRun) (el : Vector (Vector (BitVec 32) 65) 65) (corrected : Bool) : List Row :=
  let e := ftOf d.cmd.ft
  let codes := (el.toList.take 64).zipIdx.map fun p => (p.1.toList.take 64).zipIdx.map fun q =>
    drainElem d.cmd.fd (srkRnd (rmodeOf e.rnd) d.cmd.key d.cmd.ctr (4096 * d.ord + 64 * p.2 + q.2)) e.sat q.1.toNat
  makeTile d.cmd.fd { code := e.fd, orient := false, flag := corrected, tag := d.tag, vrows := d.vr, vcols := d.vc,
                      ty := d.ty, tx := d.tx, corner := 0, scales := 0 } codes

/-- The corrected element of the accumulator that a drain reads: acc[m][n] is replaced (R221). -/
def State.correctAcc (array : Bool) (m n : Fin 64) (v : BitVec 32) (s : State) : State :=
  s.onMx fun x => if array then { x with acc0 := { x.acc0 with el := setEl m n v x.acc0.el } }
    else { x with acc1 := { x.acc1 with el := setEl m n v x.acc1.el } }

/-- A drain whose checks pass: its rows are claimed from cycle d + 79 on (R220, R222). -/
def State.drainPasses (array : Bool) (d : DrainRun) (el : Vector (Vector (BitVec 32) 65) 65) (corrected : Bool)
    (s : State) : State :=
  (s.setDrain array (some { d with out := writeOrder (drainTile d el corrected) })).plan (d.d + 79) rankEnd
    (.micro (.drainClaim array))

/-- A drain is uncorrectable: it is counted, selector 5 is written, the command fails (R213, R221). -/
def State.drainUncorrectable (array : Bool) (rf cf : List (Fin 64)) (s : State) : State :=
  (s.onMx fun m => { m with uncorr := bump32 1 m.uncorr, lastUn := lastUnWord s.hl.spareNow rf cf }).failDrainOf array 0x24

/-- The drain's checks are complete in cycle d + 72, and the correction stage's in d + 78 (R220, R221): any pattern but one
row and one column is uncorrectable at once, and a failed re-check at the end of the stage, which has replaced the element by then. -/
def State.drainChecked (array : Bool) (s : State) : State :=
  match s.drainOf array with
  | none => s
  | some d =>
    let rf := failedRows d.cmd.tau d.acc d.acc.el
    let cf := failedCols d.cmd.tau d.acc d.acc.el
    if rf.length = 1 && cf.length = 1 && decide (s.now < d.d + 78) then
      s.plan (d.d + 78) rankRead (.micro (.drainCheck array))
    else
      match drainCheck d.cmd.tau d.acc d.acc.el with
      | .fail rs cs =>
        let t := match rf, cf with
          | [m], [n] => s.correctAcc array m n (correction d.acc.el m n)
          | _, _ => s
        t.drainUncorrectable array rs cs
      | .pass el none => s.drainPasses array d el false
      | .pass el (some (m, n)) =>
        ((s.onMx fun x => { x with corr := bump32 1 x.corr }).correctAcc array m n (correction d.acc.el m n)).drainPasses
          array d el true

/-- A drain's checksum adders and their duplicate differ: while a drain's header row is still to be written its command fails
(R222). Of two such drains the drain unit's is meant when `pick` is 0. -/
def State.sumsMismatch (pick : Nat) (s : State) : State :=
  let open_ := [false, true].filter fun a => (s.drainOf a).any fun d => !d.out.isEmpty
  match open_[pick]? with
  | some a => s.failDrainOf a 0x2D
  | none => s

/-- A drain's next row is claimed for the next cycle (R201, R220). -/
def State.drainClaim (array : Bool) (s : State) : State :=
  match s.drainOf array with
  | none => s
  | some d =>
    match d.out with
    | [] => s
    | (k, _) :: _ =>
      match s.claimCode d.cmd 0 d.sec ((d.row + k) % 512) (s.now + 1) true with
      | some code => s.failDrainOf array code
      | none => (s.claim d.sec (s.now + 1) true (.unit .drain)).plan (s.now + 1) rankWrite (.micro (.drainWrite array))

/-- A drain's row is written; a nest's drain ends with its last row (R220, R225). -/
def State.drainWrite (array : Bool) (s : State) : State :=
  match s.drainOf array with
  | none => s
  | some d =>
    match d.out with
    | [] => s
    | (k, row) :: rest =>
      let t := s.writeRow d.sec ((d.row + k) % 512) row
      if rest.isEmpty && d.nested then t.onMx fun m => { m with drain := none, dfree := s.now + 1 }
      else
        let t := t.setDrain array (some { d with out := rest })
        if rest.isEmpty then t else t.plan s.now rankEnd (.micro (.drainClaim array))

/-! ## Ends -/

/-- An accumulator zeroed by its number. -/
def State.zeroAcc (a0 a1 : Bool) (s : State) : State :=
  s.onMx fun m => { m with acc0 := if a0 then Acc.zero else m.acc0, acc1 := if a1 then Acc.zero else m.acc1 }

/-- MXLDB's end: the header checks, then the buffer takes the tile (R218). -/
def State.endMxldb (r : ArrayRun) (s : State) : State :=
  let h := r.bufB.headD 0
  let fb := r.cmd.fb
  let x := r.cmd.xs[1]
  if !hdrZero h || (hdrOf h).code ≠ fb.code || fb.isBlock && !(hdrOf h).orient then s.failArray 0x25
  else if x.getLsbD 16 && (hdrOf h).tag != bitsOf x 0 16 then s.failArray 0x2A
  else if tileMalformed fb (hdrOf h) then s.failArray 0x22
  else
    let t := s.onMx fun m => { m with bbuf := some { sec := r.bAt.1, row := r.bAt.2, rows := r.bufB } }
    (t.cmdDone r.cmd 0).dropArray

/-- The array unit's command ends (R225, R226). -/
def State.endArray (r : ArrayRun) (s : State) : State :=
  match r.cmd.op with
  | .mxgo _ _ _ _ _ _ =>
    if r.next.isSome || (s.mx.drain.any fun d => d.nested) || s.now < r.dfree
    then s.plan (max (s.now + 1) r.dfree) rankEnd (.ev (.commandCompletion .array r.cmd.idx))
    else (s.cmdDone r.cmd r.bytes).dropArray
  | .mxldb _ _ _ => s.endMxldb r
  | .accz _ a0 a1 => ((s.zeroAcc a0 a1).cmdDone r.cmd 0).dropArray
  | .accdr _ _ _ keep => ((s.zeroAcc (!keep) false).cmdDone r.cmd (512 * tileRows r.cmd.fd)).dropArray
  | _ => s

/-- The drain unit's own command ends. -/
def State.endDrain (c : Cmd) (s : State) : State :=
  match c.op with
  | .accz _ _ a1 => ((s.zeroAcc false a1).cmdDone c 0).dropDrain
  | .accdr _ _ _ keep => ((s.zeroAcc false (!keep)).cmdDone c (512 * tileRows c.fd)).dropDrain
  | _ => s

/-! ## Resume after a pre-emption (R229) -/

/-- A paused MXGO refills the B buffer and goes on with its next step. -/
def State.resumeArray (s : State) : State :=
  match s.mx.array with
  | none => s
  | some r =>
    if !r.paused then s
    else
      let t := s.now + 12 + tileRows r.cmd.fb
      let r := ({ r with paused := false, t := t, reload := true }).prep none s.now t r.iter
      ((s.onMx fun m => { m with array := some r, bbuf := none }).planReads r).plan (max t r.readDone) rankRead
        (.ev .matrixStep)

end Sys2Proof.Machine
end

