-- ==== Sys2Proof/Machine/Shaping.lean ====
section
/-! DEFINITION. The convert-and-quantise, transpose and table-interpolation stations (R231 to R256). -/

namespace Sys2Proof.Machine

/-! ## Commands at issue (R232, R233, R256) -/

/-- A shaping command joins its queue. -/
def shapeIssue (u : EUnit) (e : ECtl) (op : Instr) (fe : Option (Fin 16)) (s : State) : State :=
  s.guarded [s.cmdFault e 4] fun s =>
    let c := s.capture u e op
    s.enqueueCmd u (match fe with
      | some f => s.withFt f c
      | none => c)

/-- CVT (R232). -/
def execCvt (e : ECtl) (dfmt : Fmt) (fe : Fin 16) (rnd : RMode) (sat bcol ch chrow tns inv : Bool) (s : State) : Out :=
  .next (shapeIssue .cvs e (.cvt e dfmt fe rnd sat bcol ch chrow tns inv) (some fe) s)

/-- QAMAX (R232). -/
def execQamax (e : ECtl) (fe : Fin 16) (zp init : Bool) (s : State) : Out :=
  .next (shapeIssue .cvs e (.qamax e fe zp init) (some fe) s)

/-- QSCL (R232). -/
def execQscl (e : ECtl) (tfmt : Fmt) (m : Fin 8) (pow2 : Bool) (s : State) : Out :=
  .next (shapeIssue .cvs e (.qscl e tfmt m pow2) none s)

/-- TRN (R232). -/
def execTrn (e : ECtl) (keep : Bool) (s : State) : Out := .next (shapeIssue .trs e (.trn e keep) none s)

/-- TBLD (R232). -/
def execTbld (e : ECtl) (slot : Fin 4) (s : State) : Out := .next (shapeIssue .tis e (.tbld e slot) none s)

/-- TBEV (R232). -/
def execTbev (e : ECtl) (slot : Fin 4) (ifmt ofmt : Fmt) (rnd : RMode) (sat tile : Bool) (s : State) : Out :=
  .next (shapeIssue .tis e (.tbev e slot ifmt ofmt rnd sat tile) none s)

/-- GSUM (R232). -/
def execGsum (e : ECtl) (fmt : Fmt) (bcol : Bool) (s : State) : Out := .next (shapeIssue .cvs e (.gsum e fmt bcol) none s)

/-- GVER (R232). -/
def execGver (e : ECtl) (s : State) : Out := .next (shapeIssue .cvs e (.gver e) none s)

/-! ## The running command -/

/-- The running command of a shaping unit. -/
def State.shapeOf (s : State) : EUnit → Option ShapeRun
  | .tis => s.sh.tis
  | .cvs => s.sh.cvs
  | .trs => s.sh.trs
  | _ => none

/-- Replace the running command of a shaping unit. -/
def State.setShape (u : EUnit) (r : Option ShapeRun) (s : State) : State :=
  match u with
  | .tis => s.onSh fun h => { h with tis := r }
  | .cvs => s.onSh fun h => { h with cvs := r }
  | .trs => s.onSh fun h => { h with trs := r }
  | _ => s

/-- The unit is free from the next cycle (R231). -/
def State.freeShape (u : EUnit) (s : State) : State :=
  ((s.setShape u none).onQueues u fun q => { q with nextN := s.now + 1, nextP := s.now + 1 }).prune

/-- The running command fails (R238). -/
def State.shapeFail (u : EUnit) (code : Nat) (s : State) : State :=
  match s.shapeOf u with
  | some r => (s.plainFail u r.cmd code).freeShape u
  | none => s

/-- A mismatch of a station's own check: ARCSTAT counts it, the injection bit clears if the injection caused it, the command
fails with 0x31, and the sequencer owes an arithmetic-check fault in the cycle after (R252, R255). -/
def State.shapeMismatch (u : EUnit) (injected : Bool) (s : State) : State :=
  match s.shapeOf u with
  | none => s
  | some r =>
    let a : ArcUnit := match u with
      | .tis => .tis
      | _ => .cvs
    let bit : Word := match u with
      | .tis => 2
      | _ => 1
    let t := if injected then s.hwSys 0x210 (fun t => t.sh.inj) fun v => v &&& ~~~bit else s
    let t := t.countArc (arcCode a)
    let t := if s.phase == .pre then t.plan (s.now + 1) rankWriteback (.micro (.oweCheck (arcTrap a r.cmd.baddr 4)))
      else t.oweCheck (arcTrap a r.cmd.baddr 4)
    t.shapeFail u 0x31

/-- Is the unit's next check to fail (R255)? st4 has no check, and a TBLD no arithmetic (R252). -/
def State.shapeInj (s : State) (u : EUnit) (op : Instr) : Bool :=
  match u, op with
  | .tis, .tbld _ _ => false
  | .tis, _ => s.sh.inj.getLsbD 1
  | .cvs, _ => s.sh.inj.getLsbD 0
  | _, _ => false

/-! ## Locators (R234) -/

/-- Rows that a locator names: a sector from a row on, or a port. -/
inductive Loc where
  | sec (k : Fin 8) (row : Nat)
  | port (q : Fin 8)
  deriving DecidableEq, Repr

/-- A locator of a station; none where it breaks R234. -/
def State.locOf (s : State) (stn : Nat) (v : Nat) (wr sectorOnly : Bool) : Option Loc :=
  if v / 2 ^ 12 % 2 = 1 then
    let q := Fin.ofNat 8 (v / 2 ^ 13)
    let p := s.ann.ports[q]
    if sectorOnly || v % 2 ^ 12 ≠ 0 || !p.bound || p.wr != wr || p.stn.val ≠ stn then none else some (.port q)
  else
    let k := Fin.ofNat 8 v
    if k.val = stn || k.val = stn + 1 then some (.sec k (v / 8 % 512)) else none

/-- The source, destination and scale-row locators of a command. -/
def Cmd.srcLoc (c : Cmd) : Nat := fieldNat c.xs[0] 0 16
def Cmd.dstLoc (c : Cmd) : Nat := fieldNat c.xs[0] 16 16
def Cmd.sclLoc (c : Cmd) : Nat := fieldNat c.xs[0] 32 16

/-- A stride of a command: source 0, destination 1, scale row 2 (R233). -/
def Cmd.stride (c : Cmd) (k : Nat) : Int := sintOf 10 (fieldNat c.xs[1] (16 + 10 * k) 10)

/-- Tiles or rows of a command (R233). -/
def Cmd.count (c : Cmd) : Nat := fieldNat c.xs[1] 0 16 + 1

/-- Does the command convert with a scale row read first (R236)? -/
def Cmd.isCvt (c : Cmd) : Bool :=
  match c.op with
  | .cvt _ _ _ _ _ _ _ _ _ _ => true
  | _ => false

/-- Does the command write tiles at its source: GSUM (R244)? -/
def Cmd.isGsum (c : Cmd) : Bool :=
  match c.op with
  | .gsum _ _ _ => true
  | _ => false

/-- Row n of tile i from a base row (R234). -/
def tileRow (base : Nat) (stride : Int) (i n : Nat) : Nat :=
  (((base + n : Nat) : Int) + (i : Int) * stride).emod 512 |>.toNat

/-! ## Port rows of a station (R178, R179, R234) -/

/-- The failure code of a station's pop in the cycle in hand, by the port's rules and the station's claims. A tag that
an armed port does not find is a row not usable (log 24). -/
def State.stnPopCode (s : State) (c : Cmd) (stn : Nat) (q : Fin 8) : Option Nat :=
  let p := s.ann.ports[q]
  if !p.bound || p.wr || p.stn.val ≠ stn || p.total ≤ p.k then some 0x33
  else match p.rows with
    | [] => some 0x33
    | (u, r) :: _ =>
      if s.now < u || (p.arm == .ptag && rowTag r ≠ p.tag) then some 0x33
      else if p.k + p.depth < p.total then s.claimCode c stn p.sec (p.walkRow (p.k + p.depth)) (s.now + 1) false
      else none

/-- The failure code of a station's push in the next cycle. -/
def State.stnPushCode (s : State) (c : Cmd) (stn : Nat) (q : Fin 8) : Option Nat :=
  let p := s.ann.ports[q]
  let k := p.k + s.pushesMade q p.gen
  if !p.bound || !p.wr || p.stn.val ≠ stn || p.total ≤ k then some 0x33
  else s.claimCode c stn p.sec (p.walkRow k) (s.now + 1 + p.hops) true

/-! ## Starts (R234, R236, R240, R242, R247, R249, R250) -/

/-- Λ of a command (R236). -/
def lagOf : Instr → Nat
  | .trn _ _ => 8
  | .tbev _ _ _ _ _ _ _ => 14
  | _ => 12

/-- A command's run before its first header is read: the schedule is open. -/
def shapeRun (now : Nat) (c : Cmd) (n : Nat) : ShapeRun :=
  { cmd := c, start := now, i := 0, n := n, nread := 2 ^ 30, nwrite := 0, period := 2 ^ 30, lag := lagOf c.op, fmt := 0,
    rows := [], scale := 0, found := [], out := [], amaxM := 0, amaxE := 0, sawNan := false, sawInf := false,
    statAt := none, slot := none }

/-- Limit of DX's exponent offset (R41). -/
def dxLimit (f : Fmt) (d : Nat) : Bool :=
  match f with
  | .dx8 => d ≤ 20
  | .dx4 => d ≤ 17
  | _ => true

/-- The failure that a command's operands, its entry or its slot give at its start: 0x33, 0x21, 0x32, or none. -/
def State.startCode (s : State) (c : Cmd) : Option Nat :=
  let bad33 := fun (l : List (Option Loc)) => c.count > 256 || l.any fun o => o.isNone
  match c.op with
  | .cvt _ dfmt _ _ _ _ _ _ _ _ =>
    if bad33 [s.locOf 3 c.srcLoc false false, s.locOf 3 c.dstLoc true false, s.locOf 3 c.sclLoc false true] then some 0x33
    else if (ftOf c.ft).hi ≠ 0 || !dxLimit dfmt (fieldNat c.ft 16 5)
      || ((ftOf c.ft).zpa && !(dfmt == .i8 || dfmt == .u8)) then some 0x21 else none
  | .qamax _ _ _ _ =>
    if bad33 [s.locOf 3 c.srcLoc false false, s.locOf 3 c.sclLoc false true] then some 0x33
    else if (ftOf c.ft).hi ≠ 0 then some 0x21 else none
  | .qscl _ _ _ _ => if (s.locOf 3 c.sclLoc false true).isNone then some 0x33 else none
  | .trn _ _ => if bad33 [s.locOf 4 c.srcLoc false false, s.locOf 4 c.dstLoc true false] then some 0x33 else none
  | .tbld _ _ => if (s.locOf 2 c.srcLoc false true).isNone then some 0x33 else none
  | .tbev _ slot _ _ _ _ tile =>
    if (tile && c.count > 256) || (s.locOf 2 c.srcLoc false false).isNone || (s.locOf 2 c.dstLoc true false).isNone
    then some 0x33
    else if (s.sh.slots[slot]).isNone then some 0x32 else none
  | .gsum _ _ _ => if bad33 [s.locOf 3 c.srcLoc false true] then some 0x33 else none
  | .gver _ => if bad33 [s.locOf 3 c.srcLoc false false] then some 0x33 else none
  | _ => none

/-- End of a command that evaluates rows, or scales (R236, R250), with its completion on the agenda. -/
def State.planEnd (u : EUnit) (c : Cmd) (cyc : Nat) (s : State) : State :=
  s.plan cyc rankEnd (.ev (.commandCompletion u c.idx))

/-- The table that a TBEV evaluates with, as it stands at its start (R250). -/
def State.tableFor (s : State) (c : Cmd) : Option TableSlot :=
  match c.op with
  | .tbev _ k _ _ _ _ _ => s.sh.slots[k]
  | _ => none

/-- A shaping command starts (R231). -/
def State.startShape (u : EUnit) (c : Cmd) (s : State) : State :=
  match s.startCode c with
  | some code => (s.plainFail u c code).onQueues u fun q => { q with nextN := s.now + 1, nextP := s.now + 1 }
  | none =>
    let r := { shapeRun s.now c c.count with slot := s.tableFor c }
    let tick := fun (t : State) => t.plan s.now rankEnd (.micro (.shapeTick u))
    match c.op with
    | .qscl _ _ _ _ =>
      tick ((s.setShape u (some { r with n := 1, nread := 1, period := 1, lag := 7 })).planEnd u c (s.now + 9))
    | .tbld _ _ => tick (s.setShape u (some { r with n := 1 }))
    | .tbev _ _ _ _ _ _ false =>
      tick ((s.setShape u (some { r with nread := 1, period := 1, nwrite := 1, lag := 14 })).planEnd u c
        (s.now + 15 + c.count))
    | .gsum _ f _ =>
      let nr := tileRows f
      tick ((s.setShape u (some { r with nread := nr - 1, nwrite := 2, period := nr - 1, fmt := f.code })).planEnd u c
        (s.now + (c.count - 1) * (nr - 1) + nr - 1 + 12 + 2))
    | _ => tick (s.setShape u (some r))

/-! ## What is found of a tile, and what is written for it (R237, R240 to R250) -/

/-- Rows to write: place in the tile and row. -/
abbrev Writes := List (Nat × Row)

/-- The tag that a tile must carry: the first tile's when bit 16 of x(xa + 2) asks (R237). -/
def Cmd.wantTag (c : Cmd) (i : Nat) : Option (BitVec 16) :=
  if i = 0 && c.xs[2].getLsbD 16 then some (bitsOf c.xs[2] 0 16) else none

/-- The tag of output tiles (R233). -/
def Cmd.outTag (c : Cmd) : BitVec 16 := bitsOf c.xs[2] 32 16

/-- The result of a tile command for tile `i`, all its rows read: a failure code, or the rows to write. -/
def State.tileResult (s : State) (r : ShapeRun) (i : Nat) : Except Nat Writes :=
  let c := r.cmd
  let h := hdrOf (r.rows.headD 0)
  let ver := verifyTile r.fmt (c.wantTag i) r.rows
  match c.op with
  | .gsum _ f bcol =>
    match gsumTile f bcol c.outTag (fieldNat c.xs[2] 48 6) (fieldNat c.xs[2] 54 6) (bitsOf c.xs[3] 0 32)
      (bitsOf c.xs[3] 32 32 + BitVec.ofNat 32 i) r.rows with
    | .error e => .error e
    | .ok p => .ok [(tileRows f - 1, p.1), (0, p.2)]
  | .tbev _ slot ifmt ofmt rnd sat true =>
    if h.code ≠ ifmt.code then .error 0x25
    else if ver ≠ 0 then .error ver
    else match r.slot with
      | none => .error 0x32
      | some t =>
        let bad := (s.sh.tblBad.filter fun p => p.1 = slot.val).map (·.2)
        let touched := !bad.isEmpty && (((tileCodes ifmt r.rows.tail).take (h.vrows + 1)).any fun l =>
          (l.take (h.vcols + 1)).any fun x => t.touches bad (toF32 ifmt x))
        if touched then .error 0x32
        else .ok (writeOrder (tbevTile t ifmt ofmt (fun k => srkRnd rnd c.key c.ctr (4096 * i + k)) sat c.outTag r.rows))
  | .trn _ keep =>
    if ver ≠ 0 then .error ver
    else .ok (writeOrder (trnTile (fmtOf r.fmt) (if keep then none else some c.outTag) r.rows))
  | .cvt _ dfmt _ rnd sat bcol ch chrow tns inv =>
    if ver ≠ 0 then .error ver
    else
      let e := ftOf c.ft
      let f := fmtOf r.fmt
      if e.zpb && !(f == .i8 || f == .u8) then .error 0x21
      else
        let a : CvtArgs := { dfmt := dfmt, rnd := rnd, sat := sat, bcol := bcol, d := fieldNat c.ft 16 5,
                             za := zeroPoint e.zpa dfmt e.za, zb := zeroPoint e.zpb f e.zb, key := c.key, ctr := c.ctr, ord := i }
        .ok (writeOrder (cvtTile a f c.outTag (cvtScale r.scale tns inv ch chrow) r.rows))
  | _ => if ver ≠ 0 then .error ver else .ok []

/-- QAMAX folds a verified tile into its run (R240). -/
def ShapeRun.fold (r : ShapeRun) (zp : Bool) : ShapeRun :=
  let f := fmtOf r.fmt
  let e := ftOf r.cmd.ft
  let z := if zp && e.zpb && (f == .i8 || f == .u8) then intValue f e.zb else 0
  let x := (amaxVals f z r.rows).foldl foldMax ({ s := false, m := r.amaxM, e := r.amaxE }, r.sawNan, r.sawInf)
  { r with amaxM := x.1.m, amaxE := x.1.e, sawNan := x.2.1, sawInf := x.2.2 }

/-- Tile `i`'s rows are all read: what is found of it is set for cycle si + R + Λ - 1, and its rows from the cycle after
(R236, R237). -/
def State.tileRead (s : State) (r : ShapeRun) (i : Nat) : ShapeRun :=
  let at_ := r.start + i * r.period + r.nread + r.lag - 1
  let stride := if r.cmd.isGsum then r.cmd.stride 0 else r.cmd.stride 1
  let base := (if r.cmd.isGsum then r.cmd.srcLoc else r.cmd.dstLoc) / 8 % 512
  let done := fun (r : ShapeRun) => { r with rows := [] }
  match s.tileResult r i with
  | .error code => done { r with found := r.found ++ [(at_, code, i)] }
  | .ok w =>
    let o : List ShapeOut := w.zipIdx.map fun p =>
      { cyc := at_ + 1 + p.2, row := tileRow base stride i p.1.1, data := p.1.2, part := none }
    let r := match r.cmd.op with
      | .qamax _ _ zp _ => r.fold zp
      | _ => r
    done { r with found := r.found ++ [(at_, 0, i)], out := r.out ++ o }

/-- Row `i` of a TBEV without tile is read (R250). -/
def State.rowRead (s : State) (r : ShapeRun) (i : Nat) : ShapeRun :=
  let at_ := r.start + 14 + i
  let base := r.cmd.dstLoc / 8 % 512
  let row := r.rows.headD 0
  match r.cmd.op with
  | .tbev _ slot ifmt ofmt rnd sat _ =>
    let bad := (s.sh.tblBad.filter fun p => p.1 = slot.val).map (·.2)
    match r.slot with
    | none => { r with rows := [], found := r.found ++ [(at_, 0x32, i)] }
    | some t =>
      if !bad.isEmpty && (rowElems ifmt.width row).any fun x => t.touches bad (toF32 ifmt x)
      then { r with rows := [], found := r.found ++ [(at_, 0x32, i)] }
      else
        let n := 4096 / ifmt.width
        let d := tbevRow t ifmt ofmt (fun k => srkRnd rnd r.cmd.key r.cmd.ctr (k + n * i)) sat row
        { r with rows := [], found := r.found ++ [(at_, 0, i)],
                 out := r.out ++ [{ cyc := at_ + 1, row := (base + i) % 512, data := d, part := none }] }
  | _ => r

/-- QSCL has read its scale row (R236, R239, R241). -/
def ShapeRun.qsclRead (r : ShapeRun) : ShapeRun :=
  let w : Word := BitVec.ofNat 64 (rowField (r.rows.headD 0) 256 8)
  match r.cmd.op with
  | .qscl _ tfmt m pow2 =>
    if statBad w then { r with rows := [], found := [(r.start + 7, 0x21, 0)] }
    else { r with rows := [], found := [(r.start + 7, 0, 0)],
                  out := [{ cyc := r.start + 8, row := r.cmd.sclLoc / 8 % 512,
                            data := ((scaleWord tfmt m.val pow2 w).setWidth 4096), part := some 264 }] }
  | _ => r

/-- The first header fixes the schedule of a tile command, whose end goes on the agenda (R236). -/
def State.fixTiles (u : EUnit) (r : ShapeRun) (s : State) : ShapeRun × State :=
  let f := (hdrOf (r.rows.headD 0)).code
  let pre := if r.cmd.isCvt then 1 else 0
  match tileFmt f with
  | none => ({ r with fmt := f, nread := 1 + pre }, s)
  | some fm =>
    let nr := tileRows fm
    let rr := nr + pre
    let w := match r.cmd.op with
      | .cvt _ d _ _ _ _ _ _ _ _ => tileRows d
      | .trn _ _ => nr
      | .tbev _ _ _ o _ _ _ => tileRows o
      | _ => 0
    let r := { r with fmt := f, nread := rr, nwrite := w, period := max (max rr w) 1 }
    let e := r.start + (r.n - 1) * r.period + rr + r.lag + w
    match r.cmd.op with
    | .qamax _ _ _ _ => ({ r with statAt := some e }, s.planEnd u r.cmd (e + 2))
    | _ => (r, s.planEnd u r.cmd e)

/-- The inputs that a TBEV evaluates once the rows of tile or row `i` are read (R250). -/
def ShapeRun.inputs (r : ShapeRun) (i : Nat) : List Nat :=
  match r.cmd.op with
  | .tbev _ _ ifmt _ _ _ true =>
    let h := hdrOf (r.rows.headD 0)
    if h.code ≠ ifmt.code || verifyTile r.fmt (r.cmd.wantTag i) r.rows ≠ 0 then []
    else ((tileCodes ifmt r.rows.tail).take (h.vrows + 1)).flatMap fun l => (l.take (h.vcols + 1)).map (toF32 ifmt)
  | .tbev _ _ ifmt _ _ _ false => (rowElems ifmt.width (r.rows.headD 0)).map (toF32 ifmt)
  | _ => []

/-- Table words that a TBEV reads corrected or poisoned are counted as a sector's are (R175, R247). -/
def State.countTable (r : ShapeRun) (i : Nat) (s : State) : State :=
  if s.sh.tblBad.isEmpty && s.sh.tblFlaw.isEmpty then s
  else match r.slot, r.cmd.op with
    | some t, .tbev _ slot _ _ _ _ _ =>
      let n := fun (l : List (Nat × Nat)) => t.hits ((l.filter fun p => p.1 = slot.val).map (·.2)) (r.inputs i)
      s.onAnn fun a => { a with eccCorr := bump32 (n s.sh.tblFlaw) a.eccCorr, eccPois := bump32 (n s.sh.tblBad) a.eccPois }
    | _, _ => s

/-- A row of the tile in hand has been read, the `p`-th of tile or row `i`. -/
def State.gotRow (u : EUnit) (r : ShapeRun) (i p : Nat) (row : Row) (s : State) : State :=
  let first := if r.cmd.isCvt then 1 else 0
  let r := if r.cmd.isCvt && p = 0 then { r with scale := row } else { r with rows := r.rows ++ [row] }
  match r.cmd.op with
  | .qscl _ _ _ _ => s.setShape u (some r.qsclRead)
  | .tbev _ _ _ _ _ _ false => (s.countTable r i).setShape u (some (s.rowRead r i))
  | .tbld _ _ =>
    if p = 0 then
      let nt := tableRows row
      (s.setShape u (some { r with nread := nt })).planEnd u r.cmd (r.start + nt + 6)
    else s.setShape u (some r)
  | .gsum _ _ _ => s.setShape u (some (if p + 1 = r.nread then s.tileRead r i else r))
  | _ =>
    let q := if i = 0 && p = first then s.fixTiles u r else (r, s)
    if p + 1 = q.1.nread then (q.2.countTable q.1 i).setShape u (some (q.2.tileRead q.1 i)) else q.2.setShape u (some q.1)

/-! ## The cycle of a running command -/

/-- The locator and the place of the p-th read of tile i: which rows it names, and the row of a sector. -/
def State.readPlace (s : State) (r : ShapeRun) (stn i p : Nat) : Option (Loc × Nat) :=
  let c := r.cmd
  let scl := (s.locOf stn c.sclLoc false true).map fun l => (l, tileRow (c.sclLoc / 8 % 512) (c.stride 2) i 0)
  let src := fun (k : Nat) (st : Int) => (s.locOf stn c.srcLoc false false).map fun l =>
    (l, tileRow (c.srcLoc / 8 % 512) st i k)
  match c.op with
  | .qscl _ _ _ _ => scl
  | .tbld _ _ => src p 0
  | .tbev _ _ _ _ _ _ false => src 0 1
  | .cvt _ _ _ _ _ _ _ _ _ _ => if p = 0 then scl else src (p - 1) (c.stride 0)
  | _ => src p (c.stride 0)

/-- Tile and place of the read that falls in a cycle, if one does (R236). -/
def ShapeRun.readAt (r : ShapeRun) (cyc : Nat) : Option (Nat × Nat) :=
  if cyc ≤ r.start then none
  else
    let k := cyc - r.start - 1
    let i := k / r.period
    if i < r.n && k % r.period < r.nread then some (i, k % r.period) else none

/-- A station reads: sector rows of the next cycle, claimed now; port rows of this cycle (R234, R235). -/
def State.shapeRead (u : EUnit) (s : State) : State :=
  let stn := stationOf u
  match s.shapeOf u with
  | none => s
  | some r =>
    let one := fun (r : ShapeRun) (cyc : Nat) (port : Bool) (t : State) =>
      match r.readAt cyc with
      | none => t
      | some (i, p) =>
        match t.readPlace r stn i p with
        | none => t.shapeFail u 0x33
        | some (.port q, _) =>
          if !port then t
          else match t.stnPopCode r.cmd stn q with
            | some code => t.shapeFail u code
            | none => (t.pop q).gotRow u r i p (t.popRow q)
        | some (.sec k _, row) =>
          if port then t
          else match t.claimCode r.cmd stn k row cyc false with
            | some code => t.shapeFail u code
            | none =>
              let x := t.claimRead u r.cmd k row
              x.2.gotRow u r i p x.1
    let t := one r s.now true s
    match t.shapeOf u with
    | none => t
    | some r' => one r' (s.now + 1) false t

/-- The stat word of a QAMAX is read at `end` and its write is set for the next cycle (R236, R239, R240). -/
def State.statStep (u : EUnit) (s : State) : State :=
  match s.shapeOf u with
  | none => s
  | some r =>
    let row := r.cmd.sclLoc / 8 % 512
    let sec := Fin.ofNat 8 r.cmd.sclLoc
    if r.statAt = some (s.now + 1) then
      match s.claimCode r.cmd 3 sec row (s.now + 1) false with
      | some code => s.shapeFail u code
      | none =>
        let x := s.claimRead u r.cmd sec row
        x.2.setShape u (some { r with rows := [x.1] })
    else if r.statAt = some s.now then
      match r.cmd.op with
      | .qamax _ _ _ init =>
        let w : Word := BitVec.ofNat 64 (rowField (r.rows.headD 0) 256 8)
        if !init && statBad w then s.shapeFail u 0x21
        else
          let old := f32.exact (if init then 0 else fieldNat w 0 31)
          let m : Exact := { s := false, m := r.amaxM, e := r.amaxE }
          let v := statWord (if m.magLt old then old else m) (r.sawNan || (!init && w.getLsbD 32))
            (r.sawInf || (!init && w.getLsbD 33))
          s.setShape u (some { r with rows := [], out := [{ cyc := s.now + 1, row := row, data := v.setWidth 4096,
                                                            part := some 256 }] })
      | _ => s
    else s

/-- The sector or port that a shaping command writes. -/
def State.writeLoc (s : State) (r : ShapeRun) (stn : Nat) : Option Loc :=
  match r.cmd.op with
  | .qamax _ _ _ _ => s.locOf stn r.cmd.sclLoc false true
  | .qscl _ _ _ _ => s.locOf stn r.cmd.sclLoc false true
  | .gsum _ _ _ => s.locOf stn r.cmd.srcLoc false true
  | _ => s.locOf stn r.cmd.dstLoc true false

/-- The write of the next cycle is claimed (R235). -/
def State.shapeClaim (u : EUnit) (s : State) : State :=
  let stn := stationOf u
  match s.shapeOf u with
  | none => s
  | some r =>
    match r.out.find? fun o => o.cyc = s.now + 1 with
    | none => s
    | some o =>
      let go := fun (code : Option Nat) (t : State) => match code with
        | some c => s.shapeFail u c
        | none => t.plan (s.now + 1) rankWrite (.micro (.shapeWrite u))
      match s.writeLoc r stn with
      | none => s.shapeFail u 0x33
      | some (.sec k _) =>
        go (s.claimCode r.cmd stn k o.row (s.now + 1) true) (s.claim k (s.now + 1) true (.unit u))
      | some (.port q) =>
        let p := s.ann.ports[q]
        go (s.stnPushCode r.cmd stn q) (s.claim p.sec (s.now + 1 + p.hops) true (.port q))

/-- The write of this cycle is made (R235, R236). -/
def State.shapeWrite (u : EUnit) (s : State) : State :=
  match s.shapeOf u with
  | none => s
  | some r =>
    match r.out with
    | [] => s
    | o :: rest =>
      let t := s.setShape u (some { r with out := rest })
      match s.writeLoc r (stationOf u) with
      | none => t
      | some (.sec k _) => match o.part with
        | none => t.writeRow k o.row o.data
        | some off => t.writeLocal (rowAddr k o.row + off) (bytesOf 8 o.data.toNat)
      | some (.port q) => t.arrivePush q s.ann.ports[q].gen o.data (BitVec.allOnes 128)

/-- What is found in this cycle: an injected mismatch, a failure, or a good tile (R237, R252). -/
def State.shapeFound (u : EUnit) (s : State) : State :=
  match s.shapeOf u with
  | none => s
  | some r =>
    match r.found with
    | [] => s
    | (cyc, code, i) :: rest =>
      if s.now < cyc then s
      else if s.shapeInj u r.cmd.op then s.shapeMismatch u true
      else if code ≠ 0 then s.shapeFail u code
      else s.setShape u (some { r with found := rest, i := i })

/-- Has the command reads, findings or writes to come? -/
def ShapeRun.busyAfter (r : ShapeRun) (now : Nat) : Bool :=
  decide (now < r.start + r.n * r.period) || !r.found.isEmpty || !r.out.isEmpty
    || (r.statAt.any fun e => now ≤ e)

/-- A cycle of a running command, at its end: findings, then reads, the stat word, and the next write's claim. -/
def State.shapeTick (u : EUnit) (s : State) : State :=
  let t := (((s.shapeFound u).shapeRead u).statStep u).shapeClaim u
  match t.shapeOf u with
  | none => t
  | some r => if r.busyAfter s.now then t.plan (s.now + 1) rankEnd (.micro (.shapeTick u)) else t

/-! ## Ends -/

/-- Bytes that a completed command has written (R232). -/
def ShapeRun.bytes (r : ShapeRun) : Nat :=
  match r.cmd.op with
  | .qamax _ _ _ _ => 8
  | .qscl _ _ _ _ => 8
  | .gver _ => 0
  | .tbld _ _ => 0
  | _ => 512 * r.nwrite * r.n

/-- A shaping command ends: a TBLD fills or spoils its slot, every other signals (R236, R249). -/
def State.endShape (u : EUnit) (r : ShapeRun) (s : State) : State :=
  match r.cmd.op with
  | .tbld _ slot =>
    let t := s.onSh fun h => { h with
      slots := h.slots.set slot (tableOf r.rows), tblBad := h.tblBad.filter fun p => p.1 ≠ slot.val,
      tblFlaw := h.tblFlaw.filter fun p => p.1 ≠ slot.val }
    if (tableOf r.rows).isSome then (t.cmdDone r.cmd 0).freeShape u else t.shapeFail u 0x32
  | _ => (s.cmdDone r.cmd r.bytes).freeShape u

end Sys2Proof.Machine
end

