-- ==== Sys2Proof/Machine/Checks.lean ====
section
/-! DEFINITION. Faults of the hardware itself: a check that fails, a bit that flips (R111, R113, R170, R175, R252). -/

namespace Sys2Proof.Machine

/-- The results in flight that share a check with `w` are to fail when the first of them lands (R111). -/
def State.spoil (w : PendingWrite) (s : State) : State :=
  s.onSeq fun q => { q with writes := q.writes.map fun v => if w.sameCheck v then { v with bad := true } else v }

/-- A check of a bundle's unit fails: the event names which of the slot's open ones, results first, oldest first. A result
that is due is suppressed, one still in flight fails in its own cycle, and a store does not take place (R111, R170). -/
def State.checkFails (u : ArcUnit) (slot : Fin 8) (pick : Nat) (s : State) : State :=
  match (s.openChecks slot)[pick]? with
  | some w => if w.due ≤ s.now then s.suppress u w else s.spoil w
  | none => match (s.openStores slot)[pick - (s.openChecks slot).length]? with
    | some w => s.dropStore u w
    | none => s

/-- ARITHMETIC_CHECK_FAULT (R111, R170, R252). -/
def execArithmeticCheckFault (u : ArcFault) (s : State) : Out :=
  .next (match u.unit with
    | .sa => s.checkFails .sa 1 u.pick
    | .sb => s.checkFails .sb 2 u.pick
    | .vec => s.checkFails .vec 3 u.pick
    | .sums => s.sumsMismatch u.pick
    | .recv => s.recvMismatch u.pick
    | .tis => s.shapeMismatch .tis false
    | .cvs => s.shapeMismatch .cvs false)

/-- Number of the sector word that holds a byte of a sector (R99, R175). -/
def wordAt (sec : Fin 8) (addr : Nat) : Nat := (sec.val * Config.sectorBytes + addr % Config.sectorBytes) / 8

/-- MEMORY_BIT_ERROR: a sector word becomes one that reads corrected, or poisoned; a word of a table slot becomes
uncorrectable, or corrected (R175, R247). -/
def execMemoryBitError (table : Bool) (sec : Fin 8) (addr : Nat) (uncorrectable : Bool) (s : State) : Out :=
  let w := wordAt sec addr
  .next (match table, uncorrectable with
    | true, true => s.onSh fun h => { h with
        tblBad := (sec.val % 4, addr) :: h.tblBad.filter fun p => p ≠ (sec.val % 4, addr),
        tblFlaw := h.tblFlaw.filter fun p => p ≠ (sec.val % 4, addr) }
    | true, false => if s.sh.tblBad.contains (sec.val % 4, addr) then s
        else s.onSh fun h => { h with tblFlaw := (sec.val % 4, addr) :: h.tblFlaw.filter fun p => p ≠ (sec.val % 4, addr) }
    | false, true => s.onAnn fun a => { a with
        poison := w :: a.poison.filter fun v => v ≠ w, flawed := a.flawed.filter fun v => v ≠ w }
    | false, false => if s.ann.poison.contains w then s
        else s.onAnn fun a => { a with flawed := w :: a.flawed.filter fun v => v ≠ w })

end Sys2Proof.Machine
end

