-- ==== Sys2Proof/Machine/Health.lean ====
section
/-! DEFINITION. Cell health: perimeter messages, heartbeats, causes, the vote, fences, the self test, the spare map, and
the eight cell-health instructions (R376 to R400). -/

namespace Sys2Proof.Machine

/-! ## Places (R376, R383) -/

/-- The neighbour of a cell on a side: N, E, S, W; none outside the module mesh (R376). -/
def neighbour (c : Nat × Nat) (side : Fin 4) : Option (Nat × Nat) :=
  match side with
  | 0 => if c.2 = 0 then none else some (c.1, c.2 - 1)
  | 1 => if 31 ≤ c.1 then none else some (c.1 + 1, c.2)
  | 2 => if 23 ≤ c.2 then none else some (c.1, c.2 + 1)
  | 3 => if c.1 = 0 then none else some (c.1 - 1, c.2)

/-- The side opposite to a side. -/
def opposite (side : Fin 4) : Fin 4 := side + 2

/-- The side of a cell on which another one lies, if it is a neighbour. -/
def sideTo (c d : Nat × Nat) : Option (Fin 4) := (List.finRange 4).find? fun i => neighbour c i == some d

/-- Mesh distance of two cells. -/
def meshDist (c d : Nat × Nat) : Nat := max c.1 d.1 - min c.1 d.1 + (max c.2 d.2 - min c.2 d.2)

/-- Position r of the ring of a cell, clockwise from N: even positions touch it by side, odd ones by corner (R383). -/
def ringCell (c : Nat × Nat) (r : Nat) : Option (Nat × Nat) :=
  let corner := fun (a b : Fin 4) => (neighbour c a).bind fun d => neighbour d b
  match r % 8 with
  | 0 => neighbour c 0
  | 1 => corner 0 1
  | 2 => neighbour c 1
  | 3 => corner 2 1
  | 4 => neighbour c 2
  | 5 => corner 2 3
  | 6 => neighbour c 3
  | _ => corner 0 3

/-- Ring position of a cell about another, if it lies on the ring. -/
def ringPos (c d : Nat × Nat) : Option Nat := (List.range 8).find? fun r => ringCell c r == some d

/-! ## Messages (R377 to R379) -/

/-- The seal of a message's low 224 bits under a key (R379). -/
def sealOf (low : BitVec 224) (key : Word) : BitVec 32 :=
  crcBytes 0xFFFFFFFF#32 (bytesOf 28 low.toNat ++ bytesOf 8 key.toNat) ^^^ 0xFFFFFFFF#32

/-- A field of a message. -/
def msgField (m : BitVec 256) (lo n : Nat) : Nat := m.toNat / 2 ^ lo % 2 ^ n

/-- A message that leaves this cell on a side (R377). -/
def State.message (s : State) (side : Fin 4) (kind count body : Nat) : BitVec 256 :=
  let ltag := match s.prog with
    | some p => p.lid.toNat % 2 ^ 16
    | none => 0
  let low : BitVec 224 := BitVec.ofNat 224 (kind + 2 ^ 4 + s.phys.1 * 2 ^ 8 + s.phys.2 * 2 ^ 13 + side.val * 2 ^ 18
    + count % 2 ^ 32 * 2 ^ 24 + ltag * 2 ^ 56 + s.logical.1 % 32 * 2 ^ 72 + s.logical.2 % 32 * 2 ^ 77
    + s.sys.lmod.toNat % 512 * 2 ^ 82 + body * 2 ^ 96)
  (sealOf low s.hl.pkey) ++ low

/-- Send a message of a kind on a side (R377); a cell that is silent sends nothing, a fenced one only appeals (R387). -/
def State.sendMsg (kind count body : Nat) (side : Fin 4) (s : State) : State :=
  if s.hl.silent || (s.hl.fenced && kind ≠ 3) || (neighbour s.phys side).isNone then s
  else s.emit (.perimeter side (s.message side kind count body))

/-- The present sides of a cell. -/
def presentSides (c : Nat × Nat) : List (Fin 4) := (List.finRange 4).filter fun i => (neighbour c i).isSome

/-- Are all bits of a body outside a list of fields zero (R378)? -/
def bodyZero (m : BitVec 256) (fields : List (Nat × Nat)) : Bool :=
  let mask := fields.foldl (fun n f => n ||| ((2 ^ f.2 - 1) <<< f.1)) 0
  (msgField m 0 224 >>> 96) &&& (2 ^ 128 - 1) &&& (2 ^ 128 - 1 - (mask >>> 96)) == 0

/-- The body fields of a kind (R378). -/
def bodyFields : Nat → List (Nat × Nat)
  | 1 => [(96, 12), (112, 8), (120, 8), (128, 8), (136, 8), (144, 16), (160, 16)]
  | 2 => [(96, 5), (101, 5), (106, 2), (108, 3), (111, 3)]
  | 3 => [(96, 32), (128, 2)]
  | 4 => [(96, 5), (101, 5), (106, 2), (108, 3)]
  | 5 => [(96, 5), (101, 5), (106, 1), (107, 2), (128, 32)]
  | 6 => [(96, 5), (101, 5), (128, 32)]
  | _ => []

/-- Are the values of a body's fields among those that R378 names? -/
def bodyOk (m : BitVec 256) (kind : Nat) : Bool :=
  match kind with
  | 2 => msgField m 108 3 ≤ 4 && 1 ≤ msgField m 111 3 && msgField m 111 3 ≤ 5
  | 4 => msgField m 108 3 ≤ 4
  | 5 => msgField m 107 2 ≤ 1
  | _ => true

/-- Is a message that arrives on a side valid (R377 to R379)? -/
def State.msgValid (s : State) (side : Fin 4) (m : BitVec 256) (kind : Nat) : Bool :=
  BitVec.extractLsb' 224 32 m == sealOf (m.setWidth 224) s.hl.pkey
    && msgField m 0 4 == kind && msgField m 4 4 == 1 && msgField m 20 4 == 0 && msgField m 91 5 == 0
    && (kind == 1 || msgField m 24 32 == 0)
    && bodyZero m (bodyFields kind) && bodyOk m kind
    && neighbour s.phys side == some (msgField m 8 5, msgField m 13 5) && msgField m 18 2 == (opposite side).val

/-! ## Sides -/

/-- Change one side. -/
def State.onSide (i : Fin 4) (f : SideRec → SideRec) (s : State) : State :=
  s.onHl fun h => { h with sides := h.sides.set i (f h.sides[i]) }

/-- The record of a side. -/
def State.sideRec (s : State) (i : Fin 4) : SideRec := s.hl.sides[i]

/-- The neighbour on a side of this cell, (0, 0) when absent. -/
def State.suspect (s : State) (i : Fin 4) : Nat × Nat := (neighbour s.phys i).getD (0, 0)

/-- Does a fence in this unit's map lower n: from the cycle after that of its notice on (R384, R399)? -/
def State.lowers (s : State) (d : Nat × Nat) : Bool :=
  s.hl.fmap.contains d && !s.hl.fnew.any fun e => e.1 = d && s.now < e.2

/-- n of R384 for the neighbour on a side: its present sides whose cells are not fenced in this unit's map. -/
def State.voteN (s : State) (i : Fin 4) : Nat :=
  let c := s.suspect i
  ((presentSides c).filter fun j => match neighbour c j with
    | some d => !s.lowers d
    | none => false).length

/-- Votes counted in a side's open window. -/
def SideRec.votes (r : SideRec) : Nat := r.voters.length + (if r.own then 1 else 0)

/-- A window opens: it lasts 16,384 cycles of the clock, its last one included (R384). -/
def State.openWindow (i : Fin 4) (own : Bool) (voters : List (Nat × Nat)) (s : State) : State :=
  (s.onSide i fun r => { r with own := own, voters := voters, win := some (s.now + 16383), again := false }).plan
    (s.now + 16384) rankFirst (.ev (.voteWindowEnd i))

/-- The window of a side is closed and its counts are cleared. -/
def SideRec.close (r : SideRec) : SideRec := { r with own := false, voters := [], win := none, again := false }

/-- The body of an accusation or of a readmission vote about the neighbour on a side (R378): `hops` carried so far. The
voter's side is the side of the suspect on which the voter lies. -/
def voteBody (c : Nat × Nat) (voter : Fin 4) (hops cause : Nat) : Nat :=
  c.1 + c.2 * 2 ^ 5 + voter.val * 2 ^ 10 + hops * 2 ^ 12 + cause * 2 ^ 15

/-- A ring message goes to a ring position of a suspect, unless that cell is absent or fenced (R383). -/
def State.sendRing (kind : Nat) (c : Nat × Nat) (pos body : Nat) (s : State) : State :=
  match ringCell c pos with
  | none => s
  | some d =>
    if s.hl.fmap.contains d then s
    else match sideTo s.phys d with
      | some j => s.sendMsg kind 0 body j
      | none => s

/-- A vote of this unit is sent both ways round the ring (R383). -/
def State.sendVote (kind : Nat) (i : Fin 4) (cause : Nat) (s : State) : State :=
  let c := s.suspect i
  let me := opposite i
  let b := voteBody c me 0 cause
  (s.sendRing kind c (2 * me.val + 1) b).sendRing kind c (2 * me.val + 7) b

/-- The fence map of the cells within distance 2 takes a cell; open votes are counted again in the next cycle, in which n is lower (R384,
R399). -/
def State.mapFence (c : Nat × Nat) (s : State) : State :=
  if meshDist s.phys c ≤ 2 && c ≠ s.phys && !s.hl.fmap.contains c then
    (s.onHl fun h => { h with fmap := c :: h.fmap, fnew := (c, s.now + 1) :: h.fnew.filter fun e => s.now < e.2 }).plan
      (s.now + 1) rankEnd (.micro .tallyAll)
  else s

/-- The body of a fence notice (R378). -/
def fenceBody (c : Nat × Nat) (self : Bool) (hops f : Nat) : Nat :=
  c.1 + c.2 * 2 ^ 5 + (if self then 2 ^ 10 else 0) + hops * 2 ^ 11 + f % 2 ^ 32 * 2 ^ 32

/-- The side becomes FENCED in this cycle: the port closes, notices leave, the Apex is told (R385, R386, R388). -/
def State.fenceSide (i : Fin 4) (self : Bool) (s : State) : State :=
  let c := s.suspect i
  let t := (s.mapFence c).onSide i fun r => { r.close with
    st := .fenced, feff := s.ax.value, grace := some (s.now + 4096), cause := if self then 6 else r.cause, alone := 0 }
  let t := ((presentSides s.phys).filter fun j => j ≠ i).foldl
    (fun u j => u.sendMsg 5 0 (fenceBody c self 0 s.absc) j) t
  let f := t.fresh
  let t := f.2.plan (s.now + 1 + Config.freeDelay f.1) rankEnd
    (.ev (.fenceReport c.1 c.2 (Fin.ofNat 8 (t.sideRec i).cause.toNat) s.absc))
  t.plan (s.now + 4096) rankEnd (.ev (.fenceGraceEnd i))

/-- Has the vote about a side carried (R384)? -/
def State.carried (s : State) (i : Fin 4) : Bool := s.voteN i / 2 + 1 ≤ (s.sideRec i).votes

/-- A side's votes are counted: the majority fences the neighbour (R385). -/
def State.tally (i : Fin 4) (s : State) : State :=
  let r := s.sideRec i
  if (r.st == .suspect || r.st == .accused) && s.carried i then s.fenceSide i false else s

/-- A cause about the neighbour on a side (R382, R385). On a side that is FENCED or APPEALING it counts only if a readmission follows in
the same cycle. -/
def State.cause (i : Fin 4) (code : Nat) (s : State) : State :=
  let t := s.onSide i fun r => { r with cause := BitVec.ofNat 3 code }
  match (s.sideRec i).st with
  | .healthy =>
    let t := (t.onSide i fun r => { r with st := .suspect }).openWindow i true []
    (t.sendVote 2 i code).tally i
  | .accused => ((t.onSide i fun r => { r with st := .suspect, own := true }).sendVote 2 i code).tally i
  | .suspect => t.onSide i fun r => { r with again := true }
  | .readmitted => t.fenceSide i false
  | .fenced => s.onSide i fun r => { r with late := some s.now }
  | .appealing => s.onSide i fun r => { r with late := some s.now }
  | .absent => s

/-! ## The cell-health instructions (R392 to R397) -/

/-- A cell-health operation: supervisor only, with the opcode as detail (R392). -/
def healthOp (op : Nat) (checks : List (Option TrapReq)) (k : State → State) (s : State) : State :=
  s.guarded (trapIf (s.seq.mode == .user) (privTrap op) :: checks) k

/-- Code of a side's state (R381, R393). -/
def SideSt.code : SideSt → Nat
  | .healthy => 0 | .suspect => 1 | .accused => 2 | .fenced => 3 | .appealing => 4 | .readmitted => 5 | .absent => 6

/-- State word of a side (R393). -/
def State.sideWord (s : State) (i : Fin 4) : Word :=
  let r := s.sideRec i
  if r.st == .absent then 6
  else
    let left := match r.win with
      | some e => e + 1 - s.now
      | none => 0
    let opened := r.win.isSome
    BitVec.ofNat 64 (r.st.code + r.miss * 2 ^ 3 + r.cause.toNat * 2 ^ 5 + (if opened && r.own then 2 ^ 8 else 0)
      + (if opened then r.votes % 8 * 2 ^ 9 + s.voteN i * 2 ^ 12 else 0) + left % 2 ^ 15 * 2 ^ 16 + r.hbc.toNat * 2 ^ 32)

/-- Cycles of 24 hours (R396). -/
def dayCycles : Nat := 311040000000000

/-- Readmissions of this cell within the last 24 hours, 0 to 2 (R394). -/
def State.rdm (s : State) : Nat := ((s.hl.readm.take 2).filter fun v => s.absc < v + dayCycles).length

/-- The own status word (R394). -/
def State.ownWord (s : State) : Word :=
  let h := s.hl
  let bit := fun (b : Bool) (k : Nat) => if b then 2 ^ k else 0
  BitVec.ofNat 64 (bit h.fenced 0 + bit h.self 1 + bit h.tend.isSome 2 + bit h.tpass 3 + bit h.tdone 4 + bit h.apl.isSome 5
    + s.rdm * 2 ^ 6 + bit h.hold 8 + h.tsig.toNat * 2 ^ 32)

/-- The word of HBRD (R393). -/
def State.hbWord (s : State) (sel : Fin 9) : Word :=
  if h : sel.val < 4 then s.sideWord ⟨sel.val, h⟩
  else if sel.val < 8 then (s.sideRec (Fin.ofNat 4 (sel.val - 4))).feff
  else s.ownWord

/-- HBRD (R393). -/
def execHbrd (xd : Reg) (sel : Fin 9) (s : State) : Out :=
  .next (healthOp 0x33 [s.wrX xd] (State.putX xd (s.hbWord sel) 2 false) s)

/-- ACCUSE: a cause with code 5, but on a side in SUSPECT, FENCED, APPEALING or READMITTED, or absent (R394). -/
def execAccuse (side : Fin 4) (s : State) : Out :=
  .next (healthOp 0x34 [] (fun s =>
    match (s.sideRec side).st with
    | .healthy => s.cause side 5
    | .accused => s.cause side 5
    | _ => s) s)

/-- May the cell appeal (R395)? -/
def Health.mayAppeal (h : Health) : Bool := h.fenced && h.tdone && h.tpass && !h.hold

/-- APPEAL: a message on every present side, or 0 (R395). -/
def execAppeal (xd : Reg) (s : State) : Out :=
  .next (healthOp 0x35 [s.wrX xd] (fun s =>
    if s.hl.mayAppeal then
      let t := (presentSides s.phys).foldl (fun u i => u.sendMsg 3 0 (s.hl.tsig.toNat + s.rdm * 2 ^ 32) i) s
      let t := t.onHl fun h => { h with apl := some (s.now + 17408) }
      (t.plan (s.now + 17408) rankEnd (.ev .appealExpiry)).putX xd 1 2 false
    else s.putX xd 0 2 false) s)

/-- IFST: the test starts on a fenced cell or one without a program, when none runs (R395). -/
def execIfst (xd : Reg) (s : State) : Out :=
  .next (healthOp 0x36 [s.wrX xd] (fun s =>
    if (s.hl.fenced || s.prog.isNone) && s.hl.tend.isNone then
      ((s.onHl fun h => { h with tend := some (s.now + 1048576) }).plan (s.now + 1048576) rankEnd (.ev .ifstComplete)).putX
        xd 1 2 false
    else s.putX xd 0 2 false) s)

/-- The spare map by selector (R397). -/
def State.spareWord (s : State) (sel : Fin 3) : Word :=
  match sel with
  | 0 => s.hl.spareNow
  | 1 => s.hl.spareNew
  | 2 => s.hl.spareFlash

/-- SPMRD (R397). -/
def execSpmrd (xd : Reg) (sel : Fin 3) (s : State) : Out :=
  .next (healthOp 0x37 [s.wrX xd] (State.putX xd (s.spareWord sel) 2 false) s)

/-- The lowest position at which a word is no spare map, if there is one (R397, R466). -/
def spareBad (v : Word) : Option Nat :=
  let r0 := fieldNat v 0 7
  let r1 := fieldNat v 7 7
  let c0 := fieldNat v 14 7
  if (66 < r0 && r0 ≠ 127) || (r0 = r1 && r0 ≠ 127) then some 0
  else if 66 < r1 && r1 ≠ 127 then some 7
  else if 65 < c0 && c0 ≠ 127 then some 14
  else if fieldNat v 21 43 ≠ 0 then some (21 + lowestSet 64 (fieldNat v 21 43)) else none

/-- SPMWR: the staged map (R397). -/
def execSpmwr (xa : Reg) (s : State) : Out :=
  .next (healthOp 0x38 [s.rdX xa, valueTrap [s.rdX xa] ((spareBad (s.x xa)).map fun b => reservedTrap (64 + b))]
    (fun s => s.onHl fun h => { h with spareNew := s.x xa }) s)

/-- The staged map is handed to the Apex, which writes it to module flash within 2 ms; nothing happens while an earlier one is
still being written (R397). -/
def State.handSpare (s : State) : State :=
  if s.hl.spareBusy.isSome then s
  else
    let f := s.fresh
    (f.2.onHl fun h => { h with spareBusy := some h.spareNew }).plan (s.now + 1 + Config.freeDelay f.1 % 7200000) rankEnd
      (.ev .spareFlashWrite)

/-- SPARE: the staged map is handed to the Apex: xd is 1, or 0 if an earlier hand-over is still being written (R397). -/
def execSpare (xd : Reg) (s : State) : Out :=
  .next (healthOp 0x39 [s.wrX xd] (fun s => s.handSpare.putX xd (if s.hl.spareBusy.isSome then 0 else 1) 2 false) s)

/-- The cell is fenced, with the fence-effective cycle given: every engine command is abandoned without signalling (R387, R398). -/
def State.becomeFenced (self : Bool) (f : Word) (s : State) : State :=
  (s.abandon (fun _ => false) true).onHl fun h => { h with
    fenced := true, self := self, tdone := false, lifted := false, feff := f }

/-- A self-fence notice goes out on every present side, and the cell is fenced (R395). -/
def State.selfFence (s : State) : State :=
  ((presentSides s.phys).foldl (fun u i => u.sendMsg 5 0 (fenceBody s.phys true 0 s.absc) i) s).becomeFenced true s.ax.value

/-- SELFOFF: the cell fences itself; the sequencer goes on (R395). -/
def execSelfoff (s : State) : Out := .next (healthOp 0x3A [] State.selfFence s)

/-! ## Messages that arrive -/

/-- A message arrives on a side: rates are counted, and an invalid message is a cause (R379, R382). The unit of a fenced cell
works on, though it sends nothing (R376, R387); a silent one takes nothing. -/
def State.receive (kind : Nat) (side : Fin 4) (m : BitVec 256) (k : State → State) (s : State) : State :=
  if s.hl.silent || (s.sideRec side).st == .absent then s
  else
    let t := s.onSide side fun r => if kind = 1 then { r with nhb := r.nhb + 1 } else { r with nmsg := r.nmsg + 1 }
    let r := t.sideRec side
    let t := if (kind = 1 && r.nhb = 2) || (kind ≠ 1 && r.nmsg = 17) then t.cause side 3 else t
    if !s.msgValid side m kind then t.cause side 4 else k t

/-- HEARTBEAT (R380): valid for the period when it carries the period's count; in an open window it clears the miss count
at once (R385). -/
def execHeartbeat (side : Fin 4) (msg : BitVec 256) (s : State) : Out :=
  .next (s.receive 1 side msg (fun s =>
    let n := msgField msg 24 32
    if n = s.absc / 4096 % 2 ^ 32 then
      s.onSide side fun r => { r with heard := true, hbc := BitVec.ofNat 32 n, miss := if r.win.isSome then 0 else r.miss }
    else s))

/-- The suspect, the voter's side of it, the hops and the cause of a ring message. -/
def ringParts (m : BitVec 256) : (Nat × Nat) × Fin 4 × Nat × Nat :=
  ((msgField m 96 5, msgField m 101 5), Fin.ofNat 4 (msgField m 106 2), msgField m 108 3, msgField m 111 3)

/-- A ring message goes on in its direction, until it has made four hops (R383). -/
def State.forwardRing (kind : Nat) (side : Fin 4) (m : BitVec 256) (s : State) : State :=
  let p := ringParts m
  match ringPos p.1 s.phys, (neighbour s.phys side).bind (ringPos p.1) with
  | some me, some from_ =>
    if 3 ≤ p.2.2.1 then s
    else
      let next := if (from_ + 1) % 8 = me then me + 1 else me + 7
      s.sendRing kind p.1 next (voteBody p.1 p.2.1 (p.2.2.1 + 1) p.2.2.2)
  | _, _ => s

/-- The voter that a ring message names. -/
def ringVoter (m : BitVec 256) : Option (Nat × Nat) :=
  let p := ringParts m
  neighbour p.1 p.2.1

/-- A voter's message is counted once, from a voter that is not fenced in the map (R383, R384). -/
def State.countVote (i : Fin 4) (v : Nat × Nat) (s : State) : State :=
  let r := s.sideRec i
  if !(r.win.any fun e => s.now ≤ e) || r.voters.contains v || s.hl.fmap.contains v || v = s.phys then s
  else s.onSide i fun r => { r with voters := v :: r.voters }

/-- ACCUSATION (R383 to R385). -/
def execAccusation (side : Fin 4) (msg : BitVec 256) (s : State) : Out :=
  .next (s.receive 2 side msg (fun s =>
    let t := s.forwardRing 2 side msg
    match sideTo s.phys (ringParts msg).1, ringVoter msg with
    | some i, some v =>
      match (t.sideRec i).st with
      | .healthy => (((t.onSide i fun r => { r with st := .accused }).openWindow i false []).countVote i v).tally i
      | .suspect => (t.countVote i v).tally i
      | .accused => (t.countVote i v).tally i
      | _ => t
    | _, _ => t))

/-- The readmission carries: the side is READMITTED, and lift notices leave; a cause of the same cycle fences it again (R385,
R396). -/
def State.readmit (i : Fin 4) (s : State) : State :=
  let c := s.suspect i
  let t := s.onSide i fun r => { r.close with st := .readmitted, grants := (s.absc :: r.grants).take 2 }
  let t := t.onHl fun h => { h with fmap := h.fmap.filter fun d => d ≠ c }
  let t := (presentSides s.phys).foldl (fun u j => u.sendMsg 6 0 (c.1 + c.2 * 2 ^ 5 + s.absc % 2 ^ 32 * 2 ^ 32) j) t
  if (s.sideRec i).late = some s.now then t.fenceSide i false else t

/-- The count of a readmission vote (R385). -/
def State.tallyAppeal (i : Fin 4) (s : State) : State :=
  if (s.sideRec i).st == .appealing && s.carried i then s.readmit i else s

/-- Does the unit refuse an appeal: two readmissions granted within 24 hours (R396)? -/
def State.refuses (s : State) (i : Fin 4) : Bool :=
  match (s.sideRec i).grants with
  | [a, b] => s.absc < a + dayCycles && s.absc < b + dayCycles
  | _ => false

/-- APPEAL_MESSAGE (R385, R395, R396). -/
def execAppealMessage (side : Fin 4) (msg : BitVec 256) (s : State) : Out :=
  .next (s.receive 3 side msg (fun s =>
    if (s.sideRec side).st ≠ .fenced || msgField msg 96 32 ≠ fieldNat s.hl.pmifsig 0 32 then s
    else if s.refuses side then
      s.onApex fun a => { a with holds := s.suspect side :: a.holds.filter fun c => c ≠ s.suspect side }
    else
      let t := (s.onSide side fun r => { r with st := .appealing }).openWindow side true []
      (t.sendVote 4 side 0).tallyAppeal side))

/-- READMISSION_VOTE (R383 to R385). -/
def execReadmissionVote (side : Fin 4) (msg : BitVec 256) (s : State) : Out :=
  .next (s.receive 4 side msg (fun s =>
    let t := s.forwardRing 4 side msg
    match sideTo s.phys (ringParts msg).1, ringVoter msg with
    | some i, some v => if (t.sideRec i).st == .appealing then (t.countVote i v).tallyAppeal i else t
    | _, _ => t))

/-- The open votes are counted against a lower n (R399). -/
def State.tallyAll (s : State) : State := (List.finRange 4).foldl (fun u i => (u.tally i).tallyAppeal i) s

/-- A counter value not after now, from its low 32 bits. -/
def State.recent (s : State) (low : Nat) : Word := s.ax.value - BitVec.ofNat 64 ((s.absc + 2 ^ 32 - low % 2 ^ 32) % 2 ^ 32)

/-- The sequencer of a cell fenced by vote restarts at 0x7000 as at reset, TEPC, TCAUSE and TINFO unchanged (R387). -/
def State.restartSeq (s : State) : State :=
  let t := s.onSeq fun q => { Seq.reset with
    code := q.code, dict := q.dict, issueAt := s.now + 1, regs := q.regs, tiles := q.tiles, lc := q.lc, maskRow := q.maskRow,
    maskCol := q.maskCol, escPaid := false }
  { t with seg := SegState.reset, frame := none, preq := none }

/-- FENCE_NOTICE (R384 to R387): the map is set; a neighbour is fenced; the cell that it names is fenced; a first relay
is sent on once. -/
def execFenceNotice (side : Fin 4) (msg : BitVec 256) (s : State) : Out :=
  .next (s.receive 5 side msg (fun s =>
    let c := (msgField msg 96 5, msgField msg 101 5)
    let self := msgField msg 106 1 = 1
    if c = s.phys then (if s.hl.fenced then s else ((s.becomeFenced false (s.recent (msgField msg 128 32))).stopLanes).restartSeq)
    else
      let t := s.mapFence c
      let t := if msgField msg 107 2 = 0 then
          ((presentSides s.phys).filter fun j => j ≠ side && neighbour s.phys j ≠ some c).foldl
            (fun u j => u.sendMsg 5 0 (fenceBody c self 1 (msgField msg 128 32)) j) t
        else t
      match sideTo s.phys c with
      | none => t
      | some i => match (t.sideRec i).st with
        | .fenced => t
        | .appealing => t
        | .absent => t
        | _ => t.fenceSide i self))

/-- LIFT_NOTICE (R384, R395, R396): of another cell, its ports reopen at the next domain boundary. -/
def execLiftNotice (side : Fin 4) (msg : BitVec 256) (s : State) : Out :=
  .next (s.receive 6 side msg (fun s =>
    let c := (msgField msg 96 5, msgField msg 101 5)
    if c = s.phys then s.onHl fun h => if h.fenced then { h with lifted := true, apl := none } else h
    else s.onHl fun h => { h with fmap := h.fmap.filter fun d => d ≠ c, lifting := c :: h.lifting.filter fun d => d ≠ c }))

/-! ## Periods, windows, boundaries -/

/-- Opinions of a heartbeat (R378). -/
def State.opinions (s : State) : Nat :=
  (List.finRange 4).foldl (fun n i => n + (s.sideRec i).st.code * 8 ^ i.val) 0

/-- HEARTBEAT_SEND: a heartbeat on every present side (R378, R380); a fenced cell sends none, and one that is fenced no longer from the
next period on (R387, R395). -/
def execHeartbeatSend (s : State) : Out :=
  .next (if s.absc / 4096 < s.hl.hbFrom then s else
    let body := s.opinions + s.mx.corr.toNat % 256 * 2 ^ 16 + s.mx.uncorr.toNat % 256 * 2 ^ 24
      + fieldNat s.sys.arcstat 0 8 * 2 ^ 32 + s.hl.replays.toNat * 2 ^ 40 + s.hl.segSig.toNat * 2 ^ 48
      + s.hl.passSig.toNat * 2 ^ 64
    (presentSides s.phys).foldl (fun u i => u.sendMsg 1 (s.absc / 4096) body i) s)

/-- A side at the end of a period (R380): silence is a cause when the miss count reaches 3 (R382), taken among the causes of
the cycle (R385). -/
def SideRec.endPeriod (first : Bool) (r : SideRec) : SideRec :=
  let miss := if first || r.heard then 0 else min (r.miss + 1) 3
  { r with miss := miss, heard := false, nhb := 0, nmsg := 0, quiet := miss = 3 && r.miss ≠ 3 }

/-- The causes by silence of a period that has just ended. -/
def State.quietCauses (s : State) : State :=
  (List.finRange 4).foldl (fun u i =>
    if (u.sideRec i).quiet then (u.onSide i fun r => { r with quiet := false }).cause i 1 else u) s

/-- PERIOD_END: each side's period ends before the new one's first message is taken (R380); the causes that it brings come
later in the cycle, by the same event, after the fence notices (R385). The first period ended is the first that starts after
reset. -/
def execPeriodEnd (s : State) : Out :=
  .next (if s.hl.sides.toList.any (·.quiet) then s.quietCauses
    else
      let t := (List.finRange 4).foldl (fun u i => u.onSide i fun r =>
        if r.st == .absent then r else r.endPeriod (s.absc < 8192)) s
      if t.hl.sides.toList.any (·.quiet) then t.plan s.now rankWriteback (.ev .periodEnd) else t)

/-- A window ends on a side in SUSPECT whose cause still holds: a new window, and after four with this unit's vote alone
the link is reported (R385, R399). -/
def State.renewWindow (i : Fin 4) (s : State) : State :=
  let r := s.sideRec i
  let n := if r.voters.isEmpty then r.alone + 1 else 0
  let t := if n = 4 then s.emit (.linkRep i) else s
  let t := (t.onSide i fun r => { r with alone := n }).openWindow i true []
  (t.sendVote 2 i r.cause.toNat).tally i

/-- VOTE_WINDOW_END (R384, R385, R399). -/
def execVoteWindowEnd (side : Fin 4) (s : State) : Out :=
  let r := s.sideRec side
  .next (match r.win with
    | none => s
    | some e =>
      if s.now ≤ e then s
      else match r.st with
        | .suspect =>
          if r.miss = 3 || r.again then s.renewWindow side
          else s.onSide side fun r => { r.close with st := .healthy, alone := 0 }
        | .accused => s.onSide side fun r => { r.close with st := .healthy }
        | .appealing => s.onSide side fun r => { r.close with st := .fenced }
        | _ => s.onSide side SideRec.close)

/-- The cells that are fenced no longer from a domain boundary on: readmitted neighbours, cells of lift notices, this cell (R385, R395,
R396). -/
def State.reopened (s : State) : List (Nat × Nat) :=
  ((List.finRange 4).filter fun i => (s.sideRec i).st == .readmitted).map s.suspect ++ s.hl.lifting
    ++ (if s.hl.fenced && s.hl.lifted then [s.phys] else [])

/-- DOMAIN_BOUNDARY: readmitted sides reopen; a fenced cell with a lift notice is no longer fenced, and sends heartbeats from the next
period on; launches may be placed again on the cells whose ports reopen (R385, R395, R396). -/
def execDomainBoundary (s : State) : Out :=
  let again := s.reopened
  let s := s.onApex fun a => { a with fences := a.fences.filter fun c => !again.contains c }
  let s := s.onHl fun h => { h with lifting := [] }
  let t := (List.finRange 4).foldl (fun u i => if (u.sideRec i).st == .readmitted
    then u.onSide i fun r => { r with st := .healthy, miss := 0 } else u) s
  .next (if s.hl.fenced && s.hl.lifted
    then t.onHl fun h => { h with
      fenced := false, self := false, lifted := false, apl := none, hbFrom := s.absc / 4096 + 1, readm := (s.absc :: h.readm).take 2 } else t)

/-- APPEAL_EXPIRY (R394). -/
def execAppealExpiry (s : State) : Out :=
  .next (match s.hl.apl with
    | some t => if t ≤ s.now then s.onHl fun h => { h with apl := none } else s
    | none => s)

/-! ## Data flits (R382, R388) -/

/-- Does a closed port still deliver a flit: sent before F, and within 4,096 cycles after it (R388)? -/
def graceful (r : SideRec) (f : Flit) : Bool :=
  let d := (fieldNat r.feff 0 16 + 65536 - f.stamp.toNat) % 65536
  r.grace.isSome && 1 ≤ d && d ≤ 32767

/-- MESH_FLIT_ARRIVAL: a damaged flit is dropped; a closed port delivers only what left before F; a timed flit outside the
link's mask is a cause (R382, R388). -/
def execMeshFlitArrival (side : Fin 4) (f : Flit) (s : State) : Out :=
  let r := s.sideRec side
  .next (if s.hl.silent || f.damaged || r.st == .absent then s
    else
      let shut := r.st == .fenced || r.st == .appealing || r.st == .readmitted
      let t := if shut && !graceful r f then s else s.emit (.delivered side f)
      if f.timed && s.seg.inSeg && !r.mask.getLsbD (s.absc % 64) then t.cause side 2 else t)

/-- FENCE_GRACE_END: 4,096 cycles after F the closed port stops delivering earlier flits; a later fence has an F of its own
(R388). -/
def execFenceGraceEnd (side : Fin 4) (s : State) : Out :=
  .next (s.onSide side fun r => if r.grace.any fun e => e ≤ s.now then { r with grace := none } else r)

/-- CELL_FALLS_SILENT: the cell stops, its perimeter unit included (R380). -/
def execCellFallsSilent (s : State) : Out :=
  .next ((((s.abandon (fun _ => false) true).stopLanes).onHl fun h => { h with silent := true }).onSeq fun q =>
    { q with run := .stopped, haltSt := none })

/-! ## The self test and the spare map -/

/-- The self test leaves the cell's memories zero, masks all ones, ports unbound, table slots invalid (R395). -/
def State.testLeaves (s : State) : State :=
  let t := (s.resetPorts).onAnn fun a => { a with mem := [], poison := [], flawed := [], unfenced := [] }
  let t := t.onSeq fun q => { q with
    tiles := Vector.replicate 128 0, maskRow := Vector.replicate 4 (BitVec.allOnes 16),
    maskCol := Vector.replicate 4 (BitVec.allOnes 128) }
  let t := t.onMx fun m => { m with acc0 := Acc.zero, acc1 := Acc.zero }
  let t := t.onSh fun h => { h with slots := Vector.replicate 4 none, tblBad := [], tblFlaw := [] }
  { t with sems := Vector.replicate 256 Sem.zero }

/-- The Apex reports one launch that ran on the cell since PMLAST: the record's Abscissa is the fence-effective cycle of a fenced cell
(R398, R415; DEDUCED, log 81). -/
def State.taint (pmlast : Word) (r : BitVec 32 × Nat × Nat) (s : State) : State :=
  s.pushEventAt (if s.hl.fenced then s.hl.feff else s.ax.value) 3 0 (cellWord s.phys) r.1 (pmlast.toNat + r.2.1 % 2 ^ 16 * 2 ^ 64 + r.2.2 % 2 ^ 16 * 2 ^ 80)

/-- IFST_COMPLETE (R395, R398): the signature is a free value (log 7); a failed test reports the launches that ran. -/
def execIfstComplete (s : State) : Out :=
  .next (match s.hl.tend with
    | none => s
    | some e =>
      if s.now < e then s
      else
        let f := s.fresh
        let sig := Config.freeSignature f.1
        let pass := decide (sig.toNat = fieldNat s.hl.pmifsig 0 32)
        let t := f.2.testLeaves.onHl fun h => { h with
          tend := none, tdone := true, tpass := pass, tsig := sig,
          pmlast := if pass then s.ax.value else h.pmlast, passSig := if pass then sig.setWidth 16 else h.passSig,
          ran := if pass then [] else h.ran }
        if pass then t else s.hl.ran.foldl (fun u r => u.taint s.hl.pmlast r) t)

/-- A load, store, vector, engine or lane instruction ends a running test (R395). -/
def State.endTest (s : State) : State :=
  if s.hl.tend.isSome then s.onHl fun h => { h with tend := none, tpass := false, tsig := 0 } else s

end Sys2Proof.Machine
end

