-- ==== Sys2Proof/Machine/Packets.lean ====
section
/-! DEFINITION. Packets: their form, the heap, nodes, SIGNAL and FENCE, completion records (R403 to R413, R416). -/

namespace Sys2Proof.Machine

/-! ## Reading a packet (R406 to R408, R411, R412) -/

/-- The number in n bytes of a packet from an offset. -/
def pktField (w : BitVec 1024) (off n : Nat) : Nat := w.toNat / 2 ^ (8 * off) % 2 ^ (8 * n)

/-- A lower-half DVA that is a multiple of n. -/
def lowerDva (a n : Nat) : Bool := a < 2 ^ 54 && a % n = 0

/-- Is the header in range (R406)? -/
def headerOk (w : BitVec 1024) : Bool := pktField w 1 1 < 4 && pktField w 2 2 < 64 && pktField w 24 8 % 32 = 0

/-- A LAUNCH packet's fields (R407). -/
def launchFields (w : BitVec 1024) : LaunchPkt :=
  let f := pktField w
  { stag := BitVec.ofNat 32 (f 4 4), flags := BitVec.ofNat 8 (f 1 1), mvec := f 2 2, deadline := f 8 8, wcet := f 16 8,
    cplt := f 24 8, imageDva := f 32 8, w := f 40 2, h := f 42 2, ox := f 44 2, oy := f 46 2, mfirst := f 48 2, mlog := f 50 1,
    lflags := BitVec.ofNat 8 (f 51 1), mset := BitVec.ofNat 16 (f 52 2), mbox := Vector.replicate 16 0, ctx := f 64 8, wdog := f 72 8,
    save := f 80 8, ckpt := f 88 8 }

/-- Are a LAUNCH's own fields in range (R407)? -/
def launchOk (p : LaunchPkt) : Bool :=
  1 ≤ p.w && p.w ≤ 32 && 1 ≤ p.h && p.h ≤ 24 && p.mlog ≤ 8 && p.lflags.toNat < 16

/-- The body of a packet; none when its type is unassigned, a field is out of range or an unassigned byte is not zero
(R406). -/
def bodyOf (w : BitVec 1024) : Option PktBody :=
  let f := pktField w
  if !headerOk w then none
  else match f 0 1 with
    | 1 => if launchOk (launchFields w) && f 54 2 = 0 && f 96 32 = 0 then some (.launch (launchFields w) none) else none
    | 2 => if lowerDva (f 32 8) 8 && f 40 8 % 128 = 0 && f 48 8 % 128 = 0 && f 56 2 ≤ 4096 && f 58 2 ≤ 4096 && f 60 68 = 0
        then some (.cond (f 32 8) (f 40 8) (f 48 8) (f 56 2) (f 58 2)) else none
    | 3 => if lowerDva (f 32 8) 8 && f 40 8 % 128 = 0 && f 48 8 = 0 && f 56 2 ≤ 4096 && f 58 2 = 0 && f 60 4 ≠ 0 && f 64 64 = 0
        then some (.loop (f 32 8) (f 40 8) (f 56 2) (f 60 4)) else none
    | 4 => if lowerDva (f 32 8) 8 && f 48 8 = 0 && 1 ≤ f 56 2 && f 56 2 ≤ 16 && f 58 70 = 0
        then some (.switch (f 32 8) (f 40 8) (f 56 2)) else none
    | 5 => match f 32 1 with
      | 0 => if f 33 7 = 0 && f 40 8 % 8 = 0 && f 56 72 = 0
          then some (.signal 0 (f 40 8) (BitVec.ofNat 64 (f 48 8)) 0) else none
      | 1 => if f 33 23 = 0 && f 56 2 < 64 && f 58 70 = 0 then some (.signal 1 0 0 (f 56 2)) else none
      | _ => none
    | 6 => if f 40 88 = 0 then some (.fence (BitVec.ofNat 64 (f 32 8))) else none
    | _ => none

/-! ## The heap (R412, R416) -/

/-- Do what the Apex does, or wait for the end of a freeze (R401). -/
def State.thawed (i : Instr) (k : State → State) (s : State) : State :=
  if s.apex.frozen.isSome then s.plan (s.now + 1) rankEnd (.ev i) else k s

/-- Put an item on the agenda unless it stands there. -/
def State.planOnce (cyc rank : Nat) (act : Act) (s : State) : State :=
  if s.agenda.any fun d => d.act == act then s else s.plan cyc rank act

/-- A heap entry. -/
def State.heapEnt (s : State) (id : Nat) : Option HeapEnt := s.apex.heap.find? fun e => e.id = id

/-- Entries that have not completed. -/
def Apex.open_ (a : Apex) : List HeapEnt := a.heap.filter fun e => e.done.isNone

/-- Is one entry an ancestor of another in the nodes' chains? -/
def ancestor (heap : List HeapEnt) (id : Nat) : Nat → HeapEnt → Bool
  | 0, _ => false
  | n + 1, e =>
    match e.node with
    | none => false
    | some p => p = id || (match heap.find? fun x => x.id = p with
      | some x => ancestor heap id n x
      | none => false)

/-- Has every earlier packet of an entry's queue completed (R409, R412)? The heap lists each queue in its order; the nodes
around the entry do not count. -/
def Apex.firstInQueue (a : Apex) (e : HeapEnt) : Bool :=
  (a.heap.takeWhile fun x => x.id ≠ e.id).all fun x => x.q ≠ e.q || ancestor a.heap x.id 16 e

/-- Is an entry held by its barrier (R412)? -/
def Apex.barred (a : Apex) (e : HeapEnt) : Bool := e.flags.getLsbD 0 && !a.firstInQueue e

/-- Does a FENCE find every packet of its named queues that was fetched before it completed (R412)? -/
def Apex.fenceDone (a : Apex) (e : HeapEnt) (mask : BitVec 64) : Bool :=
  a.heap.all fun x => e.id ≤ x.id || ancestor a.heap x.id 16 e ||
    !(if mask = 0 then decide (x.q = e.q) else mask.getLsbD x.q.val)

/-- Has a node's chain been fetched and run (R409)? -/
def Apex.chainDone (a : Apex) (e : HeapEnt) : Bool :=
  (match e.chain with
    | some (_, n) => decide (n = 0)
    | none => false) && !a.heap.any fun x => x.node == some e.id

/-- The event that an entry is due for, if any. -/
def Apex.nextAct (a : Apex) (e : HeapEnt) : Option Instr :=
  if e.done.isSome then none
  else match e.st, e.body with
    | .waiting, .cond _ _ _ _ _ => if a.firstInQueue e then some (.cond e.id) else none
    | .waiting, .loop _ _ _ _ => if a.firstInQueue e then some (.loopNode e.id) else none
    | .waiting, .switch _ _ _ => if a.firstInQueue e then some (.switch e.id) else none
    | .waiting, .signal k _ _ _ =>
      if a.barred e then none else some (if k = 0 then .signalWrite e.id else .signalMsix e.id)
    | .waiting, .fence m => if !a.barred e && a.fenceDone e m then some (.fencePacket e.id) else none
    | .running, .loop _ _ _ _ => if a.chainDone e then some (.loopNodeReread e.id) else none
    | _, _ => none

/-- Nodes whose last chain has completed complete (R409). -/
def State.endNodes (s : State) : State :=
  (s.apex.heap.filter fun e => e.done.isNone && e.st == .running && s.apex.chainDone e).foldl (fun t e => match e.body with
    | .cond _ _ _ _ _ => t.finishEntry e.id 0 0 0
    | .switch _ _ _ => t.finishEntry e.id 0 0 0
    | _ => t) s

/-- What the packets in the heap are due for goes on the agenda; a dispatch is looked for. -/
def State.look (s : State) : State :=
  let t := s.endNodes
  let t := t.apex.heap.foldl (fun u e => match t.apex.nextAct e with
    | some i => u.planOnce (t.now + 1) rankEnd (.ev i)
    | none => u) t
  t.planOnce t.now rankEnd (.ev .dispatch)

/-- A packet enters the heap; with 256 entries it completes with 0x0101. A chain's packet stands behind its node and the
chain's earlier packets. -/
def State.enterHeap (e : HeapEnt) (s : State) : State :=
  let full := 256 ≤ s.apex.open_.length && e.done.isNone
  let e : HeapEnt := { e with id := s.apex.nextId }
  let put := fun (h : List HeapEnt) => match e.node with
    | none => h ++ [e]
    | some p =>
      let inside := fun (x : HeapEnt) => x.id = p || ancestor h p 16 x
      let front := (h.reverse.dropWhile fun x => !inside x).reverse
      front ++ e :: h.drop front.length
  let t := s.onApex fun a => { a with heap := put a.heap, nextId := a.nextId + 1 }
  match e.done with
  | some _ => t.plan s.now rankEnd (.ev (.packetCompletion e.id))
  | none => if full then t.finishEntry e.id 0x0101 0 0 else t

/-- The entry of a packet of a queue. -/
def pktEntry (q : Fin 64) (w : BitVec 1024) (node : Option Nat) (depth : Nat) : HeapEnt :=
  let f := pktField w
  { id := 0, q := q, flags := BitVec.ofNat 8 (f 1 1), mvec := f 2 2, stag := BitVec.ofNat 32 (f 4 4), deadline := f 8 8,
    wcet := f 16 8, cplt := if f 24 8 % 32 = 0 then f 24 8 else 0, body := (bodyOf w).getD (.fence 0), st := .waiting,
    node := node, depth := depth, chain := none, runs := 0, lid := 0,
    done := if (bodyOf w).isSome then none else some (0x0102, 0, 0) }

/-! ## Nodes (R409) -/

/-- A node runs a chain, or completes when the chain is empty. -/
def State.runChain (id : Nat) (dva n : Nat) (s : State) : State :=
  match s.heapEnt id with
  | none => s
  | some e => ((s.onHeap id fun e => { e with st := .running, chain := some (dva, n), runs := e.runs + 1 }).planOnce
      (s.now + 1) rankEnd (.ev (.queueFetch e.q none none))).look

/-- A node that waits is evaluated: too deep a node, or one whose word cannot be read, completes with 0x0208. -/
def State.evalNode (id : Nat) (ok : HeapEnt → Bool) (k : HeapEnt → Nat → State → State) (s : State) : State :=
  match s.heapEnt id with
  | none => s
  | some e =>
    let word := match e.body with
      | .cond w _ _ _ _ => s.queueWord s.apex.queues[e.q] w
      | .loop w _ _ _ => s.queueWord s.apex.queues[e.q] w
      | .switch w _ _ => s.queueWord s.apex.queues[e.q] w
      | _ => none
    if e.done.isSome || !ok e then s
    else if 8 < e.depth then s.finishEntry id 0x0208 0 0
    else match word with
      | none => s.finishEntry id 0x0208 0 0
      | some v => k e v s

/-- COND (R409). -/
def execCond (entry : Nat) (s : State) : Out :=
  .next (s.thawed (.cond entry) (State.evalNode entry (fun e => e.st == .waiting) fun e v t => match e.body with
    | .cond _ thn els nt ne => if v ≠ 0 then t.runChain entry thn nt else t.runChain entry els ne
    | _ => t))

/-- A LOOP runs its body again, or completes. -/
def loopAgain (entry : Nat) (e : HeapEnt) (v : Nat) (t : State) : State :=
  match e.body with
  | .loop _ body n max => if v ≠ 0 && e.runs < max then t.runChain entry body n else t.finishEntry entry 0 0 0
  | _ => t

/-- A LOOP runs its body for the first time, whatever its word is (R409). -/
def loopFirst (entry : Nat) (e : HeapEnt) (t : State) : State :=
  match e.body with
  | .loop _ body n _ => t.runChain entry body n
  | _ => t

/-- LOOP_NODE: the word is read, and the body runs (R409). -/
def execLoopNode (entry : Nat) (s : State) : Out :=
  .next (s.thawed (.loopNode entry) (State.evalNode entry (fun e => e.st == .waiting) fun e _ t => loopFirst entry e t))

/-- LOOP_NODE_REREAD (R409). -/
def execLoopNodeReread (entry : Nat) (s : State) : Out :=
  .next (s.thawed (.loopNodeReread entry) fun s =>
    s.evalNode entry (fun e => e.st == .running && s.apex.chainDone e) (loopAgain entry))

/-- A SWITCH runs the chain of the entry that its word names (R408, R409). -/
def switchRun (entry : Nat) (e : HeapEnt) (v : Nat) (t : State) : State :=
  match e.body with
  | .switch _ table n =>
    if n ≤ v then t.finishEntry entry 0x0208 0 0
    else
      let d := t.apex.queues[e.q]
      match t.queueWord d (table + 16 * v), t.queueWord d (table + 16 * v + 8) with
      | some a, some c =>
        if c ≤ 4096 && a % 128 = 0 then t.runChain entry a c else t.finishEntry entry 0x0208 0 0
      | _, _ => t.finishEntry entry 0x0208 0 0
  | _ => t

/-- SWITCH (R409). -/
def execSwitch (entry : Nat) (s : State) : Out :=
  .next (s.thawed (.switch entry) (State.evalNode entry (fun e => e.st == .waiting) (switchRun entry)))

/-! ## SIGNAL and FENCE (R411, R412) -/

/-- SIGNAL_WRITE (R411). -/
def execSignalWrite (entry : Nat) (s : State) : Out :=
  .next (s.thawed (.signalWrite entry) fun s => match s.heapEnt entry with
    | none => s
    | some e => match e.done, e.body with
      | none, .signal 0 a v _ =>
        let d := s.apex.queues[e.q]
        match s.queuePlace d a true with
        | .at_ x => (s.putAt x (bytesOf 8 v.toNat)).finishEntry entry 0 0 0
        | .ask => (s.onHeap entry fun e => { e with st := .running }).emit (.atsReq (d.pasid.setWidth 20) (a % 2 ^ 54 / 4096) true)
        | .fault _ => s.parkSignal e a
        | .violation => s.finishEntry entry 0x020C 0 0
      | _, _ => s)

/-- SIGNAL_MSIX (R411). -/
def execSignalMsix (entry : Nat) (s : State) : Out :=
  .next (s.thawed (.signalMsix entry) fun s => match s.heapEnt entry with
    | none => s
    | some e => match e.done, e.body with
      | none, .signal 1 _ _ vec => (s.emit (.msix (s.apex.queues[e.q]).vf vec)).finishEntry entry 0 0 0
      | _, _ => s)

/-- FENCE_PACKET (R412). -/
def execFencePacket (entry : Nat) (s : State) : Out :=
  .next (s.thawed (.fencePacket entry) fun s => match s.heapEnt entry with
    | none => s
    | some e => match e.done, e.body with
      | none, .fence m => if s.apex.fenceDone e m then s.finishEntry entry 0 0 0 else s
      | _, _ => s)

/-! ## Completion (R413, R447) -/

/-- A driver command ends: its result, and vector 0 of its function (R447). -/
def State.endCommand (result : Nat) (s : State) : State :=
  (s.onApex fun a => { a with busy := false, dwait := none, result := BitVec.ofNat 8 result }).emit (.msix s.apex.dfn.val 0)

/-- A result that the manual does not give (log 8). -/
def State.endFree (s : State) : State :=
  let f := s.fresh
  f.2.endCommand ((Config.freeWord f.1).toNat % 256)

/-- A suspend or abandon command ends with the packet's completion; with another status than its own the result is free (R447;
log 8). -/
def State.endWait (st : BitVec 16) (s : State) : State :=
  if st = (if s.apex.dcmd.toNat = 3 then 0x0300 else 0x0206) then s.endCommand 0 else s.endFree

/-- The 32 bytes of a completion record (R413). -/
def recordBytes (e : HeapEnt) (status cstat : BitVec 16) (handle : Word) (end_ : Nat) : List Byte :=
  bytesOf 2 status.toNat ++ bytesOf 2 cstat.toNat ++ bytesOf 4 e.stag.toNat ++ bytesOf 8 end_
    ++ bytesOf 8 handle.toNat ++ bytesOf 4 e.lid.toNat ++ bytesOf 4 0

/-- The record is written at its DVA. -/
def State.putRecord (d : QueueDesc) (dva : Nat) (l : List Byte) (s : State) : State :=
  if dva = 0 then s
  else match s.queuePlace d dva true with
    | .at_ x => s.putAt x l
    | .ask => s.emit (.hostWrite (dva % 2 ^ 54) l)
    | _ => s

/-- PACKET_COMPLETION: the record, then the vector; a suspend or abandon command that waited for it ends (R413, R447). -/
def execPacketCompletion (entry : Nat) (s : State) : Out :=
  .next (s.thawed (.packetCompletion entry) fun s => match s.heapEnt entry with
    | none => s
    | some e => match e.done with
      | none => s
      | some (st, cs, h) =>
        let d := s.apex.queues[e.q]
        let t := s.putRecord d e.cplt (recordBytes e st cs h s.absc)
        let t := if e.flags.getLsbD 1 then t.emit (.msix d.vf e.mvec) else t
        let t := t.onApex fun a => { a with heap := a.heap.filter fun x => x.id ≠ entry }
        (if s.apex.busy && s.apex.dwait = some entry then t.endWait st else t).look)

end Sys2Proof.Machine
end

