-- ==== Sys2Proof/Machine/Loader.lean ====
section
/-! DEFINITION. The loader: its checks of an image, and what it writes into a cell (R66, R89 to R92, R110, R196, R281,
R282, R418, R433, R454). -/

namespace Sys2Proof.Machine

/-! ## Code streams (R63, R66, R91, R92) -/

/-- Code units with their start flags; `k` units of an escape still stand before the next bundle. -/
def flagUnits : Nat → List (BitVec 16) → List CodeUnit
  | _, [] => []
  | 0, u :: l => { unit := u, start := true } :: flagUnits (if u = 0xFFFF then 24 else 0) l
  | k + 1, u :: l => { unit := u, start := false } :: flagUnits k l

/-- Units that the last escape of a stream lacks. -/
def unitsShort : Nat → List (BitVec 16) → Nat
  | k, [] => k
  | 0, u :: l => unitsShort (if u = 0xFFFF then 24 else 0) l
  | k + 1, _ :: l => unitsShort k l

/-- Is an address a bundle start of a stream? -/
def startsAt (f : List CodeUnit) (a : Nat) : Bool :=
  match f[a]? with
  | some c => c.start
  | none => false

/-- The address to which the ctl slot of a bundle leads: a branch, a jump, a call, a loop end (R92). The opcode decides, whatever
the slot's other fields hold. -/
def staticTarget (b : Bundle) : Option (BitVec 24) :=
  let op := ctlOpcode b
  if (1 ≤ op && op ≤ 7) || op = 9 || op = 0x0C then some (BitVec.ofNat 24 (slotBits b 0)) else none

/-- The bundle that starts at an address of a stream. -/
def streamBundle (dict : List Bundle) (code : List (BitVec 16)) (a : Nat) : Bundle :=
  let u := code[a]?.getD 0
  if u = 0xFFFF then BitVec.ofNat 384 (packElems 16 ((List.range 24).map fun j => (code[a + 1 + j]?.getD 0).toNat))
  else dict[u.toNat]?.getD 0

/-- Addresses at which bundles of a stream start. -/
def bundleStarts (code : List (BitVec 16)) : List Nat :=
  let f := flagUnits 0 code
  (List.range code.length).filter (startsAt f)

/-- Is the bundle that starts at an address in error: an illegal code unit, an escape past the stream's end, a target that is no
bundle start (R63, R92)? -/
def unitError (dict : List Bundle) (code : List (BitVec 16)) (a : Nat) : Bool :=
  let u := code[a]?.getD 0
  (u ≠ 0xFFFF && decide (dict.length ≤ u.toNat)) || (u = 0xFFFF && code.length < a + 25) ||
    (match staticTarget (streamBundle dict code a) with
      | some t => !startsAt (flagUnits 0 code) t.toNat
      | none => false)

/-! ## The file's own checks (R89 to R92) -/

/-- A check with the file offset at which its error stands. -/
abbrev Check := Nat × Bool

/-- The offset of the first check that fails. -/
def firstError (l : List Check) : Option Nat := (l.find? (·.2)).map (·.1)

/-- Is an offset one of a section behind the header, in the file? -/
def inFile (g : Image) (o : Nat) : Bool := 64 ≤ o && o ≤ g.fileSize

/-- The checks of the header's fields (R89). -/
def headErrors (g : Image) : List Check :=
  let h := g.head
  [(0, h.magic ≠ 0x4D494D51), (4, h.version ≠ 1), (6, h.flags.toNat ≠ (if g.timed then 1 else 0) + (if g.ckpt then 2 else 0)),
   (7, !(1 ≤ h.shapes && h.shapes ≤ 4 && h.shapes = g.shapes.length)), (8, h.size ≠ g.fileSize),
   (24, !(inFile g h.shapetab && h.shapetab + 64 * h.shapes ≤ g.fileSize)), (32, h.congtab ≠ 0 && !inFile g h.congtab),
   (40, !inFile g h.datatab), (48, !inFile g h.energy), (56, h.windows ≠ 0 && !inFile g h.windows)]

/-- The checks of a shape-table entry that stands at an offset (R90). -/
def shapeErrors (g : Image) (at_ : Nat) (h : ShapeRec) : List Check :=
  let e := h.head
  [(at_, !(1 ≤ h.w && h.w ≤ 32)), (at_ + 2, !(1 ≤ h.h && h.h ≤ 24)),
   (at_ + 4, !(1 ≤ e.dictn && e.dictn ≤ 2048 && e.dictn = h.dict.length)),
   (at_ + 6, e.segs ≠ h.segs.length || g.timed == decide (e.segs = 0)),
   (at_ + 8, !(inFile g e.dict && e.dict + 48 * e.dictn ≤ g.fileSize)),
   (at_ + 16, !(inFile g e.cells && e.cells + 8 * (h.w * h.h) ≤ g.fileSize && h.cells.length = h.w * h.h)),
   (at_ + 24, g.timed && !inFile g e.segtab), (at_ + 32, if g.timed then !inFile g e.timetab else e.timetab ≠ 0),
   (at_ + 40, !([1, 2, 4, 8, 16, 32, 64, 128, 256].contains h.nsig && (g.timed || h.nsig = 1))), (at_ + 42, e.zero ≠ 0)]

/-- The checks of a cell-stream entry that stands at an offset, and of its stream (R63, R91, R92). -/
def streamErrors (g : Image) (dict : List Bundle) (at_ : Nat) (c : CellStream) : List Check :=
  [(at_, !(inFile g c.off && c.off + 2 * c.len ≤ g.fileSize)), (at_ + 4, Config.runtimeBase < c.len || c.len ≠ c.code.length),
   (at_ + 6, !startsAt (flagUnits 0 c.code) c.entry.toNat)] ++
  (bundleStarts c.code).map fun a => (c.off + 2 * a, unitError dict c.code a)

/-- File offset of an image's first error against R89 to R92, if it has one: the header first, then the shape table, then each
shape's cell table with its streams (log 56). -/
def imageErr (g : Image) : Option Nat :=
  let shapes := g.shapes.zipIdx.map fun p => (g.head.shapetab + 64 * p.2, p.1)
  firstError (headErrors g ++ shapes.flatMap (fun p => shapeErrors g p.1 p.2) ++
    shapes.flatMap fun p => p.2.cells.zipIdx.flatMap fun c => streamErrors g p.2.dict (p.2.head.cells + 8 * c.2) c.1)

/-! ## Table slots in a timed segment (R251) -/

/-- The bundles of a stream with their addresses, in address order. -/
def streamBundles (dict : List Bundle) (code : List (BitVec 16)) : List (Nat × Bundle) :=
  (bundleStarts code).map fun a => (a, streamBundle dict code a)

/-- The table slots that the TBLD or the TBEV operations of a stream name: the address and the slot. -/
def tableOps (load : Bool) (l : List (Nat × Bundle)) : List (Nat × Fin 4) :=
  l.filterMap fun p => match decodeBundleSlot p.2 4 with
    | .ok (.tbld _ k) => if load then some (p.1, k) else none
    | .ok (.tbev _ k _ _ _ _ _) => if load then none else some (p.1, k)
    | _ => none

/-- A point that a run of a stream can reach: its address, the delay bundles still owed with the transfer's target (any bundle
for none), the return addresses of the calls under way, innermost first, and the slots that a TBEV of the segment has named. -/
structure Reach where
  at_   : Nat
  owed  : Option (Nat × Option Nat)
  links : List Nat
  used  : List (Fin 4)
  deriving DecidableEq, Repr

/-- Address of the bundle after the one at an address of a stream. -/
def nextStart (code : List (BitVec 16)) (a : Nat) : Nat := if code[a]?.getD 0 = 0xFFFF then a + 25 else a + 1

/-- The bodies of a stream's loops: first address and end (R116, R117). -/
def loopBodies (code : List (BitVec 16)) (l : List (Nat × Bundle)) : List (Nat × Nat) :=
  l.filterMap fun p => if ctlOpcode p.2 = 0x0C then (staticTarget p.2).map fun e => (nextStart code p.1, e.toNat) else none

/-- The slots named by a TBEV since the last boundary, after the bundle at an address (R125, R251). -/
def usedAfter (evs : List (Nat × Fin 4)) (op a : Nat) (used : List (Fin 4)) : List (Fin 4) :=
  if op = 0x11 then [] else (List.finRange 4).filter fun k => used.contains k || evs.contains (a, k)

/-- Where a run goes from a point (R80, R114 to R120, R133). A branch, a loop end and a LEXIT go either way; a transfer by a register
goes anywhere; a RET goes back to the innermost call under way (log 56). -/
def Reach.next (code : List (BitVec 16)) (l : List (Nat × Bundle)) (evs : List (Nat × Fin 4)) (r : Reach) : List Reach :=
  match l.find? fun p => p.1 = r.at_ with
  | none => []
  | some p =>
    let op := ctlOpcode p.2
    let next := nextStart code r.at_
    let go : Nat → Option (Nat × Option Nat) → List Nat → Reach := fun a o k =>
      { at_ := a, owed := o, links := k, used := usedAfter evs op r.at_ r.used }
    let target := (staticTarget p.2).map (·.toNat)
    let back := nextStart code (nextStart code next)
    let bodies := loopBodies code l
    match r.owed with
    | some (n + 2, t) => [go next (some (n + 1, t)) r.links]
    | some (_, some a) => [go a none r.links]
    | some (_, none) => l.map fun q => go q.1 none r.links
    | none =>
      if op = 0x12 then []
      else if 1 ≤ op && op ≤ 6 then [go next none r.links, go next (some (2, target)) r.links]
      else if op = 0x07 || op = 0x08 then [go next (some (2, target)) r.links]
      else if op = 0x09 || op = 0x0A then [go next (some (2, target)) ((back :: r.links).take 8)]
      else if op = 0x0B then [go next (some (2, r.links.head?)) (r.links.drop 1)]
      else if op = 0x0C then
        (if fld (slotBits p.2 0) 49 5 = 0 && fld (slotBits p.2 0) 24 25 = 0 then [] else [go next none r.links]) ++
        (if fld (slotBits p.2 0) 49 5 = 0 && fld (slotBits p.2 0) 24 25 ≠ 0 then []
          else target.toList.map fun e => go (nextStart code e) none r.links)
      else if op = 0x0D then go next none r.links ::
        (bodies.filter fun b => b.1 ≤ r.at_ && r.at_ ≤ b.2).map fun b => go next (some (2, some (nextStart code b.2))) r.links
      else go next none r.links :: (bodies.filter fun b => b.2 = r.at_).map fun b => go b.1 none r.links

/-- The points that can be reached: those found, and those of them whose successors are still to be looked at. -/
def reachAll (next : Reach → List Reach) : Nat → List Reach → List Reach → List Reach
  | 0, seen, _ => seen
  | _, seen, [] => seen
  | n + 1, seen, r :: todo =>
    let new := ((next r).filter fun q => !seen.contains q).eraseDups
    reachAll next n (seen ++ new) (todo ++ new)

/-- Does no TBEV of a slot precede a TBLD of it in one segment of a cell's stream, on any way that a run can take (R251; log 56)? -/
def tablesOk (dict : List Bundle) (c : CellStream) : Bool :=
  let l := streamBundles dict c.code
  let loads := tableOps true l
  let start : Reach := { at_ := c.entry.toNat, owed := none, links := [], used := [] }
  loads.isEmpty || (reachAll (Reach.next c.code l (tableOps false l)) (2 ^ 32) [start] [start]).all fun r =>
    loads.all fun t => t.1 ≠ r.at_ || !r.used.contains t.2

/-! ## Declared tiles (R465) -/

/-- The row of a cell's sectors as .data gives it: zero where it gives nothing. -/
def dataRow (g : Image) (cell : Nat) (sec : Fin 8) (row : Nat) : Row :=
  match g.init.find? fun i => i.1 = cell && i.2.1 = sec && i.2.2.1.val = row with
  | some i => i.2.2.2
  | none => 0

/-- The header of a declared tile: its fields from the declaration, its scale bytes from .data (R465). -/
def declHdr (g : Image) (t : TileDecl) : Hdr :=
  { code := t.fmt.code, orient := t.orient, flag := false, tag := t.tag, vrows := t.vrows - 1, vcols := t.vcols - 1,
    ty := t.ty, tx := t.tx, corner := 0, scales := rowField (dataRow g t.cell t.sec t.row.val) 64 256 }

/-- The rows that the loader writes for a declared tile (R465). -/
def declRows (g : Image) (t : TileDecl) : List Row :=
  makeTile t.fmt (declHdr g t) (tileCodes t.fmt ((List.range t.fmt.width).map fun k => dataRow g t.cell t.sec (t.row.val + 1 + k)))

/-- Does a declared tile pass the loader: counts in range, inside the rows that a region can have, row orientation without
blocks, no malformed DX block in its valid region, no unused scale byte that is not zero (R465)? -/
def tileOk (g : Image) (t : TileDecl) : Bool :=
  1 ≤ t.vrows && t.vrows ≤ 64 && 1 ≤ t.vcols && t.vcols ≤ 64 && t.row.val + tileRows t.fmt ≤ (if t.sec = 7 then 192 else 512)
    && (!t.orient || t.fmt.isBlock) && !tileMalformed t.fmt (declHdr g t) && (declHdr g t).scales / 256 ^ scaleBytes t.fmt = 0

/-! ## Images (R92, R191, R251, R433, R454, R465) -/

/-- An FP32 figure times 2^149; none when it is no finite number. -/
def wattsOf (c : Nat) : Option Int :=
  if 255 ≤ c / 2 ^ 23 % 2 ^ 8 then none
  else
    let e := f32.exact c
    some (if e.s then -((e.m * 2 ^ (e.e + 149).toNat : Nat) : Int) else ((e.m * 2 ^ (e.e + 149).toNat : Nat) : Int))

/-- Is a figure within a number of watts? -/
def wattsWithin (n : Int) (c : Nat) : Bool :=
  match wattsOf c with
  | some v => v ≤ n * 2 ^ 149
  | none => false

/-- Do the ranges of one cell in one segment pass the loader (R191)? -/
def rangesOk (l : List RangeReg) : Bool :=
  l.length ≤ 16 && (l.all fun r => r.first ≤ r.last)
    && l.all fun r => r.write || l.all fun w => !w.write || w.sec != r.sec || w.last < r.first || r.last < w.first

/-- Are the replay groups of a segment disjoint (R31)? -/
def groupsOk (l : List (List Peer)) : Bool := l.flatten.length = l.flatten.eraseDups.length

/-- Do no two timed landings into one cell need one landing lane in one cycle (R262)? -/
def landingsOk (l : List TimeEv) : Bool :=
  let uses := l.filterMap fun e => match e.item with
    | .landing k => some (e.cell, e.cyc, ccwLanding k)
    | _ => none
  uses.length = uses.eraseDups.length

/-- Does no SAFE issue while a TSEND, TRECV, collective step or timed copy of its cell runs, or a timed row to it is in flight
(R425)? -/
def safesOk (l : List TimeEv) : Bool :=
  l.all fun e => e.item ≠ .safe || l.all fun b => b.cell ≠ e.cell || match b.item with
    | .busy last => e.cyc < b.cyc || last < e.cyc
    | .flight last => e.cyc < b.cyc || last < e.cyc
    | _ => true

/-- The activations of a timetable: the module's position, the die and the cycle of each MXGO that starts when its array unit has
been idle for 64 cycles (R455). -/
def activationsOf (h : ShapeRec) : List (Nat × Nat × Nat) :=
  let runs := h.time.filterMap fun e => match e.item with
    | .array last => some (e.cell, e.cyc, last)
    | _ => none
  let die := fun (p : Peer) => ((h.dies.find? fun d => d.1 = p.y * h.w + p.x).map (·.2)).getD 0
  (runs.filter fun r => runs.all fun b => b.1 ≠ r.1 || r.2.1 ≤ b.2.1 || b.2.2 + 64 < r.2.1).map fun r => (r.1.md, die r.1, r.2.1)

/-- Do at most 16 stations of a die become active in any 64 cycles (R455)? -/
def rampOk (h : ShapeRec) : Bool :=
  let l := activationsOf h
  l.all fun a => (l.filter fun b => b.1 = a.1 && b.2.1 = a.2.1 && a.2.2 ≤ b.2.2 && b.2.2 < a.2.2 + 64).length ≤ 16

/-- Does every timed row, step and compare stay within its cell's replay group of the segment (R365)? -/
def sendsOk (h : ShapeRec) : Bool :=
  h.time.all fun e => match e.item with
    | .send q => (h.segs[e.seg]?).any fun g => g.groups.any fun m => m.contains e.cell && m.contains q
    | _ => true

/-- Does a shape's timetable pass the loader (R262, R365, R425, R455)? -/
def timetableOk (h : ShapeRec) : Bool := landingsOk h.time && safesOk h.time && rampOk h && sendsOk h

/-- Does a shape pass the loader's checks beside those of R90 to R92 (R31, R191, R251, R262, R365, R425, R454, R455)? -/
def shapeOk (timed : Bool) (h : ShapeRec) : Bool :=
  h.energy.all (wattsWithin 690) && (!timed || (h.cells.all (tablesOk h.dict) && timetableOk h))
    && h.segs.all fun g => groupsOk g.groups &&
      (List.range (h.w * h.h)).all fun c => rangesOk ((g.ranges.filter fun r => r.1 = c).map (·.2))

/-- Rows of a piece; none for a save area. -/
def congRows (r : CongRec) : Option Nat := r.sectorRows.map fun p => p.2.2

/-- Does each piece of each congruence point appear exactly once in every shape, with its kind and rows (R433)? -/
def congOk (n : Nat) (l : List CongRec) : Bool :=
  l.all fun r => (List.range n).all fun t =>
    match l.filter fun q => q.cp = r.cp && q.shape = t && q.piece = r.piece with
    | [q] => congRows q = congRows r
    | _ => false

/-- The congruence points of a stream, each with the segment of its SAFE: the SEGENDs before its address (R432, R433). -/
def streamPoints (dict : List Bundle) (c : CellStream) : List (Fin 256 × Nat) :=
  let l := streamBundles dict c.code
  l.filterMap fun p => match ctlOf p.2 with
    | .safe (some k) => some (k, (l.filter fun q => q.1 < p.1 && ctlOpcode q.2 = 0x11).length)
    | _ => none

/-- Does each congruence point have one map for each shape, with its segment, and does each record belong to a map and give a
cycle only where R433 does? -/
def mapsOk (g : Image) : Bool :=
  let has := fun (cp : Fin 256) (t : Nat) => (g.maps.filter fun m => m.cp = cp && m.shape = t).length = 1
  (g.maps.all fun m => m.shape < g.shapes.length && (g.timed || m.seg = 0) && (List.range g.shapes.length).all (has m.cp))
    && (g.cong.all fun r => has r.cp r.shape && (r.cyc = 0 || (g.timed && r.sectorRows.isNone)))
    && g.shapes.zipIdx.all fun h => h.1.cells.all fun c => (streamPoints h.1.dict c).all fun p =>
      has p.1 h.2 && (!g.timed || g.maps.any fun m => m.cp = p.1 && m.shape = h.2 && m.seg = p.2)

/-- In a timed checkpointed image: does no piece's row lie in a write range of its cell in the point's segment (R434)? -/
def stableOk (g : Image) : Bool :=
  !(g.timed && g.ckpt) || g.cong.all fun r => match r.sectorRows with
    | none => true
    | some p => (g.maps.filter fun m => m.cp = r.cp && m.shape = r.shape).all fun m =>
      match (g.shapes[r.shape]?).bind fun h => h.segs[m.seg]? with
      | none => true
      | some q => q.ranges.all fun w => w.1 ≠ r.cell || !w.2.write || w.2.sec ≠ p.1 || p.2.1.val + p.2.2 ≤ w.2.first.val
          || w.2.last.val < p.2.1.val

/-- Does an image pass the loader (R92)? -/
def imageOk (g : Image) : Bool :=
  (imageErr g).isNone && g.checked && g.shapes.all (shapeOk g.timed) && congOk g.shapes.length g.cong && mapsOk g && stableOk g
    && g.windows.length ≤ 256
    && g.tiles.all (tileOk g)

/-- A window's physical base: its range is mapped with its rights and contiguous in one stack, and no channel that it
reaches is in training (R281, R282, R458). -/
def State.windowBase (s : State) (d : QueueDesc) (w : WindowRec) : Option Nat :=
  let one := fun (write : Bool) (dva : Nat) => match s.queuePlace d dva write with
    | .at_ (.hbm a) => some a
    | _ => none
  let place := fun (dva : Nat) =>
    match (if w.rd || !w.wr then one false dva else none), (if w.wr then one true dva else none) with
    | some a, some b => if a = b then some a else none
    | some a, none => if w.wr then none else some a
    | none, some b => if w.rd then none else some b
    | none, none => none
  let last := w.dva + 512 * (w.rows - 1)
  match place w.dva with
  | none => none
  | some base =>
    if 1 ≤ w.rows && w.rows ≤ 2 ^ 24 && w.dva % 512 = 0 && last < 2 ^ 54 && stackOf base = stackOf (base + 512 * (w.rows - 1))
      && ((List.range (last / 65536 - w.dva / 65536)).all fun k =>
        let a := (w.dva / 65536 + k + 1) * 65536
        place a == some (base + (a - w.dva)))
      && ((List.range (min w.rows 128)).all fun k => !s.training (base + 512 * k))
    then some base else none

/-- The windows of an image as the window table holds them; none when the loader refuses one (R281, R282). -/
def State.windowsOf (s : State) (d : QueueDesc) (g : Image) : Option (List Window) :=
  g.windows.foldr (fun w acc => match acc, s.windowBase d w with
    | some l, some b => some ({ base := b, rows := w.rows, rd := w.rd, wr := w.wr } :: l)
    | _, _ => none) (some [])

/-! ## A cell is loaded (R418) -/

/-- The sectors that an image's program takes at its load (R196). -/
def takesOf (g : Image) : List (Fin 8) := if g.sectors.isEmpty then List.finRange 8 else g.sectors

/-- Code memory with a stream in the user's part; the runtime's part stays. -/
def loadCode (c : CellStream) (old : List (Nat × CodeUnit)) : List (Nat × CodeUnit) :=
  let put := fun (p : CodeUnit × Nat) => if p.1 = { unit := 0, start := false } then none else some (p.2, p.1)
  ((flagUnits 0 c.code).zipIdx.filterMap put) ++ old.filter fun u => Config.runtimeBase ≤ u.1

/-- Dictionary memory with a shape's bundles. -/
def loadDict (l : List Bundle) : List (Nat × Bundle) :=
  l.zipIdx.filterMap fun p => if p.1 = 0 then none else some (p.2, p.1)

/-- A mailbox's value at a launch: the packet's field, the image's default, or zero (R110). -/
def mailbox (p : LaunchPkt) (g : Image) (n : Fin 16) : Word :=
  if p.mset.getLsbD n.val then p.mbox[n]
  else match g.mailbox.find? fun m => m.1 = n with
    | some m => m.2
    | none => 0

/-- Ownership after a load: each FREE sector among those taken becomes HELD by the program (R196); one of a saved context
is not FREE (R424). -/
def takeSectors (l : List (Fin 8)) (own : Vector Own 8) : Vector Own 8 :=
  Vector.ofFn fun i => if l.contains i && own[i] == Own.free then .held false else own[i]

/-- The program becomes the predecessor: its commands and sectors are marked so (R193). -/
def State.becomePred (lid : BitVec 32) (status : BitVec 16) (s : State) : State :=
  let mk := fun (c : Cmd) => { c with pred := true }
  let at_ := s.prog.map fun p => { prog := p, lxy := s.sys.lxy, lwh := s.sys.lwh, windows := s.cp.windows }
  let q := fun (u : Queues) => { u with normal := u.normal.map mk, prio := u.prio.map mk }
  let arr := fun (r : ArrayRun) => { r with cmd := mk r.cmd }
  let drn := fun (r : DrainRun) => { r with cmd := mk r.cmd }
  let shp := fun (r : ShapeRun) => { r with cmd := mk r.cmd }
  let t := s.onMx fun m => { m with
    q := q m.q, array := m.array.map arr, adrain := m.adrain.map drn, drain := m.drain.map drn, zero := m.zero.map mk }
  let t := t.onSh fun h => { h with
    tisQ := q h.tisQ, cvsQ := q h.cvsQ, trsQ := q h.trsQ, tis := h.tis.map shp, cvs := h.cvs.map shp, trs := h.trs.map shp }
  let ent := fun (e : CopyEnt) => if e.cmd.pred then e else { e with cmd := mk e.cmd, ctx := s.cp.ctx, pasid := s.cp.pasid }
  let t := t.onCp fun c => { c with ents := c.ents.map ent, abns := c.abns.map fun a => (mk a.1, a.2) }
  let snd := fun (r : SendRun) => { r with cmd := mk r.cmd }
  let t := t.onTm fun m => { m with q := q m.q, send := m.send.map snd, sent := m.sent.map fun p => (mk p.1, p.2) }
  let t := t.onAnn fun a => { a with own := a.own.map fun o => match o with
    | .held false => .held true
    | .releasing false u => .releasing true u
    | o => o }
  { t with pred := some (lid, status), predOut := [], predAs := at_ }

/-- The launch registers of a cell for a placement; the domain map assigns the logical module index (R29, R108, R109). -/
def State.launchRegs (l : LaunchRec) (s : State) : State :=
  let h := l.shapeRec
  s.onSys fun r => { r with
    lxy := BitVec.ofNat 64 (s.phys.1 - l.px + (s.phys.2 - l.py) * 2 ^ 16), lwh := BitVec.ofNat 64 (h.w + h.h * 2 ^ 16),
    lmod := BitVec.ofNat 64 s.apex.dmap.val, shape := BitVec.ofNat 64 l.shape, dictn := BitVec.ofNat 64 h.dict.length, safect := 0 }

/-- CPCTX's word for a queue (R285, R403). -/
def QueueDesc.ctx (d : QueueDesc) : Word :=
  BitVec.ofNat 64 (d.asid.toNat + d.root.toNat * 2 ^ 16 + (if d.root = 0 then 0 else 2 ^ 48))

/-- The program that a launch runs on a cell of a module with a logical index: a single-module launch has that module alone
(R25, R26; the packet's first module counts only with several). -/
def LaunchRec.prog (md : Nat) (l : LaunchRec) : Prog :=
  { lid := l.lid, timed := l.img.timed, ckpt := l.img.ckpt, nsig := l.shapeRec.nsig, segs := l.shapeRec.segs, start := 0,
    mfirst := if l.pkt.mlog = 0 then md else l.pkt.mfirst, mcount := 2 ^ l.pkt.mlog, px := l.px, py := l.py,
    armed := if l.img.timed then some l.t0 else none }

/-- What a load writes for the program alone: code, dictionary, launch registers, context, the launch's windows (R281, R418). -/
def State.loadProgram (l : LaunchRec) (s : State) : State :=
  let d := s.apex.queues[l.q]
  let t := s.launchRegs l
  let c := (l.shapeRec.cells[t.cellIdx]?).getD { off := 0, len := 0, code := [], entry := 0 }
  let t := t.onSeq fun q => { q with code := loadCode c q.code, dict := loadDict l.shapeRec.dict }
  let t := t.onCp fun p => { p with ctx := d.ctx, pasid := BitVec.ofNat 64 (d.pasid.toNat % 2 ^ 21), windows := l.wins }
  { t with prog := some (l.prog t.sys.lmod.toNat), firmware := true }

/-- The state of a program's first bundle (R93, R108, R149, R247, R306). -/
def State.freshProgram (entry : BitVec 15) (s : State) : State :=
  let t := s.resetPorts
  let t := t.onSeq fun q => { Seq.reset with
    code := q.code, dict := q.dict, pc := entry, mode := .user, run := .idle, escPaid := true, arrived := true }
  let t := t.onSys fun r => { r with
    srkey := 0, srkctr := 0, uhvec := 0, tvec := 0x7000, tepc := 0, tcause := 0, tinfo := 0, tsav0 := 0, tsav1 := 0, arcinj := 0,
    safect := 0 }
  let t := t.onSh fun h => { h with slots := Vector.replicate 4 none, tblBad := [], tblFlaw := [] }
  let t := t.onAnn fun a => { a with ranges := Vector.replicate 16 none }
  { t with sems := Vector.replicate 256 Sem.zero, seg := SegState.reset, preq := none, frame := none, ckptOpen := false,
           incs := [], fails := [] }

/-- The initial sector contents of a cell: the rows of .data, then the declared tiles (R418, R465). -/
def State.loadSectorsOf (g : Image) (cell : Nat) (s : State) : State :=
  let t := (g.init.filter fun i => i.1 = cell).foldl (fun u i => u.writeRow i.2.1 i.2.2.1.val i.2.2.2) s
  (g.tiles.filter fun d => d.cell = cell).foldl (fun u d =>
    (declRows g d).zipIdx.foldl (fun v p => v.writeRow d.sec ((d.row.val + p.2) % 512) p.1) u) t

/-- A cell of a launch is loaded: everything that R418 lists. -/
def State.loadCell (l : LaunchRec) (s : State) : State :=
  let s := match s.prog, s.seq.haltSt with
    | some p, some st => s.becomePred p.lid st
    | _, _ => s
  let t := s.loadProgram l
  let c := (l.shapeRec.cells[t.cellIdx]?).getD { off := 0, len := 0, code := [], entry := 0 }
  let t := t.freshProgram (c.entry.setWidth 15)
  let t := t.onSys fun r => { r with mbox := Vector.ofFn fun i => mailbox l.pkt l.img i }
  let t := t.onAnn fun a => { a with own := takeSectors (takesOf l.img) a.own }
  let t := t.loadSectorsOf l.img t.cellIdx
  t.onHl fun h => { h with ran := h.ran ++ [(l.lid, 0, 0)] }

end Sys2Proof.Machine
end

