-- ==== Sys2Proof/Machine/Launch.lean ====
section
/-! DEFINITION. Launches: fetching, admission, dispatch, placement, arming, starts, HALT reports, the watchdog (R401 to R407,
R414 to R422, R454). -/

namespace Sys2Proof.Machine

/-! ## Rectangles (R24, R25, R29) -/

/-- The least power of two that is at least n, to 32. -/
def pow2Up (n : Nat) : Nat := (([1, 2, 4, 8, 16, 32] : List Nat).find? fun k => n ≤ k).getD 32

/-- May a rectangle of w by h stand at an origin (R24)? -/
def rectOk (w h : Nat) (o : Nat × Nat) : Bool :=
  o.1 % pow2Up w = 0 && o.2 % pow2Up h = 0 && o.1 + w ≤ 32 && o.2 + h ≤ 24

/-- Do two rectangles, given by origin and size, share a cell? -/
def rectsMeet (a : (Nat × Nat) × Nat × Nat) (b : (Nat × Nat) × Nat × Nat) : Bool :=
  a.1.1 < b.1.1 + b.2.1 && b.1.1 < a.1.1 + a.2.1 && a.1.2 < b.1.2 + b.2.2 && b.1.2 < a.1.2 + a.2.2

/-- The dies that a rectangle reaches (R10). -/
def rectDies (a : (Nat × Nat) × Nat × Nat) : List Nat :=
  (List.range 4).filter fun d => rectsMeet a (bootOf d, 16, 12)

/-- The launch rectangle of a record. -/
def LaunchRec.rect (l : LaunchRec) : (Nat × Nat) × Nat × Nat := ((l.rx, l.ry), l.pkt.w, l.pkt.h)

/-- Origins that a packet allows, in the order in which the Apex tries them (R417). -/
def originsOf (d : QueueDesc) (p : LaunchPkt) : List (Nat × Nat) :=
  let all := if p.ox = 0xFFFF then ((List.range 24).map fun y => (List.range 32).map fun x => (x, y)).flatten
    else [(p.ox, p.oy)]
  all.filter fun o => rectOk p.w p.h o && (rectDies (o, p.w, p.h)).all fun e => d.dies.getLsbD e

/-- Offsets of a shape inside the launch rectangle at which it leaves out every fenced cell; a timed shape stays on its
dies (R29). -/
def offsetsOf (timed : Bool) (fences : List (Nat × Nat)) (o : Nat × Nat) (p : LaunchPkt) (h : ShapeRec) : List (Nat × Nat) :=
  let all := ((List.range (p.h + 1 - h.h)).map fun y => (List.range (p.w + 1 - h.w)).map fun x => (o.1 + x, o.2 + y)).flatten
  if p.w < h.w || p.h < h.h then []
  else all.filter fun q =>
    (fences.all fun c => !(q.1 ≤ c.1 && c.1 < q.1 + h.w && q.2 ≤ c.2 && c.2 < q.2 + h.h)) &&
      (!timed || h.dies.all fun e => dieOf (q.1 + e.1 % h.w) (q.2 + e.1 / h.w) = e.2)

/-- The first shape, in image order, that has a place, with its origin (R29, R32; log 14). -/
def pickShape (g : Image) (fences : List (Nat × Nat)) (o : Nat × Nat) (p : LaunchPkt) : Option (Nat × (Nat × Nat)) :=
  (g.shapes.zipIdx.findSome? fun h => ((offsetsOf g.timed fences o p h.1).head?).map fun q => (h.2, q))

/-! ## Admission (R416) -/

/-- Is the launch on its cells (R417)? -/
def LaunchRec.active (l : LaunchRec) : Bool := !(l.st == .saved || l.st == .suspended)

/-- Cycles that a launch has run (R416, R421). -/
def State.cyclesRun (s : State) (l : LaunchRec) : Nat := l.ran + (if l.st == .running || l.st == .saving then s.absc - l.began else 0)

/-- Bytes of user sector space among sectors (R426). -/
def sectorBytes (l : List (Fin 8)) : Nat := l.foldl (fun n k => n + (if k = 7 then 98304 else 262144)) 0

/-- Cycles of the full save of one cell that held B bytes (R426). -/
def fullSave (b : Nat) : Nat := (144 * (b + 163840) + 999) / 1000

/-- The rectangle of a launch's running shape. -/
def LaunchRec.shapeRect (l : LaunchRec) : (Nat × Nat) × Nat × Nat := ((l.px, l.py), l.shapeRec.w, l.shapeRec.h)

/-- Does a launch keep its cells' save areas: saved there, or not yet fully saved (R422)? -/
def LaunchRec.keepsArea (l : LaunchRec) : Bool := l.st == .saving || (l.st == .saved && !l.full)

/-- Would the pre-emption of a launch for an incoming image be resident (R422)? Of cells other than the one in focus the
sectors are taken from the images (log 14). -/
def State.residentFor (s : State) (g : Image) (l : LaunchRec) : Bool :=
  let here := l.holdsCell s.phys && s.prog.any fun p => p.lid = l.lid
  let free := (takesOf g).all fun k => if here then s.ann.own[k] == Own.free else !(takesOf l.img).contains k
  let area := s.apex.launches.any fun m => m.lid ≠ l.lid && m.keepsArea && rectsMeet m.shapeRect l.shapeRect
  free && !area && !(here && (s.pred.isSome || s.saved.isSome))

/-- The fenced cells that a shape of a packet's launch must leave out: those of this module, and of the launch's other modules at the
same place of the rectangle (R25, R32). -/
def State.fencesFor (s : State) (p : LaunchPkt) : List (Nat × Nat) :=
  s.apex.fences ++ (s.apex.farFences.filter fun c => p.mlog ≠ 0 && p.mfirst ≤ c.1 && c.1 < p.mfirst + 2 ^ p.mlog).map (·.2)

/-- May a launch be saved full (R422, R429)? -/
def LaunchRec.mayFull (l : LaunchRec) : Bool := l.pkt.lflags.getLsbD 1 && l.pkt.save ≠ 0

/-- Does a deadline come before another, background last (R416, R417)? -/
def sooner (a b : Nat) : Bool := a ≠ 0 && (b = 0 || a < b)

/-- The pre-emption bound of a die for a packet (R416). -/
def State.boundOf (s : State) (p : LaunchPkt) (g : Image) (die : Nat) : Nat :=
  let hit := s.apex.launches.filter fun l => l.active && (rectDies l.rect).contains die && sooner p.deadline l.pkt.deadline
    && (p.ox = 0xFFFF || rectsMeet l.rect ((p.ox, p.oy), p.w, p.h)) && !s.residentFor g l
  18000 + hit.foldl (fun m l => max m (fullSave (sectorBytes (takesOf l.img)))) 0

/-- The dies of a packet's placement, or every die that its queue allows (R416). -/
def regionsOf (d : QueueDesc) (p : LaunchPkt) : List Nat :=
  if p.ox = 0xFFFF then (List.range 4).filter fun e => d.dies.getLsbD e else rectDies ((p.ox, p.oy), p.w, p.h)

/-- Admitted launches with a deadline on a die: deadline and cycles still to run (R416). -/
def State.admittedOn (s : State) (die : Nat) : List (Nat × Nat) :=
  s.apex.heap.filterMap fun e => match e.body with
    | .launch p (some _) =>
      if e.done.isNone && e.st ≠ .waiting && p.deadline ≠ 0 && (regionsOf s.apex.queues[e.q] p).contains die then
        let run := match s.apex.launches.find? fun l => l.lid = e.lid with
          | some l => s.cyclesRun l
          | none => 0
        some (p.deadline, p.wcet - run)
      else none
    | _ => none

/-- The admission test (R416). -/
def State.admits (s : State) (d : QueueDesc) (p : LaunchPkt) (g : Image) : Bool :=
  p.deadline = 0 || (regionsOf d p).all fun r =>
    let q := s.admittedOn r
    (p.deadline :: (q.map (·.1)).filter fun t => p.deadline < t).all fun t =>
      s.absc + s.boundOf p g r + ((q.filter fun e => e.1 ≤ t).map (·.2)).foldl (· + ·) 0 + p.wcet ≤ t

/-- Is a launch the context that a handle names: a suspended one, or this module's part of one that the first module has suspended
(R420, R429)? -/
def LaunchRec.underHandle (l : LaunchRec) (remote : Bool) (h : Nat) : Bool :=
  (l.st == .suspended && l.handle.toNat = h) || (remote && l.st == .saved && l.full && (Config.handle l.lid).toNat = h)

/-- The status with which a LAUNCH is refused before the admission test, if it is (R92, R407, R414, R420, R429, R434). -/
def State.refusal (s : State) (remote : Bool) (d : QueueDesc) (p : LaunchPkt) (g : Image) : Option Nat :=
  let n := 2 ^ p.mlog
  if !launchOk p || p.wcet < g.wcet || (g.ckpt && p.ckpt = 0) || 2 ^ 54 ≤ p.ckpt || 2 ^ 54 ≤ p.save then some 0x0102
  else if p.ctx ≠ 0 && !(s.apex.launches.any fun l => l.underHandle remote p.ctx) then some 0x0102
  else if !imageOk g || (s.windowsOf d g).isNone then some 0x0103
  else if (originsOf d p).isEmpty || (p.mlog ≠ 0 && (p.mfirst % n ≠ 0 || Config.domainModules < p.mfirst + n || (!remote && s.apex.dmap.val ≠ p.mfirst)
      || !(p.mfirst ≤ s.apex.dmap.val && s.apex.dmap.val < p.mfirst + n))) then some 0x0104
  else if p.ctx ≠ 0 && (s.apex.launches.any fun l => l.underHandle remote p.ctx &&
      l.ver ≠ s.sys.ctxver.setWidth 16 && l.ver.setWidth 64 ≠ s.sys.ctxver >>> 16) then some 0x0209
  else none

/-- An entry that came from another module ends: that module hears that it is not admitted here (R420). -/
def State.refuse (e : HeapEnt) (stag : BitVec 32) (status : BitVec 16) (s : State) : State :=
  let t := s.finishEntry e.id status 0 0
  if e.remote then t.emit (.remote (.verdict stag false)) else t

/-- This module admits an entry: one that came from another module is answered; a launch with parts on other modules is put to
them; any other is admitted (R420; log 76). -/
def State.letIn (e : HeapEnt) (p : LaunchPkt) (g : Image) (s : State) : State :=
  let ask := s.onHeap e.id fun e => { e with st := .asking, agreed := 0 }
  if e.remote then ask.emit (.remote (.verdict p.stag true))
  else if s.mates p g.timed ≠ 0 then ask.emit (.remote (.test p))
  else (s.onHeap e.id fun e => { e with st := .admitted }).look

/-- A LAUNCH whose image is known is tested; while firmware waits to activate, admission stops (R416, R430). -/
def State.judge (id : Nat) (s : State) : State :=
  match s.heapEnt id with
  | none => s
  | some e => match e.done, e.st, e.body with
    | none, .waiting, .launch p (some g) =>
      let d := s.apex.queues[e.q]
      if s.apex.fwWait then s
      else match s.refusal e.remote d p g with
        | some code =>
          let t := if code = 0x0103 then s.onApex fun a => { a with loadErr := imageErr g } else s
          t.refuse e p.stag (BitVec.ofNat 16 code)
        | none => if s.admits d p g then s.letIn e p g else s.refuse e p.stag 0x0100
    | _, _, _ => s

/-- The image of a LAUNCH entry is known. -/
def State.setImage (id : Nat) (p : LaunchPkt) (g : Image) (s : State) : State :=
  s.onHeap id fun e => { e with body := .launch p (some g), deadline := p.deadline, wcet := p.wcet }

/-- A heap entry for a LAUNCH that comes without a packet of a ring. -/
def launchEntry (q : Fin 64) (p : LaunchPkt) : HeapEnt :=
  { id := 0, q := q, flags := p.flags, mvec := p.mvec, stag := p.stag, deadline := p.deadline, wcet := p.wcet, cplt := p.cplt,
    body := .launch p none, st := .waiting, node := none, depth := 0, chain := none, runs := 0, lid := 0, done := none }

/-- A LAUNCH with its image enters the heap and is tested; one that waits there for its image is tested now. -/
def State.launchIn (q : Fin 64) (p : LaunchPkt) (g : Image) (remote : Bool) (s : State) : State :=
  let waits := s.apex.heap.find? fun e => e.q = q && e.done.isNone && (match e.body with
    | .launch r none => r.imageDva = p.imageDva && r.stag = p.stag
    | _ => false)
  match waits with
  | some e => (s.setImage e.id p g).judge e.id
  | none =>
    let id := s.apex.nextId
    ((s.enterHeap { launchEntry q p with remote := remote }).setImage id p g).judge id

/-- LAUNCH (R407, R416). -/
def execLaunch (q : Fin 64) (p : LaunchPkt) (img : Image) (s : State) : Out := .next (s.launchIn q p img false)

/-! ## Queues (R403 to R405) -/

/-- QUEUE_DOORBELL (R403, R404). -/
def execQueueDoorbell (q : Fin 64) (tail : BitVec 32) (s : State) : Out :=
  .next (if s.apex.boot ≠ .up then s
    else
      let t := s.onQueue q fun d => { d with tail := tail }
      let d := t.apex.queues[q]
      if d.st ≠ .active then t
      else if 2 ^ d.lgsz < (d.tail - d.head).toNat then t.onQueue q fun d => { d with st := .error }
      else t.planOnce (s.now + 1) rankEnd (.ev (.queueFetch q none none)))

/-- The fields of a LAUNCH's mailbox block that mset names, where they lie in this module's HBM (R407). -/
def State.mboxBlock (s : State) (d : QueueDesc) (mset : BitVec 16) (dva : Nat) : Option (Vector Word 16) :=
  let field := fun (n : Fin 16) => if mset.getLsbD n.val then s.dvaNat d (dva + 8 * n.val) 8 else some 0
  if (List.finRange 16).all fun n => (field n).isSome then some (Vector.ofFn fun n => BitVec.ofNat 64 ((field n).getD 0)) else none

/-- A fetched packet enters the heap or completes at once. A LAUNCH without its image, or with a mailbox block elsewhere than in
this module's HBM, waits for the LAUNCH event, which brings both (R110, R407). -/
def State.takePacket (q : Fin 64) (w : BitVec 1024) (img : Option Image) (node : Option Nat) (depth : Nat) (s : State) : State :=
  let e := pktEntry q w node depth
  let id := s.apex.nextId
  match e.body with
  | .launch p _ =>
    let block := if p.mset = 0 then some p.mbox else s.mboxBlock s.apex.queues[q] p.mset (pktField w 56 8)
    let t := s.enterHeap { e with body := .launch p none }
    match img, block with
    | some g, some b => (t.setImage id { p with mbox := b } g).judge id
    | _, _ => t.emit (.image q p.imageDva)
  | _ => s.enterHeap e

/-- The node of a queue that fetches its chain's next packet, if any (R409). -/
def State.chainNode (s : State) (q : Fin 64) : Option (HeapEnt × Nat × Nat) :=
  s.apex.heap.findSome? fun e => match e.chain with
    | some (a, n) => if e.q = q && e.done.isNone && n ≠ 0 then some (e, a, n) else none
    | none => none

/-- The queue goes on fetching after a while (R405). -/
def State.fetchOn (q : Fin 64) (s : State) : State :=
  let f := s.fresh
  f.2.planOnce (s.now + 1 + Config.freeDelay f.1) rankEnd (.ev (.queueFetch q none none))

/-- A read of host memory goes out, unless the same one is under way (R405). -/
def State.askHost (q : Fin 64) (node : Option Nat) (m : OutMsg) (s : State) : State :=
  if s.apex.asked.contains (q, node) then s
  else (s.onApex fun a => { a with asked := a.asked ++ [(q, node)] }).emit m

/-- The next packet of a node's chain is fetched; one that cannot be read ends the node with 0x0208 (R409; log 14). -/
def State.fetchChain (q : Fin 64) (e : HeapEnt) (a n : Nat) (hostPkt : Option (BitVec 1024)) (img : Option Image) (s : State) : State :=
  let take := fun (w : BitVec 1024) =>
    ((s.onHeap e.id fun x => { x with chain := some (a + 128, n - 1) }).takePacket q w img (some e.id) (e.depth + 1)).look.fetchOn q
  match hostPkt with
  | some w => take w
  | none => match s.queuePlace s.apex.queues[q] a false with
    | .at_ (.hbm b) => take (BitVec.ofNat 1024 (s.cp.hbm.readNat b 128))
    | .at_ _ => s.askHost q (some e.id) (.fetch q a)
    | .ask => s.askHost q (some e.id) (.fetch q a)
    | _ => (s.onHeap e.id fun x => { x with chain := none }).finishEntry e.id 0x0208 0 0

/-- The next packet of a queue's ring is fetched (R405). -/
def State.fetchRing (q : Fin 64) (hostPkt : Option (BitVec 1024)) (img : Option Image) (s : State) : State :=
  let d := s.apex.queues[q]
  if s.apex.boot ≠ .up || d.st ≠ .active || d.head = d.tail then s
  else
    let take := fun (w : BitVec 1024) =>
      let t := ((s.takePacket q w img none 0).onQueue q fun d => { d with head := d.head + 1 }).look
      if d.head + 1 = d.tail then t else t.fetchOn q
    match hostPkt with
    | some w => take w
    | none => match s.queuePlace d d.nextDva false with
      | .at_ (.hbm b) => take (BitVec.ofNat 1024 (s.cp.hbm.readNat b 128))
      | .at_ _ => s.askHost q none (.fetch q d.nextDva)
      | .ask => s.emit (.atsReq (d.pasid.setWidth 20) (d.nextDva % 2 ^ 54 / 4096) false)
      | _ => s.parkQueue q

/-- QUEUE_FETCH: the next packet of an active queue, or of a node's chain (R405, R409). A packet in host memory is read by
the I/O die, whose answer comes with it and belongs to the read that was asked for first; a packet that no read of a chain waits for
is the ring's. -/
def execQueueFetch (q : Fin 64) (hostPkt : Option (BitVec 1024)) (img : Option Image) (s : State) : Out :=
  .next (s.thawed (.queueFetch q hostPkt img) fun s => match hostPkt with
    | none => match s.chainNode q with
      | some (e, a, n) => s.fetchChain q e a n none img
      | none => s.fetchRing q none img
    | some w => match s.apex.asked.find? fun r => r.1 = q with
      | none => s.fetchRing q (some w) img
      | some r =>
        let t := s.onApex fun a => { a with asked := a.asked.erase r }
        match r.2 with
        | none => t.fetchRing q (some w) img
        | some id => match (t.heapEnt id).bind fun e => e.chain.map fun c => (e, c) with
          | some (e, a, n) => if e.done.isSome || n = 0 then t else t.fetchChain q e a n (some w) img
          | none => t)

/-! ## Starting (R418 to R420, R454) -/

/-- Change a launch's record. -/
def State.onLaunch (lid : BitVec 32) (f : LaunchRec → LaunchRec) (s : State) : State :=
  s.onApex fun a => { a with launches := a.launches.map fun l => if l.lid = lid then f l else l }

/-- A launch's record. -/
def State.launchOf (s : State) (lid : BitVec 32) : Option LaunchRec := s.apex.launches.find? fun l => l.lid = lid

/-- Does the focus cell run a program of this launch? -/
def State.runsHere (s : State) (l : LaunchRec) : Bool := l.holdsCell s.phys && s.prog.any fun p => p.lid = l.lid

/-- Cells of a launch, on all its modules. -/
def LaunchRec.ncells (l : LaunchRec) : Nat := l.shapeRec.w * l.shapeRec.h * 2 ^ l.pkt.mlog

/-- The power figures of a shape, over 2^149 (R454). -/
def figures (g : Image) (shape : Nat) : Int :=
  match g.shapes[shape]? with
  | some h => h.energy.foldl (fun n c => n + (wattsOf c).getD 0) 0
  | none => 0

/-- Does a launch run, or is it saved on its cells (R454)? -/
def LaunchRec.draws (l : LaunchRec) : Bool := !(l.st == .suspended || (l.st == .saved && l.full))

/-- Would a shape of a launch exceed the module's cap beside the other running and saved-resident launches (R454)? -/
def State.overCap (s : State) (lid : BitVec 32) (g : Image) (shape : Nat) : Bool :=
  let others := (s.apex.launches.filter fun l => l.lid ≠ lid && l.draws).foldl (fun n l => n + figures l.img l.shape) 0
  3000 * 2 ^ 149 < others + figures g shape + 520 * 2 ^ 149

/-- The first value from v on that is aligned to a segment's phase when its flag is set (R418, R469). -/
def alignFor (g : Option Segment) (v : Nat) : Nat :=
  match g with
  | some g => if g.timedHbm then alignPhase v g.phase else v
  | none => v

/-- Cycles from a timed launch's start to the start of a segment: each segment before it with its boundary (R126, R129). -/
def LaunchRec.segOffset (l : LaunchRec) (k : Nat) : Nat := (l.shapeRec.segs.take k).foldl (fun n g => n + g.count + 64) 0

/-- The bank cycles that a launch will use from a segment on, which starts at a counter value, enter the slot maps (R280,
R435). -/
def State.fillSlots (l : LaunchRec) (k start : Nat) (s : State) : State :=
  let off := l.segOffset k
  let mine := (l.shapeRec.slots.filter fun m => off ≤ m.2.2.2).map fun m => (l.lid, m.1, m.2.1, m.2.2.1, start + (m.2.2.2 - off))
  (s.dropSlots l.lid).onCp fun c => { c with slots := c.slots ++ mine }

/-- LKCFG as the Apex writes it at arming: en, plane and twin of the cell's lockstep pair, zero without one (R366). -/
def Apex.lkcfg (a : Apex) : Word :=
  match a.pair with
  | some (p, m) => BitVec.ofNat 64 (1 + p.val * 2 + m.val * 2 ^ 6)
  | none => 0

/-- What arming does on a die: one more timed image is armed on it, and LKCFG of the launch's cell is written (R353, R366). -/
def State.armDie (l : LaunchRec) (s : State) : State :=
  let t := if l.onDie s.die then s.onAx fun a => { a with armed := a.armed + 1 } else s
  if l.holdsCell s.phys then t.onAx fun a => { a with lkcfg := s.apex.lkcfg } else t

/-- The first value that may be T0 of a launch: 36,000 cycles ahead, aligned to segment 0's refresh phase (R418). -/
def State.startValue (s : State) (h : ShapeRec) : Nat := alignFor h.segs.head? (s.absc + 36000)

/-- The start of a timed launch is armed for T0 (R280, R418). -/
def State.arm (t0 : Nat) (l : LaunchRec) (s : State) : State :=
  let t := s.onLaunch l.lid fun l => { l with st := .armed, t0 := t0 }
  let t := (t.armDie l).fillSlots l 0 t0
  let t := (t.planFor (t0 - 4096) rankEnd (.ev (.armingDeadline l.lid))).planFor t0 rankRead (.ev (.armedStart l.lid))
  let f := t.fresh
  if l.holdsCell s.phys then
    let t : State := { f.2 with prog := f.2.prog.map fun p => { p with armed := some t0 } }
    t.plan (s.now + 1 + Config.freeDelay f.1) rankEnd (.ev (.readyReport l.lid t.self))
  else f.2

/-- Entries of a die's window table that the loaded images take (R281). -/
def State.dieWindows (s : State) (die : Nat) : Nat :=
  (s.apex.launches.filter fun l => (rectDies l.rect).contains die).foldl (fun n l => n + l.wins.length) 0

/-- The windows of an image for a rectangle; none where a range does not translate, or where a die's window table of 256 entries
would overflow (R281, R282). -/
def State.pinWindows (s : State) (d : QueueDesc) (g : Image) (r : (Nat × Nat) × Nat × Nat) : Option (List Window) :=
  match s.windowsOf d g with
  | none => none
  | some w => if (rectDies r).all fun e => s.dieWindows e + w.length ≤ 256 then some w else none

/-- An admitted launch that cannot be placed completes with a status, and its other modules hear of it (R420). -/
def State.unplaced (e : HeapEnt) (p : LaunchPkt) (g : Image) (status : BitVec 16) (s : State) : State :=
  let t := s.finishEntry e.id status 0 0
  match e.told with
  | some (lid, _) => t.emit (.remote (.ended lid status))
  | none => if s.mates p g.timed ≠ 0 then t.emit (.remote (.drop p.stag)) else t

/-- The first module of a launch tells the others its identifier, the origin chosen and T0 or 0, so that all cover the same rectangle
and start together (R25, R420). -/
def State.tell (e : HeapEnt) (p : LaunchPkt) (g : Image) (lid : BitVec 32) (o : Nat × Nat) (t0 : Nat) (s : State) : State :=
  if e.told.isNone && s.mates p g.timed ≠ 0 then s.emit (.remote (.place p.stag lid o.1 o.2 t0)) else s

/-- A launch is placed: it is loaded on its cells, and armed or started (R25, R418, R420). -/
def State.place (e : HeapEnt) (p : LaunchPkt) (g : Image) (o : Nat × Nat) (s : State) : State :=
  let lid := (e.told.map (·.1)).getD s.apex.nextLid
  match pickShape g (s.fencesFor p) o p, s.pinWindows s.apex.queues[e.q] g (o, p.w, p.h) with
  | none, _ => s.unplaced e p g 0x0200
  | _, none => s.unplaced e p g 0x0103
  | some (k, q), some wins =>
    if s.overCap lid g k then s.unplaced e p g 0x0105
    else
      let l : LaunchRec := {
        lid := lid, entry := e.id, q := e.q, pkt := p, img := g, shape := k, rx := o.1, ry := o.2, px := q.1, py := q.2,
        st := .loading, ready := [], halts := [], t0 := 0, began := 0, ran := 0, wdogged := false, bank := 0, committed := none,
        acked := [], lastCk := none, suspend := false, handle := 0, ver := 0, wins := wins, ctx := none, openCk := none, heldCk := none }
      let t := s.onApex fun a => { a with nextLid := a.nextLid + 1, launches := a.launches ++ [l] }
      let t := t.onHeap e.id fun e => { e with st := .running, lid := lid }
      let t := if l.holdsCell s.phys then t.loadCell l else t
      let t0 := (e.told.map (·.2)).getD (s.startValue l.shapeRec)
      let t := t.tell e p g lid o (if g.timed then t0 else 0)
      if g.timed then t.arm t0 l
      else if p.mlog ≠ 0 then t
      else
        let f := t.fresh
        let w := Config.freeDelay f.1
        f.2.plan (s.now + 1 + (if p.lflags.getLsbD 0 then w % 12000 else w)) rankRead (.ev (.cellStart lid))

/-- The watchdog's limit goes on the agenda (R421). -/
def State.watch (l : LaunchRec) (s : State) : State :=
  if l.pkt.wdog = 0 || l.wdogged then s
  else s.plan (s.now + lookAhead (l.pkt.wdog - l.ran)) rankEnd (.ev (.watchdogLimit l.lid))

/-- The launch runs from this cycle on. -/
def State.runs (l : LaunchRec) (s : State) : State :=
  (s.onLaunch l.lid fun l => { l with st := .running, began := s.absc }).watch l

/-- The program of the focus cell issues its first bundle in this cycle (R108, R123, R348). -/
def State.firstBundle (s : State) : State :=
  let t := (s.onSys fun r => { r with safect := 0 }).onSeq fun q => { q with run := .running, issueAt := s.now, escPaid := true }
  { t with prog := t.prog.map fun p => { p with start := s.ax.value } }

/-- CELL_START: each cell of an untimed launch starts (R418). -/
def execCellStart (lid : BitVec 32) (s : State) : Out :=
  .next (s.thawed (.cellStart lid) fun s => match s.launchOf lid with
    | none => s
    | some l =>
      if l.st ≠ .loading then s
      else
        let t := s.runs l
        if s.runsHere l && s.seq.run == .idle then t.firstBundle else t)

/-- Cells of a launch on other modules. -/
def LaunchRec.farCells (l : LaunchRec) : Nat := l.shapeRec.w * l.shapeRec.h * (2 ^ l.pkt.mlog - 1)

/-- What a launch is resumed as (R431). -/
def LaunchRec.placement (l : LaunchRec) : Placement := { lid := l.lid, shape := l.shape, px := l.px, py := l.py }

/-- Cycles from a context's SAFE to the bundle after it: 513 at a congruence SAFE of a checkpointed image (R434, R435). -/
def SavedCtx.gap (c : SavedCtx) : Nat := if c.prog.ckpt && c.cp.isSome then 513 else 1

/-- A restored timed launch is armed for its virtual start T1: its dies, its bank cycles, the deadline of its ready reports, and the
bundle after its SAFE at T1 + k + 1 (R418, R435). -/
def State.armResume (t1 : Nat) (l : LaunchRec) (s : State) : State :=
  let t := s.onLaunch l.lid fun l => { l with st := .resuming, t0 := t1, ready := [] }
  let t := t.armDie l
  let t := match l.ctx with
    | some c => (t.fillSlots l c.seg.idx t1).planFor (t1 + c.rel + c.gap) rankRead (.ev (.resumeStart l.placement))
    | none => t.planFor t1 rankRead (.ev (.resumeStart l.placement))
  let t := t.planFor (t1 - 4096) rankEnd (.ev (.armingDeadline l.lid))
  let f := t.fresh
  if s.runsHere l then f.2.plan (s.now + 1 + Config.freeDelay f.1) rankEnd (.ev (.readyReport l.lid s.self)) else f.2

/-- Once every cell of a saved launch is restored, on every module, it goes on: an untimed one in the next cycle, a timed one from the
T1 that the Apexes agree on (R418, R420, R435). -/
def State.allBack (lid : BitVec 32) (s : State) : State :=
  match s.launchOf lid with
  | none => s
  | some l =>
    if l.st ≠ .restoring || !l.back || l.ready.length < l.farCells then s
    else if !l.img.timed then
      (s.onLaunch lid fun l => { l with st := .resuming }).plan (s.now + 1) rankRead (.ev (.resumeStart l.placement))
    else if s.apex.heap.any fun e => e.id = l.entry && e.remote then s
    else
      let t1 := alignFor (l.ctx.bind fun c => l.shapeRec.segs[c.seg.idx]?) (s.absc + 36000)
      let t := s.armResume t1 l
      if s.mates l.pkt true ≠ 0 then t.emit (.remote (.arm lid t1)) else t

/-- READY_REPORT (R418, R420): an untimed launch of several modules starts once the other modules have loaded it, and a saved one
goes on once they have restored it. -/
def execReadyReport (lid : BitVec 32) (cell : Peer) (s : State) : Out :=
  .next (s.thawed (.readyReport lid cell) fun s => match s.launchOf lid with
    | none => s
    | some l =>
      let ready := if l.ready.contains cell then l.ready else cell :: l.ready
      let t := s.onLaunch lid fun l => { l with ready := ready }
      if l.st == .loading && !l.img.timed && l.farCells ≤ ready.length then t.planOnce (s.now + 1) rankRead (.ev (.cellStart lid))
      else t.allBack lid)

/-- Is a timed launch armed for a cycle that has not come, by its start or by a resume (R402, R418, R435)? -/
def LaunchRec.arming (l : LaunchRec) : Bool := l.st == .armed || (l.st == .resuming && l.img.timed)

/-- ARMING_DEADLINE: a cell that has not reported ready withdraws the arming, of a start or of a resume (R418, R435). -/
def execArmingDeadline (lid : BitVec 32) (s : State) : Out :=
  .next (match s.launchOf lid with
    | none => s
    | some l =>
      if !l.arming then s
      else if s.absc + 4096 < l.t0 then s.planFor (l.t0 - 4096) rankEnd (.ev (.armingDeadline lid))
      else if l.ready.length < l.ncells then s.endLaunch lid 0x0203 0 else s)

/-- ARMED_START: the first bundle at T0, segment 0 with it; a cell that cannot issue it reports a slip (R124, R418). No launch starts
while the Apex is frozen, so that one whose T0 has gone by then has slipped (R401). -/
def execArmedStart (lid : BitVec 32) (s : State) : Out :=
  .next (s.thawed (.armedStart lid) fun s => match s.launchOf lid with
    | none => s
    | some l =>
      if l.st ≠ .armed then s
      else if s.absc < l.t0 then s.planFor l.t0 rankRead (.ev (.armedStart lid))
      else if !s.runsHere l then s.runs l
      else if s.hl.fenced || s.seq.run ≠ .idle || l.t0 < s.absc then s.endLaunch lid 0x0203 0
      else
        let t := (s.runs l).firstBundle
        match t.segTable[0]? with
        | some g => (t.onSeg fun q => { q with bsafe := 0 }).startSegment 0 g
        | none => t)

/-! ## Ends (R133, R193, R413, R414, R421) -/

/-- The running program's final report; a request that it has not met is pending no more (R133, R429). -/
def State.finalOwn (lid : BitVec 32) (s : State) : State :=
  if (s.prog.map (·.lid)) = some lid then
    let t := s.freeSectors.onSeq fun q => { q with haltSt := none }
    let t := t.onSys fun r => { r with ctxstat := r.ctxstat &&& ~~~(6#64) }
    { t with prog := none, preq := none, seg := SegState.reset, frame := none }
  else s

/-- The final report of a program on the focus cell: its sectors become FREE (R133, R193). -/
def State.finalReport (lid : BitVec 32) (s : State) : State :=
  match s.pred with
  | some (m, _) => if m = lid then s.freePred else s.finalOwn lid
  | none => s.finalOwn lid

/-- HALT_REPORT: a cell's status reaches the Apex; the last cell's completes the launch, and a runtime's status or a double
trap ends it (R133, R141, R142, R414). -/
def execHaltReport (lid : BitVec 32) (cell : Peer) (status : BitVec 16) (s : State) : Out :=
  .next (s.thawed (.haltReport lid cell status) fun s =>
    let s := if cell = s.self && lid = s.lid then s.onSeq fun q => { q with haltSt := none } else s
    let t := if cell = s.self && status.toNat < 0x8000 then s.finalReport lid else s
    match t.launchOf lid with
    | none => t
    | some l =>
      if status = 0xFFFF then t.endLaunch lid 0x0204 0
      else if 0x8000 ≤ status.toNat then t.endLaunch lid 0x020D status
      else
        let halts := l.halts ++ [(cell, status)]
        if halts.length < l.ncells then t.onLaunch lid fun l => { l with halts := halts }
        else
          let c := firstStatus halts
          ((t.dropLaunch l).finishEntry l.entry (if c = 0 then 0 else 1) c 0).plan s.now rankEnd (.ev .dispatch))

/-- WATCHDOG_LIMIT: one event of kind 4, and the launch's end if its packet asks for it (R421). -/
def execWatchdogLimit (lid : BitVec 32) (s : State) : Out :=
  .next (s.thawed (.watchdogLimit lid) fun s => match s.launchOf lid with
    | none => s
    | some l =>
      let n := s.cyclesRun l
      if l.wdogged || !(l.st == .running || l.st == .saving) then s
      else if n < l.pkt.wdog then s.planOnce (s.now + lookAhead (l.pkt.wdog - n)) rankEnd (.ev (.watchdogLimit lid))
      else
        let t := (s.onLaunch lid fun l => { l with wdogged := true }).pushEvent 4 l.q.val 0 lid n
        if l.pkt.lflags.getLsbD 2 then t.endLaunch lid 0x0205 0 else t)

/-! ## Dispatch (R417, R419, R422) -/

/-- May the launch be overlapped by the next one on the focus cell: it has halted everywhere, and only its commands run
here (R419)? Open: a free choice. -/
def State.overlaps (s : State) (p : LaunchPkt) (l : LaunchRec) : Bool :=
  p.lflags.getLsbD 3 && s.runsHere l && s.seq.run == .halted && s.seq.haltSt.isSome && s.pred.isNone
    && l.halts.length + 1 = l.ncells && Config.freeBool s.freeCtr

/-- Launches that stand on a rectangle. -/
def State.holders (s : State) (p : LaunchPkt) (o : Nat × Nat) : List LaunchRec :=
  s.apex.launches.filter fun l => l.active && rectsMeet l.rect (o, p.w, p.h) && !s.overlaps p l

/-- May a holder be pre-empted for a packet (R417, R422)? -/
def State.yields (s : State) (p : LaunchPkt) (g : Image) (l : LaunchRec) : Bool :=
  l.st == .saving || (l.st == .running && sooner p.deadline l.pkt.deadline && (s.residentFor g l || l.mayFull))

/-- Does the dispatch condition hold for an origin (R417)? -/
def State.mayStand (s : State) (p : LaunchPkt) (g : Image) (o : Nat × Nat) : Bool :=
  (s.holders p o).all (s.yields p g)

/-- A pre-emption request goes to every cell of a launch on this module; it reaches them within 1,200 cycles (R422). -/
def State.requestHere (full : Bool) (atP : Option Nat) (l : LaunchRec) (s : State) : State :=
  let f := s.fresh
  let d := Config.freeDelay f.1 % 1200 + 1
  let t := (f.2.onLaunch l.lid fun l => { l with st := .saving, full := full, ctx := none }).emit (.request l.lid full atP)
  let t := if s.runsHere l then t.plan (s.now + d) rankEnd (.ev (.preemptionRequest full atP)) else t
  let g := t.fresh
  g.2.plan (s.now + 1 + Config.freeDelay g.1 % 5808 + (if full then fullSave (sectorBytes (takesOf l.img)) else 0)) rankEnd
    (.micro (.launchSaved l.lid))

/-- A launch is pre-empted, on all its modules together; a timed launch stops at its SAFEs from one counter value on (R420, R422,
R425). -/
def State.request (full : Bool) (l : LaunchRec) (s : State) : State :=
  let atP := if l.img.timed then some (s.absc + 1200) else none
  let t := s.requestHere full atP l
  if s.mates l.pkt l.img.timed ≠ 0 then t.emit (.remote (.preempt l.lid full atP)) else t

/-- A launch that is saved on its cells is written to its slots (R426, R429). -/
def State.writeOut (l : LaunchRec) (s : State) : State :=
  let mine := s.saved.any fun c => c.prog.lid = l.lid
  let t : State := { s with saved := if mine then s.saved.map fun c => { c with full := true } else s.saved }
  let t := if l.img.timed && l.onDie s.die then t.onAx fun a => { a with armed := a.armed + 1 } else t
  let n := fullSave (sectorBytes (takesOf l.img))
  let t := t.onLaunch l.lid fun l => { l with st := .saving, full := true, began := s.absc + n + 1 }
  (if mine then t.plan (s.now + n) rankEnd (.ev .fullSaveComplete) else t).plan (s.now + n + 1) rankEnd
    (.micro (.launchSaved l.lid))

/-- A launch is dispatched at an origin: placed, or its victims pre-empted first (R417). -/
def State.dispatchAt (e : HeapEnt) (p : LaunchPkt) (g : Image) (o : Nat × Nat) (s : State) : State :=
  match s.holders p o with
  | [] => s.place e p g o
  | l => (l.filter fun v => v.st == .running).foldl (fun t v => t.request (!t.residentFor g v) v) s

/-- The record of a cell's save area in a shape at a congruence point (R433). -/
def saveRec (g : Image) (cp : Fin 256) (shape cell : Nat) : Option CongRec :=
  g.cong.find? fun r => r.cp = cp && r.shape = shape && r.cell = cell && r.sectorRows.isNone

/-- The record of the same piece in another shape (R433). -/
def sameIn (g : Image) (r : CongRec) (shape : Nat) : Option CongRec :=
  g.cong.find? fun q => q.cp = r.cp && q.shape = shape && q.piece = r.piece

/-- Index of the cell of a context, in its shape. -/
def SavedCtx.cell (c : SavedCtx) : Nat := fieldNat c.sys.lwh 0 16 * fieldNat c.sys.lxy 16 16 + fieldNat c.sys.lxy 0 16

/-- A context as it resumes on another shape: the SAFE's cycle there (R433, R435). -/
def SavedCtx.onShape (g : Image) (shape : Nat) (c : SavedCtx) : SavedCtx :=
  if c.shape.toNat = shape then c
  else match c.cp.bind fun k => (saveRec g k c.shape.toNat c.cell).bind fun r => sameIn g r shape with
    | some r => { c with rel := r.cyc }
    | none => c

/-- A saved or suspended launch goes back to its cells, which are restored within a free time (R431; log 6). -/
def State.resume (l : LaunchRec) (c : Option SavedCtx) (s : State) : State :=
  let t := s.onLaunch l.lid fun l => { l with st := .restoring, ctx := c, ready := [], back := false }
  let f := t.fresh
  f.2.plan (s.now + 1 + Config.freeDelay f.1 % 12000) rankRead (.micro (.restored l.lid))

/-- Order of the heap: by deadline, background last, then by entry (R416). -/
def heapBefore (a b : HeapEnt) : Bool :=
  sooner a.deadline b.deadline || (a.deadline = b.deadline && a.id < b.id)

/-- An entry put into a list in the heap's order. -/
def insertHeap (e : HeapEnt) : List HeapEnt → List HeapEnt
  | [] => [e]
  | x :: l => if heapBefore e x then e :: x :: l else x :: insertHeap e l

/-- A fully saved launch as it is placed again at an origin: on its own shape, or from a congruence point on any (R431, R432). -/
def State.placeAgain (s : State) (p : LaunchPkt) (o : Nat × Nat) (l : LaunchRec) : Option LaunchRec :=
  let any := l.ctx.any fun c => c.cp.isSome
  (pickShape (if any then l.img else { l.img with shapes := [l.shapeRec] }) (s.fencesFor p) o p).map fun r =>
    let k := if any then r.1 else l.shape
    { l with rx := o.1, ry := o.2, px := r.2.1, py := r.2.2, shape := k, ctx := l.ctx.map fun c => c.onShape l.img k }

/-- A suspended launch resumes at an origin, if the module's cap lets it; with no shape that leaves out every fenced cell it ends
(R414, R431, R432, R454). -/
def State.resumeSuspended (e : HeapEnt) (p : LaunchPkt) (g : Image) (o : Nat × Nat) (l : LaunchRec) (s : State) : State :=
  let l' := { l with entry := e.id, pkt := p, suspend := false }
  let s := if l.st == .saved then s.finishEntry l.entry 0x0300 0 0 else s
  let go := fun (m : LaunchRec) => (s.onLaunch l.lid fun _ => m).onHeap e.id fun e => { e with st := .running, lid := l.lid }
  match s.placeAgain p o l' with
  | none => (go l').endLaunch l.lid 0x0200 0
  | some m => if s.overCap l.lid l.img m.shape then s.unplaced e p g 0x0105
    else ((go m).tell e p g l.lid o 0).resume m m.ctx

/-- A pre-empted launch is dispatched again: a resident one on its own cells, a fully saved one by the search for an origin, once the
module's cap lets it (R417, R431, R454; log 79). -/
def State.goAgain (s : State) (e : HeapEnt) (p : LaunchPkt) (g : Image) (l : LaunchRec) : Option State :=
  let all := if l.full then originsOf s.apex.queues[e.q] p else [(l.rx, l.ry)]
  (all.find? (s.mayStand p g)).bind fun o => match s.holders p o with
    | [] =>
      let t := (s.tell e p g l.lid o 0).onHeap e.id fun e => { e with agreed := 0 }
      if !l.full then some (t.resume l (s.saved.filter fun c => c.prog.lid = l.lid))
      else match s.placeAgain p o l with
        | none => some (s.endLaunch l.lid 0x0200 0)
        | some m => if s.overCap l.lid l.img m.shape then none else some ((t.onLaunch l.lid fun _ => m).resume m m.ctx)
    | h => if h.any fun v => v.st == .running
      then some ((h.filter fun v => v.st == .running).foldl (fun t v => t.request (!t.residentFor g v) v) s) else none

/-- What dispatching one entry does, if it can be dispatched. -/
def State.tryEntry (s : State) (e : HeapEnt) : Option State :=
  match e.body with
  | .launch p (some g) =>
    if e.done.isSome || s.apex.barred e then none
    else match e.st with
      | .admitted =>
        let old := if p.ctx = 0 then none else s.apex.launches.find? fun l => l.underHandle e.remote p.ctx
        match (originsOf s.apex.queues[e.q] p).find? (s.mayStand p g) with
        | none => none
        | some o =>
          match old, s.holders p o with
          | some l, [] => some (s.resumeSuspended e p g o l)
          | _, h => if h.any (fun v => v.st == .saving) && !h.any (fun v => v.st == .running) then none
              else some (s.dispatchAt e p g o)
      | .running => match s.launchOf e.lid with
        | some l => if l.st == .saved && (!e.remote || e.agreed ≠ 0) then s.goAgain e p g l else none
        | none => none
      | _ => none
  | _ => none

/-- DISPATCH: the first packet in the heap's order that can be dispatched is; nothing starts while the Apex is frozen or
firmware waits to activate (R401, R417, R430). -/
def execDispatch (s : State) : Out :=
  .next (s.thawed .dispatch fun s =>
    if s.apex.fwWait then s.planOnce s.now rankEnd (.ev .firmwareActivation)
    else
      let order := s.apex.heap.foldl (fun l e => insertHeap e l) []
      match order.findSome? s.tryEntry with
      | some t => ({ t with freeCtr := t.freeCtr + 1 }).plan s.now rankEnd (.ev .dispatch)
      | none => s)

/-! ## Launches of several modules (R420) -/

/-- The entry that a message of another Apex names by its stag: one that waits for the other modules. -/
def State.sharedEnt (s : State) (remote : Bool) (stag : BitVec 32) : Option HeapEnt :=
  s.apex.heap.find? fun e => e.stag = stag && e.done.isNone && e.remote == remote && e.st == .asking

/-- A LAUNCH at the origin that the first module has chosen. -/
def PktBody.moved (x y : Nat) (b : PktBody) : PktBody :=
  match b with
  | .launch p g => .launch { p with ox := x, oy := y } g
  | b => b

/-- The answer of one of the other modules: the launch is admitted only when every one admits it (R420). -/
def State.takeVerdict (stag : BitVec 32) (ok : Bool) (s : State) : State :=
  match s.sharedEnt false stag with
  | none => s
  | some e => match e.body with
    | .launch p (some g) =>
      if !ok then (s.finishEntry e.id 0x0100 0 0).emit (.remote (.drop stag))
      else if e.agreed + 1 < s.mates p g.timed then s.onHeap e.id fun e => { e with agreed := e.agreed + 1 }
      else (s.onHeap e.id fun e => { e with st := .admitted, agreed := e.agreed + 1 }).look
    | _ => s

/-- The first module places a launch, or goes on with a saved one: this module covers the same rectangle (R25, R420). -/
def State.takePlace (stag : BitVec 32) (lid : BitVec 32) (x y t0 : Nat) (s : State) : State :=
  match s.sharedEnt true stag with
  | some e => (s.onHeap e.id fun e => { e with st := .admitted, told := some (lid, t0), body := e.body.moved x y }).look
  | none => (s.onApex fun a => { a with heap := a.heap.map fun e =>
      if e.remote && e.lid = lid && e.st == .running then { e with agreed := 1, body := e.body.moved x y } else e }).look

/-- The launch has ended on another module (R414, R420). -/
def State.takeEnded (lid : BitVec 32) (status : BitVec 16) (s : State) : State :=
  match s.launchOf lid with
  | some _ => s.endHere lid status 0
  | none => (s.apex.heap.filter fun e => e.done.isNone && e.told.any fun m => m.1 = lid).foldl
      (fun t e => t.finishEntry e.id status 0 0) s

/-- REMOTE_LAUNCH: what the Apexes of a launch's modules tell each other. A packet is tested here as there, and no record of it is
written here; the same rectangle is placed and loaded, from the same T0 (R420; log 76). While the Apex is frozen nothing is dispatched
or pre-empted by what it hears (R401). -/
def execRemoteLaunch (m : RemoteMsg) (img : Image) (s : State) : Out :=
  .next (match m with
    | .test p => s.launchIn 0 { p with cplt := 0, flags := 0 } img true
    | .verdict stag ok => s.takeVerdict stag ok
    | .place stag lid x y t0 => s.takePlace stag lid x y t0
    | .drop stag => match s.sharedEnt true stag with
      | some e => s.finishEntry e.id 0x0100 0 0
      | none => s
    | .arm lid t1 => match s.launchOf lid with
      | some l => if l.st == .restoring && l.back then s.armResume t1 l else s
      | none => s
    | .preempt lid full atP => match s.launchOf lid with
      | some l => if l.st == .running then s.requestHere full atP l
        else if l.st == .saved && !l.full && full then s.writeOut l else s
      | none => s
    | .ended lid status => s.takeEnded lid status)

end Sys2Proof.Machine
end

