-- ==== Sys2Proof/Machine/Context.lean ====
section
/-! DEFINITION. Pre-emption, saves, checkpoints, fences and resumes (R422 to R437). -/

namespace Sys2Proof.Machine

/-! ## Bytes between sectors and a region in HBM (R426, R434) -/

/-- Bytes moved from one memory to another. -/
def Memory.paste (src : Memory) (a n : Nat) (dst : Memory) (b : Nat) : Memory :=
  dst.filter (fun c => c.1 < b) ++ ((src.filter fun c => a ≤ c.1 && c.1 < a + n).map (fun c => (c.1 - a + b, c.2))
    ++ dst.filter (fun c => b + n ≤ c.1))

/-- DVA of a byte of a cell's slot: slots of 2 MiB in row-major order of the launch rectangle (R426). -/
def slotDva (base w cell : Nat) (shapeW : Nat) (b : Nat) : Nat := base + 0x200000 * (cell / shapeW * w + cell % shapeW) + b

/-- Pieces of a run of bytes that lie in one 64 KiB page each: place and length. -/
def pagesOf : Nat → Nat → Nat → List (Nat × Nat)
  | 0, _, _ => []
  | f + 1, a, n =>
    if n = 0 then []
    else
      let k := min n (65536 - a % 65536)
      (a, k) :: pagesOf f (a + k) (n - k)

/-- Local bytes written to a DVA of this module's HBM; none on a fault (R426). -/
def State.saveBytes (d : QueueDesc) (dva a n : Nat) (s : State) : Option State :=
  (pagesOf 40 dva n).foldl (fun o p => o.bind fun t => match t.queuePlace d p.1 true with
    | .at_ (.hbm b) => some (t.onCp fun c => { c with hbm := t.ann.mem.paste (a + (p.1 - dva)) p.2 c.hbm b })
    | _ => none) (some s)

/-- Local bytes read back from a DVA. -/
def State.loadBytes (d : QueueDesc) (dva a n : Nat) (s : State) : Option State :=
  (pagesOf 40 dva n).foldl (fun o p => o.bind fun t => match t.queuePlace d p.1 false with
    | .at_ (.hbm b) =>
      let lo := a + (p.1 - dva)
      some (t.onAnn fun m => { m with
        mem := t.cp.hbm.paste b p.2 m.mem lo,
        poison := m.poison.filter fun w => !(lo ≤ 8 * w && 8 * w < lo + p.2),
        flawed := m.flawed.filter fun w => !(lo ≤ 8 * w && 8 * w < lo + p.2) })
    | _ => none) (some s)

/-- User bytes of a sector (R99, R426). -/
def userBytes (k : Fin 8) : Nat := if k = 7 then 98304 else 262144

/-- Sectors that a context held. -/
def SavedCtx.sectors (c : SavedCtx) : List (Fin 8) := (List.finRange 8).filter fun k => c.own[k] == Own.held false

/-- Bytes of the save area: rows 192 to 511 of sec7 (R99, R427). -/
def areaBytes : Nat := 163840

/-- Runs of local bytes that a context's slot holds: its sectors' user bytes, and the save area (R426). -/
def SavedCtx.runs (c : SavedCtx) : List (Nat × Nat) :=
  (c.sectors.map fun k => (k.val * Config.sectorBytes, userBytes k)) ++ [(Config.saveBase, areaBytes)]

/-- DVA of a local byte in a context's own slot (R426). -/
def SavedCtx.slotDva (c : SavedCtx) (b : Nat) : Nat :=
  Machine.slotDva c.region.2.1 c.region.2.2 c.cell (fieldNat c.sys.lwh 0 16) b

/-- The context's sectors and its save area written to its slot of the save region; none on a fault (R426). -/
def State.saveSectors (c : SavedCtx) (s : State) : Option State :=
  c.runs.foldl (fun o p => o.bind fun t => t.saveBytes s.apex.queues[c.region.1] (c.slotDva p.1) p.1 p.2) (some s)

/-- The same bytes read back (R431). -/
def State.loadSectors (c : SavedCtx) (s : State) : Option State :=
  c.runs.foldl (fun o p => o.bind fun t => t.loadBytes s.apex.queues[c.region.1] (c.slotDva p.1) p.1 p.2) (some s)

/-- Local address and bytes of a piece of sector rows (R433). -/
def pieceBytes (p : Fin 8 × Fin 512 × Nat) : Nat × Nat := (rowAddr p.1 p.2.1.val, 512 * p.2.2)

/-- The save area and the rows of a cell's pieces at a congruence point written to its slot; none on a fault (R434). -/
def State.savePieces (d : QueueDesc) (base w : Nat) (g : Image) (cp : Fin 256) (shape shapeW cell : Nat) (s : State) : Option State :=
  (g.cong.filter fun r => r.cp = cp && r.shape = shape && r.cell = cell).foldl (fun o r => o.bind fun t => match r.sectorRows with
    | none => some t
    | some p => t.saveBytes d (slotDva base w cell shapeW (pieceBytes p).1) (pieceBytes p).1 (pieceBytes p).2)
    (s.saveBytes d (slotDva base w cell shapeW Config.saveBase) Config.saveBase areaBytes)

/-- The pieces of a cell in a shape, a save area among them, read from where the saved shape's slots hold them (R433, R434). -/
def State.loadPieces (d : QueueDesc) (base w : Nat) (g : Image) (cp : Fin 256) (old oldW shape cell : Nat) (s : State) :
    Option State :=
  (g.cong.filter fun r => r.cp = cp && r.shape = shape && r.cell = cell).foldl (fun o r => o.bind fun t =>
    match r.sectorRows, sameIn g r old with
    | some p, some q => match q.sectorRows with
      | some v => t.loadBytes d (slotDva base w q.cell oldW (pieceBytes v).1) (pieceBytes p).1 (pieceBytes p).2
      | none => some t
    | none, some q => t.loadBytes d (slotDva base w q.cell oldW Config.saveBase) Config.saveBase areaBytes
    | _, none => some t) (some s)

/-! ## The context (R427) -/

/-- The save region of a launch: its queue, base and width in slots (R426). -/
def State.regionOf (s : State) (lid : BitVec 32) : Fin 64 × Nat × Nat :=
  match s.launchOf lid with
  | some l => (l.q, l.pkt.save, l.pkt.w)
  | none => (0, 0, 0)

/-- The state that a save area records, after the 512 cycles that follow the SAFE (R423, R427). -/
def State.context (s : State) (p : Prog) (cp : Option (Fin 256)) (full : Bool) : SavedCtx :=
  let since := s.now - s.seq.safeNow
  { prog := p, shape := s.sys.shape, cp := cp, full := full, seq := { s.seq with writes := [], stores := [], code := [], dict := [] },
    sys := s.sys, sems := s.sems, ports := s.ann.ports, own := s.ann.own, mx := s.mx.only fun c => !c.pred,
    ents := s.cp.ents.filter fun e => !e.cmd.pred, abns := s.cp.abns.filter fun a => !a.1.pred, unknown := s.cp.unknown, slots := s.sh.slots, seg := s.seg,
    rel := s.relCycle - since, at_ := s.ax.value - BitVec.ofNat 64 since, region := s.regionOf p.lid, spare := s.hl.spareNew,
    tblBad := s.sh.tblBad, tblFlaw := s.sh.tblFlaw }

/-! ### What the rows of the save area hold, as numbers in the order of R427 (packing: log 59) -/

/-- A bit as a number. -/
def bitNat (b : Bool) : Nat := if b then 1 else 0

/-- Rows 193 and 194: registers, loops, masks, the key words, the mailboxes. -/
def SavedCtx.regNats (c : SavedCtx) : List Nat :=
  (c.seq.regs.toList.drop 1).map (·.toNat) ++ c.seq.lc.toList.map (·.toNat)
    ++ c.seq.loops.flatMap (fun l => [l.n.val, l.start.toNat, l.stop.toNat, l.trip.toNat])
    ++ c.seq.maskRow.toList.map (·.toNat) ++ c.seq.maskCol.toList.map (·.toNat)
    ++ [c.sys.srkey.toNat, c.sys.srkctr.toNat, c.sys.uhvec.toNat] ++ c.sys.mbox.toList.map (·.toNat)

/-- A semaphore: counter, error bit, status word. -/
def Sem.nats (m : Sem) : List Nat := [m.cnt.toNat, bitNat m.err, m.status.toNat]

/-- A port: the state of R189, k and the walk. -/
def PortState.nats (p : PortState) : List Nat :=
  [bitNat p.bound, bitNat p.wr, p.sec.val, bitNat p.lane.ccw, p.lane.num.val, p.stn.val, p.base.val, p.esz, p.k, p.tag.toNat,
   match p.arm with
   | .none => 0
   | .ptag => 1
   | .pstamp => 2] ++ p.lvls.toList.flatMap fun l => [l.count, l.stride.toNat, (-l.stride).toNat]

/-- Rows 203 to 206: ports, nest tables, format and tolerance entries, B buffer address, staged spare map. -/
def SavedCtx.unitNats (c : SavedCtx) : List Nat :=
  c.ports.toList.flatMap PortState.nats ++ c.mx.shadow.toList.map (·.toNat) ++ c.mx.active.toList.map (·.toNat)
    ++ c.mx.ft.toList.map (·.toNat) ++ c.mx.tol.toList.map (·.toNat)
    ++ (match c.mx.bbuf with
      | some b => [b.sec.val, b.row]
      | none => []) ++ [c.spare.toNat]

/-- An accumulator with its checksum row and column. -/
def Acc.nats (a : Acc) : List Nat := a.el.toList.flatMap fun r => r.toList.map (·.toNat)

/-- Magnitude sums and nb of an accumulator. -/
def Acc.sumNats (a : Acc) : List Nat := a.mcol.toList.map (·.toNat) ++ a.mrow.toList.map (·.toNat) ++ [a.nb.toNat]

/-- A command with what it captured. -/
def Cmd.nats (c : Cmd) : List Nat :=
  [c.idx.toNat, c.opcode, c.ssem.val, c.sinc.val, bitNat c.prio, c.key.toNat, c.ctr.toNat, c.ft.toNat, c.tau.toNat, c.mrow.toNat, c.mcol.toNat]
    ++ c.xs.toList.map (·.toNat) ++ c.nest.toList.map (·.toNat)
    ++ (match c.wait with
      | some w => [w.1.val, w.2.toNat]
      | none => [])

/-- Rows 406 to 413: st0's commands and the micro-program counter. -/
def Matrix.nats (m : Matrix) : List Nat :=
  (match m.array with
    | some r => r.cmd.nats ++ r.iter ++ [r.left]
    | none => []) ++ m.q.normal.flatMap Cmd.nats ++ m.q.prio.flatMap Cmd.nats

/-- A resumable copy: command, operands, its place, semaphores. -/
def CopyEnt.nats (e : CopyEnt) : List Nat := e.cmd.nats ++ [e.nissue, e.rows, bitNat e.paused]

/-- A table slot. -/
def TableSlot.nats (t : TableSlot) : List Nat :=
  [t.a.toNat, t.b.toNat, t.lgn, t.modes.toNat, t.clo.toNat, t.chi.toNat] ++ t.coef.flatMap fun c => [c.1.toNat, c.2.1.toNat, c.2.2.toNat]

/-- The boundary shadow (R130). -/
def Shadow.nats (h : Shadow) : List Nat :=
  h.regs.toList.map (·.toNat) ++ h.lc.toList.map (·.toNat) ++ h.maskRow.toList.map (·.toNat) ++ h.maskCol.toList.map (·.toNat)
    ++ h.loops.flatMap (fun l => [l.n.val, l.start.toNat, l.stop.toNat, l.trip.toNat])
    ++ [h.srkey.toNat, h.srkctr.toNat, h.uhvec.toNat, h.pc.toNat, h.safect.toNat, h.crc.toNat] ++ h.sems.toList.flatMap Sem.nats
    ++ h.ft.toList.map (·.toNat) ++ h.tol.toList.map (·.toNat) ++ h.nestS.toList.map (·.toNat) ++ h.nestA.toList.map (·.toNat)

/-- What row `r` of the save area holds beside the header, t0 to t7 and the zero rows (R427). -/
def SavedCtx.rowNats (c : SavedCtx) (r : Nat) : List Nat :=
  if r < 195 then c.regNats
  else if r < 203 then ((c.sems.toList.drop (32 * (r - 195))).take 32).flatMap Sem.nats
  else if r < 207 then c.unitNats
  else if r < 369 then c.mx.acc0.nats
  else if r < 403 then c.mx.acc1.nats
  else if r < 406 then c.mx.acc0.sumNats ++ c.mx.acc1.sumNats
  else if r < 414 then c.mx.nats
  else if r < 462 then c.ents.flatMap CopyEnt.nats
  else if r < 464 then c.unknown.flatMap fun u => [u.1, u.2.1.toNat, u.2.2]
  else if r < 498 then c.slots.toList.flatMap fun t => (t.map TableSlot.nats).getD []
  else (c.seg.shadow.map Shadow.nats).getD []

/-- Row 192 of sec7, the save area's header (R427). -/
def SavedCtx.header (c : SavedCtx) (ver : BitVec 16) : Row :=
  let safe := c.seq.safeAt.toNat
  BitVec.ofNat 4096 (ver.toNat + c.prog.lid.toNat * 2 ^ 16 + fieldNat c.shape 0 8 * 2 ^ 48 + (match c.cp with
    | some k => k.val
    | none => 0xFF) * 2 ^ 56 + safe % 2 ^ 16 * 2 ^ 64 + c.seg.idx % 2 ^ 16 * 2 ^ 80 + c.rel % 2 ^ 32 * 2 ^ 96
    + c.at_.toNat * 2 ^ 128 + c.seq.crc.toNat * 2 ^ 192)

/-- Rows of sec7 from a row on take the contents that R427 gives them as a group; their packing is a free one (log 59). -/
def State.packRows (c : SavedCtx) (first n : Nat) (s : State) : State :=
  (List.range n).foldl (fun u k => u.writeRow 7 (first + k) (Config.packRow (first + k) (c.rowNats (first + k)))) s

/-- Rows 192 to 509 of sec7 as the save hardware writes them: the header, t0 to t7 from row 207 on, and the rest (R427, R434). -/
def State.writeArea (c : SavedCtx) (s : State) : State :=
  let t := (s.writeRow 7 192 (c.header (s.sys.ctxver.setWidth 16))).packRows c 193 14
  let t := (List.finRange 128).foldl (fun u k => u.writeRow 7 (207 + k.val) c.seq.tiles[k]) t
  t.packRows c 335 175

/-- CTXSTAT with a context in the save area (R429). -/
def ctxWord (lid : BitVec 32) (ver : BitVec 16) : Word := BitVec.ofNat 64 (1 + ver.toNat * 2 ^ 16 + lid.toNat * 2 ^ 32)

/-- The copies of a saved context stay held in st5, where their issued rows still land (R423, R424). -/
def State.parkCopies (s : State) : State :=
  let mk := fun (c : Cmd) => { c with pred := true, saved := true }
  let ent := fun (e : CopyEnt) => if e.cmd.pred then e
    else { e with cmd := mk e.cmd, held := true, park := some s.lid, ctx := s.cp.ctx, pasid := s.cp.pasid }
  s.onCp fun c => { c with ents := c.ents.map ent, abns := c.abns.filter fun a => a.1.pred, unknown := [] }

/-- The cell is free for another program; the context's sectors keep their contents under code 2 of PSTAT, and a predecessor's
commands go on (R193, R424). -/
def State.leaveCell (s : State) : State :=
  let t := s.stopLanes.parkCopies
  let t := t.onAnn fun a => { a with own := a.own.map fun o => match o with
    | .held false => .kept
    | .releasing false u => .keptRel u
    | o => o }
  let t := t.onMx (Matrix.only fun c => c.pred)
  let t := t.onSeq fun q => { q with run := .idle, loops := [], haltSt := none, suspended := false }
  State.prune { t with prog := none, preq := none, frame := none, seg := SegState.reset, incs := [], fails := [] }

/-! ## Pre-emption (R422 to R426) -/

/-- PREEMPTION_REQUEST: the request waits for the cell's SAFE (R423, R429), and for the end of a freeze (R401). -/
def execPreemptionRequest (full : Bool) (atP : Option Nat) (s : State) : Out :=
  .next (s.thawed (.preemptionRequest full atP) fun s => if s.prog.isNone then s
    else
      let t := s.onSys fun r => { r with ctxstat := (r.ctxstat &&& ~~~(6#64)) ||| (if full then 6#64 else 2#64) }
      { t with preq := some { full := full, atP := atP } })

/-- A context takes the save area, and CTXSTAT names it (R423, R429). -/
def State.saveResident (c : SavedCtx) (s : State) : State :=
  let t := ((s.writeArea c).writeRow 7 510 0).writeRow 7 511 0
  let t := { t.leaveCell with saved := some c }
  t.onSys fun r => { r with ctxstat := ctxWord c.prog.lid (s.sys.ctxver.setWidth 16) }

/-- A context leaves the cell for its slot while another one keeps the save area (R422, R426; log 74). -/
def State.saveBeside (c : SavedCtx) (s : State) : State :=
  let t := { s.leaveCell with saving := some c }
  t.onSys fun r => { r with ctxstat := r.ctxstat &&& ~~~(6#64) }

/-- SAVE_COMPLETE: the save area is written, once no checkpoint's rows wait for their acknowledgement; a full save goes on with the
slot (R423, R426, R429, R434). -/
def execSaveComplete (s : State) : Out :=
  .next (match s.seq.run, s.prog, s.preq with
    | .preempted, some p, some r =>
      if s.ckptOpen then s.plan (s.now + 1) rankEnd (.ev .saveComplete)
      else
        let full := r.full || s.saved.isSome
        let c := s.context p r.cp full
        let t := if s.saved.isSome then s.saveBeside c else s.saveResident c
        if full then t.plan (s.now + fullSave (sectorBytes c.sectors)) rankEnd (.ev .fullSaveComplete) else t
    | _, _, _ => s)

/-- The context whose slot is being written (R426). -/
def State.slotCtx (s : State) : Option SavedCtx :=
  match s.saving with
  | some c => some c
  | none => s.saved.filter fun c => c.full

/-- A context's slot is written: of one beside a saved context the area's bytes go to the slot alone (R426; log 74). -/
def State.writeSlot (c : SavedCtx) (s : State) : Option State :=
  ((if s.saving.isSome then s.writeArea c else s).saveSectors c).map fun t => { t with ann := s.ann }

/-- A context is in its slot: its sectors become FREE, and the save area is empty if it stood there (R426, R429). -/
def State.slotWritten (c : SavedCtx) (s : State) : State :=
  let t := s.freeKept c
  if s.saving.isSome then { t with saving := none }
  else ({ t with saved := none }).onSys fun r => { r with ctxstat := r.ctxstat &&& 6#64 }

/-- FULL_SAVE_COMPLETE: the slot is written and the sectors become FREE; a fault ends the launch (R426). -/
def execFullSaveComplete (s : State) : Out :=
  .next (match s.slotCtx with
    | none => s
    | some c => match s.launchOf c.prog.lid with
      | none => s
      | some l => match s.writeSlot c with
        | none => s.endLaunch l.lid 0x020B 0
        | some t => (t.slotWritten c).onLaunch l.lid fun l => { l with ctx := some c })

/-- Is the focus cell's part of a launch's save still to end? -/
def State.savingHere (s : State) (l : LaunchRec) : Bool :=
  s.runsHere l || s.slotCtx.any fun c => c.prog.lid = l.lid

/-- A pre-empted launch is saved on all its cells: its cells are free, and a suspended one completes with its handle (R417,
R421, R429). -/
def State.launchSaved (lid : BitVec 32) (s : State) : State :=
  match s.launchOf lid with
  | none => s
  | some l =>
    if s.apex.frozen.isSome then s.plan (s.now + 1) rankEnd (.micro (.launchSaved lid))
    else if l.suspend && l.st == .running then s.request true l
    else if l.suspend && l.active && l.st ≠ .saving then s.plan (s.now + 1) rankEnd (.micro (.launchSaved lid))
    else if l.st ≠ .saving then s
    else if s.savingHere l then s.plan (s.now + 1) rankEnd (.micro (.launchSaved lid))
    else
      let h := Config.handle lid
      let t := s.onLaunch lid fun l => { l with
        st := if l.suspend then .suspended else .saved, ran := s.cyclesRun l, ver := s.sys.ctxver.setWidth 16,
        handle := if l.suspend then h else 0 }
      let t := if l.armedNow && l.onDie s.die then t.onAx fun a => { a with armed := a.armed - 1 } else t
      let t := t.dropSlots lid
      (if l.suspend then t.finishEntry l.entry 0x0300 0 h else t).planOnce s.now rankEnd (.ev .dispatch)

/-! ## Checkpoints (R434) -/

/-- The bank that a checkpoint writes: a replay of its segment writes the same one (R434). -/
def State.openBank (s : State) (l : LaunchRec) : Nat :=
  match l.lastCk with
  | some (i, b) => if s.seg.inSeg && i = s.seg.idx && 0 < s.seg.replays then b else l.bank
  | none => l.bank

/-- The rows of a checkpoint go to the open bank; a fault ends the launch (R434). They stand in HBM at once: they do not
change until they are acknowledged. -/
def State.checkpoint (cp : Fin 256) (s : State) : State :=
  match s.ckptOpen, s.prog with
  | true, some p => match s.launchOf p.lid with
    | none => s
    | some l =>
      let b := s.openBank l
      let base := l.pkt.ckpt + b * (0x200000 * l.pkt.w * l.pkt.h)
      let c := { s.context p (some cp) true with region := (l.q, base, l.pkt.w) }
      match (s.writeArea c).savePieces s.apex.queues[l.q] base l.pkt.w l.img cp l.shape s.shapeSize.1 s.cellIdx with
      | none => s.endLaunch l.lid 0x020B 0
      | some t =>
        let f := (t.onLaunch l.lid fun l => { l with openCk := some c, lastCk := some (s.seg.idx, b) }).fresh
        f.2.plan (s.now + 2 + Config.freeDelay f.1) rankEnd (.ev (.checkpointAck l.lid s.self))
  | _, _ => s

/-- CHECKPOINT_ACK: a cell's rows are acknowledged; with the last cell's the open bank becomes the committed one (R434). -/
def execCheckpointAck (lid : BitVec 32) (cell : Peer) (s : State) : Out :=
  .next (s.thawed (.checkpointAck lid cell) fun s =>
    let s := if cell = s.self && (s.prog.any fun p => p.lid = lid) then { s with ckptOpen := false } else s
    match s.launchOf lid with
    | none => s
    | some l =>
      let acked := if l.acked.contains cell then l.acked else cell :: l.acked
      if acked.length < l.ncells then s.onLaunch lid fun l => { l with acked := acked }
      else
        let b := (l.lastCk.map (·.2)).getD l.bank
        s.onLaunch lid fun l => { l with acked := [], committed := some b, bank := 1 - b, heldCk := l.openCk })

/-! ## Fences (R386, R434, R437) -/

/-- A launch resumes from its committed checkpoint on the first shape that leaves out every fenced cell, or ends (R32, R414,
R434); one that is saved is dispatched again from the checkpoint, its save discarded (R437). With neither a checkpoint nor a shape the
status is that of the missing checkpoint (DESIGN CHOICE, log 63). -/
def State.fenceLaunch (l : LaunchRec) (s : State) : State :=
  match l.img.ckpt, l.committed with
  | true, some _ =>
    match pickShape l.img (s.fencesFor l.pkt) (l.rx, l.ry) l.pkt with
    | none => s.endLaunch l.lid 0x0200 0
    | some (k, q) =>
      let t := s.endProgram l.lid
      let t := if l.armedNow && l.onDie s.die then t.onAx fun a => { a with armed := a.armed - 1 } else t
      let t := t.dropSlots l.lid
      let l' := { l with
        shape := k, px := q.1, py := q.2, ran := s.cyclesRun l, openCk := none, acked := [], full := true,
        ctx := l.heldCk.map fun c => c.onShape l.img k }
      let t := t.onLaunch l.lid fun _ => l'
      if l.st == .saved then t.planOnce s.now rankEnd (.ev .dispatch) else t.resume l' l'.ctx
  | _, _ => s.endLaunch l.lid 0x020A 0

/-- The launches that stand on a cell, running or saved there, meet its fence (R386, R434, R437). -/
def State.fenceLaunches (on : LaunchRec → Bool) (s : State) : State :=
  (s.apex.launches.filter fun l => l.draws && on l).foldl (fun u l => u.fenceLaunch l) s

/-- Does a launch run on another module too? -/
def LaunchRec.onModule (l : LaunchRec) (md : Nat) : Bool :=
  l.pkt.mlog ≠ 0 && l.pkt.mfirst ≤ md && md < l.pkt.mfirst + 2 ^ l.pkt.mlog

/-- FENCE_REPORT: an event of kind 2, and every launch whose running shape holds the cell resumes or ends (R386, R434). A cell of
another module is one whose x is 32 × (module + 1) beyond its place there (log 76). -/
def execFenceReport (px py : Nat) (cause : Fin 8) (f : Nat) (s : State) : Out :=
  .next (s.thawed (.fenceReport px py cause f) fun s =>
    if 32 ≤ px then
      let c := (px / 32 - 1, px % 32, py)
      if s.apex.farFences.contains c then s
      else (s.onApex fun a => { a with farFences := a.farFences ++ [c] }).fenceLaunches
        fun l => l.onModule c.1 && l.holdsCell c.2
    else if s.apex.fences.contains (px, py) then s
    else
      let t := s.onApex fun a => { a with fences := a.fences ++ [(px, py)] }
      (t.pushEvent 2 0 (cellWord (px, py)) 0 (cellWord (px, py) + cause.val * 2 ^ 16 + f % 2 ^ 64 * 2 ^ 64)).fenceLaunches
        fun l => l.holdsCell (px, py))

/-! ## Resume (R431, R435) -/

/-- A port as it stands on a resume: a read port's unpopped rows are read again, and the reads are counted (R175, R189,
R431). -/
def State.restorePort (q : Fin 8) (p : PortState) (s : State) : State :=
  if !p.bound || p.wr then s.onPort q fun _ => p
  else
    let n := min p.total (p.k + p.depth)
    let r := ((List.range n).drop p.k).foldl (fun (u : List (Nat × Row) × State) k =>
      let v := u.2.readRow p.sec (p.walkRow k)
      (u.1 ++ [(s.now, v.1)], v.2)) ([], s)
    r.2.onPort q fun _ => { p with nread := n, rows := r.1 }

/-- The ports of a context on a resume. -/
def State.restorePorts (l : Vector PortState 8) (s : State) : State :=
  (List.finRange 8).foldl (fun t q => t.restorePort q l[q]) s

/-- Ownership of a sector after a resume: what the context held it holds again; what it was releasing is still released, if
its commands go on; any other sector stays as it has become since (R193, R424, R431). -/
def ownAgain (full : Bool) (saved cur : Own) : Own :=
  match saved with
  | .held false => .held false
  | .releasing false u => match cur with
    | .keptRel _ => .releasing false u
    | c => if full then .releasing false u else c
  | _ => cur

/-- The lane of a restored binding (R176). -/
def portLane (now : Nat) (p : PortState) : Option LaneUse :=
  if p.bound then
    let b := if p.wr then stnPos p.stn else secPos p.sec
    some { lane := p.lane, segs := segsOf p.lane.ccw b p.hops, from_ := now, until_ := none, gen := p.gen }
  else none

/-- Is every row of a copy issued and landed, so that it only waited for its program to go on (R274, R299)? An ATOM and a timed
command end otherwise. -/
def CopyEnt.moved (e : CopyEnt) : Bool :=
  !e.timed && e.start.isSome && decide (e.rows ≤ e.nland) && (match e.cmd.op with
    | .atom _ _ _ _ => false
    | _ => true)

/-- The copies of a context go on from their (i, j); one whose last row has landed meanwhile completes or fails (R294, R299,
R431). Of a copy that st5 no longer holds, every issued row has landed. -/
def State.restoreCopies (c : SavedCtx) (s : State) : State :=
  let mine := fun (e : CopyEnt) => e.park = some c.prog.lid
  let back := c.ents.map fun e =>
    let now := s.cp.ents.find? fun x => mine x && x.cmd.idx = e.cmd.idx
    let x := now.getD { e with paused := false, nland := e.nissue, fly := [], reqs := [] }
    { x with cmd := { x.cmd with pred := false, saved := false }, held := false, park := none, trans := none, walking := false }
  let left := fun (a : Cmd × Option Nat × List (BitVec 24)) => (a.1, a.2.1, a.2.2.filter fun i => back.any fun e => e.cmd.idx = i)
  let t := (s.onCp fun p => { p with
    ents := (p.ents.filter fun e => !mine e) ++ back, abns := p.abns ++ c.abns.map left, unknown := c.unknown }).wakeCopies
  let t := (back.filter CopyEnt.moved).foldl (fun u e => u.settle e.cmd.idx 1) t
  (c.abns.filter fun a => a.2.1.isSome && (left a).2.2.isEmpty).foldl
    (fun u a => u.plan (s.now + 1) rankEnd (.ev (.commandCompletion .cps a.1.idx))) t

/-- The segment of a resumed context: T1 as its origin, and the shadow of the resume (R348, R435). -/
def State.restoreSeg (c : SavedCtx) (same : Bool) (s : State) : State :=
  if !c.seg.inSeg then ({ s with seg := c.seg }).onAnn fun a => { a with ranges := Vector.replicate 16 none }
  else
    let k := c.rel + c.gap
    let h := { s.takeShadow s.seq.pc with safect := 0, crc := s.seq.crc }
    let t : State := { s with seg := { c.seg with
      origin := s.ax.value - BitVec.ofNat 64 k, startAt := s.now, resumedAt := k, shadow := some h, kept := [], since := s.now,
      pending := none, noSig := c.seg.noSig || !same } }
    match t.segTable[c.seg.idx]? with
    | some g => (t.loadMasks g).onAnn fun a => { a with ranges := rangesOf t.cellIdx g }
    | none => t

/-- The registers, tables and units of a context, on a cell that does not yet issue (R427, R431); the units' own counts go on. -/
def State.restoreUnits (c : SavedCtx) (s : State) : State :=
  let t := s.onSeq fun q => { c.seq with
    code := q.code, dict := q.dict, run := .idle, escPaid := true, starved := false, mode := .user }
  let t := t.onSys fun r => { r with
    srkey := c.sys.srkey, srkctr := c.sys.srkctr, uhvec := c.sys.uhvec, mbox := c.sys.mbox, safect := 0,
    lmod := BitVec.ofNat 64 s.apex.dmap.val }
  let t := t.onMx fun m => { c.mx with
    q := { c.mx.q with count := m.q.count }, fail := m.fail, corr := m.corr, uncorr := m.uncorr, lastUn := m.lastUn, inj := m.inj,
    afree := s.now, dfree := s.now }
  let t := t.onSh fun h => { h with slots := c.slots, tblBad := c.tblBad, tblFlaw := c.tblFlaw }
  let t := t.onHl fun h => { h with spareNew := c.spare }
  { t with sems := c.sems, ckptOpen := false, frame := none, preq := none, prog := t.prog.map fun p => { p with start := c.prog.start } }

/-- A restored program goes on with the bundle after its SAFE: its sectors are HELD again, its ports read again, its segment, copies
and nest go on (R431 to R435). -/
def State.goOn (l : LaunchRec) (c : SavedCtx) (s : State) : State :=
  let t : State := if s.saved.any fun x => x.prog.lid = l.lid then { s with saved := none } else s
  let t := t.onSys fun r => { r with ctxstat := if s.saved.any fun x => x.prog.lid = l.lid then 0 else r.ctxstat }
  let t := (t.onAnn fun a => { a with own := Vector.ofFn fun i => ownAgain c.full c.own[i] a.own[i] }).restorePorts c.ports
  let t := t.onAnn fun a => { a with lanes := a.lanes ++ a.ports.toList.filterMap (portLane s.now) }
  let t := t.onSeq fun q => { q with run := .running, issueAt := s.now }
  ((t.restoreSeg c (c.shape.toNat = l.shape)).restoreCopies c).resumeArray

/-- Does a context lie in a checkpoint bank, whose slots hold its pieces alone (R434)? -/
def LaunchRec.fromBank (l : LaunchRec) (c : SavedCtx) : Bool := l.heldCk.any fun h => h.region == c.region

/-- The sectors of a context come back from its slot, piece by piece from a bank or on another shape (R431, R433, R434). -/
def State.bringBack (l : LaunchRec) (c : SavedCtx) (s : State) : Option State :=
  match c.cp, l.fromBank c || c.shape.toNat ≠ l.shape with
  | some k, true =>
    s.loadPieces s.apex.queues[c.region.1] c.region.2.1 c.region.2.2 l.img k c.shape.toNat (fieldNat c.sys.lwh 0 16) l.shape s.cellIdx
  | _, _ => s.loadSectors c

/-- The cell of a launch's shape on which a context goes on: its own logical cell, or its save area's place in a new shape; none
where it has no place there (R29, R431, R433). -/
def SavedCtx.cellIn (c : SavedCtx) (l : LaunchRec) : Option Nat :=
  if c.shape.toNat = l.shape then some c.cell
  else (c.cp.bind fun k => (saveRec l.img k c.shape.toNat c.cell).bind fun r => sameIn l.img r l.shape).map (·.cell)

/-- Physical cell of a logical one of a launch. -/
def LaunchRec.cellAt (l : LaunchRec) (i : Nat) : Nat × Nat := (l.px + i % l.shapeRec.w, l.py + i / l.shapeRec.w)

/-- The code stream of a cell of a launch. -/
def LaunchRec.streamOf (l : LaunchRec) (i : Nat) : CellStream :=
  (l.shapeRec.cells[i]?).getD { off := 0, len := 0, code := [], entry := 0 }

/-- Address of the SAFE that marks a congruence point in a cell's stream (R432, R433). -/
def LaunchRec.safeOf (l : LaunchRec) (i : Nat) (k : Fin 256) : Option Nat :=
  ((streamBundles l.shapeRec.dict (l.streamOf i).code).find? fun p => match ctlOf p.2 with
    | .safe (some n) => n = k
    | _ => false).map (·.1)

/-- A context in another shape's stream: it stands after the SAFE of its congruence point there, and its loops' addresses move with
that SAFE (R433; DEDUCED, log 80). -/
def SavedCtx.inStream (l : LaunchRec) (i : Nat) (c : SavedCtx) : SavedCtx :=
  match (if c.shape.toNat = l.shape then none else c.cp.bind (l.safeOf i)) with
  | none => c
  | some a =>
    let mv := fun (v : BitVec 15) => v + BitVec.ofNat 15 a - c.seq.safeAt
    { c with seq := { c.seq with
        pc := BitVec.ofNat 15 (nextStart (l.streamOf i).code a), safeAt := BitVec.ofNat 15 a,
        loops := c.seq.loops.map fun v => { v with start := mv v.start, stop := mv v.stop } } }

/-- What a cell starts with that holds no save area of the new shape: the state of a program's first bundle, at the bundle after its
congruence SAFE (R93, R149, R433; log 80). -/
def SavedCtx.asFresh (l : LaunchRec) (i : Nat) (c : SavedCtx) : SavedCtx :=
  let v := c.inStream l i
  { v with
    seq := { Seq.reset with mode := .user, pc := v.seq.pc, safeAt := v.seq.safeAt, safeCp := c.cp, crc := c.seq.crc },
    sys := { c.sys with srkey := 0, srkctr := 0, uhvec := 0, mbox := Vector.ofFn fun n => mailbox l.pkt l.img n },
    sems := Vector.replicate 256 Sem.zero, ports := Vector.replicate 8 PortState.reset,
    own := takeSectors (takesOf l.img) (Vector.replicate 8 .free), mx := Matrix.reset, ents := [], abns := [], unknown := [],
    slots := Vector.replicate 4 none, tblBad := [], tblFlaw := [] }

/-- What the focus goes on with in a launch's placement, and its logical cell there: its context where that has a place, or a fresh
cell (R433; log 80). -/
def State.backAs (s : State) (l : LaunchRec) (c : SavedCtx) : Option (Nat × SavedCtx) :=
  match c.cellIn l with
  | some i => some (i, c.inStream l i)
  | none =>
    let fresh := (List.range (l.shapeRec.w * l.shapeRec.h)).filter fun i => c.cp.all fun k => (saveRec l.img k l.shape i).isNone
    let here := fresh.find? fun i => l.cellAt i = s.phys
    (if here.isSome then here else fresh.head?).map fun i => (i, c.asFresh l i)

/-- The units of the die in focus. -/
def State.dieUnits (s : State) : DieUnits :=
  { ax := s.ax, tlb := s.cp.tlb, walks := s.cp.walks, phy := s.phy, phyFlash := s.phyFlash }

/-- Timed launches armed on a die (R353). -/
def State.armedOn (s : State) (d : Nat) : Nat :=
  (s.apex.launches.filter fun l => l.armedNow && l.onDie d).length

/-- The units of a die as the focus comes to it: as they were left, or as at reset; all counters of the module agree (R342,
R353; log 1). -/
def State.unitsOf (s : State) (d : Nat) : DieUnits :=
  let u := match s.dies.find? fun e => e.1 = d with
    | some e => e.2
    | none => { ax := { Abscissa.reset with ports := s.ax.ports }, tlb := [], walks := [], phy := State.reset.phy,
                phyFlash := State.reset.phyFlash }
  { u with ax := { u.ax with
      value := s.ax.value, hold := 0, jump := 0, ref := decide (s.apex.dmap.val = 0 ∧ d = 0), armed := s.armedOn d,
      lkcfg := s.ax.lkcfg } }

/-- The focus comes to another die of the module: its own Abscissa unit, map unit and PHYs (R284, R342, R458). -/
def State.moveDie (d : Nat) (s : State) : State :=
  if d = s.die then s
  else
    let u := s.unitsOf d
    let t := s.onCp fun c => { c with tlb := u.tlb, walks := u.walks }
    { t with ax := u.ax, phy := u.phy, phyFlash := u.phyFlash,
             dies := (s.die, s.dieUnits) :: s.dies.filter fun e => e.1 ≠ s.die && e.1 ≠ d }

/-- Flash's spare map of a cell (R397). -/
def Apex.spareOf (a : Apex) (c : Nat × Nat) : Word := ((a.spares.find? fun e => e.1 = c).map (·.2)).getD 0x1FFFFF#64

/-- The focus follows its context to another cell of the mesh (log 1): that cell's unit state is as at reset, with its own spare map. -/
def State.moveTo (p : Nat × Nat) (s : State) : State :=
  if p = s.phys then s
  else
    let w := s.apex.spareOf p
    let t := (s.moveDie (dieOf p.1 p.2)).onSys fun r => { r with
      pxy := BitVec.ofNat 64 (p.1 + p.2 * 2 ^ 16), pdie := BitVec.ofNat 64 (dieOf p.1 p.2) }
    let t := t.onApex fun a => { a with
      spares := (s.phys, s.hl.spareFlash) :: a.spares.filter fun e => e.1 ≠ s.phys && e.1 ≠ p }
    t.onHl fun h => { Health.reset with
      sides := Vector.ofFn fun i => SideRec.reset (neighbour p i).isSome, fmap := h.fmap, pkey := h.pkey, pmifsig := h.pmifsig,
      spareNow := w, spareNew := w, spareFlash := w }

/-- Does st0 hold a command: one of a predecessor, which a resume waits for (R193)? -/
def Matrix.works (m : Matrix) : Bool :=
  m.array.isSome || m.adrain.isSome || m.drain.isSome || m.zero.isSome || !m.q.normal.isEmpty || !m.q.prio.isEmpty

/-- The focus's part of a launch is restored: a resident context on its own cell, any other from its slot; none while a predecessor's
commands run in st0, and a fault of the slot is the second none (R426, R431). A cell that runs another program is none of its cells. -/
def State.bringIn (l : LaunchRec) (s : State) : Option (Option State) :=
  match l.ctx with
  | none => some (some s)
  | some c =>
    if s.prog.isSome then some (some s)
    else match s.backAs l c with
      | none => some (some s)
      | some (i, v) =>
        if s.hl.fenced && l.cellAt i = s.phys then some (some s)
        else if s.mx.works then none
        else
          let u := (s.moveTo (l.cellAt i)).loadProgram l
          let w := if s.saved == some c then some u else u.bringBack l c
          some (w.map fun t => (t.restoreUnits v).onLaunch l.lid fun l => { l with ctx := some v })

/-- A saved launch's cells of this module are restored (R431); none while the Apex is frozen (R401). -/
def State.restored (lid : BitVec 32) (s : State) : State :=
  match s.launchOf lid with
  | none => s
  | some l =>
    if l.st ≠ .restoring || l.back then s
    else if s.apex.frozen.isSome then s.plan (s.now + 1) rankRead (.micro (.restored lid))
    else match s.bringIn l with
      | none => s.plan (s.now + 1) rankRead (.micro (.restored lid))
      | some none => s.endLaunch lid 0x020B 0
      | some (some t) => (t.onLaunch lid fun l => { l with back := true }).allBack lid

/-- Counter value before which a resumed launch issues nothing: T1 + k + 1 of a timed context, none for an untimed one (R435). -/
def LaunchRec.startOf (l : LaunchRec) : Nat :=
  match l.ctx, l.img.timed with
  | some c, true => l.t0 + c.rel + c.gap
  | none, true => l.t0
  | _, false => 0

/-- RESUME_START: a restored launch issues the bundle after its SAFE on each cell, a timed one, which is armed on its cells, at
T1 + k + 1; one that cannot has slipped (R418, R431, R435). No launch resumes while the Apex is frozen (R401). -/
def execResumeStart (p : Placement) (s : State) : Out :=
  .next (s.thawed (.resumeStart p) fun s => match s.launchOf p.lid with
    | none => s
    | some l =>
      if l.st ≠ .resuming then s
      else if s.absc < l.startOf then s.planFor l.startOf rankRead (.ev (.resumeStart p))
      else
        let t := s.runs l
        if !s.runsHere l then t
        else if l.img.timed && (decide (l.startOf < s.absc) || s.hl.fenced || s.seq.run ≠ .idle) then s.endLaunch l.lid 0x0203 0
        else match l.ctx with
          | none => t
          | some c => if s.seq.run == .idle then t.goOn l c else t)

end Sys2Proof.Machine
end

