-- ==== Sys2Proof/Machine/Driver.lean ====
section
/-! DEFINITION. The host's side: fault records and page services, invalidations, driver commands, BAR0, the aperture, RDMA,
firmware, the Apex's freeze, and the start order (R290 to R296, R397, R401, R402, R430, R445 to R456). -/

namespace Sys2Proof.Machine

/-! ## Fault records and page services (R290, R292, R293) -/

/-- The page that a record names: 64 KiB, or a host's 4 KiB (R293). -/
def FaultRec.page (r : FaultRec) : Nat :=
  if r.kind = 4 then r.addr.toNat / 4096 * 4096 else r.addr.toNat / 65536 * 65536

/-- A service as the driver gets it: an event of kind 1 with the page, its asid and the records merged (R293, R415). -/
def State.pushService (v : Nat × BitVec 16 × BitVec 16 × Nat) (s : State) : State :=
  s.pushEvent 1 0 v.2.2.1.toNat 0 (v.1 + v.2.1.toNat * 2 ^ 64 + min v.2.2.2 0xFFFF * 2 ^ 80)

/-- A service is passed to the driver, with every record merged into it; a later record of the page begins another (R293;
log 58). -/
def State.passService (page : Nat) (asid : BitVec 16) (s : State) : State :=
  if s.apex.frozen.isSome then s.plan (s.now + 1) rankEnd (.micro (.passService page asid))
  else match s.apex.services.find? fun v => v.1 = page && v.2.1 = asid with
    | none => s
    | some v => (s.onApex fun a => { a with services := a.services.erase v }).pushService v

/-- A record is merged into the service of its page that waits to be passed, or begins one (R293; log 58); one of kind 5 is
reported alone (log 14). A record of kind 4 brings a page request (R290). -/
def State.serviceRecord (r : FaultRec) (s : State) : State :=
  let same := fun (v : Nat × BitVec 16 × BitVec 16 × Nat) => v.1 = r.page && v.2.1 = r.asid
  if r.kind = 5 then s.pushService (r.page, r.asid, r.cell, 1)
  else
    let t := if s.apex.services.any same
      then s.onApex fun a => { a with services := a.services.map fun v => if same v then (v.1, v.2.1, v.2.2.1, v.2.2.2 + 1) else v }
      else
        let f := s.fresh
        (f.2.onApex fun a => { a with services := a.services ++ [(r.page, r.asid, r.cell, 1)] }).plan
          (s.now + 1 + Config.freeDelay f.1) rankEnd (.micro (.passService r.page r.asid))
    if r.kind = 4 then t.pageRequest (r.pasid.setWidth 20) (r.addr.toNat % 2 ^ 54 / 4096) else t

/-- A record that has been read: its bytes stand in its slot until one of the queue's 4,096 slots is written again (R292,
R341). -/
def Copy.seeRecord (r : FaultRec) (rest : List FaultRec) (c : Copy) : Copy :=
  let seen := c.faultSeen ++ [r]
  { c with faultq := rest, faultSeen := seen.drop (seen.length + rest.length - 4096) }

/-- FAULT_RECORD_READ: the Apex reads the oldest record; its slot frees (R292, R293). -/
def execFaultRecordRead (s : State) : Out :=
  .next (s.thawed .faultRecordRead fun s => match s.cp.faultq with
    | [] => s
    | r :: rest => ((s.onCp (Copy.seeRecord r rest)).serviceRecord r).wantedRecord)

/-- A page's service ends: the copies paused on it go on or fail, and the fetches and SIGNALs that wait for it (R290, R293, R404,
R411). -/
def State.endService (host : Bool) (ctx page : Nat) (ok : Bool) (s : State) : State :=
  (s.pageAnswer host ctx page ok).serveApex host ctx page ok

/-- PRI_GROUP_RESPONSE (R290): the next waiting request goes out. -/
def execPriGroupResponse (pasid : BitVec 20) (page : Nat) (ok : Bool) (s : State) : Out :=
  let t := s.onApex fun a => { a with pris := a.pris.filter fun p => p ≠ (pasid, page) }
  let t := t.endService true pasid.toNat page ok
  .next (match t.apex.priWait with
    | [] => t
    | p :: l => if t.apex.pris.length < 1024 then (t.onApex fun a => { a with priWait := l }).pageRequest p.1 p.2 else t)

/-! ## Invalidations (R295, R296) -/

/-- Does a copy move rows at translated addresses (R283)? -/
def Cmd.translates (c : Cmd) : Bool :=
  match c.op with
  | .cph _ => true
  | .cpv _ => true
  | _ => false

/-- The rows of copies that were issued under a translation that an invalidation covers, and that have neither landed nor been
acknowledged (R295, R296). -/
def State.inFlight (s : State) (covers : CopyEnt → Nat → Bool) : List (BitVec 24 × Nat) :=
  (s.cp.ents.filter fun e => !e.timed && e.cmd.translates).flatMap fun e =>
    (e.fly.filter fun k => covers e (e.cmd.dva k)).map fun k => (e.cmd.idx, k)

/-- Copies whose next row was translated under a covered entry translate it again (R295, R296). -/
def State.translateAgain (covers : CopyEnt → Nat → Bool) (s : State) : State :=
  let again := fun (e : CopyEnt) => if !e.timed && e.trans.isSome && covers e (e.cmd.dva e.nissue) then { e with trans := none } else e
  (s.onCp fun c => { c with ents := c.ents.map again }).wakeCopies

/-- May the completion of an invalidation be sent: has every row landed, or its copy paused or gone (R295)? -/
def State.invalDone (s : State) (v : Inval) : Bool :=
  v.waits.all fun w => match s.ent w.1 with
    | none => true
    | some e => e.paused || !e.fly.contains w.2

/-- Does a host invalidation cover the translation of a row (R295)? -/
def State.hostCovers (s : State) (pasid : BitVec 20) (page pages : Nat) (e : CopyEnt) (dva : Nat) : Bool :=
  2 ^ 54 ≤ dva && s.hostPasid e = pasid && page ≤ hostPage dva && hostPage dva < page + pages

/-- Does a device-table invalidation cover the translation of a row: does its 64 KiB page, or the cached page that holds it, meet
the range (R296)? -/
def State.deviceCovers (s : State) (asid : BitVec 16) (base len : Nat) (e : CopyEnt) (dva : Nat) : Bool :=
  let meets := fun (b n : Nat) => b < base + len && base < b + n
  dva < 2 ^ 54 && ctxAsid (s.ctxOf e) = asid && (meets (dva / 65536 * 65536) 65536 ||
    s.cp.tlb.any fun t => t.asid = asid && meets t.base t.size && t.base ≤ dva && dva < t.base + t.size)

/-- ATS_INVALIDATION: covered entries go; later rows translate again (R295). -/
def execAtsInvalidation (pasid : BitVec 20) (page pages : Nat) (s : State) : Out :=
  let hit := fun (p : BitVec 20) (g : Nat) => p = pasid && page ≤ g && g < page + pages
  let covers := s.hostCovers pasid page pages
  let v : Inval := { host := true, asid := pasid, base := page, len := pages, waits := s.inFlight covers }
  .next ((s.onCp fun c => { c with
    ats := c.ats.filter fun a => !hit a.pasid a.page, invals := c.invals ++ [v] }).translateAgain covers)

/-- The first invalidation of a kind that is done goes. -/
def State.takeInval (host : Bool) (s : State) : Option State :=
  match s.cp.invals.find? fun v => v.host == host && s.invalDone v with
  | some v => some (s.onCp fun c => { c with invals := c.invals.erase v })
  | none => none

/-- ATS_INVALIDATION_COMPLETE (R295). -/
def execAtsInvalidationComplete (s : State) : Out :=
  .next (match s.takeInval true with
    | some t => t.emit .atsDone
    | none => s)

/-- INVALIDATION_COMPLETE: the driver's command ends (R296, R447). -/
def execInvalidationComplete (s : State) : Out :=
  .next (match s.takeInval false with
    | some t => (t.emit .invalDone).endCommand 0
    | none => s)

/-! ## Driver commands (R447) -/

/-- A driver command starts: busy is set; while busy, and before the endpoint accepts accesses, it is ignored (R447,
R453). -/
def State.command (code : Nat) (op0 : Nat) (fn : Fin 9) (k : State → State) (s : State) : State :=
  if s.apex.boot ≠ .up || s.apex.busy then s
  else k (s.onApex fun a => { a with
    busy := true, dfn := fn, dcmd := BitVec.ofNat 64 code, dop := a.dop.set 0 (BitVec.ofNat 64 op0) })

/-- PAGE_SERVICED (R293, R447). Of a host page the service was a notice: the copies on it go on by the PRI group response alone
(R290, R336). -/
def execPageServiced (fn : Fin 9) (dva : Nat) (asid : BitVec 16) (refused : Bool) (s : State) : Out :=
  .next (s.command 1 dva fn (fun s =>
    (if 2 ^ 54 ≤ dva then s else s.endService false asid.toNat (dva / 65536) (!refused)).endCommand 0))

/-- INVALIDATE_DEVICE_TABLES: TLB and walk-cache entries of the range go, in every map unit of the module (R296). -/
def execInvalidateDeviceTables (fn : Fin 9) (asid : BitVec 16) (dva : Nat) (len : Nat) (s : State) : Out :=
  .next (s.command 2 asid.toNat fn (fun s =>
    let meets := fun (a : BitVec 16) (b n : Nat) => a = asid && b < dva + len && dva < b + n
    let covers := s.deviceCovers asid dva len
    let v : Inval := { host := false, asid := asid.setWidth 20, base := dva, len := len, waits := s.inFlight covers }
    let tlb := fun (l : List TlbEnt) => l.filter fun e => !meets e.asid e.base e.size
    let walks := fun (l : List WalkEnt) => l.filter fun w => !meets w.asid w.base (levelSpan w.lvl)
    let t : State := { s with dies := s.dies.map fun d => (d.1, { d.2 with tlb := tlb d.2.tlb, walks := walks d.2.walks }) }
    (t.onCp fun c => { c with tlb := tlb c.tlb, walks := walks c.walks, invals := c.invals ++ [v] }).translateAgain covers))

/-- A command that names a launch, if its function owns the launch's queue (R447). -/
def State.onOwned (fn : Fin 9) (lid : BitVec 32) (k : LaunchRec → State → State) (s : State) : State :=
  match s.launchOf lid with
  | none => s.endFree
  | some l => if fn ≠ 0 && (s.apex.queues[l.q]).vf ≠ fn.val then s.endCommand 0x03 else k l s

/-- SUSPEND_LAUNCH: a full save, unless the packet does not allow one (R429); no request goes out while the Apex is frozen
(R401). -/
def execSuspendLaunch (fn : Fin 9) (lid : BitVec 32) (s : State) : Out :=
  .next (s.command 3 lid.toNat fn (State.onOwned fn lid fun l s =>
    if !l.mayFull then s.endCommand 0x06
    else if l.st == .suspended then s.endFree
    else
      let t := (s.onLaunch lid fun l => { l with suspend := true }).onApex fun a => { a with dwait := some l.entry }
      match l.st with
      | .running => if s.apex.frozen.isSome then t.plan (s.now + 1) rankEnd (.micro (.launchSaved lid))
          else t.request true { l with suspend := true }
      | .saved =>
        let u := t.writeOut l
        if s.mates l.pkt l.img.timed ≠ 0 then u.emit (.remote (.preempt lid true none)) else u
      | _ => t.plan (s.now + 1) rankEnd (.micro (.launchSaved lid))))

/-- ABANDON_LAUNCH (R414, R437). -/
def execAbandonLaunch (fn : Fin 9) (lid : BitVec 32) (s : State) : Out :=
  .next (s.command 4 lid.toNat fn (State.onOwned fn lid fun l s =>
    let t := s.endLaunch lid 0x0206 0
    if (s.heapEnt l.entry).isSome then t.onApex fun a => { a with dwait := some l.entry } else t.endCommand 0))

/-- ABANDON_COPY: as CPABN of one copy (R269, R447). -/
def execAbandonCopy (fn : Fin 9) (px py : Nat) (idx : BitVec 24) (s : State) : Out :=
  .next (s.command 5 (cellWord (px, py)) fn (fun s =>
    if (px, py) = s.phys && (s.cp.ents.any fun e => e.stoppable && e.cmd.idx = idx) then
      let t := s.stopCopy idx 0x27 5
      match t.ent idx with
      | none => t.endCommand 0
      | some e => t.onCp fun c => { c with
          invals := c.invals ++ [{ host := false, asid := 0, base := 0, len := 0, waits := e.fly.map fun k => (idx, k) }] }
    else s.endCommand 0))

/-- Dies of a function's partition (R448). -/
def Apex.partition (a : Apex) (vf : Nat) : BitVec 4 := if vf = 0 then 0xF else a.vfs[vf]?.getD 0

/-- ENABLE_QUEUE (R404, R447, R448). -/
def execEnableQueue (fn : Fin 9) (q : Fin 64) (s : State) : Out :=
  .next (s.command 6 q.val fn (fun s =>
    let d := s.apex.queues[q]
    if fn ≠ 0 && d.vf ≠ fn.val then s.endCommand 0x03
    else if d.dies &&& ~~~(s.apex.partition d.vf) ≠ 0 then s.endCommand 0x04
    else if d.st ≠ .disabled then s.endCommand 0
    else
      let bad := decide (2 ^ d.lgsz < (d.tail - d.head).toNat)
      let t := s.onQueue q fun d => { d with st := if bad then .error else .active }
      (if bad then t else t.planOnce (s.now + 1) rankEnd (.ev (.queueFetch q none none))).endCommand 0))

/-- RESET_QUEUE: an ERROR queue is DISABLED with head := tail (R404). -/
def execResetQueue (fn : Fin 9) (q : Fin 64) (s : State) : Out :=
  .next (s.command 6 q.val fn (fun s =>
    let d := s.apex.queues[q]
    if fn ≠ 0 && d.vf ≠ fn.val then s.endCommand 0x03
    else if d.st ≠ .error then s.endCommand 0
    else (s.onQueue q fun d => { d with st := .disabled, head := d.tail }).endCommand 0))

/-- CLEAR_SERVICE_HOLD (R396, R447). -/
def execClearServiceHold (fn : Fin 9) (px py : Nat) (s : State) : Out :=
  .next (s.command 9 (cellWord (px, py)) fn (fun s =>
    if fn ≠ 0 then s.endCommand 0x02
    else
      let t := s.onApex fun a => { a with holds := a.holds.filter fun c => c ≠ (px, py) }
      (if (px, py) = s.phys then t.onHl fun h => { h with hold := false } else t).endCommand 0))

/-- VF_BIND: a partition of 1, 2 or 4 dies that overlaps no other function's (R448). -/
def execVfBind (vf : Fin 9) (dies : BitVec 4) (s : State) : Out :=
  let legal := ([0, 1, 2, 4, 8, 3, 12, 15] : List (BitVec 4)).contains dies
  let clash := (List.finRange 9).any fun v => v ≠ vf && s.apex.vfs[v] &&& dies ≠ 0
  .next (if vf = 0 || !legal || clash then s else s.onApex fun a => { a with vfs := a.vfs.set vf dies })

/-! ## Firmware (R430, R447, R452) -/

/-- STAGE_FIRMWARE: a verified image is staged, as the second image of the flash (R452; log 9). -/
def execStageFirmware (fn : Fin 9) (dva : Nat) (len : Nat) (version prev : BitVec 16) (s : State) : Out :=
  .next (s.command 7 dva fn (fun s =>
    let t := s.onApex fun a => { a with dop := a.dop.set 1 (BitVec.ofNat 64 len) }
    let f := t.fresh
    if fn ≠ 0 then s.endCommand 0x02
    else if Config.firmwareVerifies f.1 then
      let g : Firmware := { id := f.1 + 2, version := version, prev := prev }
      (f.2.onApex fun a => { a with fwStage := some g, fwOther := g }).endCommand 0
    else f.2.endCommand 0x05))

/-- Saved contexts that a firmware could not restore (R430). -/
def State.unrestorable (s : State) (f : Firmware) : List LaunchRec :=
  s.apex.launches.filter fun l => !l.active && l.ver ≠ f.version && l.ver ≠ f.prev

/-- ACTIVATE_FIRMWARE: refused with an event of kind 7, or waiting until nothing runs or is arming (R430). -/
def execActivateFirmware (fn : Fin 9) (s : State) : Out :=
  .next (s.command 8 0 fn (fun s =>
    if fn ≠ 0 then s.endCommand 0x02
    else match s.apex.fwStage with
      | none => s.endFree
      | some f => match s.unrestorable f with
        | [] => (s.onApex fun a => { a with fwWait := true }).planOnce s.now rankEnd (.ev .firmwareActivation)
        | l =>
          let mask := ((List.range 64).filter fun q => l.any fun r => r.q.val = q).foldl (fun m q => m + 2 ^ q) 0
          (s.pushEvent 7 0 0 0 mask).endFree))

/-- FIRMWARE_ACTIVATION: once no launch is running or arming; admission goes on (R428, R430). -/
def execFirmwareActivation (s : State) : Out :=
  .next (match s.apex.fwWait, s.apex.fwStage with
    | true, some f =>
      if s.apex.launches.any fun l => l.active then s
      else
        let t := s.onApex fun a => { a with fwRun := f, fwOther := s.apex.fwRun, fwStage := none, fwWait := false }
        let t := t.onSys fun r => { r with ctxver := BitVec.ofNat 64 (f.version.toNat + f.prev.toNat * 2 ^ 16) }
        let t := if s.apex.busy && s.apex.dcmd = 8 then t.endCommand 0 else t
        (t.apex.heap.foldl (fun u e => u.judge e.id) t).planOnce s.now rankEnd (.ev .dispatch)
    | _, _ => s)

/-- The spare maps in flash, of the module's 768 cells (R397). -/
def State.spareMaps (s : State) : List Word :=
  ((List.range 24).flatMap fun y => (List.range 32).map fun x => (x, y)).map fun c =>
    if c = s.phys then s.hl.spareFlash else s.apex.spareOf c

/-- GET_MEASUREMENTS: digests of the running firmware, the staged one and every spare map in flash; an error, here no
digest, from a module without a valid image (R452, R453; log 9). -/
def execGetMeasurements (s : State) : Out :=
  .next (s.emit (.measures (if s.apex.boot == .dead then []
    else Config.digest s.apex.fwRun.id :: (match s.apex.fwStage with
      | some f => [Config.digest f.id]
      | none => []) ++ s.spareMaps.map fun w => Config.digest (2 ^ 64 + w.toNat))))

/-- SPARE_FLASH_WRITE: the flash holds the map, and an event of kind 8 says so (R397, R415). -/
def execSpareFlashWrite (s : State) : Out :=
  .next (match s.hl.spareBusy with
    | none => s
    | some m => (s.onHl fun h => { h with spareFlash := m, spareBusy := none }).pushEvent 8 0 (cellWord s.phys) 0 m.toNat)

/-! ## Memory and links (R446, R451) -/

/-- APERTURE_ACCESS: a byte of module HBM at APBASE plus the offset (R446). -/
def execApertureAccess (write : Bool) (off : Nat) (data : Byte) (s : State) : Out :=
  let a := s.apex.apbase.toNat + off
  if 2 ^ 32 ≤ off || Config.hbmBytes ≤ a then .fault .apertureOutside
  else .next (if write then s.putHbm a [data] else s.emit (.aperture off (s.cp.hbm.get a)))

/-- Bytes of HBM. -/
def State.hbmSlice (s : State) (a n : Nat) : List Byte := (List.range n).map fun k => s.cp.hbm.get (a + k)

/-- RDMA_WRITE: an incoming one writes module HBM, an outgoing one sends bytes of it (R451). -/
def execRdmaWrite (incoming : Bool) (addr : Nat) (data : List Byte) (s : State) : Out :=
  .next (if incoming then (if addr + data.length ≤ Config.hbmBytes then s.putHbm addr data else s)
    else s.emit (.rdma 0 addr (s.hbmSlice addr data.length)))

/-- Bytes that the link brings for a buffer of module HBM (R451). -/
def State.rdmaIn (addr : Nat) (data : List Byte) (s : State) : State :=
  if addr + data.length ≤ Config.hbmBytes then s.putHbm addr data else s

/-- RDMA_READ: an incoming one is answered from module HBM; an outgoing one's request leaves, and its answer goes to module HBM
(R451). -/
def execRdmaRead (what : RdmaRead) (addr : Nat) (len : Nat) (s : State) : Out :=
  .next (match what with
    | .served => s.emit (.rdma 1 addr (s.hbmSlice addr len))
    | .posted => s.emit (.rdma 4 addr [])
    | .answer data => s.rdmaIn addr data)

/-- RDMA_SEND: a message comes into the buffer posted for it, or leaves from one (R451). -/
def execRdmaSend (incoming : Bool) (buf : RdmaBuf) (s : State) : Out :=
  .next (if incoming then s.rdmaIn buf.addr buf.data else s.emit (.rdma 2 buf.addr (s.hbmSlice buf.addr buf.data.length)))

/-! ## BAR0 and plain registers (R105, R403, R446) -/

/-- A field of a DISABLED queue's descriptor written by the driver (R403). -/
def QueueDesc.put (d : QueueDesc) (off : Nat) (v : Word) : QueueDesc :=
  if d.st ≠ .disabled then d
  else match off with
    | 0 => { d with base := v }
    | 8 => { d with lgsz := v.toNat % 256 }
    | 10 => { d with vf := v.toNat % 256 }
    | 11 => { d with dies := v.setWidth 4 }
    | 16 => { d with tail := v.setWidth 32 }
    | 20 => { d with asid := v.setWidth 16 }
    | 24 => { d with pasid := v.setWidth 32 }
    | 28 => { d with root := v.setWidth 32 }
    | _ => d

/-- Does a function see a queue: the physical function every one, a virtual function its own (R446)? -/
def QueueDesc.seenBy (d : QueueDesc) (fn : Fin 9) : Bool := fn = 0 || d.vf = fn.val

/-- Code of a queue's state (R404). -/
def QState.code : QState → Nat
  | .disabled => 0
  | .active => 1
  | .fetchFaulted => 2
  | .error => 3

/-- Double k of a descriptor in the queue table (R403). -/
def QueueDesc.double (d : QueueDesc) (k : Nat) : Word :=
  match k with
  | 0 => d.base
  | 1 => BitVec.ofNat 64 (d.lgsz % 256 + d.st.code * 2 ^ 8 + d.vf % 256 * 2 ^ 16 + d.dies.toNat * 2 ^ 24 + d.head.toNat * 2 ^ 32)
  | 2 => BitVec.ofNat 64 (d.tail.toNat + d.asid.toNat * 2 ^ 32)
  | _ => BitVec.ofNat 64 (d.pasid.toNat + d.root.toNat * 2 ^ 32)

/-- The double of BAR0 that holds an offset, as a function reads it: 0xFF bytes until the endpoint accepts accesses, zero for another
function's queues and where no field stands (R446, R447, R453). -/
def State.barRead (s : State) (fn : Fin 9) (off : Nat) : Word :=
  let a := s.apex
  if a.boot ≠ .up then BitVec.allOnes 64
  else if off < 0x800 then
    let d := a.queues[Fin.ofNat 64 (off / 32)]
    if d.seenBy fn then d.double (off % 32 / 8) else 0
  else match off - off % 8 with
    | 0x800 => a.evbase
    | 0x808 => BitVec.ofNat 64 (a.evlg % 256 + a.evhead.toNat * 2 ^ 32)
    | 0x810 => BitVec.ofNat 64 a.evtail.toNat
    | 0x820 => a.apbase
    | 0x900 => a.dcmd
    | 0x908 => a.dop[0]
    | 0x910 => a.dop[1]
    | 0x918 => a.dop[2]
    | 0x920 => a.dop[3]
    | 0x928 => BitVec.ofNat 64 ((if a.busy then 1 else 0) + a.result.toNat * 2 ^ 8)
    | _ => 0

/-- A write of a BAR0 field that starts nothing; a virtual function reaches only its own queues (R446). -/
def State.barWrite (fn : Fin 9) (off : Nat) (v : Word) (s : State) : State :=
  if s.apex.boot ≠ .up then s
  else if off < 0x800 then s.onQueue (Fin.ofNat 64 (off / 32)) fun d => if d.seenBy fn then d.put (off % 32) v else d
  else match off with
    | 0x800 => s.onApex fun a => { a with evbase := v }
    | 0x808 => s.onApex fun a => { a with evlg := v.toNat % 256 }
    | 0x820 => s.onApex fun a => { a with apbase := v }
    | 0x908 => s.onApex fun a => { a with dop := a.dop.set 0 v }
    | 0x910 => s.onApex fun a => { a with dop := a.dop.set 1 v }
    | 0x918 => s.onApex fun a => { a with dop := a.dop.set 2 v }
    | 0x920 => s.onApex fun a => { a with dop := a.dop.set 3 v }
    | _ => s

/-- REGISTER_WRITE: a register with no behaviour of its own takes the value, a system register or a field of BAR0; or BAR0 is read
(R105, R446). -/
def execRegisterWrite (acc : RegAccess) (num : BitVec 16) (v : Word) (s : State) : Out :=
  .next (match acc with
    | .bar fn => s.barWrite fn num.toNat v
    | .barRead fn => s.emit (.bar fn num.toNat (s.barRead fn num.toNat))
    | .sys => if num.toNat < 0x1000 && (s.sysAccess (num.setWidth 12)).isSome then s.sysLand (num.setWidth 12) v else s)

/-! ## The Apex's freeze (R401, R402) -/

/-- APEX_MISMATCH: dispatch freezes; the restart comes within 7,200,000 cycles (R401). -/
def execApexMismatch (s : State) : Out :=
  .next (if s.apex.frozen.isSome then s
    else
      let f := s.fresh
      (f.2.onApex fun a => { a with frozen := some s.absc }).plan (s.now + 1 + Config.freeDelay f.1 % 7200000) rankEnd
        (.ev .apexRestart))

/-- Has an entry's launch been dispatched and not started (R402, R418)? -/
def State.loadingEnt (s : State) (e : HeapEnt) : Bool :=
  e.st == .running && (s.launchOf e.lid).any fun l => l.st == .loading

/-- An admitted packet that had not started is tested again, one that is being loaded among them (R402). -/
def State.retest (e : HeapEnt) (s : State) : State :=
  match e.body with
  | .launch p (some g) =>
    let t := s.onHeap e.id fun e => { e with st := .waiting }
    if e.done.isSome || !(e.st == .admitted || s.loadingEnt e) || t.admits s.apex.queues[e.q] p g then s
    else if e.st == .admitted then s.unplaced e p g 0x0207
    else s.endLaunch e.lid 0x0207 0
  | _ => s

/-- Is a timed launch armed for a cycle that has not come (R402)? -/
def LaunchRec.ahead (l : LaunchRec) (v : Nat) : Bool :=
  (l.st == .armed && decide (v < l.t0)) || (l.st == .resuming && l.img.timed && decide (v < l.startOf))

/-- APEX_RESTART: the journal is taken up: admitted packets are tested again, armings are cancelled, an event of kind 6 is
written (R402). -/
def execApexRestart (s : State) : Out :=
  .next (match s.apex.frozen with
    | none => s
    | some v =>
      let t := s.onApex fun a => { a with frozen := none }
      let t := t.apex.heap.foldl (fun u e => u.retest e) t
      let t := (t.apex.launches.filter fun l => l.ahead t.absc).foldl (fun u l => u.endLaunch l.lid 0x0203 0) t
      ((t.pushEvent 6 0 0 0 v).look).planOnce s.now rankEnd (.ev .dispatch))

/-! ## Reset and the start order (R108, R397, R453, R456, R458) -/

/-- The Apex marks a channel untrained, or takes the mark off (R461). -/
def State.markPhy (ch : Fin 64) (bad : Bool) (s : State) : State :=
  let rest := s.apex.untrained.filter fun c => c ≠ (s.die, ch.val)
  s.onApex fun a => { a with untrained := if bad then (s.die, ch.val) :: rest else rest }

/-- The runtime records a channel's trained codes and repair in flash through the Apex, once the channel has left training mode;
a channel whose routine has halted, or whose final test leaves failing lanes in x15, is marked untrained (R458, R461; log 57). -/
def State.recordPhy (ch : Fin 64) (s : State) : State :=
  let ended := s.seq.run == .halted || s.seq.run == .stopped
  if s.phy[ch].ctl.getLsbD 0 then s
  else
    let t := s.markPhy ch (ended || s.x 15 ≠ 0)
    if ended then t else { t with phyFlash := s.phyFlash.set ch s.phy[ch] }

/-- PHY channels as they come up from flash (R457). -/
def phyFromFlash (l : Vector Phy 64) : Vector Phy 64 :=
  l.map fun p => { p with ctl := 0, stat := 0, oldR := p.rdly, oldW := p.wdly, since := 0, sinceW := 0 }

/-- A port before it trains: it carries nothing (R450). -/
def MPort.untrained (p : MPort) : MPort :=
  { p with heard := false, up := false, hlat := p.hlat &&& 0xFFFF#64 }

/-- A die's units at a module reset: the PHYs from flash, caches empty (R284, R457). -/
def DieUnits.fromFlash (u : DieUnits) : DieUnits :=
  { ax := { Abscissa.reset with ports := u.ax.ports.map MPort.untrained }, tlb := [], walks := [], phy := phyFromFlash u.phyFlash,
    phyFlash := u.phyFlash }

/-- What module flash keeps: spare maps, PHY codes of every die, holds, firmware, the perimeter key and the signature; the maps, the key
and the signature are loaded in step 4 of the start order (R391, R396, R397, R452, R453, R458). -/
def State.fromFlash (s : State) : State :=
  let t : State := { State.reset with
    now := s.now, out := s.out, freeCtr := s.freeCtr, inbox := s.inbox, phy := phyFromFlash s.phyFlash, phyFlash := s.phyFlash,
    dies := s.dies.map fun d => (d.1, d.2.fromFlash) }
  let t := t.onSys fun r => { r with
    pxy := s.sys.pxy, pdie := s.sys.pdie, pmod := s.sys.pmod, lmod := BitVec.ofNat 64 s.apex.dmap.val,
    ctxver := BitVec.ofNat 64 (s.apex.fwRun.version.toNat + s.apex.fwRun.prev.toNat * 2 ^ 16) }
  let t := t.onHl fun h => { h with
    readm := s.hl.readm, spareFlash := s.hl.spareFlash, hold := s.apex.holds.contains s.phys,
    sides := Vector.ofFn fun i => SideRec.reset (neighbour s.phys i).isSome }
  let t := t.onAx fun a => { a with ref := s.ax.ref, ports := s.ax.ports.map MPort.untrained }
  let t := t.onSeq fun q => { q with run := .idle, issueAt := s.now }
  t.onApex fun a => { a with
    boot := .verify, dmap := s.apex.dmap, pair := s.apex.pair, fwRun := s.apex.fwRun, fwStage := s.apex.fwStage,
    fwOther := s.apex.fwOther, holds := s.apex.holds, spares := s.apex.spares, untrained := s.apex.untrained,
    keys := (s.hl.pkey, s.hl.pmifsig) }

/-- The start order begins (R453). -/
def State.startOrder (s : State) : State :=
  let f := s.fresh
  f.2.plan (s.now + 1 + Config.freeDelay f.1) rankEnd (.micro .bootStep)

/-- Does a launch lie in HBM alone, fully saved or suspended (R426, R429)? -/
def LaunchRec.inHbm (l : LaunchRec) : Bool := l.st == .suspended || (l.st == .saved && l.full)

/-- What the Apex's journal brings back: queues, packets that had not started, and launches that lie in HBM (R402, R453). -/
def State.fromJournal (old s : State) : State :=
  let kept := old.apex.launches.filter LaunchRec.inHbm
  s.onApex fun a => { a with
    queues := old.apex.queues, nextId := old.apex.nextId, nextLid := old.apex.nextLid, evbase := old.apex.evbase,
    evlg := old.apex.evlg, evhead := old.apex.evhead, evtail := old.apex.evtail, events := old.apex.events,
    vfs := old.apex.vfs, heap := old.apex.heap.filter fun e => e.st ≠ .running || kept.any fun l => l.lid = e.lid,
    launches := kept }

/-- POWER_ON: the start order from nothing (R453). -/
def execPowerOn (s : State) : Out := .next (s.fromFlash.startOrder)

/-- A reset of the module: what is in flight is lost; flash, HBM and the Apex's journal in it stay. The replay tables are lost, and their
floor is the counter's value at the reset (R323, R402, R453, R456). -/
def State.moduleReset (s : State) : State :=
  let t := s.fromFlash.fromJournal s
  let tab : ReplayTab := { ReplayTab.reset with base := s.absc }
  (t.onCp fun c => { c with
    hbm := s.cp.hbm, hbmBad := s.cp.hbmBad, hbmRaw := s.cp.hbmRaw, cellTab := tab, hbmTab := Vector.replicate 8 tab }).startOrder

/-- MODULE_RESET (R453). -/
def execModuleReset (s : State) : Out := .next s.moduleReset

/-- THERMAL_TRIP: it resets the module (R456). -/
def execThermalTrip (s : State) : Out := .next s.moduleReset

/-- The cell leaves reset: its runtime begins at 0x7000; one that is held executes SELFOFF first (R387, R396, R453). -/
def State.release (s : State) : State :=
  let t := s.onSeq fun q => { q with run := .running, pc := 0x7000, mode := .supervisor, issueAt := s.now, escPaid := true }
  if s.hl.hold then t.selfFence else t

/-- What the runtime's training brings a channel: codes and repair, in its registers and in flash (R453, R461; log 37). -/
def trainedPhy (ch : Nat) (p : Phy) : Phy :=
  let r := Config.trainedCodes ch 0 &&& 0x7F7F7F7F7F7F7F7F#64
  let w := Config.trainedCodes ch 1 &&& 0x7F7F7F7F7F7F7F7F#64
  { p with rdly := r, wdly := w, oldR := r, oldW := w, repair := Config.trainedCodes ch 2 &&& 0x7F#64 }

/-- The channels of a die after training. -/
def trainDie (d : Nat) (l : Vector Phy 64) : Vector Phy 64 := l.mapIdx fun i p => trainedPhy (64 * d + i) p

/-- Each boot cell trains its die's channels (R453); those with lanes that still fail are marked untrained (R461; log 37). -/
def State.trainHbm (s : State) : State :=
  let all := (List.range 256).map fun i => (i / 64, i % 64)
  let t : State := { s with
    phy := trainDie s.die s.phy, phyFlash := trainDie s.die s.phyFlash,
    dies := s.dies.map fun d => (d.1, { d.2 with phy := trainDie d.1 d.2.phy, phyFlash := trainDie d.1 d.2.phyFlash }) }
  t.onApex fun a => { a with untrained := all.filter fun c => Config.trainedCodes (64 * c.1 + c.2) 3 ≠ 0 }

/-- A Mbaper port trains, and the firmware writes its measured latency: live for timed traffic with m_p at most H − 8 and H at most
1,152; one that fails to train carries nothing (R344, R450, R352; log 77). -/
def MPort.train (r : Bool × BitVec 16) (p : MPort) : MPort :=
  let h := fieldNat p.hlat 0 16
  let live := r.1 && decide (h ≤ 1152) && decide (r.2.toNat + 8 ≤ h)
  { p with up := r.1, hlat := BitVec.ofNat 64 (h + r.2.toNat * 2 ^ 16 + (if live then 2 ^ 32 else 0)) }

/-- The Mbaper ports train (R450, R453). -/
def State.trainPorts (s : State) : State :=
  { s.onAx fun a => { a with ports := a.ports.mapIdx fun i p => p.train (Config.portTrains (s.freeCtr + i)) } with
    freeCtr := s.freeCtr + 18 }

/-- Spare map, PKEY and PMIFSIG are loaded from flash (R391, R397, R453). -/
def State.loadFlash (s : State) : State :=
  s.onHl fun h => { h with
    spareNow := h.spareFlash, spareNew := h.spareFlash, pkey := s.apex.keys.1, pmifsig := s.apex.keys.2 }

/-- One step of the start order ends (R453): an image that does not verify gives way to the other one, or the module stops. -/
def State.bootStep (s : State) : State :=
  match s.apex.boot with
  | .verify =>
    let t : State := { s with freeCtr := s.freeCtr + 2 }
    if Config.firmwareVerifies s.freeCtr then (t.onApex fun a => { a with boot := .apex }).startOrder
    else if Config.firmwareVerifies (s.freeCtr + 1)
      then (t.onApex fun a => { a with boot := .apex, fwRun := s.apex.fwOther, fwOther := s.apex.fwRun, fwStage := none }).startOrder
    else t.onApex fun a => { a with boot := .dead }
  | .apex =>
    let t := s.onApex fun a => { a with boot := .hbm }
    (if s.bootCell then t.release else t).startOrder
  | .hbm => (s.trainHbm.onApex fun a => { a with boot := .links }).startOrder
  | .links =>
    let t := s.trainPorts.loadFlash.onApex fun a => { a with boot := .up }
    let t := if s.bootCell then t else t.release
    let t := (List.finRange 64).foldl (fun u q => if (u.apex.queues[q]).st == .active
      then u.planOnce (s.now + 1) rankEnd (.ev (.queueFetch q none none)) else u) t
    (t.apex.heap.foldl (fun u e => u.retest e) t).look
  | _ => s

end Sys2Proof.Machine
end

