-- ==== Sys2Proof/Machine/ScalarFp.lean ====
section
/-! DEFINITION. Scalar FP32 (R102 to R104). -/

namespace Sys2Proof.Machine

/-- How an instruction rounds element `i`: SRK draws from SRKEY and SRKCTR at issue (R46). -/
def State.rndAt (s : State) (md : RMode) (i : Nat) : Rnd :=
  { mode := md, rv := if md == .srk then (qk64 s.sys.srkey (s.sys.srkctr + BitVec.ofNat 64 i)).toNat else 0 }

/-- The FP32 operand in bits 31:0 (R102). -/
def lo32 (v : Word) : Nat := v.toNat % 2 ^ 32

/-- An FP32 result in bits 31:0, zeros above (R102). -/
def fpWord (n : Nat) : Word := BitVec.ofNat 64 n

/-- An FP32 operation of two registers. -/
def fpOp2 (lat : Nat) (residue : Bool) (f : Nat → Nat → Word) (xd xa xb : Reg) (s : State) : State :=
  s.guarded [s.rdX xa, s.rdX xb, s.wrX xd] (State.putX xd (f (lo32 (s.x xa)) (lo32 (s.x xb))) lat residue)

/-- An FP32 operation of one register. -/
def fpOp1 (lat : Nat) (residue : Bool) (f : Nat → Word) (xd xa : Reg) (s : State) : State :=
  s.guarded [s.rdX xa, s.wrX xd] (State.putX xd (f (lo32 (s.x xa))) lat residue)

/-- FADD, rounded once (R103). -/
def execFadd (xd xa xb : Reg) (rnd : RMode) (s : State) : Out :=
  .next (fpOp2 4 true (fun a b => fpWord (fpAdd f32 (s.rndAt rnd 0) false a b)) xd xa xb s)

/-- FSUB, rounded once (R103). -/
def execFsub (xd xa xb : Reg) (rnd : RMode) (s : State) : Out :=
  .next (fpOp2 4 true (fun a b => fpWord (fpSub f32 (s.rndAt rnd 0) false a b)) xd xa xb s)

/-- FMUL, rounded once (R103). -/
def execFmul (xd xa xb : Reg) (rnd : RMode) (s : State) : Out :=
  .next (fpOp2 4 true (fun a b => fpWord (fpMul f32 (s.rndAt rnd 0) false a b)) xd xa xb s)

/-- FDIV, rounded once (R103). -/
def execFdiv (xd xa xb : Reg) (rnd : RMode) (s : State) : Out :=
  .next (fpOp2 12 true (fun a b => fpWord (fpDiv f32 (s.rndAt rnd 0) false a b)) xd xa xb s)

/-- FFMA: xa × xb + xc, rounded once (R103). -/
def execFfma (xd xa xb xc : Reg) (rnd : RMode) (s : State) : Out :=
  .next (s.guarded [s.rdX xa, s.rdX xb, s.rdX xc, s.wrX xd]
    (State.putX xd (fpWord (fpFma f32 (s.rndAt rnd 0) false false (lo32 (s.x xa)) (lo32 (s.x xb)) (lo32 (s.x xc)))) 4 true))

/-- FSQRT, rounded once (R103). -/
def execFsqrt (xd xa : Reg) (rnd : RMode) (s : State) : Out :=
  .next (fpOp1 12 true (fun a => fpWord (fpSqrt f32 (s.rndAt rnd 0) false a)) xd xa s)

/-- FCVTWS: to INT32 by R53, sign-extended (R103). -/
def execFcvtws (xd xa : Reg) (rnd : RMode) (sat : Bool) (s : State) : Out :=
  .next (fpOp1 3 true (fun a => BitVec.ofInt 64 (sintOf 32 (fpToInt f32 .i32 (s.rndAt rnd 0) sat a))) xd xa s)

/-- FCVTSW: INT32 to FP32 (R103). -/
def execFcvtsw (xd xa : Reg) (rnd : RMode) (s : State) : Out :=
  .next (fpOp1 3 true (fun a => fpWord (f32.round (s.rndAt rnd 0) false (exactInt (sintOf 32 a)))) xd xa s)

/-- FCLASS: one bit (R104). -/
def execFclass (xd xa : Reg) (s : State) : Out := .next (fpOp1 2 false (fun a => fpWord (2 ^ fpClassBit f32 a)) xd xa s)

/-- FMIN: the smaller (R103). -/
def execFmin (xd xa xb : Reg) (s : State) : Out := .next (fpOp2 2 false (fun a b => fpWord (fpMin f32 a b)) xd xa xb s)

/-- FMAX: the larger (R103). -/
def execFmax (xd xa xb : Reg) (s : State) : Out := .next (fpOp2 2 false (fun a b => fpWord (fpMax f32 a b)) xd xa xb s)

/-- FEQ: equal (R103). -/
def execFeq (xd xa xb : Reg) (s : State) : Out := .next (fpOp2 2 false (fun a b => boolWord (fpEq f32 a b)) xd xa xb s)

/-- FLT: less (R103). -/
def execFlt (xd xa xb : Reg) (s : State) : Out := .next (fpOp2 2 false (fun a b => boolWord (fpLt f32 a b)) xd xa xb s)

/-- FLE: less or equal (R103). -/
def execFle (xd xa xb : Reg) (s : State) : Out := .next (fpOp2 2 false (fun a b => boolWord (fpLe f32 a b)) xd xa xb s)

end Sys2Proof.Machine
end

