-- ==== Sys2Proof/Machine/Stations.lean ====
section
/-! DEFINITION. Engine commands start and complete: the wait, the unit, the queue (R72, R200, R231, R261, R274, R310,
R358, R455). -/

namespace Sys2Proof.Machine

/-! ## Which command may start -/

/-- Is the unit that a queued command needs free (R200, R231, R358)? While a pre-emption stands, or a restored program has not
started, none of its matrix commands starts (R229, R431). -/
def State.unitFree (s : State) (u : EUnit) (c : Cmd) : Bool :=
  match u with
  | .array => s.mxFree c && (c.pred || !s.stepsHeld)
  | .drain => s.mxFree c && (c.pred || !s.stepsHeld)
  | .tis => s.sh.tis.isNone
  | .cvs => s.sh.cvs.isNone
  | .trs => s.sh.trs.isNone
  | .cps => false
  | .cls => s.tm.send.isNone

/-- The queued command that acts next on a unit's station. -/
def State.headNext (s : State) (u : EUnit) : Option Cmd := s.nextHead u (s.unitFree u)

/-- Does a wait decide in this cycle: satisfied or failed (R310)? -/
def State.waitActs (s : State) (c : Cmd) : Bool := decide (c.issued < s.now) && s.waitTest c != .hold

/-- The command of st5 that acts next: a CPABN, or a copy, a timed transfer or an ATOM that has not started (R261, R269).
Copies that a pre-emption holds do not start (R423). -/
def State.copyNext (s : State) : Option (BitVec 24) :=
  match s.cp.abns.find? fun a => a.2.1.isNone && s.waitActs a.1 && (a.1.pred || !s.stepsHeld) with
  | some a => some a.1.idx
  | none => (s.cp.ents.find? fun e => e.start.isNone && !e.held && s.waitActs e.cmd).map (·.cmd.idx)

/-- The command that starts next in this cycle, with its unit. -/
def State.startable (s : State) : Option (EUnit × BitVec 24) :=
  let head := fun (u : EUnit) => (s.headNext u).map fun c => (u, c.idx)
  match [EUnit.array, .tis, .cvs, .trs, .cls].findSome? head with
  | some p => some p
  | none => s.copyNext.map fun i => (.cps, i)

/-! ## COMMAND_START -/

/-- Does an MXGO make its station active: after 64 idle cycles of the array unit, outside timed images (R455)? -/
def State.activates (s : State) (c : Cmd) : Bool :=
  !s.timedImage && decide (s.mx.afree + 64 ≤ s.now) && (match s.mx.ramp with
    | some r => r.1 ≠ c.idx
    | none => true) && match c.op with
      | .mxgo _ _ _ _ _ _ => true
      | _ => false

/-- The queued command that acts: its wait fails, or it leaves the queue and starts. An MXGO may be held by the ramp gate,
by a free number of cycles up to 768 (R455). -/
def State.startQueued (u : EUnit) (c : Cmd) (s : State) : State :=
  let t := s.onQueues u (Queues.leave s.now c)
  match s.waitTest c with
  | .hold => s
  | .fail code => t.plainFail u c code
  | .ready => match u with
    | .array =>
      let d := Config.freeDelay s.freeCtr % 769
      if s.activates c && d ≠ 0 then { s with mx := { s.mx with ramp := some (c.idx, s.now + d) }, freeCtr := s.freeCtr + 1 }
      else { t with freeCtr := t.freeCtr + 1 }.startMatrix c
    | .drain => t.startMatrix c
    | .cls => t.startColl c
    | .cps => s
    | .tis => t.startShape u c
    | .cvs => t.startShape u c
    | .trs => t.startShape u c

/-- A command of st5 starts, by its kind (R267, R321, R354, R355). -/
def State.startEnt (e : CopyEnt) (s : State) : State :=
  let i := e.cmd.idx
  match e.cmd.op with
  | .tsend _ => s.startSend i
  | .trecv _ => s.startRecv i
  | .atom _ _ _ _ => s.startAtom i
  | _ => s.startCopy i

/-- A command of st5 that has not started acts: its wait fails, or it starts (R310). -/
def State.startCps (idx : BitVec 24) (s : State) : State :=
  match s.cp.abns.find? fun a => a.1.idx = idx && a.2.1.isNone with
  | some a => match s.waitTest a.1 with
    | .hold => s
    | .fail code => (s.cmdFails .cps a.1 code 5).onCp fun c => { c with abns := c.abns.erase a }
    | .ready => s.startAbn idx
  | none => match s.ent idx with
    | none => s
    | some e =>
      if e.start.isSome || e.held then s
      else match s.waitTest e.cmd with
        | .hold => s
        | .fail code => s.copyFails idx code 5
        | .ready => s.startEnt e

/-- COMMAND_START (R310): the named command starts, if its wait and its unit let it. -/
def execCommandStart (u : EUnit) (idx : BitVec 24) (s : State) : Out :=
  .next (match u with
    | .cps => s.startCps idx
    | u => match s.headNext u with
      | some c => if c.idx = idx then s.startQueued u c else s
      | none => s)

/-! ## COMMAND_COMPLETION -/

/-- COMMAND_COMPLETION (R72, R274): the running command with this index ends, and signals once. -/
def execCommandCompletion (u : EUnit) (idx : BitVec 24) (s : State) : Out :=
  .next (match u with
    | .array => match s.mx.array with
      | some r => if r.cmd.idx = idx then s.endArray r else s
      | none => s
    | .drain =>
      match s.mx.zero, s.mx.drain with
      | some c, _ => if c.idx = idx then s.endDrain c else s
      | none, some d => if d.cmd.idx = idx then s.endDrain d.cmd else s
      | none, none => s
    | .cps => s.endCopy idx
    | .cls => s.endColl idx
    | u => match s.shapeOf u with
      | some r => if r.cmd.idx = idx then s.endShape u r else s
      | none => s)

end Sys2Proof.Machine
end

