-- ==== Sys2Proof/Machine/Vector.lean ====
section
/-! DEFINITION. The vector instructions and the mask instructions (R147 to R171). -/

namespace Sys2Proof.Machine

/-! ## Shared operations -/

/-- Element e of width w of a row (R148). -/
def elem (w : Nat) (r : Row) (e : Nat) : Nat := r.toNat >>> (w * e) % 2 ^ w

/-- A row of width-w elements by index (R148). -/
def rowMap (w : Nat) (f : Nat → Nat) : Row := rowOfElems w ((List.range (4096 / w)).map f)

/-- The source operands checked and popped in order (R77, R151). -/
def State.popAll (c : VCtl) : List VOp → State → Except TrapReq State
  | [], s => .ok s
  | o :: l, s =>
    match s.srcFault c o with
    | some t => .error t
    | none => State.popAll c l (s.popSrc o)

/-- A schedule fault for a port named twice (R151). -/
def dupFault (l : List VOp) : Option TrapReq := (dupPort l).map portFault

/-- A vector instruction: checks, pops, and what it does then (R77, R151, R152). `more` are checks of its own. -/
def vecDo (c : VCtl) (ports srcs : List VOp) (more : List (Option TrapReq)) (k : State → State) (s : State) : State :=
  s.guarded ([dupFault ports, s.readFault (.mask c.mp)] ++ more) fun s =>
    match State.popAll c srcs s with
    | .error t => s.takeTrap t
    | .ok u => k u

/-- A vector instruction that writes a row at given positions after `lat` cycles. -/
def vecRow (lat : Nat) (c : VCtl) (od : VOp) (srcs : List VOp) (more : List (Option TrapReq)) (cols : BitVec 128)
    (r : Row) (s : State) : State :=
  vecDo c (od :: srcs) srcs more (fun u => u.guarded [u.dstFault od lat] (State.putRow od cols r lat)) s

/-- Element-wise with one source (R154). -/
def vec1 (lat : Nat) (c : VCtl) (od oa : VOp) (f : Nat → Nat → Nat) (s : State) : State :=
  let w := c.fmt.width
  let a := s.srcRow c c.fmt oa
  vecRow lat c od [oa] [] (s.activeCols c.mp c.cpl od) (rowMap w fun e => f e (elem w a e)) s

/-- Element-wise with two sources (R154). -/
def vec2 (lat : Nat) (c : VCtl) (od oa ob : VOp) (f : Nat → Nat → Nat → Nat) (s : State) : State :=
  let w := c.fmt.width
  let a := s.srcRow c c.fmt oa
  let b := s.srcRow c c.fmt ob
  vecRow lat c od [oa, ob] [] (s.activeCols c.mp c.cpl od) (rowMap w fun e => f e (elem w a e) (elem w b e)) s

/-- Element-wise with three sources (R154). -/
def vec3 (lat : Nat) (c : VCtl) (od oa ob oc : VOp) (f : Nat → Nat → Nat → Nat → Nat) (s : State) : State :=
  let w := c.fmt.width
  let a := s.srcRow c c.fmt oa
  let b := s.srcRow c c.fmt ob
  let d := s.srcRow c c.fmt oc
  vecRow lat c od [oa, ob, oc] [] (s.activeCols c.mp c.cpl od)
    (rowMap w fun e => f e (elem w a e) (elem w b e) (elem w d e)) s

/-- A comparison (R158): the column mask of md is written, its row mask stays. -/
def vecCmp (c : VCtl) (md : Fin 4) (oa ob : VOp) (sub : Fin 4) (cmp : Nat → Nat → Bool) (s : State) : State :=
  let m := compareCols c.fmt.width sub.val (s.cols c.mp c.cpl) cmp (s.srcRow c c.fmt oa) (s.srcRow c c.fmt ob)
  vecDo c [oa, ob] [oa, ob] [] (fun u => u.guarded [u.writeFault (.mask md)]
    (State.enqueue (.mask md u.seq.maskRow[md] m) 2 false)) s

/-- Integer result: modulo 2^w, or clamped (R43, R157). -/
def vint (c : VCtl) (v : Int) : Nat := intCode c.fmt c.sat v

/-- Value of an integer element in the instruction's format (R157). -/
def vval (c : VCtl) (n : Nat) : Int := intValue c.fmt n

/-- The float format of an instruction. -/
def vfp (c : VCtl) : FFormat := floatFormat c.fmt

/-! ## Floating point (R155, R156) -/

/-- VADD: a + b, rounded once (R155). -/
def execVadd (c : VCtl) (od oa ob : VOp) (s : State) : Out :=
  .next (vec2 4 c od oa ob (fun e a b => fpAdd (vfp c) (s.rndAt c.rnd e) c.sat a b) s)

/-- VSUB: a - b, rounded once (R155). -/
def execVsub (c : VCtl) (od oa ob : VOp) (s : State) : Out :=
  .next (vec2 4 c od oa ob (fun e a b => fpSub (vfp c) (s.rndAt c.rnd e) c.sat a b) s)

/-- VMUL: a * b, rounded once (R155). -/
def execVmul (c : VCtl) (od oa ob : VOp) (s : State) : Out :=
  .next (vec2 4 c od oa ob (fun e a b => fpMul (vfp c) (s.rndAt c.rnd e) c.sat a b) s)

/-- VDIV: a / b, rounded once (R155). -/
def execVdiv (c : VCtl) (od oa ob : VOp) (s : State) : Out :=
  .next (vec2 14 c od oa ob (fun e a b => fpDiv (vfp c) (s.rndAt c.rnd e) c.sat a b) s)

/-- VFMA: a * b + c, rounded once (R155, R156). -/
def execVfma (c : VCtl) (od oa ob oc : VOp) (s : State) : Out :=
  .next (vec3 4 c od oa ob oc (fun e a b d => fpFma (vfp c) (s.rndAt c.rnd e) c.sat false a b d) s)

/-- VFMS: a * b - c, rounded once (R155, R156). -/
def execVfms (c : VCtl) (od oa ob oc : VOp) (s : State) : Out :=
  .next (vec3 4 c od oa ob oc (fun e a b d => fpFma (vfp c) (s.rndAt c.rnd e) c.sat true a b d) s)

/-- VMIN (R103, R155). -/
def execVmin (c : VCtl) (od oa ob : VOp) (s : State) : Out :=
  .next (vec2 2 c od oa ob (fun _ a b => fpMin (vfp c) a b) s)

/-- VMAX (R103, R155). -/
def execVmax (c : VCtl) (od oa ob : VOp) (s : State) : Out :=
  .next (vec2 2 c od oa ob (fun _ a b => fpMax (vfp c) a b) s)

/-- VABS: the sign bit cleared (R156). -/
def execVabs (c : VCtl) (od oa : VOp) (s : State) : Out := .next (vec1 2 c od oa (fun _ a => (vfp c).mag a) s)

/-- VNEG: the sign bit inverted (R156). -/
def execVneg (c : VCtl) (od oa : VOp) (s : State) : Out := .next (vec1 2 c od oa (fun _ a => fpFlip (vfp c) a) s)

/-- VSQRT: square root, rounded once (R155, R156). -/
def execVsqrt (c : VCtl) (od oa : VOp) (s : State) : Out :=
  .next (vec1 14 c od oa (fun e a => fpSqrt (vfp c) (s.rndAt c.rnd e) c.sat a) s)

/-- VRCP: reciprocal, rounded once (R155, R156). -/
def execVrcp (c : VCtl) (od oa : VOp) (s : State) : Out :=
  .next (vec1 10 c od oa (fun e a => fpRcp (vfp c) (s.rndAt c.rnd e) c.sat a) s)

/-- VRSQ: reciprocal square root, rounded once (R155, R156). -/
def execVrsq (c : VCtl) (od oa : VOp) (s : State) : Out :=
  .next (vec1 10 c od oa (fun e a => fpRsq (vfp c) (s.rndAt c.rnd e) c.sat a) s)

/-! ## Integers and bits (R157) -/

/-- VIADD: a + b (R157). -/
def execViadd (c : VCtl) (od oa ob : VOp) (s : State) : Out :=
  .next (vec2 2 c od oa ob (fun _ a b => vint c (vval c a + vval c b)) s)

/-- VISUB: a - b (R157). -/
def execVisub (c : VCtl) (od oa ob : VOp) (s : State) : Out :=
  .next (vec2 2 c od oa ob (fun _ a b => vint c (vval c a - vval c b)) s)

/-- VIMUL: a * b (R157). -/
def execVimul (c : VCtl) (od oa ob : VOp) (s : State) : Out :=
  .next (vec2 4 c od oa ob (fun _ a b => vint c (vval c a * vval c b)) s)

/-- VIMIN: the smaller (R157). -/
def execVimin (c : VCtl) (od oa ob : VOp) (s : State) : Out :=
  .next (vec2 2 c od oa ob (fun _ a b => if vval c b < vval c a then b else a) s)

/-- VIMAX: the larger (R157). -/
def execVimax (c : VCtl) (od oa ob : VOp) (s : State) : Out :=
  .next (vec2 2 c od oa ob (fun _ a b => if vval c a < vval c b then b else a) s)

/-- VAND: bitwise (R157). -/
def execVand (c : VCtl) (od oa ob : VOp) (s : State) : Out :=
  .next (vec2 2 c od oa ob (fun _ a b => a &&& b) s)

/-- VOR: bitwise (R157). -/
def execVor (c : VCtl) (od oa ob : VOp) (s : State) : Out :=
  .next (vec2 2 c od oa ob (fun _ a b => a ||| b) s)

/-- VXOR: bitwise (R157). -/
def execVxor (c : VCtl) (od oa ob : VOp) (s : State) : Out :=
  .next (vec2 2 c od oa ob (fun _ a b => a ^^^ b) s)

/-- VSHL: shift left by b mod w (R157). -/
def execVshl (c : VCtl) (od oa ob : VOp) (s : State) : Out :=
  .next (vec2 2 c od oa ob (fun _ a b => a * 2 ^ (b % c.fmt.width)) s)

/-- VSHR: shift right by b mod w, zeros in (R157). -/
def execVshr (c : VCtl) (od oa ob : VOp) (s : State) : Out :=
  .next (vec2 2 c od oa ob (fun _ a b => a / 2 ^ (b % c.fmt.width)) s)

/-- VSRA: shift right by b mod w, copies of the top bit in (R157). -/
def execVsra (c : VCtl) (od oa ob : VOp) (s : State) : Out :=
  .next (vec2 2 c od oa ob (fun _ a b => wrapInt c.fmt.width (vval c a / (2 ^ (b % c.fmt.width) : Nat))) s)

/-- VIMAD: a * b + c (R157). -/
def execVimad (c : VCtl) (od oa ob oc : VOp) (s : State) : Out :=
  .next (vec3 4 c od oa ob oc (fun _ a b d => vint c (vval c a * vval c b + vval c d)) s)

/-! ## Comparisons (R158) -/

/-- VCEQ (R158). -/
def execVceq (c : VCtl) (md : Fin 4) (oa ob : VOp) (sub : Fin 4) (s : State) : Out :=
  .next (vecCmp c md oa ob sub (fun a b => fpEq (vfp c) a b) s)

/-- VCNE (R158). -/
def execVcne (c : VCtl) (md : Fin 4) (oa ob : VOp) (sub : Fin 4) (s : State) : Out :=
  .next (vecCmp c md oa ob sub (fun a b => !fpEq (vfp c) a b) s)

/-- VCLT (R158). -/
def execVclt (c : VCtl) (md : Fin 4) (oa ob : VOp) (sub : Fin 4) (s : State) : Out :=
  .next (vecCmp c md oa ob sub (fun a b => fpLt (vfp c) a b) s)

/-- VCLE (R158). -/
def execVcle (c : VCtl) (md : Fin 4) (oa ob : VOp) (sub : Fin 4) (s : State) : Out :=
  .next (vecCmp c md oa ob sub (fun a b => fpLe (vfp c) a b) s)

/-- VCUN (R158). -/
def execVcun (c : VCtl) (md : Fin 4) (oa ob : VOp) (sub : Fin 4) (s : State) : Out :=
  .next (vecCmp c md oa ob sub (fun a b => (vfp c).isNaN a || (vfp c).isNaN b) s)

/-- VICLT (R158). -/
def execViclt (c : VCtl) (md : Fin 4) (oa ob : VOp) (sub : Fin 4) (s : State) : Out :=
  .next (vecCmp c md oa ob sub (fun a b => decide (vval c a < vval c b)) s)

/-- VICLTU (R158). -/
def execVicltu (c : VCtl) (md : Fin 4) (oa ob : VOp) (sub : Fin 4) (s : State) : Out :=
  .next (vecCmp c md oa ob sub (fun a b => decide (a < b)) s)

/-- VICEQ (R158). -/
def execViceq (c : VCtl) (md : Fin 4) (oa ob : VOp) (sub : Fin 4) (s : State) : Out :=
  .next (vecCmp c md oa ob sub (fun a b => a == b) s)

/-! ## Selection and movement (R159) -/

/-- VSEL: the column mask selects and does not gate (R159). -/
def execVsel (c : VCtl) (od oa ob : VOp) (s : State) : Out :=
  let r := blend (s.cols c.mp c.cpl) (s.srcRow c c.fmt oa) (s.srcRow c c.fmt ob)
  .next (vecRow 2 c od [oa, ob] [] (s.openCols c.mp od) r s)

/-- VMOV (R159). -/
def execVmov (c : VCtl) (od oa : VOp) (s : State) : Out :=
  .next (vecRow 1 c od [oa] [] (s.activeCols c.mp c.cpl od) (s.srcRow c c.fmt oa) s)

/-- VLANE: element xs mod n everywhere (R159). -/
def execVlane (c : VCtl) (od oa : VOp) (s : State) : Out :=
  let w := c.fmt.width
  let a := s.srcRow c c.fmt oa
  .next (vecRow 2 c od [oa] [s.rdX c.xs] (s.activeCols c.mp c.cpl od)
    (rowFill w (elem w a ((s.x c.xs).toNat % (4096 / w)))) s)

/-- VPERM: positions by 32-bit index (R159). -/
def execVperm (c : VCtl) (od oa ob : VOp) (s : State) : Out :=
  .next (vecRow 3 c od [oa, ob] [] (s.activeCols c.mp c.cpl od)
    (rowMap 32 fun j => elem 32 (s.srcRow c c.fmt oa) (elem 32 (s.srcRow c c.fmt ob) j % 128)) s)

/-- VROT: element (e + xs) mod n (R159). -/
def execVrot (c : VCtl) (od oa : VOp) (s : State) : Out :=
  let w := c.fmt.width
  .next (vecRow 2 c od [oa] [s.rdX c.xs] (s.activeCols c.mp c.cpl od)
    (rowMap w fun e => elem w (s.srcRow c c.fmt oa) ((e + (s.x c.xs).toNat) % (4096 / w))) s)

/-- VIOTA: (xs + j) mod 2^32 at position j (R159). -/
def execViota (c : VCtl) (od : VOp) (s : State) : Out :=
  .next (vecRow 1 c od [] [s.rdX c.xs] (s.activeCols c.mp c.cpl od)
    (rowMap 32 fun j => ((s.x c.xs).toNat + j) % 2 ^ 32) s)

/-! ## Reductions (R160, R161) -/

/-- Leaf j of VRADD (R160). -/
def raddLeaf (c : VCtl) (r : Rnd) (a : Row) (j : Nat) : Nat :=
  if c.fmt == .fp32 then elem 32 a j
  else fpAdd f32 r c.sat (toF32 c.fmt (elem 16 a (2 * j))) (toF32 c.fmt (elem 16 a (2 * j + 1)))

/-- The sum of a row over the fixed tree; an inactive position gives -0 (R59, R160). -/
def raddRow (c : VCtl) (r : Rnd) (cols : BitVec 128) (a : Row) : Nat :=
  match pairTree (fpAdd f32 r c.sat) 7 ((List.range 128).map fun j =>
    if cols.getLsbD j then raddLeaf c r a j else 0x80000000) with
  | v :: _ => v
  | [] => 0

/-- VRADD: the sum in every position; the column mask does not gate the write (R160). -/
def execVradd (c : VCtl) (od oa : VOp) (s : State) : Out :=
  let v := raddRow c (s.rndAt c.rnd 0) (s.cols c.mp c.cpl) (s.srcRow c c.fmt oa)
  .next (vecRow 12 c od [oa] [] (s.openCols c.mp od) (rowFill 32 v) s)

/-- The elements of position j combined in index order by a node operation (R161). -/
def nodeLeaf (w : Nat) (op : Nat → Nat → Nat) (leaf : Nat → Nat) (a : Row) (j : Nat) : Nat :=
  match (List.range (32 / w)).map fun k => leaf (elem w a (j * (32 / w) + k)) with
  | [] => 0
  | x :: l => l.foldl op x

/-- A reduction by a node operation over the tree, with an identity for inactive positions (R161). -/
def reduceRow (w : Nat) (op : Nat → Nat → Nat) (leaf : Nat → Nat) (ident : Nat) (cols : BitVec 128) (a : Row) : Nat :=
  match pairTree op 7 ((List.range 128).map fun j =>
    if cols.getLsbD j then nodeLeaf w op leaf a j else ident) with
  | v :: _ => v
  | [] => 0

/-- A reduction written in fmt into every element (R161). -/
def vecReduce (c : VCtl) (od oa : VOp) (op : Nat → Nat → Nat) (leaf : Nat → Nat) (ident : Nat) (s : State) : State :=
  let w := c.fmt.width
  let v := reduceRow w op leaf ident (s.cols c.mp c.cpl) (s.srcRow c c.fmt oa)
  vecRow 8 c od [oa] [] (s.openCols c.mp od) (rowFill w v) s

/-- Node of VRMAX (R161). -/
def maxNode (c : VCtl) (a b : Nat) : Nat :=
  if c.fmt.isFp then fpMax (vfp c) a b else if vval c a < vval c b then b else a

/-- Node of VRMIN (R161). -/
def minNode (c : VCtl) (a b : Nat) : Nat :=
  if c.fmt.isFp then fpMin (vfp c) a b else if vval c b < vval c a then b else a

/-- The least value of a format, -infinity or the minimum; or the greatest (R161). -/
def extreme (c : VCtl) (least : Bool) : Nat :=
  if c.fmt.isFp then (vfp c).infinity least
  else wrapInt c.fmt.width (if least then (intRange c.fmt).1 else (intRange c.fmt).2)

/-- VRMAX (R161). A lone NaN leaf is quieted as at a node. -/
def execVrmax (c : VCtl) (od oa : VOp) (s : State) : Out :=
  .next (vecReduce c od oa (maxNode c) id (extreme c true) s)

/-- VRMIN (R161). -/
def execVrmin (c : VCtl) (od oa : VOp) (s : State) : Out :=
  .next (vecReduce c od oa (minNode c) id (extreme c false) s)

/-- VAMAX: the largest magnitude, a NaN leaf taken as +0 (R161). -/
def execVamax (c : VCtl) (od oa : VOp) (s : State) : Out :=
  .next (vecReduce c od oa (fun a b => if a < b then b else a)
    (fun x => if (vfp c).isNaN x then 0 else (vfp c).mag x) 0 s)

/-! ## Conversion, rounding, the generator (R162 to R165) -/

/-- Positions that a conversion writes: those of the narrow half when the result is narrower (R162). -/
def cvtHalf (ws wd : Nat) (part : Bool) : BitVec 128 :=
  if wd < ws then (if part then BitVec.allOnes 64 ++ 0#64 else 0#64 ++ BitVec.allOnes 64) else BitVec.allOnes 128

/-- The converted row (R162): element e of the wide side pairs with element e, or e + n, of the narrow side. -/
def cvtRow (s : State) (c : VCtl) (src : Fmt) (part : Bool) (a : Row) : Row :=
  let ws := src.width
  let wd := c.fmt.width
  let n := 4096 / max ws wd
  let off := if part then n else 0
  rowMap wd fun ed =>
    let e := if wd < ws then ed - off else ed
    let es := if ws < wd then e + off else e
    if ed < e + (if wd < ws then off else 0) || n ≤ e then 0
    else convertElem src c.fmt (s.rndAt c.rnd ed) c.sat (elem ws a es)

/-- VCVT (R162). -/
def execVcvt (c : VCtl) (od oa : VOp) (src : Fmt) (part : Bool) (s : State) : Out :=
  .next (vecRow 4 c od [oa] [] (s.activeCols c.mp c.cpl od &&& cvtHalf src.width c.fmt.width part)
    (cvtRow s c src part (s.srcRow c src oa)) s)

/-- VRINT (R163). -/
def execVrint (c : VCtl) (od oa : VOp) (s : State) : Out :=
  .next (vec1 3 c od oa (fun e a => fpRint (vfp c) (s.rndAt c.rnd e) a) s)

/-- FP32 value of the top 24 bits of a draw, times 2^-24 (R165). -/
def uniform24 (v : Nat) : Nat := f32.round rne false { s := false, m := v / 256, e := -24 }

/-- The register after one, for VRNG's counter base (R165). -/
def nextReg (r : Reg) : Reg := Fin.ofNat 32 (r.val + 1)

/-- VRNG: draws of QK64 from key xs and counter x(xs + 1) (R165). -/
def execVrng (c : VCtl) (od : VOp) (s : State) : Out :=
  let draw := fun (j : Nat) => (qk64 (s.x c.xs) (s.x (nextReg c.xs) + BitVec.ofNat 64 j)).toNat
  .next (vecRow 6 c od [] [s.rdX c.xs, s.rdX (nextReg c.xs)] (s.activeCols c.mp c.cpl od)
    (rowMap 32 fun j => if c.fmt == .fp32 then uniform24 (draw j) else draw j) s)

/-! ## Masks (R167) -/

/-- A mask written by the masks of other pairs (R167). -/
def maskOp (reads : List (Fin 4)) (more : List (Option TrapReq)) (md : Fin 4) (rows : BitVec 16) (cols : BitVec 128)
    (s : State) : State :=
  s.guarded ((reads.map fun m => s.readFault (.mask m)) ++ more ++ [s.writeFault (.mask md)])
    (State.enqueue (.mask md rows cols) 1 false)

/-- MSET (R167). -/
def execMset (md : Fin 4) (ones : Bool) (s : State) : Out :=
  .next (maskOp [] [] md (if ones then BitVec.allOnes 16 else 0) (if ones then BitVec.allOnes 128 else 0) s)

/-- MAND (R167). -/
def execMand (md ma mb : Fin 4) (s : State) : Out :=
  .next (maskOp [ma, mb] [] md (s.seq.maskRow[ma] &&& s.seq.maskRow[mb]) (s.seq.maskCol[ma] &&& s.seq.maskCol[mb]) s)

/-- MOR (R167). -/
def execMor (md ma mb : Fin 4) (s : State) : Out :=
  .next (maskOp [ma, mb] [] md (s.seq.maskRow[ma] ||| s.seq.maskRow[mb]) (s.seq.maskCol[ma] ||| s.seq.maskCol[mb]) s)

/-- MNOT (R167). -/
def execMnot (md ma : Fin 4) (s : State) : Out :=
  .next (maskOp [ma] [] md s.seq.maskRow[ma] (~~~s.seq.maskCol[ma]) s)

/-- MROW (R167). -/
def execMrow (md : Fin 4) (xs : Reg) (s : State) : Out :=
  .next (maskOp [] [s.rdX xs] md ((s.x xs).setWidth 16) s.seq.maskCol[md] s)

/-- MCOL: ones from lo to hi (R167). -/
def execMcol (md : Fin 4) (xs : Reg) (s : State) : Out :=
  let lo := min (fieldNat (s.x xs) 0 8) 128
  let hi := min (fieldNat (s.x xs) 8 8) 128
  .next (maskOp [] [s.rdX xs] md s.seq.maskRow[md]
    (colsOf ((List.range 128).map fun j => decide (lo ≤ j) && decide (j < hi))) s)

/-- Ones of a column mask. -/
def popCols (m : BitVec 128) : Nat := ((List.range 128).filter fun j => m.getLsbD j).length

/-- MPOP: the number of ones in every position; no mask applies (R167). -/
def execMpop (od : VOp) (ma : Fin 4) (s : State) : Out :=
  .next (s.guarded [s.readFault (.mask ma), s.dstFault od 2]
    (State.putRow od (BitVec.allOnes 128) (rowFill 32 (popCols s.seq.maskCol[ma])) 2))

/-! ## Whole tiles (R168) -/

/-- The positions of row r that the mask pair leaves active (R168). -/
def State.tileCols (s : State) (mp : Fin 4) (cpl : Bool) (r : Fin 16) : BitVec 128 :=
  if s.seq.maskRow[mp].getLsbD r.val then s.cols mp cpl else 0

/-- TZERO: one row, or all 16 (R168). -/
def execTzero (t : Fin 8) (row : Fin 16) (whole : Bool) (mp : Fin 4) (cpl : Bool) (s : State) : Out :=
  let rows := if whole then List.finRange 16 else [row]
  .next (s.guarded (s.readFault (.mask mp) :: rows.map fun r => s.writeFault (.tile (tileIdx t r))) fun s =>
    rows.foldl (fun u r => u.putRow (.tile t r) (s.tileCols mp cpl r) 0 1) s)

/-- TCPY: row r readable at c + 2 + r (R168). -/
def execTcpy (td ta : Fin 8) (mp : Fin 4) (cpl : Bool) (s : State) : Out :=
  let rows := List.finRange 16
  .next (s.guarded (s.readFault (.mask mp) :: (rows.map fun r => s.readFault (.tile (tileIdx ta r)))
      ++ rows.map fun r => s.writeFault (.tile (tileIdx td r))) fun s =>
    rows.foldl (fun u r => u.putRow (.tile td r) (s.tileCols mp cpl r) s.seq.tiles[tileIdx ta r] (2 + r.val)) s)

end Sys2Proof.Machine
end

