-- ==== Sys2Proof/Machine/Dispatch.lean ====
section
/-! DEFINITION. One arm per instruction: each calls its meaning. -/

namespace Sys2Proof.Machine

/-- The meaning of every instruction of the opcode table. -/
def exec (i : Instr) (s : State) : Host.Outcome State Fault Refusal :=
  match i with
  | .nop => Sys2Proof.Machine.execNop s
  | .add xd xa xb => Sys2Proof.Machine.execAdd xd xa xb s
  | .sub xd xa xb => Sys2Proof.Machine.execSub xd xa xb s
  | .and xd xa xb => Sys2Proof.Machine.execAnd xd xa xb s
  | .or xd xa xb => Sys2Proof.Machine.execOr xd xa xb s
  | .xor xd xa xb => Sys2Proof.Machine.execXor xd xa xb s
  | .andn xd xa xb => Sys2Proof.Machine.execAndn xd xa xb s
  | .shl xd xa xb => Sys2Proof.Machine.execShl xd xa xb s
  | .shr xd xa xb => Sys2Proof.Machine.execShr xd xa xb s
  | .sra xd xa xb => Sys2Proof.Machine.execSra xd xa xb s
  | .rotl xd xa xb => Sys2Proof.Machine.execRotl xd xa xb s
  | .mul xd xa xb => Sys2Proof.Machine.execMul xd xa xb s
  | .mulh xd xa xb => Sys2Proof.Machine.execMulh xd xa xb s
  | .mulhu xd xa xb => Sys2Proof.Machine.execMulhu xd xa xb s
  | .div xd xa xb => Sys2Proof.Machine.execDiv xd xa xb s
  | .divu xd xa xb => Sys2Proof.Machine.execDivu xd xa xb s
  | .rem xd xa xb => Sys2Proof.Machine.execRem xd xa xb s
  | .remu xd xa xb => Sys2Proof.Machine.execRemu xd xa xb s
  | .min xd xa xb => Sys2Proof.Machine.execMin xd xa xb s
  | .max xd xa xb => Sys2Proof.Machine.execMax xd xa xb s
  | .minu xd xa xb => Sys2Proof.Machine.execMinu xd xa xb s
  | .maxu xd xa xb => Sys2Proof.Machine.execMaxu xd xa xb s
  | .slt xd xa xb => Sys2Proof.Machine.execSlt xd xa xb s
  | .sltu xd xa xb => Sys2Proof.Machine.execSltu xd xa xb s
  | .seq xd xa xb => Sys2Proof.Machine.execSeq xd xa xb s
  | .sne xd xa xb => Sys2Proof.Machine.execSne xd xa xb s
  | .sel xd xa xb xc => Sys2Proof.Machine.execSel xd xa xb xc s
  | .clz xd xa => Sys2Proof.Machine.execClz xd xa s
  | .ctz xd xa => Sys2Proof.Machine.execCtz xd xa s
  | .popc xd xa => Sys2Proof.Machine.execPopc xd xa s
  | .bfx xd xa pos wm1 => Sys2Proof.Machine.execBfx xd xa pos wm1 s
  | .bfi xd xa pos wm1 => Sys2Proof.Machine.execBfi xd xa pos wm1 s
  | .addx xd xa xb sh => Sys2Proof.Machine.execAddx xd xa xb sh s
  | .addi xd xa imm => Sys2Proof.Machine.execAddi xd xa imm s
  | .andi xd xa imm => Sys2Proof.Machine.execAndi xd xa imm s
  | .ori xd xa imm => Sys2Proof.Machine.execOri xd xa imm s
  | .xori xd xa imm => Sys2Proof.Machine.execXori xd xa imm s
  | .shli xd xa n => Sys2Proof.Machine.execShli xd xa n s
  | .shri xd xa n => Sys2Proof.Machine.execShri xd xa n s
  | .srai xd xa n => Sys2Proof.Machine.execSrai xd xa n s
  | .muli xd xa imm => Sys2Proof.Machine.execMuli xd xa imm s
  | .slti xd xa imm => Sys2Proof.Machine.execSlti xd xa imm s
  | .sltiu xd xa imm => Sys2Proof.Machine.execSltiu xd xa imm s
  | .movi xd imm => Sys2Proof.Machine.execMovi xd imm s
  | .movhi xd xa imm => Sys2Proof.Machine.execMovhi xd xa imm s
  | .ldb xd xa imm => Sys2Proof.Machine.execLdb xd xa imm s
  | .ldbu xd xa imm => Sys2Proof.Machine.execLdbu xd xa imm s
  | .ldh xd xa imm => Sys2Proof.Machine.execLdh xd xa imm s
  | .ldhu xd xa imm => Sys2Proof.Machine.execLdhu xd xa imm s
  | .ldw xd xa imm => Sys2Proof.Machine.execLdw xd xa imm s
  | .ldwu xd xa imm => Sys2Proof.Machine.execLdwu xd xa imm s
  | .ldd xd xa imm => Sys2Proof.Machine.execLdd xd xa imm s
  | .stb xd xa imm => Sys2Proof.Machine.execStb xd xa imm s
  | .sth xd xa imm => Sys2Proof.Machine.execSth xd xa imm s
  | .stw xd xa imm => Sys2Proof.Machine.execStw xd xa imm s
  | .std xd xa imm => Sys2Proof.Machine.execStd xd xa imm s
  | .fadd xd xa xb rnd => Sys2Proof.Machine.execFadd xd xa xb rnd s
  | .fsub xd xa xb rnd => Sys2Proof.Machine.execFsub xd xa xb rnd s
  | .fmul xd xa xb rnd => Sys2Proof.Machine.execFmul xd xa xb rnd s
  | .ffma xd xa xb xc rnd => Sys2Proof.Machine.execFfma xd xa xb xc rnd s
  | .fdiv xd xa xb rnd => Sys2Proof.Machine.execFdiv xd xa xb rnd s
  | .fsqrt xd xa rnd => Sys2Proof.Machine.execFsqrt xd xa rnd s
  | .fmin xd xa xb => Sys2Proof.Machine.execFmin xd xa xb s
  | .fmax xd xa xb => Sys2Proof.Machine.execFmax xd xa xb s
  | .feq xd xa xb => Sys2Proof.Machine.execFeq xd xa xb s
  | .flt xd xa xb => Sys2Proof.Machine.execFlt xd xa xb s
  | .fle xd xa xb => Sys2Proof.Machine.execFle xd xa xb s
  | .fcvtws xd xa rnd sat => Sys2Proof.Machine.execFcvtws xd xa rnd sat s
  | .fcvtsw xd xa rnd => Sys2Proof.Machine.execFcvtsw xd xa rnd s
  | .fclass xd xa => Sys2Proof.Machine.execFclass xd xa s
  | .sysrd xd num => Sys2Proof.Machine.execSysrd xd num s
  | .syswr xa num => Sys2Proof.Machine.execSyswr xa num s
  | .sysset xd xa num => Sys2Proof.Machine.execSysset xd xa num s
  | .sysclr xd xa num => Sys2Proof.Machine.execSysclr xd xa num s
  | .beq xa xb target => Sys2Proof.Machine.execBeq xa xb target s
  | .bne xa xb target => Sys2Proof.Machine.execBne xa xb target s
  | .blt xa xb target => Sys2Proof.Machine.execBlt xa xb target s
  | .bge xa xb target => Sys2Proof.Machine.execBge xa xb target s
  | .bltu xa xb target => Sys2Proof.Machine.execBltu xa xb target s
  | .bgeu xa xb target => Sys2Proof.Machine.execBgeu xa xb target s
  | .jmp target => Sys2Proof.Machine.execJmp target s
  | .jmpx xa => Sys2Proof.Machine.execJmpx xa s
  | .call target => Sys2Proof.Machine.execCall target s
  | .callx xa => Sys2Proof.Machine.execCallx xa s
  | .ret => Sys2Proof.Machine.execRet s
  | .loop lc xa trip last => Sys2Proof.Machine.execLoop lc xa trip last s
  | .lexit xa => Sys2Proof.Machine.execLexit xa s
  | .safe cp => Sys2Proof.Machine.execSafe cp s
  | .segend seg count => Sys2Proof.Machine.execSegend seg count s
  | .halt status => Sys2Proof.Machine.execHalt status s
  | .trap id arg => Sys2Proof.Machine.execTrap id arg s
  | .eret => Sys2Proof.Machine.execEret s
  | .swait sem xt scope => Sys2Proof.Machine.execSwait sem xt scope s
  | .ssig sem xt => Sys2Proof.Machine.execSsig sem xt s
  | .srd xd sem status => Sys2Proof.Machine.execSrd xd sem status s
  | .sset sem xt => Sys2Proof.Machine.execSset sem xt s
  | .sclre sem => Sys2Proof.Machine.execSclre sem s
  | .fence scope => Sys2Proof.Machine.execFence scope s
  | .srel mask => Sys2Proof.Machine.execSrel mask s
  | .sacq mask => Sys2Proof.Machine.execSacq mask s
  | .axrd xd form => Sys2Proof.Machine.execAxrd xd form s
  | .axslew xa => Sys2Proof.Machine.execAxslew xa s
  | .axskip xa => Sys2Proof.Machine.execAxskip xa s
  | .hbrd xd sel => Sys2Proof.Machine.execHbrd xd sel s
  | .accuse side => Sys2Proof.Machine.execAccuse side s
  | .appeal xd => Sys2Proof.Machine.execAppeal xd s
  | .ifst xd => Sys2Proof.Machine.execIfst xd s
  | .spmrd xd sel => Sys2Proof.Machine.execSpmrd xd sel s
  | .spmwr xa => Sys2Proof.Machine.execSpmwr xa s
  | .spare xd => Sys2Proof.Machine.execSpare xd s
  | .selfoff => Sys2Proof.Machine.execSelfoff s
  | .vadd c od oa ob => Sys2Proof.Machine.execVadd c od oa ob s
  | .vsub c od oa ob => Sys2Proof.Machine.execVsub c od oa ob s
  | .vmul c od oa ob => Sys2Proof.Machine.execVmul c od oa ob s
  | .vfma c od oa ob oc => Sys2Proof.Machine.execVfma c od oa ob oc s
  | .vfms c od oa ob oc => Sys2Proof.Machine.execVfms c od oa ob oc s
  | .vmin c od oa ob => Sys2Proof.Machine.execVmin c od oa ob s
  | .vmax c od oa ob => Sys2Proof.Machine.execVmax c od oa ob s
  | .vabs c od oa => Sys2Proof.Machine.execVabs c od oa s
  | .vneg c od oa => Sys2Proof.Machine.execVneg c od oa s
  | .vdiv c od oa ob => Sys2Proof.Machine.execVdiv c od oa ob s
  | .vsqrt c od oa => Sys2Proof.Machine.execVsqrt c od oa s
  | .vrcp c od oa => Sys2Proof.Machine.execVrcp c od oa s
  | .vrsq c od oa => Sys2Proof.Machine.execVrsq c od oa s
  | .viadd c od oa ob => Sys2Proof.Machine.execViadd c od oa ob s
  | .visub c od oa ob => Sys2Proof.Machine.execVisub c od oa ob s
  | .vimul c od oa ob => Sys2Proof.Machine.execVimul c od oa ob s
  | .vimin c od oa ob => Sys2Proof.Machine.execVimin c od oa ob s
  | .vimax c od oa ob => Sys2Proof.Machine.execVimax c od oa ob s
  | .vand c od oa ob => Sys2Proof.Machine.execVand c od oa ob s
  | .vor c od oa ob => Sys2Proof.Machine.execVor c od oa ob s
  | .vxor c od oa ob => Sys2Proof.Machine.execVxor c od oa ob s
  | .vshl c od oa ob => Sys2Proof.Machine.execVshl c od oa ob s
  | .vshr c od oa ob => Sys2Proof.Machine.execVshr c od oa ob s
  | .vsra c od oa ob => Sys2Proof.Machine.execVsra c od oa ob s
  | .vimad c od oa ob oc => Sys2Proof.Machine.execVimad c od oa ob oc s
  | .vceq c md oa ob sub => Sys2Proof.Machine.execVceq c md oa ob sub s
  | .vcne c md oa ob sub => Sys2Proof.Machine.execVcne c md oa ob sub s
  | .vclt c md oa ob sub => Sys2Proof.Machine.execVclt c md oa ob sub s
  | .vcle c md oa ob sub => Sys2Proof.Machine.execVcle c md oa ob sub s
  | .vcun c md oa ob sub => Sys2Proof.Machine.execVcun c md oa ob sub s
  | .viclt c md oa ob sub => Sys2Proof.Machine.execViclt c md oa ob sub s
  | .vicltu c md oa ob sub => Sys2Proof.Machine.execVicltu c md oa ob sub s
  | .viceq c md oa ob sub => Sys2Proof.Machine.execViceq c md oa ob sub s
  | .vsel c od oa ob => Sys2Proof.Machine.execVsel c od oa ob s
  | .vmov c od oa => Sys2Proof.Machine.execVmov c od oa s
  | .vlane c od oa => Sys2Proof.Machine.execVlane c od oa s
  | .vperm c od oa ob => Sys2Proof.Machine.execVperm c od oa ob s
  | .vrot c od oa => Sys2Proof.Machine.execVrot c od oa s
  | .viota c od => Sys2Proof.Machine.execViota c od s
  | .vradd c od oa => Sys2Proof.Machine.execVradd c od oa s
  | .vrmax c od oa => Sys2Proof.Machine.execVrmax c od oa s
  | .vrmin c od oa => Sys2Proof.Machine.execVrmin c od oa s
  | .vamax c od oa => Sys2Proof.Machine.execVamax c od oa s
  | .vcvt c od oa src part => Sys2Proof.Machine.execVcvt c od oa src part s
  | .vrint c od oa => Sys2Proof.Machine.execVrint c od oa s
  | .vrng c od => Sys2Proof.Machine.execVrng c od s
  | .mset md ones => Sys2Proof.Machine.execMset md ones s
  | .mand md ma mb => Sys2Proof.Machine.execMand md ma mb s
  | .mor md ma mb => Sys2Proof.Machine.execMor md ma mb s
  | .mnot md ma => Sys2Proof.Machine.execMnot md ma s
  | .mpop od ma => Sys2Proof.Machine.execMpop od ma s
  | .mrow md xs => Sys2Proof.Machine.execMrow md xs s
  | .mcol md xs => Sys2Proof.Machine.execMcol md xs s
  | .tzero t row whole mp cpl => Sys2Proof.Machine.execTzero t row whole mp cpl s
  | .tcpy td ta mp cpl => Sys2Proof.Machine.execTcpy td ta mp cpl s
  | .mxcfg xa entry => Sys2Proof.Machine.execMxcfg xa entry s
  | .mxgo e fbase fmode lcn ga zacc => Sys2Proof.Machine.execMxgo e fbase fmode lcn ga zacc s
  | .mxldb e fe ga => Sys2Proof.Machine.execMxldb e fe ga s
  | .accz e a0 a1 => Sys2Proof.Machine.execAccz e a0 a1 s
  | .accdr e fe acc0 keep => Sys2Proof.Machine.execAccdr e fe acc0 keep s
  | .ftset xa entry => Sys2Proof.Machine.execFtset xa entry s
  | .tolset xa entry => Sys2Proof.Machine.execTolset xa entry s
  | .mxstat xd sel => Sys2Proof.Machine.execMxstat xd sel s
  | .mxabn array drain => Sys2Proof.Machine.execMxabn array drain s
  | .cvt e dfmt fe rnd sat bcol ch chrow tns inv => Sys2Proof.Machine.execCvt e dfmt fe rnd sat bcol ch chrow tns inv s
  | .qamax e fe zp init => Sys2Proof.Machine.execQamax e fe zp init s
  | .qscl e tfmt m pow2 => Sys2Proof.Machine.execQscl e tfmt m pow2 s
  | .trn e keep => Sys2Proof.Machine.execTrn e keep s
  | .tbld e slot => Sys2Proof.Machine.execTbld e slot s
  | .tbev e slot ifmt ofmt rnd sat tile => Sys2Proof.Machine.execTbev e slot ifmt ofmt rnd sat tile s
  | .gsum e fmt bcol => Sys2Proof.Machine.execGsum e fmt bcol s
  | .gver e => Sys2Proof.Machine.execGver e s
  | .cpl e => Sys2Proof.Machine.execCpl e s
  | .cpc e => Sys2Proof.Machine.execCpc e s
  | .cph e => Sys2Proof.Machine.execCph e s
  | .cpv e => Sys2Proof.Machine.execCpv e s
  | .cpabn e all => Sys2Proof.Machine.execCpabn e all s
  | .tsend e => Sys2Proof.Machine.execTsend e s
  | .trecv e => Sys2Proof.Machine.execTrecv e s
  | .clred e ofmt rnd sat => Sys2Proof.Machine.execClred e ofmt rnd sat s
  | .clgath e => Sys2Proof.Machine.execClgath e s
  | .clbcst e => Sys2Proof.Machine.execClbcst e s
  | .atom e op kind retry => Sys2Proof.Machine.execAtom e op kind retry s
  | .pbind q sec lane stn xa wr => Sys2Proof.Machine.execPbind q sec lane stn xa wr s
  | .pwalk q xa lvl => Sys2Proof.Machine.execPwalk q xa lvl s
  | .prst q => Sys2Proof.Machine.execPrst q s
  | .ptag q tag => Sys2Proof.Machine.execPtag q tag s
  | .pstamp q tag => Sys2Proof.Machine.execPstamp q tag s
  | .lmov src lane dst xa => Sys2Proof.Machine.execLmov src lane dst xa s
  | .pstat q xd sel => Sys2Proof.Machine.execPstat q xd sel s
  | .pflush q => Sys2Proof.Machine.execPflush q s
  | .arithmeticCheckFault u => Sys2Proof.Machine.execArithmeticCheckFault u s
  | .replayNotice f q => Sys2Proof.Machine.execReplayNotice f q s
  | .compareWord w => Sys2Proof.Machine.execCompareWord w s
  | .timestampBeatSend p => Sys2Proof.Machine.execTimestampBeatSend p s
  | .commandStart u idx => Sys2Proof.Machine.execCommandStart u idx s
  | .commandCompletion u idx => Sys2Proof.Machine.execCommandCompletion u idx s
  | .portPrefetchRead q => Sys2Proof.Machine.execPortPrefetchRead q s
  | .portPushLand q => Sys2Proof.Machine.execPortPushLand q s
  | .sectorFree sec => Sys2Proof.Machine.execSectorFree sec s
  | .copyRowIssue src => Sys2Proof.Machine.execCopyRowIssue src s
  | .translationComplete idx => Sys2Proof.Machine.execTranslationComplete idx s
  | .hbmBankAccess idx k => Sys2Proof.Machine.execHbmBankAccess idx k s
  | .copyRowLand src data st => Sys2Proof.Machine.execCopyRowLand src data st s
  | .putAcknowledgement idx k st => Sys2Proof.Machine.execPutAcknowledgement idx k st s
  | .completionTimeout idx => Sys2Proof.Machine.execCompletionTimeout idx s
  | .atomRequest r => Sys2Proof.Machine.execAtomRequest r s
  | .atomResponse idx r => Sys2Proof.Machine.execAtomResponse idx r s
  | .atomTimeout idx => Sys2Proof.Machine.execAtomTimeout idx s
  | .timedRowLand r => Sys2Proof.Machine.execTimedRowLand r s
  | .clredResult win => Sys2Proof.Machine.execClredResult win s
  | .voteWindowEnd side => Sys2Proof.Machine.execVoteWindowEnd side s
  | .fenceGraceEnd side => Sys2Proof.Machine.execFenceGraceEnd side s
  | .queueFetch q hostPkt img => Sys2Proof.Machine.execQueueFetch q hostPkt img s
  | .cond entry => Sys2Proof.Machine.execCond entry s
  | .loopNode entry => Sys2Proof.Machine.execLoopNode entry s
  | .loopNodeReread entry => Sys2Proof.Machine.execLoopNodeReread entry s
  | .switch entry => Sys2Proof.Machine.execSwitch entry s
  | .signalWrite entry => Sys2Proof.Machine.execSignalWrite entry s
  | .signalMsix entry => Sys2Proof.Machine.execSignalMsix entry s
  | .fencePacket entry => Sys2Proof.Machine.execFencePacket entry s
  | .readyReport lid cell => Sys2Proof.Machine.execReadyReport lid cell s
  | .armingDeadline lid => Sys2Proof.Machine.execArmingDeadline lid s
  | .armedStart lid => Sys2Proof.Machine.execArmedStart lid s
  | .cellStart lid => Sys2Proof.Machine.execCellStart lid s
  | .haltReport lid cell status => Sys2Proof.Machine.execHaltReport lid cell status s
  | .packetCompletion entry => Sys2Proof.Machine.execPacketCompletion entry s
  | .watchdogLimit lid => Sys2Proof.Machine.execWatchdogLimit lid s
  | .preemptionRequest full atP => Sys2Proof.Machine.execPreemptionRequest full atP s
  | .checkpointAck lid cell => Sys2Proof.Machine.execCheckpointAck lid cell s
  | .fenceReport px py cause f => Sys2Proof.Machine.execFenceReport px py cause f s
  | .resumeStart p => Sys2Proof.Machine.execResumeStart p s
  | .atsCompletion pasid page r => Sys2Proof.Machine.execAtsCompletion pasid page r s
  | .priGroupResponse pasid page ok => Sys2Proof.Machine.execPriGroupResponse pasid page ok s
  | .replayAck cell => Sys2Proof.Machine.execReplayAck cell s
  | .timestampBeat p stamp => Sys2Proof.Machine.execTimestampBeat p stamp s
  | .timedFlitRelease p f => Sys2Proof.Machine.execTimedFlitRelease p f s
  | .mbaperFlitArrival p f => Sys2Proof.Machine.execMbaperFlitArrival p f s
  | .meshFlitArrival side f => Sys2Proof.Machine.execMeshFlitArrival side f s
  | .atsInvalidation pasid page pages => Sys2Proof.Machine.execAtsInvalidation pasid page pages s
  | .fabricPathLost idx => Sys2Proof.Machine.execFabricPathLost idx s
  | .heartbeat side msg => Sys2Proof.Machine.execHeartbeat side msg s
  | .accusation side msg => Sys2Proof.Machine.execAccusation side msg s
  | .appealMessage side msg => Sys2Proof.Machine.execAppealMessage side msg s
  | .readmissionVote side msg => Sys2Proof.Machine.execReadmissionVote side msg s
  | .fenceNotice side msg => Sys2Proof.Machine.execFenceNotice side msg s
  | .liftNotice side msg => Sys2Proof.Machine.execLiftNotice side msg s
  | .queueDoorbell q tail => Sys2Proof.Machine.execQueueDoorbell q tail s
  | .launch q p img => Sys2Proof.Machine.execLaunch q p img s
  | .remoteLaunch p img => Sys2Proof.Machine.execRemoteLaunch p img s
  | .eventHeadWrite head => Sys2Proof.Machine.execEventHeadWrite head s
  | .pageServiced fn dva asid refused => Sys2Proof.Machine.execPageServiced fn dva asid refused s
  | .invalidateDeviceTables fn asid dva len => Sys2Proof.Machine.execInvalidateDeviceTables fn asid dva len s
  | .suspendLaunch fn lid => Sys2Proof.Machine.execSuspendLaunch fn lid s
  | .abandonLaunch fn lid => Sys2Proof.Machine.execAbandonLaunch fn lid s
  | .abandonCopy fn px py idx => Sys2Proof.Machine.execAbandonCopy fn px py idx s
  | .enableQueue fn q => Sys2Proof.Machine.execEnableQueue fn q s
  | .resetQueue fn q => Sys2Proof.Machine.execResetQueue fn q s
  | .stageFirmware fn dva len version prev => Sys2Proof.Machine.execStageFirmware fn dva len version prev s
  | .activateFirmware fn => Sys2Proof.Machine.execActivateFirmware fn s
  | .clearServiceHold fn px py => Sys2Proof.Machine.execClearServiceHold fn px py s
  | .vfBind vf dies => Sys2Proof.Machine.execVfBind vf dies s
  | .apertureAccess write off data => Sys2Proof.Machine.execApertureAccess write off data s
  | .rdmaWrite incoming addr data => Sys2Proof.Machine.execRdmaWrite incoming addr data s
  | .rdmaRead incoming addr len => Sys2Proof.Machine.execRdmaRead incoming addr len s
  | .rdmaSend incoming data => Sys2Proof.Machine.execRdmaSend incoming data s
  | .registerWrite bar0 num v => Sys2Proof.Machine.execRegisterWrite bar0 num v s
  | .memoryBitError table sec addr uncorrectable => Sys2Proof.Machine.execMemoryBitError table sec addr uncorrectable s
  | .cycleCountMismatch => Sys2Proof.Machine.execCycleCountMismatch s
  | .safePointStarvationFault => Sys2Proof.Machine.execSafePointStarvationFault s
  | .resultWriteback => Sys2Proof.Machine.execResultWriteback s
  | .segmentStart => Sys2Proof.Machine.execSegmentStart s
  | .holdEnd => Sys2Proof.Machine.execHoldEnd s
  | .replayStart => Sys2Proof.Machine.execReplayStart s
  | .replayWaitTimeout => Sys2Proof.Machine.execReplayWaitTimeout s
  | .abscissaAutoStep => Sys2Proof.Machine.execAbscissaAutoStep s
  | .trimUpdate => Sys2Proof.Machine.execTrimUpdate s
  | .abscissaStep => Sys2Proof.Machine.execAbscissaStep s
  | .matrixStep => Sys2Proof.Machine.execMatrixStep s
  | .swap => Sys2Proof.Machine.execSwap s
  | .drain => Sys2Proof.Machine.execDrain s
  | .lmovRow => Sys2Proof.Machine.execLmovRow s
  | .faultRecordRead => Sys2Proof.Machine.execFaultRecordRead s
  | .atsInvalidationComplete => Sys2Proof.Machine.execAtsInvalidationComplete s
  | .invalidationComplete => Sys2Proof.Machine.execInvalidationComplete s
  | .replayEntryExpiry => Sys2Proof.Machine.execReplayEntryExpiry s
  | .heartbeatSend => Sys2Proof.Machine.execHeartbeatSend s
  | .periodEnd => Sys2Proof.Machine.execPeriodEnd s
  | .domainBoundary => Sys2Proof.Machine.execDomainBoundary s
  | .appealExpiry => Sys2Proof.Machine.execAppealExpiry s
  | .ifstComplete => Sys2Proof.Machine.execIfstComplete s
  | .spareFlashWrite => Sys2Proof.Machine.execSpareFlashWrite s
  | .dispatch => Sys2Proof.Machine.execDispatch s
  | .saveComplete => Sys2Proof.Machine.execSaveComplete s
  | .fullSaveComplete => Sys2Proof.Machine.execFullSaveComplete s
  | .apexMismatch => Sys2Proof.Machine.execApexMismatch s
  | .apexRestart => Sys2Proof.Machine.execApexRestart s
  | .eventRecordWrite => Sys2Proof.Machine.execEventRecordWrite s
  | .firmwareActivation => Sys2Proof.Machine.execFirmwareActivation s
  | .getMeasurements => Sys2Proof.Machine.execGetMeasurements s
  | .powerOn => Sys2Proof.Machine.execPowerOn s
  | .moduleReset => Sys2Proof.Machine.execModuleReset s
  | .thermalTrip => Sys2Proof.Machine.execThermalTrip s
  | .illegalCodeUnitFetch => Sys2Proof.Machine.execIllegalCodeUnitFetch s
  | .cellFallsSilent => Sys2Proof.Machine.execCellFallsSilent s

end Sys2Proof.Machine
end

