-- ==== Sys2Proof/Machine/Micro.lean ====
section
/-! DEFINITION. The micro steps of the agenda: the parts of a unit's work that are no event of the table. -/

namespace Sys2Proof.Machine

/-- The stores that are due reach their sectors (R101). -/
def State.landStores (s : State) : State :=
  let due := s.seq.stores.filter fun w => w.due ≤ s.now
  let t := due.foldl (fun u w => u.landStore w) s
  t.onSeq fun q => { q with stores := q.stores.filter fun w => s.now < w.due }

/-- What a micro step does. -/
def State.micro (m : Micro) (s : State) : State :=
  match m with
  | .storeLand => s.landStores
  | .shapeTick u => s.shapeTick u
  | .shapeWrite u => s.shapeWrite u
  | .sendTick => s.sendTick
  | .recvTick => s.recvTick
  | .copyTick => s.copyTick
  | .copyClaim idx k write data => s.copyClaim idx k write data
  | .owe (some _) t => s.oweTrap t
  | .owe none t => s.oweTrap { t with baddr := s.seq.pc }
  | .oweCheck t => s.oweCheck t
  | .loseAtoms => s.loseAtoms
  | .arrayRead => s.arrayRead
  | .stepEnd => s.endStep
  | .drainClaim a => s.drainClaim a
  | .drainWrite a => s.drainWrite a
  | .drainCheck a => s.drainChecked a
  | .statSample r sel => s.statSample r sel
  | .boundary _ => s.keeper
  | .saveRow cp => s.checkpoint cp
  | .launchSaved lid => s.launchSaved lid
  | .restored lid => s.restored lid
  | .passService page asid => s.passService page asid
  | .tallyAll => s.tallyAll
  | .recordPhy ch => s.recordPhy ch
  | .bootStep => s.bootStep

end Sys2Proof.Machine
end

