-- ==== Sys2Proof/Machine/Runtime.lean ====
section
/-! DEFINITION. The firmware's cell runtime at 0x7000: how it disposes of a trap (R142 to R144). The manual gives what it
does and not its code, so it acts in one step, at the cycle of its first bundle (log 12). -/

namespace Sys2Proof.Machine

/-- Is the runtime of the firmware about to run: supervisor mode at 0x7000 with no code placed there (log 12)? -/
def State.atRuntime (s : State) : Bool :=
  s.firmware && s.seq.mode == .supervisor && s.seq.pc.toNat == Config.runtimeBase
    && s.codeAt Config.runtimeBase == { unit := 0, start := false }

/-- The runtime outside a trap: with nothing to dispose of, the cell waits for its next program (R418, R453; log 12). -/
def State.runtimeIdles (s : State) : State := s.onSeq fun q => { q with run := .idle }

/-- The runtime ends the cell program by a HALT with status 0x8000 + cause (R133, R142). -/
def State.runtimeEnd (cause : Nat) (s : State) : State :=
  let t := s.landAll.onSeq fun q => { q with
    run := .halted, loops := [], xfer := none, haltSt := some (BitVec.ofNat 16 (0x8000 + cause)) }
  { t with frame := none }

/-- The words of the trap record that a handler finds in x1 to x8 (R143). The trap was taken three cycles before the
runtime's first bundle. -/
def State.trapRecord (s : State) : Vector Word 8 :=
  let rel := s.seq.issueAt - 3 - s.seg.startAt + s.seg.resumedAt
  let timed := s.sys.tcause.getLsbD 11
  let lc := fun (a b : Fin 4) => BitVec.ofNat 64 (s.seq.lc[a].toNat + s.seq.lc[b].toNat * 2 ^ 32)
  #v[s.sys.tcause, s.sys.tinfo, s.sys.tepc, if timed then BitVec.ofNat 64 rel else 0,
     if timed then BitVec.ofNat 64 (s.segCount - 1 - rel) else 0, lc 0 1, lc 2 3,
     BitVec.ofNat 64 (2 ^ s.seq.loops.length - 1)]

/-- Registers with x1 to x8 replaced. -/
def putTrapRecord (v : Vector Word 8) (regs : Vector Word 32) : Vector Word 32 :=
  Vector.ofFn fun i => if h : 1 ≤ i.val ∧ i.val ≤ 8 then v[i.val - 1] else regs[i]

/-- The ten words of a handler's frame, as the runtime stores them in the supervisor-only part of sec7 (R143). -/
def HandlerSave.bytes (h : HandlerSave) : List Byte :=
  (h.xs.toList ++ [h.tepc, h.tcause]).flatMap fun w => bytesOf 8 w.toNat

/-- The user handler is entered at UHVEC after a free number of cycles (R143). -/
def State.enterHandler (s : State) : State :=
  let f := s.fresh
  let save : HandlerSave := { xs := Vector.ofFn fun i => s.seq.regs[i.val + 1], tepc := s.sys.tepc, tcause := s.sys.tcause }
  let t : State := { f.2.writeLocal (Config.saveBase + 8 * Config.frameSlot.val) save.bytes with frame := some save }
  (t.onSeq fun q => { q with regs := putTrapRecord s.trapRecord q.regs, mode := .user, xfer := none }).onSeq
    (Seq.goTo s.sys.uhvec true (s.now + 1 + Config.freeDelay f.1))

/-- A handler's TRAP #0xFF00: the saved registers come back, and the trapped program goes on as by ERET (R144). -/
def State.resumeHandler (h : HandlerSave) (s : State) : State :=
  let f := s.fresh
  let t := (f.2.onSeq fun q => { q with regs := putTrapRecord h.xs q.regs }).onSys fun r => { r with
    tepc := h.tepc, tcause := h.tcause }
  ({ t.returnTrap with frame := none }).onSeq fun q => { q with issueAt := q.issueAt + Config.freeDelay f.1 }

/-- The failure code of the engine-error trap in TINFO (R134). -/
def State.engineCode (s : State) : Nat := fieldNat s.sys.tinfo 32 8

/-- The runtime's step on a drain that failed its checks: the test injection ends, and where one row check failed against
several column checks the row's physical place enters a free slot of the staged spare map, which is handed over; with none
free the cell fences itself (R302, R304, R397; log 55). -/
def State.retireRow (s : State) : State :=
  let t := s.onMx fun m => { m with inj := 0 }
  let w := s.mx.lastUn
  let map := s.hl.spareNew
  let p := fieldNat w 28 7
  let enter := fun (at_ : Nat) => (t.onHl fun h => { h with spareNew := BitVec.ofNat 64 (setField map.toNat at_ 7 p) }).handSpare
  if fieldNat w 0 7 ≠ 1 || fieldNat w 7 7 < 2 || fieldNat map 0 7 = p || fieldNat map 7 7 = p then t
  else if fieldNat map 0 7 = 127 then enter 0
  else if fieldNat map 7 7 = 127 then enter 7
  else t.selfFence

/-- What the runtime does on a trap before it disposes of it (R302; log 55). -/
def State.beforeDispose (s : State) : State :=
  if s.frame.isNone && fieldNat s.sys.tcause 0 8 = 0x0D && s.engineCode = 0x24 then s.retireRow else s

/-- Does an engine error of a timed segment stand above the handler: traffic to or through a fenced cell (R389)? -/
def State.fencedRoute (s : State) : Bool := s.sys.tcause.getLsbD 11 && s.engineCode = 0x37

/-- Does the runtime dispose of the trap in TCAUSE by a segment replay (R142, R389)? -/
def State.disposesByReplay (s : State) : Bool :=
  let cause := fieldNat s.sys.tcause 0 8
  s.frame.isNone && s.sys.tcause.getLsbD 11 && cause ≠ 0x10 && !(cause = 0x0D && s.sys.uhvec ≠ 0 && !s.fencedRoute)

/-- Has a trap of this cycle an L2 cause whose replay notice is still to be sent: its cycle f is the trap's own (R126, R365;
log 15)? -/
def State.owesReplay (s : State) : Bool :=
  s.atRuntime && s.seq.suspended && s.seq.run == .running && s.seq.issueAt = s.now + 3 && s.disposesByReplay && s.seg.inSeg
    && s.seg.pending.isNone && !s.noticeSent

/-- The runtime disposes of the trap in TCAUSE (R142, R144, R389). A TRAP of code 0xFF00 or 0xFF01 while no handler runs stands in no
row of R142's table: it ends the program as an identifier at or above 0xFF00 of no row does (DESIGN CHOICE, log 65). -/
def State.dispose (s : State) : State :=
  let s := s.beforeDispose
  let cause := fieldNat s.sys.tcause 0 8
  let id := fieldNat s.sys.tcause 16 16
  let timed := s.sys.tcause.getLsbD 11
  let service := cause = 0x10 && 0xFF00 ≤ id
  match s.frame with
  | some h =>
    if service && id = 0xFF00 then s.resumeHandler h
    else if service && id = 0xFF01 then s.runtimeEnd (fieldNat h.tcause 0 8)
    else s.runtimeEnd (if service then 0x03 else cause)
  | none =>
    if service then s.runtimeEnd 0x03
    else if ((cause = 0x0D && !s.fencedRoute) || cause = 0x10) && s.sys.uhvec ≠ 0 then s.enterHandler
    else if timed && cause ≠ 0x10 then s.raiseReplay
    else s.runtimeEnd cause

end Sys2Proof.Machine
end

