-- ==== Sys2Proof/Machine/Sequencer.lean ====
section
/-! DEFINITION. The order of a cycle: what falls due before the bundle, the bundle, what follows it, and the next cycle
(R62, R76, R101, R126, R145, R174, R308). A step does one thing of that order. -/

namespace Sys2Proof.Machine

/-! ## A bundle issues -/

/-- Does a ctl operation change only what the sequencer is after the bundle: the mode and the pc, or a register that the
bundle's other slots still see as it was (R61, R140, R349, R351)? -/
def actsLast : Instr → Bool
  | .eret | .axslew _ | .axskip _ => true
  | _ => false

/-- The operations of a bundle with their slots, in slot order (R62); a ctl operation that only acts on what stands after
the bundle comes last, so that every slot is judged in the state before the bundle (R61, R76). -/
def bundleOps (b : Bundle) : List (Fin 8 × Instr) :=
  let l := ([0, 1, 2, 3, 4, 5] : List (Fin 8)).filterMap fun k => match decodeBundleSlot b k.val with
    | .ok .nop => none
    | .ok i => some (k, i)
    | .error _ => none
  l.filter (fun p => !actsLast p.2) ++ l.filter fun p => actsLast p.2

/-- One slot's operation. -/
def State.runSlot (k : Fin 8) (i : Instr) (s : State) : Out :=
  exec i (s.onSeq fun q => { q with slot := k, tookTrap := none })

/-- The trap that a slot raises on a state, with its class. -/
def State.trapOf (s : State) (p : Fin 8 × Instr) : Option (Nat × TrapRec) :=
  match s.runSlot p.1 p.2 with
  | .next t => t.seq.tookTrap
  | _ => none

/-- The traps of the classes that are found before any slot takes effect (R76). No operation of the vector slot raises
one beyond those of its decoding. -/
def State.earlyTraps (s : State) (ops : List (Fin 8 × Instr)) : List (Nat × TrapRec) :=
  ((ops.filter fun p => p.1 ≠ 3).filterMap s.trapOf).filter fun t => t.1 ≤ 4

/-- The slots in order, up to one that traps or that holds the bundle. -/
def runSlots : List (Fin 8 × Instr) → State → Out
  | [], t => .next t
  | p :: l, t =>
    match t.runSlot p.1 p.2 with
    | .next u => if u.seq.tookTrap.isSome || u.seq.effect == .hold then .next u else runSlots l u
    | o => o

/-- Is the operation one that ends a self test: a load or store, or any of the vector, engine and lane slots (R395)? -/
def endsTest (p : Fin 8 × Instr) : Bool :=
  3 ≤ p.1.val || match p.2 with
    | .ldb _ _ _ | .ldbu _ _ _ | .ldh _ _ _ | .ldhu _ _ _ | .ldw _ _ _ | .ldwu _ _ _ | .ldd _ _ _ => true
    | .stb _ _ _ | .sth _ _ _ | .stw _ _ _ | .std _ _ _ => true
    | _ => false

/-- What follows the slots of a bundle: a trap is taken in its place, or the bundle has issued. -/
def State.afterSlots (s : State) (b : Bundle) (ops : List (Fin 8 × Instr)) (t : State) : State :=
  match t.seq.tookTrap with
  | some r => s.enterTrap r.2
  | none =>
    let u := s.finish b t
    if t.seq.effect != .hold && ops.any endsTest then u.endTest else u

/-- A bundle at its issue: the trap of its first failing class, or its slots (R61, R62, R76). -/
def State.issue (b : Bundle) (s : State) : Out :=
  let ops := bundleOps b
  match firstClass (s.ctlTraps b ++ s.decodeTraps b ++ s.earlyTraps ops) with
  | some t => .next (s.enterTrap t.2)
  | none => match runSlots ops s with
    | .next t => .next (s.afterSlots b ops t)
    | o => o

/-! ## The sequencer's part of a cycle -/

/-- Does the sequencer wait although a bundle stands at pc: for its issue cycle, or in an untimed image for the
acknowledgements of a checkpoint (R434)? -/
def State.waits (s : State) : Bool := decide (s.now < s.seq.issueAt) || (s.ckptOpen && !s.timedImage)

/-- The cycle of a running sequencer (R65, R123, R126, R134, R145). A trap already owed, a TRAP's, a landing's or an HBM bank's, comes
before the faults that fall due by the cycle: R145 lists neither kind (DESIGN CHOICE, log 64). -/
def State.issueCycle (s : State) : Out :=
  match s.seq.trapDue with
  | some t => .next (s.enterTrap t)
  | none =>
    if s.segendLate then exec .cycleCountMismatch s
    else if s.waits then .next s
    else if s.owesEscape then .next (s.onSeq fun q => { q with escPaid := true })
    else if s.isStarved then exec .safePointStarvationFault s
    else if s.atRuntime then .next (if s.seq.suspended then s.dispose else s.runtimeIdles)
    else match s.fetch with
      | .error _ => exec .illegalCodeUnitFetch s
      | .ok b => s.issue b

/-- A held boundary's cell notes its ready cycle; the launch of one cell finds its own resume cycle with it (R362, R363),
another launch's comes with HOLD_END. -/
def State.holdCycle (v : Nat) (s : State) : State :=
  if s.seg.ready.isNone && v + 64 ≤ s.absc && s.holdReady then
    let t := s.onSeg fun g => { g with ready := some s.absc }
    if s.loneCell then t.onSeq fun q => { q with run := .boundary v (s.resumeCycle s.absc) true } else t
  else s

/-- The sequencer's part of a cycle. -/
def State.runCycle (s : State) : Out :=
  match s.seq.run with
  | .running => s.issueCycle
  | .boundary v _ true => .next (s.holdCycle v)
  | _ => .next s

/-! ## What falls due -/

/-- Does the first bundle of a segment whose place a trap had taken issue in this cycle (R124, R140, R362)? -/
def State.startsLate (s : State) : Bool :=
  s.seg.closed && s.seq.mode == .user && !s.seq.suspended && s.seq.trapDue.isNone && !s.waits && !s.owesEscape

/-- The events of a boundary's or a replay's end (R129, R362, R363, R365). -/
def State.boundaryEvent (s : State) : Option Instr :=
  match s.seq.run with
  | .boundary _ r false => if r ≤ s.absc then some .segmentStart else none
  | .boundary _ r true => if r ≠ 0 && s.holdEnds then some .holdEnd else none
  | .running => if s.startsLate then some .segmentStart else none
  | .replayWait q => match s.seg.pending with
    | some (_, _, []) => if q ≤ s.absc then some .replayStart else none
    | _ => none
  | _ => none

/-- Events that come about when a condition holds: an invalidation completes, a command starts. -/
def State.pollEvent (s : State) : Option Instr :=
  if s.cp.invals.any fun v => v.host && s.invalDone v then some .atsInvalidationComplete
  else if s.apex.frozen.isNone && s.cp.invals.any fun v => !v.host && s.invalDone v then some .invalidationComplete
  else s.startable.map fun p => .commandStart p.1 p.2

/-- The first agenda item, if it is due in this cycle with a rank below a bound. -/
def State.agendaDue (s : State) (bound : Nat) : Option Due :=
  match s.agenda with
  | [] => none
  | d :: _ => if d.at_ < s.now || (d.at_ = s.now && d.rank < bound) then some d else none

/-- The first agenda item is done. -/
def State.runDue (d : Due) (s : State) : Out :=
  let t : State := { s with agenda := s.agenda.drop 1 }
  match d.act with
  | .ev i => exec i t
  | .micro m => .next (t.micro m)

/-- Is an input one for the Apex, which takes none while it is frozen (R401)? -/
def apexBound : Instr → Bool
  | .launch _ _ _ | .remoteLaunch _ _ | .pageServiced _ _ _ _ | .invalidateDeviceTables _ _ _ _ | .suspendLaunch _ _
  | .abandonLaunch _ _ | .abandonCopy _ _ _ _ | .enableQueue _ _ | .resetQueue _ _ | .stageFirmware _ _ _ _ _
  | .activateFirmware _ | .clearServiceHold _ _ _ | .vfBind _ _ => true
  | _ => false

/-- The place in the cycle's order of an input that does not act at once: a row lands among the writes, timed rows first, and so does an
ATOM's word (R174, R262, R356); votes and appeals follow the causes of their cycle (R385). -/
def landsLate : Instr → Option Nat
  | .timedRowLand _ => some rankWrite
  | .copyRowLand _ _ _ | .atomRequest _ | .atomResponse _ _ => some 5
  | .accusation _ _ => some rankWriteback
  | .appealMessage _ _ => some rankWriteback
  | .readmissionVote _ _ => some rankWriteback
  | _ => none

/-- Is it a fence notice, which comes before every other perimeter event of its cycle (R385)? -/
def isFenceNotice : Instr → Bool
  | .fenceNotice _ _ => true
  | _ => false

/-- Is an input a valid appeal's or a readmission vote's message: later rows of R385? -/
def isAppeal : Instr → Bool
  | .appealMessage _ _ => true
  | _ => false

def isReadmission : Instr → Bool
  | .readmissionVote _ _ => true
  | _ => false

/-- A fence notice that has come: the first row of R385, before the causes by silence. -/
def State.nextNotice (s : State) : Option (Nat × Instr) := s.inbox.find? fun p => p.1 ≤ s.now && isFenceNotice p.2

/-- The next input to take: in the order of R385's later rows, causes and accusations with all other inputs in the order of
their coming, then appeals, then readmission votes. -/
def State.nextInput (s : State) : Option (Nat × Instr) :=
  let come := s.inbox.filter fun p => p.1 ≤ s.now
  [come.find? fun p => !isAppeal p.2 && !isReadmission p.2, come.find? fun p => isAppeal p.2, come.head?].findSome? id

/-- An input that has come is taken; one for a frozen Apex waits, and a landing row takes its place in the cycle's order. -/
def State.takeInput (p : Nat × Instr) (s : State) : Out :=
  let t : State := { s with inbox := s.inbox.erase p }
  if s.apex.frozen.isSome && apexBound p.2 then .next { t with inbox := t.inbox ++ [(s.now + 1, p.2)] }
  else match landsLate p.2 with
    | some k => .next (t.plan s.now k (.ev p.2))
    | none => exec p.2 t

/-- The unit whose results a slot names. -/
def slotUnit (k : Fin 8) : ArcUnit := if k = 1 then .sa else if k = 2 then .sb else .vec

/-- Place of a failing result's check among the open ones of its slot. -/
def State.failingAt (s : State) (w : PendingWrite) : Nat :=
  ((s.openChecks w.slot).findIdx? fun v => v.sameCheck w).getD 0

/-- A result that is due lands, or fails its check (R77, R111). -/
def State.landNext (w : PendingWrite) (s : State) : Out :=
  if w.bad then exec (.arithmeticCheckFault ⟨slotUnit w.slot, s.failingAt w⟩) s else exec .resultWriteback s

/-- The state after the sequencer's part: the rest of the cycle follows. -/
def endPre : Out → Out
  | .next s => .next { s with phase := .post }
  | o => o

/-- Before and at the bundle: what ends with the cycle before, inputs, results, ends of copies, ends of waits, reads and
landings, boundaries, and the sequencer's part of the cycle. -/
def State.preStep (s : State) : Out :=
  match s.agendaDue rankFirst with
  | some d => s.runDue d
  | none => match s.nextNotice with
    | some p => s.takeInput p
    | none => match s.agendaDue rankWriteback with
      | some d => s.runDue d
      | none => match s.nextInput with
        | some p => s.takeInput p
        | none => match s.nextWrite with
          | some w => s.landNext w
          | none => match s.agendaDue rankRead with
            | some d => s.runDue d
            | none => match s.pollEvent with
              | some i => exec i s
              | none => match s.agendaDue rankEnd with
                | some d => s.runDue d
                | none => match s.boundaryEvent with
                  | some i => exec i s
                  | none => endPre s.runCycle

/-! ## The end of a cycle -/

/-- Is a cell's report of HALT on its way? -/
def State.reporting (s : State) (lid : BitVec 32) : Bool :=
  s.agenda.any fun d => match d.act with
    | .ev (.haltReport l _ _) => l = lid
    | _ => false

/-- The running program's report: HALT has issued and its last command has signalled (R133). -/
def State.ownReport (s : State) : Option State :=
  match s.seq.run, s.seq.haltSt with
  | .halted, some st =>
    if s.reporting s.lid || s.anyCmd (fun c => !c.pred) then none
    else some (s.plan (s.now + 1) rankEnd (.ev (.haltReport s.lid s.self st)))
  | _, _ => none

/-- The predecessor's report: its last command has signalled; the outcomes of its commands since the new program's load go with
it (R133, R193, R306). -/
def State.predReport (s : State) : Option State :=
  match s.pred with
  | none => none
  | some (lid, st) =>
    if s.reporting lid || s.anyCmd (fun c => c.pred && !c.saved) then none
    else
      let t := s.plan (s.now + 1) rankEnd (.ev (.haltReport lid s.self st))
      some { t.emit (.outcomes lid s.predOut) with predOut := [] }

/-- Does the counter pass a value that is `phase` modulo `period` on its way from v to w? -/
def passes (period phase v w : Nat) : Bool := (v + period - phase) / period ≠ (w + period - phase) / period

/-- The events of a period of the counter, when it passes their values (R343, R345, R350, R380, R385). -/
def State.periodic (v : Nat) (s : State) : State :=
  let w := s.absc
  let at_ := fun (period phase rank : Nat) (i : Instr) (t : State) =>
    if passes period phase v w then t.plan s.now rank (.ev i) else t
  let t := at_ 4096 0 rankFirst .periodEnd s
  let t := at_ 1048576 0 rankEnd .domainBoundary t
  let t := at_ 1048576 0 rankEnd .abscissaAutoStep t
  let t := at_ 1048576 0 rankEnd .trimUpdate t
  let t := (List.finRange 18).foldl (fun u p => at_ 4096 0 rankEnd (.timestampBeatSend p) u) t
  at_ 4096 64 rankEnd .heartbeatSend t

/-- Does the cell wait in a held boundary, so that SAFECT reads 0 (R363)? -/
def State.idleHold (s : State) : Bool :=
  match s.seq.run with
  | .boundary v _ true => decide (v + 65 ≤ s.absc)
  | _ => false

/-- The counter in the next cycle (R349). -/
def Abscissa.tick (a : Abscissa) : Abscissa :=
  if 0 < a.hold then { a with hold := a.hold - 1 }
  else { a with value := a.value + 1 + BitVec.ofNat 64 a.jump, jump := 0 }

/-- The next cycle begins: the clock, the counter and SAFECT go on, and claims that have passed are dropped (R20,
R123). -/
def State.tick (s : State) : State :=
  let n := s.now + 1
  let t : State := { s with now := n, phase := .pre, ax := s.ax.tick }
  let t := ((List.finRange 8).filter s.releaseDone).foldl (fun u k => u.plan n rankWriteback (.ev (.sectorFree k))) t
  let t := t.onSys fun r => { r with safect := if t.idleHold then 0 else r.safect + 1 }
  let t := t.onAnn fun a => { a with
    claims := a.claims.filter fun c => n ≤ c.cyc,
    lanes := a.lanes.filter fun u => match u.until_ with
      | some e => n ≤ e
      | none => true }
  t.periodic s.absc

/-- After the bundle: what falls due at the cycle's end, its signals, reports, and the next cycle. -/
def State.postStep (s : State) : Out :=
  if s.agenda.any fun d => d.at_ ≤ s.now then (match s.agenda with
    | d :: _ => s.runDue d
    | [] => .next s)
  else if s.owesReplay then .next s.raiseReplay
  else if !s.incs.isEmpty || !s.fails.isEmpty then .next s.applySignals
  else match s.ownReport with
    | some t => .next t
    | none => match s.predReport with
      | some t => .next t
      | none => .next s.tick

/-- One step: one thing of the cycle's order. -/
def State.act (s : State) : Out :=
  match s.phase with
  | .pre => s.preStep
  | .post => s.postStep

/-! ## A bundle placed at pc -/

/-- The code units of an escape at an address (R64). -/
def escapeUnits (a : Nat) (b : Bundle) : List (Nat × CodeUnit) :=
  (a, { unit := 0xFFFF, start := true }) ::
    (List.range 24).filterMap fun j =>
      let u := BitVec.ofNat 16 (b.toNat / 2 ^ (16 * j))
      if u = 0 then none else some (a + 1 + j, { unit := u, start := false })

/-- A bundle stored as an escape at pc, its empty cycle paid, in a cycle in which nothing stands before its issue. -/
def State.placeBundle (b : Bundle) (s : State) : State :=
  let a := s.seq.pc.toNat
  let t := s.onSeq fun q => { q with
    code := q.code.filter (fun c => c.1 < a) ++ escapeUnits a b ++ q.code.filter (fun c => a + 25 ≤ c.1),
    escPaid := true, arrived := true, badTarget := none, run := .running, issueAt := min q.issueAt s.now, trapDue := none,
    writes := q.writes.filter fun w => s.now < w.due }
  { t with phase := .pre, inbox := s.inbox.filter fun p => s.now < p.1, agenda := s.agenda.filter fun d => s.now < d.at_ }

end Sys2Proof.Machine
end

