-- ==== Sys2Proof/Machine/Step.lean ====
section
/-! DEFINITION. The step function, and an instruction placed where the next step fetches it. -/

namespace Sys2Proof.Machine

/-- One step of the machine: one thing of a cycle's order. -/
def step (s : State) : Host.Outcome State Fault Refusal := s.act

/-- The bundle whose low bits are given, the rest zero, stored where the next step fetches. -/
def State.withFetchWord (s : State) (nbits w : Nat) : State := s.placeBundle (BitVec.ofNat 384 (w % 2 ^ nbits))

end Sys2Proof.Machine
end

