-- ==== Sys2Proof/Safety.lean ====
section
/-! DEFINITION. What counts as a safe run, and the predicates in which the claims are stated. -/

namespace Sys2Proof.Machine

/-! ## Safe runs -/

/-- Both memories are in canonical form. -/
def State.memWf (s : State) : Bool := s.ann.mem.wf && s.cp.hbm.wf

/-- A run is safe while every step answers a next state. -/
def Goes (o : Out) : Prop := ∃ t, o = .next t

/-! ## What an instruction does -/

/-- The instruction answers a next state, and `p` holds of it. -/
def Completes (i : Instr) (s : State) (p : State → Prop) : Prop := ∃ t, exec i s = .next t ∧ p t

/-- `t` is `s` with one more register write in flight: for `d`, issued now, readable `lat` cycles later (R77). Its check
fails only when an injection is armed (R113). Nothing else changes. -/
def InFlight (s : State) (d : Dest) (lat : Nat) (t : State) : Prop :=
  ∃ w : PendingWrite, w.dest = d ∧ w.due = s.now + lat ∧ w.issued = s.now ∧ (s.sys.arcinj = 0 → w.bad = false) ∧
    t = { s with seq := { s.seq with writes := s.seq.writes ++ [w] } }

/-- The instruction puts one register write in flight and changes nothing else. -/
def Gives (i : Instr) (s : State) (d : Dest) (lat : Nat) : Prop := Completes i s (InFlight s d lat)

/-- No source register is pending from an earlier bundle, and no write of the destination is in flight (R77). A write to
x0 never conflicts. -/
def State.ready (s : State) (srcs : List Reg) (dst : Reg) : Prop :=
  (∀ r ∈ srcs, s.pendingRead (.x r) = false) ∧ (dst = 0 ∨ s.pendingWrite (.x dst) = false)

/-- The instruction takes the trap that a slot asks for: its own effect does not happen (R76, R134). -/
def Traps (i : Instr) (s : State) (t : TrapReq) : Prop := exec i s = .next (s.takeTrap t)

/-- A range register covers the row of a local address (R192). -/
def State.covers (s : State) (a : Nat) (k : Fin 16) (r : RangeReg) : Prop :=
  s.ann.ranges[k] = some r ∧ r.sec = secOf a ∧ r.first.val ≤ rowOf a ∧ rowOf a ≤ r.last.val

/-- A user or supervisor access of `n` bytes at local address `a` that no rule forbids: in the local space and aligned
(R100), outside the save area and in a held sector for user code (R100, R194), one more access of the sector free in the next
cycle (R18), and in user code of a timed segment a range register that admits its row and kind for st7 (R192). -/
def State.mayAccess (s : State) (a n : Nat) (write : Bool) : Prop :=
  a + n ≤ 0x200000 ∧ a % n = 0 ∧ (s.seq.mode = .user → a < 0x1D8000 ∧ s.holds (secOf a) = true) ∧
    s.claimOk (secOf a) (s.now + 1) write = true ∧
    (s.seq.mode = .supervisor ∨ s.seg.inSeg = false ∨ ∃ k r, s.covers a k r ∧ r.write = write ∧ r.stmask.getLsbD 7 = true)

/-- No active loop ends at the bundle at pc or at one of the two after it (R119). -/
def State.clearOfLoopEnd (s : State) : Prop :=
  ∀ l ∈ s.seq.loops.head?, l.stop.toNat ≠ s.seq.pc.toNat ∧ l.stop.toNat ≠ s.after s.seq.pc.toNat ∧
    l.stop.toNat ≠ s.after (s.after s.seq.pc.toNat)

/-- The value of an FP32 code that is not a NaN (R35); the infinities stand past the largest finite values. -/
def f32Val (c : Nat) : ℚ :=
  (if 2 ^ 31 ≤ c then -1 else 1) *
    ((if c / 2 ^ 23 % 256 = 0 then 2 * (c % 2 ^ 23) else (2 ^ 23 + c % 2 ^ 23) * 2 ^ (c / 2 ^ 23 % 256) : Nat) : ℚ) / 2 ^ 150

/-! ## What a vector instruction does -/

/-- Position j of a row: bits 32 j + 31 to 32 j (R148). -/
def position (r : Row) (j : Nat) : BitVec 32 := BitVec.extractLsb' (32 * j) 32 r

/-- Is position j active for a destination (R152)? -/
def State.active (s : State) (c : VCtl) (od : VOp) (j : Nat) : Bool :=
  (s.seq.maskCol[c.mp].getLsbD j != c.cpl) &&
    (match od with
      | .tile _ row => s.seq.maskRow[c.mp].getLsbD row.val
      | _ => true)

/-- Is a destination's row written where the column mask does not gate (R159, R160)? -/
def State.rowOn (s : State) (c : VCtl) (od : VOp) : Bool :=
  match od with
  | .tile _ row => s.seq.maskRow[c.mp].getLsbD row.val
  | _ => true

/-- The row that reaches a destination operand after `lat` cycles: at the positions of `act` it is `r`; a tile row keeps its
others, and a port takes the row with its column mask and claims the write of its walk row (R151, R152). -/
def RowGiven (u : State) (od : VOp) (lat : Nat) (act : Nat → Bool) (r : Row) (t : State) : Prop :=
  match od with
  | .tile k row => ∃ v, InFlight u (.tile (tileIdx k row) v) lat t ∧ ∀ j < 128,
      position v j = if act j then position r j else position u.seq.tiles[tileIdx k row] j
  | .port q => ∃ cols w, InFlight u (.push q u.ann.ports[q].gen r cols) lat w ∧ (∀ j < 128, cols.getLsbD j = act j) ∧
      t = w.claim u.ann.ports[q].sec (u.now + lat + u.ann.ports[q].hops) true (.port q)
  | _ => False

/-- No check stands in the way of a vector instruction: no port named twice (R151), its mask and scalar sources
readable (R77), its row sources read or popped in order with `u` the state after them (R150, R178), and its destination
free (R77, R179). -/
def State.vecReady (s : State) (c : VCtl) (od : VOp) (srcs : List VOp) (regs : List Reg) (lat : Nat) (u : State) : Prop :=
  od.isDest = true ∧ dupPort (od :: srcs) = none ∧ s.pendingRead (.mask c.mp) = false ∧
    (∀ r ∈ regs, s.pendingRead (.x r) = false) ∧ State.popAll c srcs s = .ok u ∧ u.dstFault od lat = none

/-- A vector instruction gives a row each element of which is known, at the active positions. -/
def Elementwise (i : Instr) (s : State) (c : VCtl) (od : VOp) (srcs : List VOp) (regs : List Reg) (lat : Nat)
    (act : Nat → Bool) (w : Nat) (p : Nat → Nat → Prop) : Prop :=
  ∀ u, s.vecReady c od srcs regs lat u →
    ∃ r, (∀ e < 4096 / w, p e (elem w r e)) ∧ Completes i s (RowGiven u od lat act r)

/-! ## What the issue of an engine command leaves -/

/-- The registers that an engine command reads at issue are not pending, and they exist (R72, R77). -/
def State.cmdReady (s : State) (e : ECtl) (n : Nat) : Prop :=
  e.xa.val + n ≤ 32 ∧ s.pendingRead (.x e.wx) = false ∧
    ∀ r : Reg, e.xa.val ≤ r.val → r.val < e.xa.val + n → s.pendingRead (.x r) = false

/-- A command as its issue captures it (R46, R72, R213): operation, index, `n` operands, wait, signal, queue, cycle, bundle and
the generator's two registers; it belongs to the running program. -/
def Captured (s : State) (idx : BitVec 24) (i : Instr) (e : ECtl) (n : Nat) (c : Cmd) : Prop :=
  c.op = i ∧ c.idx = idx ∧ (∀ (k : Fin 4) (r : Reg), k.val < n → r.val = e.xa.val + k.val → c.xs[k] = s.x r) ∧
    c.wait = (if e.wx = 0 then none else some (e.wsem, s.x e.wx)) ∧ c.ssem = e.ssem ∧ c.sinc = e.sinc ∧ c.prio = e.q ∧
    c.issued = s.now ∧ c.baddr = s.seq.pc ∧ c.pred = false ∧ c.key = s.sys.srkey ∧ c.ctr = s.sys.srkctr

/-- Queues after one more command: counted, and last in its queue. -/
def Queues.with (q : Queues) (c : Cmd) : Queues :=
  { q with count := q.count + 1, prio := if c.prio then q.prio ++ [c] else q.prio,
           normal := if c.prio then q.normal else q.normal ++ [c] }

/-- The command joins its station's queue, which is not full, as captured, and `p` holds of what it captured besides; nothing
else changes (R200, R231, R358). -/
def Joins (i : Instr) (s : State) (u : EUnit) (e : ECtl) (n : Nat) (p : Cmd → Prop) : Prop :=
  s.cmdReady e n → (if e.q then (s.queues u).prio else (s.queues u).normal).length < 16 →
    ∃ c, Captured s (s.queues u).count i e n c ∧ p c ∧ Completes i s (· = s.onQueues u fun q => q.with c)

/-! ## What stands ahead of a cycle -/

/-- An act stands on the agenda. -/
def State.planned (t : State) (cyc rank : Nat) (a : Act) : Prop := { at_ := cyc, rank := rank, act := a } ∈ t.agenda

/-- The transfer that a ctl operation leaves behind: two delay bundles to go, and the target if it is taken (R115). Nothing
else changes at issue. -/
def transferred (s : State) (target : Option Word) : State :=
  { s with seq := { s.seq with xfer := some { left := 2, target := target }, effect := .xfer } }

/-- Nothing of the sequencer, the sectors and the semaphores differs. -/
def SameCore (s t : State) : Prop := t.seq = s.seq ∧ t.ann = s.ann ∧ t.sems = s.sems ∧ t.sys = s.sys

/-- The increments of a cycle after a command's signal (R72, R308): by its sinc, or with sinc 15 by the bytes that it landed; a
command of sinc 0 and one of a predecessor do not signal. -/
def Signals (s : State) (c : Cmd) (bytes : Nat) (t : State) : Prop :=
  (c.pred = true ∨ c.sinc = 0 → t.incs = s.incs) ∧
    (c.pred = false → c.sinc ≠ 0 → ∃ i : Inc, t.incs = s.incs ++ [i] ∧ i.sem = c.ssem ∧
      i.n = if c.sinc = 15 then bytes else c.sinc.val)

/-- The failures of a cycle after a command that signals has failed: semaphore, code, detail, index (R307, R309). -/
def FailsWith (s : State) (c : Cmd) (code detail : Nat) (t : State) : Prop :=
  t.fails = s.fails ++ [(c.ssem, BitVec.ofNat 8 code, BitVec.ofNat 8 detail, c.idx.setWidth 16)]

/-- A command that signals, and not of a predecessor: its failures reach its semaphore (R309). -/
def Cmd.signals (c : Cmd) : Prop := c.sinc ≠ 0 ∧ c.pred = false

/-- The 512 bytes from a on are those of a row, and every other byte is as in `m` (R99). -/
def RowStored (m : Memory) (a : Nat) (r : Row) (m' : Memory) : Prop :=
  (∀ k < 512, m'.get (a + k) = byteOf r.toNat k) ∧ ∀ b, b < a ∨ a + 512 ≤ b → m'.get b = m.get b

/-! ## Launches -/

/-- The heap entry with a number is as in `s` with its completion record due (R413). -/
def EntryDone (s : State) (id : Nat) (status cstat : BitVec 16) (handle : Word) (t : State) : Prop :=
  ∀ e, s.heapEnt id = some e → e.done = none → t.heapEnt id = some { e with done := some (status, cstat, handle) }

/-- The Apex has let a launch go, and its packet's record is due (R414). -/
def LaunchEnded (s : State) (l : LaunchRec) (status cstat : BitVec 16) (t : State) : Prop :=
  (∀ m ∈ t.apex.launches, m.lid ≠ l.lid) ∧ (∀ m ∈ s.apex.launches, m.lid ≠ l.lid → m ∈ t.apex.launches) ∧
    EntryDone s l.entry status cstat 0 t

/-- A driver command has ended: result, and the vector 0 of its function (R447). -/
def CommandEnded (fn : Fin 9) (result : BitVec 8) (t : State) : Prop :=
  t.apex.busy = false ∧ t.apex.result = result ∧ .msix fn.val 0 ∈ t.out

/-- The endpoint accepts driver commands and none is under way (R447, R453). -/
def State.takesCommand (s : State) : Prop := s.apex.boot = .up ∧ s.apex.busy = false

/-! ## Where the next step issues a bundle -/

/-- The next step issues bundle b: nothing of the cycle's order stands before it, the sequencer runs, and the fetch at pc
gives b. -/
def State.atIssue (s : State) (b : Bundle) : Prop :=
  s.phase = .pre ∧ (∀ p ∈ s.inbox, s.now < p.1) ∧ s.nextWrite = none ∧ s.agendaDue rankEnd = none ∧ s.pollEvent = none ∧
    s.seq.run = .running ∧ s.startsLate = false ∧ s.seq.trapDue = none ∧ s.segendLate = false ∧ s.waits = false ∧ s.owesEscape = false ∧
    s.isStarved = false ∧ s.atRuntime = false ∧ s.fetch = .ok b

/-- No input and nothing planned is an access through the host's aperture. -/
def State.noAperture (s : State) : Prop :=
  ∀ w off b, (∀ p ∈ s.inbox, p.2 ≠ .apertureAccess w off b) ∧ ∀ d ∈ s.agenda, d.act ≠ .ev (.apertureAccess w off b)

end Sys2Proof.Machine
end

