-- ==== Sys2Proof/Certificates/Slice0/Obligations.lean ====
section
/-! DEFINITION. The statements about the machine, each from the numbered rules of the manual. -/

open Sys2Proof Sys2Proof.Machine

/-- Decode and encode agree (R68 to R75): the word of a well-formed instruction fits a slot and decodes to that
instruction, with every operand; and a word that decodes to an instruction is that instruction's word, so no reserved
bit is let through. -/
def Obligations.EncodingRoundTrips : Prop :=
  (∀ (i : Instr) (c : SlotClass) (w : Nat), i.wf = true → encode i = some (c, w) → w < 2 ^ 64 ∧ decodeSlot c w = .ok i) ∧
    ∀ (i : Instr) (c : SlotClass) (w : Nat), w < 2 ^ 64 → decodeSlot c w = .ok i → i ≠ .nop → i.wf = true ∧ encode i = some (c, w)

/-- Words that the manual prints beside their instructions decode to those instructions, a few of each slot (R61 to R75). -/
def Obligations.PrintedWordsDecode : Prop :=
  decodeSlot .ctl 0x1100030000003200 = .ok (.segend 3 12800) ∧
    decodeSlot .ctl 0x0220000000000140 = .ok (.bne 4 0 0x140) ∧
    decodeSlot .ctl 0x1300420000000007 = .ok (.trap 0x42 7) ∧
    decodeSlot .scalar 0x0B28440000000000 = .ok (.mul 5 1 2) ∧
    decodeSlot .scalar 0x28213FFFFFFFFFF8 = .ok (.addi 4 4 (BitVec.ofInt 46 (-8))) ∧
    decodeSlot .scalar 0x5901000000000E51 = .ok (.syswr 4 0xE51) ∧
    decodeSlot .vec 0x0101000120000000 = .ok (.vadd ⟨.fp32, 0, false, .rne, false, 0⟩ (.tile 2 0) (.tile 0 0) (.port 1)) ∧
    decodeSlot .vec 0x2801044000002000 = .ok (.vsel ⟨.fp32, 1, false, .rne, false, 0⟩ (.tile 2 0) .zero (.tile 0 0)) ∧
    decodeSlot .eng 0x28000018A0000000 = .ok (.tsend ⟨0, 0, 3, 1, 8, false⟩) ∧
    decodeSlot .lane 0x012D49C000000000 = .ok (.pbind 1 3 ⟨true, 2⟩ 1 7 false) ∧
    decodeSlot .lane 0x0220020000000000 = .ok (.pwalk 1 8 0)

/-- What reset leaves where the manual gives a value (R108, R149, R189, R206 to R208, R253, R276, R306, R352, R391, R397). -/
def Obligations.ResetState : Prop :=
  let s := State.reset
  s.sys.tvec = 0x7000 ∧ s.sys.tepc = 0 ∧ s.sys.tcause = 0 ∧ s.sys.tinfo = 0 ∧ s.sys.tsav0 = 0 ∧ s.sys.tsav1 = 0 ∧
    s.sys.srkey = 0 ∧ s.sys.srkctr = 0 ∧ s.sys.uhvec = 0 ∧ s.sys.safect = 0 ∧ s.sys.arcstat = 0 ∧ s.sys.arcinj = 0 ∧
    (∀ k : Fin 128, s.seq.tiles[k] = 0) ∧ (∀ m : Fin 4, s.seq.maskRow[m] = 0xFFFF ∧ s.seq.maskCol[m] = BitVec.allOnes 128) ∧
    (∀ q : Fin 8, s.ann.ports[q].bound = false) ∧ (∀ k : Fin 16, s.mx.ft[k] = 0) ∧ (∀ k : Fin 8, s.mx.tol[k] = 0x34800000) ∧
    (∀ k : Fin 9, s.mx.shadow[k] = 0) ∧ s.mx.shadow[9] = 0x1F8 ∧ (∀ n : Fin 256, s.sems[n] = { cnt := 0, err := false, status := 0 }) ∧
    s.sh.inj = 0 ∧ s.sh.fail = 0 ∧ s.cp.fail = 0 ∧ s.cp.sel = 0 ∧ s.cp.vladdr = 0 ∧ s.cp.vlinfo = 0 ∧ s.cp.ctx = 0 ∧
    s.cp.pasid = 0 ∧ s.ax.lkcfg = 0 ∧ s.ax.lkcnt = 0 ∧ s.hl.pmlast = 0 ∧ s.hl.spareNow = 0x1FFFFF

/-- Every step keeps both memories in canonical form (the model's representation of R99 and R10), and reset has it. The
canonical form is the model's own, log 3. -/
def Obligations.StepsKeepMemoryCanonical : Prop :=
  State.reset.memWf = true ∧ ∀ s t : State, s.memWf = true → step s = .next t → t.memWf = true

/-- Every instruction and every event answers a next state, but a host access outside the aperture (R446); and so does
every step with no such access on its way. -/
def Obligations.EveryStepGoes : Prop :=
  (∀ (i : Instr) (s : State), (∀ w off b, i ≠ .apertureAccess w off b) → Goes (exec i s)) ∧
    ∀ s : State, s.noAperture → Goes (step s)

/-- A step at a bundle runs the decoded instruction: with nothing before it in its cycle, the step is the issue of the
bundle that stands at pc; and of a bundle whose one operation stands in slot k, allowed there, the step is exec of
that operation with its slot noted, and after it the sequencer's own work (R62, R76, R80, R115, R118). The order of a
cycle as steps is log 45. -/
def Obligations.StepRunsBundle : Prop :=
  ∀ (b : Bundle) (s : State), s.atIssue b → step s = endPre (s.issue b) ∧
    ∀ (k : Fin 6) (i : Instr) (t : State), (∀ j, j ≠ k.val → j < 6 → slotBits b j = 0) → decodeBundleSlot b k.val = .ok i → i ≠ .nop →
      s.ctlTraps b = [] → let slot : Fin 8 := ⟨k.val, by omega⟩
      exec i { s with seq := { s.seq with slot := slot, tookTrap := none } } = .next t →
        step s = .next { s.afterSlots b [(slot, i)] t with phase := .post }

/-- A bundle stored as an escape at pc is what the fetch gives (R64, R65), its empty cycle paid; registers, memory and the
units at work stay. Placing is the model's own operation, log 11. -/
def Obligations.PlacedBundleIsFetched : Prop :=
  ∀ (b : Bundle) (n w : Nat) (s : State), s.seq.pc.toNat + 25 ≤ (if s.seq.mode = .user then 0x7000 else 0x8000) →
    let t := s.placeBundle b
    t.fetch = .ok b ∧ t.owesEscape = false ∧ t.seq.pc = s.seq.pc ∧ t.seq.regs = s.seq.regs ∧ t.seq.mode = s.seq.mode ∧
      t.ann = s.ann ∧ t.sys = s.sys ∧ t.sems = s.sems ∧ t.mx = s.mx ∧ t.cp = s.cp ∧
      (s.withFetchWord n w).fetch = .ok (BitVec.ofNat 384 (w % 2 ^ n))

/-- ADD, SUB, MUL, MULH, MULHU, ADDX, ADDI, MULI (R94, R95, R97): each result as an exact number, narrowed once. -/
def Obligations.IntegerArithmeticResults : Prop :=
  ∀ (xd xa xb : Reg) (sh : Fin 8) (imm : BitVec 46) (s : State), s.ready [xa, xb] xd →
    let a := s.x xa
    let b := s.x xb
    (∃ v, Gives (.add xd xa xb) s (.x xd v) 1 ∧ v.toNat = (a.toNat + b.toNat) % 2 ^ 64) ∧
    (∃ v, Gives (.sub xd xa xb) s (.x xd v) 1 ∧ (v.toNat : Int) = ((a.toNat : Int) - b.toNat) % 2 ^ 64) ∧
    (∃ v, Gives (.mul xd xa xb) s (.x xd v) 3 ∧ v.toNat = a.toNat * b.toNat % 2 ^ 64) ∧
    (∃ v, Gives (.mulh xd xa xb) s (.x xd v) 3 ∧ v.toInt = a.toInt * b.toInt / 2 ^ 64) ∧
    (∃ v, Gives (.mulhu xd xa xb) s (.x xd v) 3 ∧ v.toNat = a.toNat * b.toNat / 2 ^ 64) ∧
    (∃ v, Gives (.addx xd xa xb sh) s (.x xd v) 1 ∧ v.toNat = (a.toNat + b.toNat * 2 ^ sh.val) % 2 ^ 64) ∧
    (∃ v, Gives (.addi xd xa imm) s (.x xd v) 1 ∧ (v.toNat : Int) = (a.toNat + imm.toInt) % 2 ^ 64) ∧
    (∃ v, Gives (.muli xd xa imm) s (.x xd v) 3 ∧ (v.toNat : Int) = (a.toNat * imm.toInt) % 2 ^ 64)

/-- AND to ROTL, their immediate forms, BFX, BFI, MOVI, MOVHI (R94, R95, R97, R98), bit by bit. -/
def Obligations.BitResults : Prop :=
  ∀ (xd xa xb : Reg) (n pos wm1 : Fin 64) (imm : BitVec 46) (hi : BitVec 18) (s : State),
    s.ready [xa, xb, xd] xd → pos.val + wm1.val < 64 →
    let a := s.x xa
    let b := s.x xb
    let m := b.toNat % 64
    (∃ v, Gives (.and xd xa xb) s (.x xd v) 1 ∧ ∀ i, v.getLsbD i = (a.getLsbD i && b.getLsbD i)) ∧
    (∃ v, Gives (.or xd xa xb) s (.x xd v) 1 ∧ ∀ i, v.getLsbD i = (a.getLsbD i || b.getLsbD i)) ∧
    (∃ v, Gives (.xor xd xa xb) s (.x xd v) 1 ∧ ∀ i, v.getLsbD i = (a.getLsbD i != b.getLsbD i)) ∧
    (∃ v, Gives (.andn xd xa xb) s (.x xd v) 1 ∧ ∀ i, v.getLsbD i = (a.getLsbD i && !b.getLsbD i)) ∧
    (∃ v, Gives (.shl xd xa xb) s (.x xd v) 1 ∧ v.toNat = a.toNat * 2 ^ m % 2 ^ 64) ∧
    (∃ v, Gives (.shr xd xa xb) s (.x xd v) 1 ∧ v.toNat = a.toNat / 2 ^ m) ∧
    (∃ v, Gives (.sra xd xa xb) s (.x xd v) 1 ∧ v.toInt = a.toInt / 2 ^ m) ∧
    (∃ v, Gives (.rotl xd xa xb) s (.x xd v) 1 ∧ ∀ i < 64, v.getLsbD ((i + m) % 64) = a.getLsbD i) ∧
    (∃ v, Gives (.andi xd xa imm) s (.x xd v) 1 ∧ ∀ i < 64, v.getLsbD i = (a.getLsbD i && imm.getLsbD (min i 45))) ∧
    (∃ v, Gives (.ori xd xa imm) s (.x xd v) 1 ∧ ∀ i < 64, v.getLsbD i = (a.getLsbD i || imm.getLsbD (min i 45))) ∧
    (∃ v, Gives (.xori xd xa imm) s (.x xd v) 1 ∧ ∀ i < 64, v.getLsbD i = (a.getLsbD i != imm.getLsbD (min i 45))) ∧
    (∃ v, Gives (.shli xd xa n) s (.x xd v) 1 ∧ v.toNat = a.toNat * 2 ^ n.val % 2 ^ 64) ∧
    (∃ v, Gives (.shri xd xa n) s (.x xd v) 1 ∧ v.toNat = a.toNat / 2 ^ n.val) ∧
    (∃ v, Gives (.srai xd xa n) s (.x xd v) 1 ∧ v.toInt = a.toInt / 2 ^ n.val) ∧
    (∃ v, Gives (.movi xd imm) s (.x xd v) 1 ∧ v.toInt = imm.toInt) ∧
    (∃ v, Gives (.movhi xd xa hi) s (.x xd v) 1 ∧ v.toNat = hi.toNat * 2 ^ 46 + a.toNat % 2 ^ 46) ∧
    (∃ v, Gives (.bfx xd xa pos wm1) s (.x xd v) 1 ∧ v.toNat = a.toNat / 2 ^ pos.val % 2 ^ (wm1.val + 1)) ∧
    (∃ v, Gives (.bfi xd xa pos wm1) s (.x xd v) 1 ∧ ∀ i < 64, v.getLsbD i =
      if pos.val ≤ i ∧ i ≤ pos.val + wm1.val then a.getLsbD (i - pos.val) else (s.x xd).getLsbD i)

/-- MIN to SNE, SEL, CLZ, CTZ, POPC, SLTI, SLTIU (R94, R95, R97), by order and by bit positions. -/
def Obligations.CompareAndCountResults : Prop :=
  ∀ (xd xa xb xc : Reg) (imm : BitVec 46) (s : State), s.ready [xa, xb, xc] xd →
    let a := s.x xa
    let b := s.x xb
    (∃ v, Gives (.min xd xa xb) s (.x xd v) 1 ∧ v.toInt = min a.toInt b.toInt) ∧
    (∃ v, Gives (.max xd xa xb) s (.x xd v) 1 ∧ v.toInt = max a.toInt b.toInt) ∧
    (∃ v, Gives (.minu xd xa xb) s (.x xd v) 1 ∧ v.toNat = min a.toNat b.toNat) ∧
    (∃ v, Gives (.maxu xd xa xb) s (.x xd v) 1 ∧ v.toNat = max a.toNat b.toNat) ∧
    Gives (.slt xd xa xb) s (.x xd (if a.toInt < b.toInt then 1 else 0)) 1 ∧
    Gives (.sltu xd xa xb) s (.x xd (if a.toNat < b.toNat then 1 else 0)) 1 ∧
    Gives (.seq xd xa xb) s (.x xd (if a = b then 1 else 0)) 1 ∧
    Gives (.sne xd xa xb) s (.x xd (if a = b then 0 else 1)) 1 ∧
    Gives (.slti xd xa imm) s (.x xd (if a.toInt < imm.toInt then 1 else 0)) 1 ∧
    Gives (.sltiu xd xa imm) s (.x xd (if (a.toNat : Int) < imm.toInt % 2 ^ 64 then 1 else 0)) 1 ∧
    Gives (.sel xd xa xb xc) s (.x xd (if s.x xc = 0 then b else a)) 1 ∧
    (∃ v, Gives (.clz xd xa) s (.x xd v) 1 ∧ v.toNat ≤ 64 ∧ (∀ i < v.toNat, a.getLsbD (63 - i) = false) ∧
      (v.toNat < 64 → a.getLsbD (63 - v.toNat) = true)) ∧
    (∃ v, Gives (.ctz xd xa) s (.x xd v) 1 ∧ v.toNat ≤ 64 ∧ (∀ i < v.toNat, a.getLsbD i = false) ∧
      (v.toNat < 64 → a.getLsbD v.toNat = true)) ∧
    (∃ v, Gives (.popc xd xa) s (.x xd v) 1 ∧
      v.toNat = ((List.range 64).map fun i => if a.getLsbD i then 1 else 0).sum)

/-- DIV, DIVU, REM, REMU by R96: division by zero, the one overflow, and the quotient truncated toward zero with the
remainder that belongs to it; every operand pair gives a result after 22 cycles (R94), none traps. -/
def Obligations.DivisionResults : Prop :=
  ∀ (xd xa xb : Reg) (s : State), s.ready [xa, xb] xd →
    let a := s.x xa
    let b := s.x xb
    let least : Word := 0x8000000000000000#64
    let ones : Word := 0xFFFFFFFFFFFFFFFF#64
    ∃ q r qu ru : Word,
      Gives (.div xd xa xb) s (.x xd q) 22 ∧ Gives (.rem xd xa xb) s (.x xd r) 22 ∧
      Gives (.divu xd xa xb) s (.x xd qu) 22 ∧ Gives (.remu xd xa xb) s (.x xd ru) 22 ∧
      (b = 0 → q = ones ∧ r = a ∧ qu = ones ∧ ru = a) ∧
      (a = least ∧ b = ones → q = least ∧ r = 0) ∧
      (b ≠ 0 ∧ ¬(a = least ∧ b = ones) →
        q.toInt = a.toInt.tdiv b.toInt ∧ r.toInt = a.toInt - q.toInt * b.toInt) ∧
      (b ≠ 0 → qu.toNat = a.toNat / b.toNat ∧ ru.toNat = a.toNat - qu.toNat * b.toNat)

/-- FADD, FSUB, FMUL, FFMA, FDIV, FSQRT, FCVTWS, FCVTSW (R94, R102, R103): one rounding of FP32 operands in bits 31:0, by
the instruction's mode, SRK drawing at index 0; zeros above the FP32 result; an INT32 result sign-extended. The
operands on which the FP32 result is fixed without rounding (R38, R103): the first NaN operand quieted; invalid
operations give 0x7FC0_0000; a finite non-zero value over a zero gives an infinity of the quotient's sign; the root of
-0 is -0. FEQ, FLT, FLE, FMIN, FMAX (R94, R103) by the values of their operands: 0 for any NaN; the zeros equal, and
-0 below +0 for FMIN and FMAX. -/
def Obligations.FloatArithmeticResults : Prop :=
  (∀ (xd xa xb xc : Reg) (rnd : RMode) (sat : Bool) (s : State), s.ready [xa, xb, xc] xd →
     let a := (s.x xa).toNat % 2 ^ 32
     let b := (s.x xb).toNat % 2 ^ 32
     let c := (s.x xc).toNat % 2 ^ 32
     let r := s.rndAt rnd 0
     Gives (.fadd xd xa xb rnd) s (.x xd (BitVec.ofNat 64 (fpAdd f32 r false a b))) 4 ∧
     Gives (.fsub xd xa xb rnd) s (.x xd (BitVec.ofNat 64 (fpSub f32 r false a b))) 4 ∧
     Gives (.fmul xd xa xb rnd) s (.x xd (BitVec.ofNat 64 (fpMul f32 r false a b))) 4 ∧
     Gives (.ffma xd xa xb xc rnd) s (.x xd (BitVec.ofNat 64 (fpFma f32 r false false a b c))) 4 ∧
     Gives (.fdiv xd xa xb rnd) s (.x xd (BitVec.ofNat 64 (fpDiv f32 r false a b))) 12 ∧
     Gives (.fsqrt xd xa rnd) s (.x xd (BitVec.ofNat 64 (fpSqrt f32 r false a))) 12 ∧
     Gives (.fcvtsw xd xa rnd) s
       (.x xd (BitVec.ofNat 64 (f32.round r false (exactInt ((s.x xa).setWidth 32).toInt)))) 3 ∧
     (∃ v, Gives (.fcvtws xd xa rnd sat) s (.x xd v) 3 ∧ v.toInt = intValue .i32 (fpToInt f32 .i32 r sat a))) ∧
  (∀ (xd xa xb : Reg) (rnd : RMode) (s : State), s.ready [xa, xb] xd →
     let a := (s.x xa).toNat % 2 ^ 32
     let b := (s.x xb).toNat % 2 ^ 32
     let nan := fun (n : Nat) => 0x7F800000 < n % 2 ^ 31
     let inf := fun (n : Nat) => n % 2 ^ 31 = 0x7F800000
     let zero := fun (n : Nat) => n % 2 ^ 31 = 0
     let neg := fun (n : Nat) => 2 ^ 31 ≤ n
     let quieted := fun (n : Nat) => BitVec.ofNat 64 (n ||| 0x400000)
     let dflt : Word := 0x7FC00000#64
     (nan a ∨ nan b → let v := if nan a then quieted a else quieted b
       Gives (.fadd xd xa xb rnd) s (.x xd v) 4 ∧ Gives (.fsub xd xa xb rnd) s (.x xd v) 4 ∧
       Gives (.fmul xd xa xb rnd) s (.x xd v) 4 ∧ Gives (.fdiv xd xa xb rnd) s (.x xd v) 12 ∧
       Gives (.fmin xd xa xb) s (.x xd v) 2 ∧ Gives (.fmax xd xa xb) s (.x xd v) 2) ∧
     (nan a → Gives (.fsqrt xd xa rnd) s (.x xd (quieted a)) 12) ∧
     (inf a ∧ inf b ∧ (neg a ↔ ¬neg b) → Gives (.fadd xd xa xb rnd) s (.x xd dflt) 4) ∧
     (inf a ∧ inf b ∧ (neg a ↔ neg b) → Gives (.fsub xd xa xb rnd) s (.x xd dflt) 4) ∧
     (inf a ∧ zero b ∨ zero a ∧ inf b → Gives (.fmul xd xa xb rnd) s (.x xd dflt) 4) ∧
     (inf a ∧ inf b ∨ zero a ∧ zero b → Gives (.fdiv xd xa xb rnd) s (.x xd dflt) 12) ∧
     (¬nan a ∧ ¬inf a ∧ ¬zero a ∧ zero b →
       Gives (.fdiv xd xa xb rnd) s (.x xd (if neg a ↔ neg b then 0x7F800000#64 else 0xFF800000#64)) 12) ∧
     (zero a → Gives (.fsqrt xd xa rnd) s (.x xd (BitVec.ofNat 64 a)) 12) ∧
     (neg a ∧ ¬nan a ∧ ¬zero a → Gives (.fsqrt xd xa rnd) s (.x xd dflt) 12)) ∧
  (∀ (xd xa xb : Reg) (s : State), s.ready [xa, xb] xd →
     let a := (s.x xa).toNat % 2 ^ 32
     let b := (s.x xb).toNat % 2 ^ 32
     let nan := fun (n : Nat) => 0x7F800000 < n % 2 ^ 31
     let p := ¬nan a ∧ ¬nan b
     Gives (.feq xd xa xb) s (.x xd (if p ∧ f32Val a = f32Val b then 1 else 0)) 2 ∧
     Gives (.flt xd xa xb) s (.x xd (if p ∧ f32Val a < f32Val b then 1 else 0)) 2 ∧
     Gives (.fle xd xa xb) s (.x xd (if p ∧ f32Val a ≤ f32Val b then 1 else 0)) 2 ∧
     (p → f32Val a < f32Val b → Gives (.fmin xd xa xb) s (.x xd (BitVec.ofNat 64 a)) 2 ∧
       Gives (.fmax xd xa xb) s (.x xd (BitVec.ofNat 64 b)) 2) ∧
     (p → f32Val b < f32Val a → Gives (.fmin xd xa xb) s (.x xd (BitVec.ofNat 64 b)) 2 ∧
       Gives (.fmax xd xa xb) s (.x xd (BitVec.ofNat 64 a)) 2) ∧
     (p → f32Val a = f32Val b → Gives (.fmin xd xa xb) s (.x xd (BitVec.ofNat 64 (max a b))) 2 ∧
       Gives (.fmax xd xa xb) s (.x xd (BitVec.ofNat 64 (min a b))) 2))

/-- FCLASS (R104): exactly one bit, by the class of the FP32 operand. -/
def Obligations.FclassSetsOneBit : Prop :=
  ∀ (xd xa : Reg) (s : State), s.ready [xa] xd →
    let n := (s.x xa).toNat % 2 ^ 32
    let m := n % 2 ^ 31
    let neg := 2 ^ 31 ≤ n
    ∃ k, Gives (.fclass xd xa) s (.x xd (BitVec.ofNat 64 (2 ^ k))) 2 ∧
      (k = 0 ↔ m = 0x7F800000 ∧ neg) ∧ (k = 1 ↔ 0x00800000 ≤ m ∧ m < 0x7F800000 ∧ neg) ∧
      (k = 2 ↔ 0 < m ∧ m < 0x00800000 ∧ neg) ∧ (k = 3 ↔ m = 0 ∧ neg) ∧ (k = 4 ↔ m = 0 ∧ ¬neg) ∧
      (k = 5 ↔ 0 < m ∧ m < 0x00800000 ∧ ¬neg) ∧ (k = 6 ↔ 0x00800000 ≤ m ∧ m < 0x7F800000 ∧ ¬neg) ∧
      (k = 7 ↔ m = 0x7F800000 ∧ ¬neg) ∧ (k = 8 ↔ 0x7F800000 < m ∧ m < 0x7FC00000) ∧ (k = 9 ↔ 0x7FC00000 ≤ m) ∧ k ≤ 9

/-- The seven loads (R100, R101) when no check of R100 fails, the sector is held and free for one more read in the next
cycle, in a timed segment a range register admits the access (R192), and no word is in error: byte k of the value is byte a + k of the sectors with the stores of this bundle's
earlier slots in place, extended by sign or zeros, readable after 4 cycles; the sector read is claimed for the next
cycle. No byte of memory, no flag and no other register changes. The four stores (R100, R101) under the same
conditions: the low bytes of xd are on their way to a, the address that the instruction computes, and reach the sector
in the next cycle; then byte a + k is byte k of xd, and every byte outside a to a + n - 1 reads as before. Register xd
= x0 stores zeros. Nothing else changes at issue. -/
def Obligations.LoadAndStoreResults : Prop :=
  (∀ (xd xa : Reg) (imm : BitVec 46) (s : State), s.ready [xa] xd → s.ann.mem.wf = true →
     let a := ((s.x xa).toNat + imm.toInt) % 2 ^ 64 |>.toNat
     let m := s.seq.stores.foldl (fun m w => m.write w.addr w.bytes) s.ann.mem
     let ok := fun (i : Instr) (n : Nat) (signed : Bool) => s.mayAccess a n false → a / 8 ∉ s.ann.poison → a / 8 ∉ s.ann.flawed →
       ∃ v : Word, (∀ k < n, byteOf v.toNat k = m.get (a + k)) ∧
         (if signed then ∀ j, 8 * n ≤ j → j < 64 → v.getLsbD j = v.getLsbD (8 * n - 1) else v.toNat < 2 ^ (8 * n)) ∧
         Completes i s (InFlight (s.claim (secOf a) (s.now + 1) false .seq) (.x xd v) 4)
     ok (.ldb xd xa imm) 1 true ∧ ok (.ldbu xd xa imm) 1 false ∧ ok (.ldh xd xa imm) 2 true ∧ ok (.ldhu xd xa imm) 2 false ∧
     ok (.ldw xd xa imm) 4 true ∧ ok (.ldwu xd xa imm) 4 false ∧ ok (.ldd xd xa imm) 8 false) ∧
  (∀ (xd xa : Reg) (imm : BitVec 46) (s : State), s.ready [xa, xd] 0 →
     let a := ((s.x xa).toNat + imm.toInt) % 2 ^ 64 |>.toNat
     let ok := fun (i : Instr) (n : Nat) => s.mayAccess a n true →
       ∃ w : PendingStore, w.addr = a ∧ w.due = s.now + 1 ∧ w.bytes.length = n ∧
         (∀ k < n, w.bytes[k]? = some (byteOf (s.x xd).toNat k)) ∧
         Completes i s (fun t => t = ((s.claim (secOf a) (s.now + 1) true .seq).plan (s.now + 1) rankStore
           (.micro .storeLand)).onSeq fun q => { q with stores := q.stores ++ [w] }) ∧
         ∀ u : State, (∀ k < n, (u.landStore w).ann.mem.get (a + k) = byteOf (s.x xd).toNat k) ∧
           (∀ b, b < a ∨ a + n ≤ b → (u.landStore w).ann.mem.get b = u.ann.mem.get b) ∧
           (u.landStore w).seq = u.seq ∧ (u.landStore w).cp = u.cp
     ok (.stb xd xa imm) 1 ∧ ok (.sth xd xa imm) 2 ∧ ok (.stw xd xa imm) 4 ∧ ok (.std xd xa imm) 8)

/-- A load or store whose address breaks R100 takes the first failing check's trap, in R100's order: beyond the local
space, not aligned, the save area from user mode; then a sector that user code does not hold (R194). A bundle that
reads a register whose pending bit is set takes the schedule fault with that register's number (R77, R137), and its
own effect does not happen: here ADD, MUL, FADD, LDD, STD and BEQ by their first source. An access that these checks
let pass takes the sector-port fault, with the sector, where the sector has no free port in the next cycle (R18,
R173), and in user code of a timed segment the set-overlap fault where no range register admits it for st7, with the
lowest register that covers the row, else 0xFF (R192). The order of checks within one slot is log 16. -/
def Obligations.AccessAndPendingTraps : Prop :=
  (∀ (xd xa : Reg) (imm : BitVec 46) (s : State), s.ready [xa, xd] xd →
     let a := ((s.x xa).toNat + imm.toInt) % 2 ^ 64 |>.toNat
     let order := fun (i : Instr) (op n : Nat) (w : Bool) =>
       let fine := a + (n - 1) ≤ 0x1FFFFF ∧ a % n = 0 ∧ (s.seq.mode = .user → a < 0x1D8000 ∧ s.holds (secOf a) = true)
       let free := s.claimOk (secOf a) (s.now + 1) w = true
       let barred := s.seq.mode = .user ∧ s.seg.inSeg = true ∧
         ∀ k r, s.covers a k r → ¬(r.write = w ∧ r.stmask.getLsbD 7 = true)
       let overlap := fun (n : Nat) => Traps i s { cls := 5, cause := 0x09, code := 0, detail := BitVec.ofNat 40 n }
       (0x1FFFFF < a + (n - 1) → Traps i s (localFault a)) ∧
       (a + (n - 1) ≤ 0x1FFFFF → a % n ≠ 0 → Traps i s { cls := 5, cause := 0x0B, code := 0, detail := BitVec.ofNat 40 a }) ∧
       (a + (n - 1) ≤ 0x1FFFFF → a % n = 0 → s.seq.mode = .user → 0x1D8000 ≤ a → Traps i s (privTrap op)) ∧
       (a + (n - 1) ≤ 0x1FFFFF → a % n = 0 → s.seq.mode = .user → a < 0x1D8000 → s.holds (secOf a) = false →
         Traps i s (localFault a)) ∧
       (fine → ¬free → Traps i s { cls := 5, cause := 0x07, code := 0, detail := BitVec.ofNat 40 (secOf a).val }) ∧
       (fine → free → barred →
         (∀ k r, s.covers a k r → (∀ j q, j < k → ¬s.covers a j q) → overlap k.val) ∧
         ((∀ k r, ¬s.covers a k r) → overlap 0xFF))
     order (.ldb xd xa imm) 0x38 1 false ∧ order (.ldbu xd xa imm) 0x39 1 false ∧ order (.ldh xd xa imm) 0x3A 2 false ∧
     order (.ldhu xd xa imm) 0x3B 2 false ∧ order (.ldw xd xa imm) 0x3C 4 false ∧ order (.ldwu xd xa imm) 0x3D 4 false ∧
     order (.ldd xd xa imm) 0x3E 8 false ∧ order (.stb xd xa imm) 0x3F 1 true ∧ order (.sth xd xa imm) 0x40 2 true ∧
     order (.stw xd xa imm) 0x41 4 true ∧ order (.std xd xa imm) 0x42 8 true) ∧
  (∀ (xd xa xb : Reg) (imm : BitVec 46) (t : BitVec 15) (s : State), s.pendingRead (.x xa) = true →
     ∀ i ∈ [Instr.add xd xa xb, .mul xd xa xb, .fadd xd xa xb .rne, .ldd xd xa imm, .std xd xa imm, .beq xa xb t],
       Traps i s (schedFault 0 xa.val))

/-- x0 reads as zero, and a write to it is discarded and sets no pending bit: ADD x0 answers a next state in which every
register reads as before, then and when the result has landed (R93, R77). RESULT_WRITEBACK (R77, R78): the first write
in flight that is due lands in its register, every other register and all of memory stay, and its entry is gone. A row
on its way to a port is left out here. -/
def Obligations.RegisterWritesLand : Prop :=
  (∀ (xa xb : Reg) (s : State), s.x 0 = 0 ∧
     (s.ready [xa, xb] 0 → Completes (.add 0 xa xb) s fun t =>
       (∀ r, t.x r = s.x r) ∧ (∀ k, t.pendingRead k = s.pendingRead k) ∧ (∀ k, t.pendingWrite k = s.pendingWrite k)) ∧
     ∀ v, s.landDest (.x 0 v) = s) ∧
  (∀ (s : State) (w : PendingWrite), s.nextWrite = some w → w.isPush = false →
     Completes .resultWriteback s fun t =>
       t.seq.writes = s.seq.writes.erase w ∧ t.ann = s.ann ∧ t.cp.hbm = s.cp.hbm ∧ t.seq.pc = s.seq.pc ∧
       (match w.dest with
         | .x r v => (r ≠ 0 → t.x r = v) ∧ (∀ q, q ≠ r → t.x q = s.x q) ∧ t.seq.tiles = s.seq.tiles ∧ t.sys = s.sys
         | .tile i v => t.seq.tiles = s.seq.tiles.set i v ∧ t.seq.regs = s.seq.regs ∧ t.sys = s.sys
         | .mask m rows cols => t.seq.maskRow = s.seq.maskRow.set m rows ∧ t.seq.maskCol = s.seq.maskCol.set m cols ∧
             t.seq.regs = s.seq.regs ∧ t.seq.tiles = s.seq.tiles ∧ t.sys = s.sys
         | .lc n v => t.seq.lc = s.seq.lc.set n v ∧ t.seq.regs = s.seq.regs ∧ t.seq.tiles = s.seq.tiles ∧ t.sys = s.sys
         | .sys n v => t = (s.sysLand n v).onSeq fun q => { q with writes := s.seq.writes.erase w }
         | .push _ _ _ _ => False))

/-- SYSRD, SYSWR, SYSSET and SYSCLR where the access code of R106 allows them and the value suits the register's layout:
the value read is readable after two cycles, the register has its new value from the next cycle on (R94, R105). The
traps of R106 for each access code and mode, and for a number that is not assigned; a value that breaks the
register's layout traps before the mode does (R76). SYSSET and SYSCLR count as a read and a write. AXSTAT (0x300) is left out: a supervisor write of it is the model's reading of R353, log 13. A value
written to a system register that software may write reads back from the cycle in which the write takes effect (R105):
every register of R108 and of the other chapters with access URW, UR or S but VLADDR and VLINFO, which a write of zero
clears together, and the PHY window of a boot cell; the bits that ARCSTAT, CPFAIL, SHFAIL and PMIFSIG hold at zero read
as zero (R112, R253, R276, R391). -/
def Obligations.SystemRegisters : Prop :=
  (∀ (xd xa : Reg) (num : BitVec 12) (s : State), s.ready [xa] xd → s.pendingWrite (.sys num) = false →
     let v := s.sysRead num
     (s.sysTrap num true false = none → Gives (.sysrd xd num) s (.x xd v) 2) ∧
     (s.sysTrap num false true = none → s.sysValueTrap num (s.x xa) = none →
       Gives (.syswr xa num) s (.sys num (s.x xa)) 1) ∧
     (s.sysTrap num true true = none → s.sysValueTrap num (v ||| s.x xa) = none →
       Completes (.sysset xd xa num) s fun t => ∃ u, InFlight s (.x xd v) 2 u ∧ InFlight u (.sys num (v ||| s.x xa)) 1 t) ∧
     (s.sysTrap num true true = none → s.sysValueTrap num (v &&& ~~~s.x xa) = none →
       Completes (.sysclr xd xa num) s fun t => ∃ u, InFlight s (.x xd v) 2 u ∧ InFlight u (.sys num (v &&& ~~~s.x xa)) 1 t)) ∧
  (∀ (xd xa : Reg) (num : BitVec 12) (s : State), num ≠ 0x300 →
     let user := s.seq.mode = .user
     let rd := fun (t : TrapReq) => Traps (.sysrd xd num) s t
     let wr := fun (t : TrapReq) => Traps (.syswr xa num) s t
     let rw := fun (t : TrapReq) => Traps (.sysset xd xa num) s t ∧ Traps (.sysclr xd xa num) s t
     let v := s.sysRead num
     let fits := s.sysValueTrap num (s.x xa) = none
     let fitsRw := s.sysValueTrap num (v ||| s.x xa) = none ∧ s.sysValueTrap num (v &&& ~~~s.x xa) = none
     let res := reservedTrap 0
     let priv := privTrap num.toNat
     (s.sysAccess num = none → rd res ∧ wr res ∧ rw res) ∧
     (s.sysAccess num = some .ro → s.sysTrap num true false = none ∧ wr res ∧ rw res) ∧
     (s.sysAccess num = some .ur → s.sysTrap num true false = none ∧ (user → (fits → wr priv) ∧ (fitsRw → rw priv)) ∧
       (¬user → s.sysTrap num true true = none ∧ s.sysTrap num false true = none)) ∧
     (s.sysAccess num = some .urw → ∀ r w, s.sysTrap num r w = none) ∧
     (s.sysAccess num = some .sr → (user → rd priv) ∧ wr res ∧ rw res ∧ (¬user → s.sysTrap num true false = none)) ∧
     (s.sysAccess num = some .s → (user → rd priv ∧ (fits → wr priv) ∧ (fitsRw → rw priv)) ∧
       (¬user → ∀ r w, s.sysTrap num r w = none)) ∧
     (∀ t, s.sysAccess num = some .s ∨ s.sysAccess num = some .ur ∨ s.sysAccess num = some .urw → s.pendingRead (.x xa) = false →
       s.sysValueTrap num (s.x xa) = some t → wr t)) ∧
  (∀ (s : State) (v : Word),
     (∀ num ∈ ([0x008, 0x009, 0x020, 0x080, 0x081, 0x082, 0x083, 0x084, 0x085, 0x0A1, 0x102, 0x110, 0x111,
         0x200, 0x210, 0x330, 0x340] : List (BitVec 12)), (s.sysLand num v).sysRead num = v) ∧
     (∀ p ∈ ([(0x0A0, 35), (0x101, 32), (0x223, 34), (0x341, 32)] : List (BitVec 12 × Nat)),
       ((s.sysLand p.1 v).sysRead p.1).toNat = v.toNat % 2 ^ p.2) ∧
     (∀ k : Fin 16, (s.sysLand (BitVec.ofNat 12 (0x010 + k.val)) v).sysRead (BitVec.ofNat 12 (0x010 + k.val)) = v) ∧
     (∀ (ch : Fin 64) (k : Fin 4), (s.sysLand (BitVec.ofNat 12 (0xC00 + 16 * ch.val + k.val)) v).sysRead
       (BitVec.ofNat 12 (0xC00 + 16 * ch.val + k.val)) = v) ∧
     (s.sysLand 0x108 0).cp.vladdr = 0 ∧ (s.sysLand 0x108 0).cp.vlinfo = 0 ∧ (s.sysLand 0x109 0).cp.vladdr = 0 ∧
     (s.sysLand 0x109 0).cp.vlinfo = 0)

/-- BEQ, BNE, BLT, BGE, BLTU, BGEU, JMP, JMPX, RET (R114): when the transfer is made and to which target, if no active
loop ends at the bundle or at one of the two after it (R119). A branch that is not taken leaves no target. CALL and
CALLX (R80, R114, R115): the transfer, and in x30, readable from the next cycle, the address of the bundle after the
second delay bundle. A transfer, call, return or LEXIT at the end of the innermost active loop or up to two bundles
before it takes the loop fault with that loop's counter number (R119), when its registers are readable. -/
def Obligations.ControlTransfers : Prop :=
  (∀ (xa xb : Reg) (l : BitVec 15) (s : State), s.clearOfLoopEnd →
     s.pendingRead (.x xa) = false → s.pendingRead (.x xb) = false → s.pendingRead (.x 30) = false →
     let a := s.x xa
     let b := s.x xb
     let goes := fun (i : Instr) (c : Prop) (v : Word) =>
       (c → Completes i s (· = transferred s (some v))) ∧ (¬c → Completes i s (· = transferred s none))
     let v : Word := BitVec.ofNat 64 l.toNat
     goes (.beq xa xb l) (a = b) v ∧ goes (.bne xa xb l) (a ≠ b) v ∧ goes (.blt xa xb l) (a.toInt < b.toInt) v ∧
     goes (.bge xa xb l) (b.toInt ≤ a.toInt) v ∧ goes (.bltu xa xb l) (a.toNat < b.toNat) v ∧
     goes (.bgeu xa xb l) (b.toNat ≤ a.toNat) v ∧ goes (.jmp l) True v ∧ goes (.jmpx xa) True a ∧ goes .ret True (s.x 30)) ∧
  (∀ (xa : Reg) (l : BitVec 15) (s : State), s.clearOfLoopEnd → s.ready [xa] 30 →
     let link : Word := BitVec.ofNat 64 (s.after (s.after (s.after s.seq.pc.toNat)))
     Completes (.call l) s (InFlight (transferred s (some (BitVec.ofNat 64 l.toNat))) (.x 30 link) 1) ∧
     Completes (.callx xa) s (InFlight (transferred s (some (s.x xa))) (.x 30 link) 1)) ∧
  (∀ (xa xb : Reg) (l : BitVec 15) (v : LoopLevel) (ls : List LoopLevel) (s : State), s.seq.loops = v :: ls →
     (v.stop.toNat = s.seq.pc.toNat ∨ v.stop.toNat = s.after s.seq.pc.toNat ∨
       v.stop.toNat = s.after (s.after s.seq.pc.toNat)) → s.ready [xa, xb, 30] 30 →
     ∀ i ∈ [Instr.beq xa xb l, .bne xa xb l, .blt xa xb l, .bge xa xb l, .bltu xa xb l, .bgeu xa xb l, .jmp l, .jmpx xa,
         .call l, .callx xa, .ret, .lexit xa],
       Traps i s { cls := 5, cause := 0x0F, code := 0, detail := BitVec.ofNat 40 v.n.val })

/-- NOP has no effect, and a bundle of NOPs outside a transfer passes to the next bundle in sequence in the next cycle. A
bundle of NOPs after a transfer (R80, R115, R66), where no loop ends: the first leaves one delay bundle to go, the
second passes control, in the next cycle, to the target of a taken transfer, else to the next bundle in sequence; a
target beyond code memory is kept for the illegal-code trap of its fetch. The delay bundles of a branch not taken are
the reading of log 27. -/
def Obligations.DelayBundlesThenTarget : Prop :=
  (∀ s : State, Completes .nop s (· = s)) ∧
  ∀ (b : Bundle) (s : State), (∀ k, slotBits b k = 0) → s.seq.loops = [] → s.seq.tookTrap = none → s.seq.effect = .none →
    ∃ t, s.issue b = .next t ∧ t.seq.issueAt = s.now + 1 ∧ t.seq.regs = s.seq.regs ∧ t.ann.mem = s.ann.mem ∧
      (s.seq.xfer = none → t.seq.xfer = none ∧ t.seq.pc = BitVec.ofNat 15 (s.after s.seq.pc.toNat)) ∧
      ∀ x : Xfer, s.seq.xfer = some x →
        (1 < x.left → t.seq.xfer = some { x with left := x.left - 1 } ∧
          t.seq.pc = BitVec.ofNat 15 (s.after s.seq.pc.toNat)) ∧
        (x.left ≤ 1 → t.seq.xfer = none ∧ ∀ v, x.target = some v → t.seq.pc = v.setWidth 15 ∧ t.seq.arrived = true ∧
          (v.toNat < 0x8000 → t.seq.badTarget = none) ∧ (0x8000 ≤ v.toNat → t.seq.badTarget = some v)) ∧
        (x.left ≤ 1 → x.target = none → t.seq.pc = BitVec.ofNat 15 (s.after s.seq.pc.toNat))

/-- LOOP (R117): the loop fault in each of its five cases, else lcN := 0 readable in the next cycle and a new innermost
level, or for a trip count of 0 the body skipped. LEXIT (R120): with xa = x0 or a value other than 0 the innermost
level goes and the transfer is to the bundle after its end; else nothing is taken. With no level active it takes the
loop fault; where the level outside shares its end, too (R119). -/
def Obligations.LoopsStartAndLeave : Prop :=
  (∀ (n : Fin 4) (xa : Reg) (trip : BitVec 25) (last : BitVec 15) (s : State),
     (s.codeAt last.toNat).start = true → s.pendingRead (.x xa) = false → s.pendingWrite (.lc n) = false →
     let t := if xa = 0 then trip.toNat else (s.x xa).toNat
     let next := s.after s.seq.pc.toNat
     let bad := 33554431 < t ∨ s.seq.loops.length = 4 ∨ (∃ l ∈ s.seq.loops, l.n = n) ∨ s.seq.suspended = true ∨
       last.toNat < next ∨ (∃ l ∈ s.seq.loops.head?, l.stop.toNat < last.toNat)
     (bad → Traps (.loop n xa trip last) s { cls := 5, cause := 0x0F, code := 0, detail := BitVec.ofNat 40 n.val }) ∧
     (¬bad → t = 0 → Completes (.loop n xa trip last) s fun u => ∃ w, InFlight s (.lc n 0) 1 w ∧
       u = { w with seq := { w.seq with effect := .skip (s.after last.toNat) } }) ∧
     (¬bad → 0 < t → Completes (.loop n xa trip last) s fun u => ∃ w, InFlight s (.lc n 0) 1 w ∧
       u = { w with seq := { w.seq with loops := { n := n, start := BitVec.ofNat 15 next, stop := last,
                                                   trip := BitVec.ofNat 25 t } :: s.seq.loops } })) ∧
  (∀ (xa : Reg) (s : State), s.pendingRead (.x xa) = false → s.clearOfLoopEnd →
     (s.seq.loops = [] → Traps (.lexit xa) s { cls := 5, cause := 0x0F, code := 0, detail := 0xFF }) ∧
     ∀ (l : LoopLevel) (ls : List LoopLevel), s.seq.loops = l :: ls →
       ((∃ m ∈ ls.head?, m.stop = l.stop) →
         Traps (.lexit xa) s { cls := 5, cause := 0x0F, code := 0, detail := BitVec.ofNat 40 l.n.val }) ∧
       (¬(∃ m ∈ ls.head?, m.stop = l.stop) → (xa = 0 ∨ s.x xa ≠ 0) → Completes (.lexit xa) s fun u =>
         let t := transferred s (some (BitVec.ofNat 64 (s.after l.stop.toNat)))
         u = { t with seq := { t.seq with loops := ls } }) ∧
       (¬(∃ m ∈ ls.head?, m.stop = l.stop) → xa ≠ 0 → s.x xa = 0 → Completes (.lexit xa) s (· = transferred s none)))

/-- The loop-end action at address a (R118) on levels whose counters are below their trip counts: the counter of each
level that ends there rises by one; below its trip count the loop starts again, else the level goes and the next out
is tried; a level that ends elsewhere stays. -/
def Obligations.LoopEndAction : Prop :=
  ∀ (a : BitVec 15) (l : LoopLevel) (ls : List LoopLevel) (lc : Vector (BitVec 25) 4),
    loopEnd a [] lc = ([], lc, none) ∧
    (l.stop ≠ a → loopEnd a (l :: ls) lc = (l :: ls, lc, none)) ∧
    (l.stop = a → lc[l.n].toNat < l.trip.toNat → ∃ c : BitVec 25, c.toNat = lc[l.n].toNat + 1 ∧
      (c.toNat < l.trip.toNat → loopEnd a (l :: ls) lc = (l :: ls, lc.set l.n c, some l.start)) ∧
      (c.toNat = l.trip.toNat → loopEnd a (l :: ls) lc = loopEnd a ls (lc.set l.n c)))

/-- Taking a trap in user mode (R134 to R136, R138): TEPC, TCAUSE and TINFO field by field, supervisor mode at TVEC with
the first bundle three cycles on, loop ends and signature suspended. Memory, the registers (no write being in flight),
the loop stack and every unit at work stay. Writes in flight land at a trap (R79, R134): with results for two
registers in flight, both registers hold them at the handler's first bundle, and no pending bit is set. A failing
result in flight is suppressed and counted, log 10; the handler's address is TVEC's low 15 bits, log 49. -/
def Obligations.TrapEntry : Prop :=
  (∀ (r : TrapRec) (s : State), s.seq.mode = .user → s.seq.writes = [] →
     ∃ (c i e : Word), s.enterTrap r = { s with
         sys := { s.sys with tepc := e, tcause := c, tinfo := i },
         seq := { s.seq with mode := .supervisor, suspended := true, pc := s.sys.tvec.setWidth 15, issueAt := s.now + 3,
                             escPaid := true, xfer := none, arrived := false, badTarget := none, trapDue := none } } ∧
       e = s.seq.pc.setWidth 64 ∧ bitsOf c 0 8 = r.cause ∧ c.getLsbD 8 = false ∧ c.getLsbD 11 = s.seg.inSeg ∧
       bitsOf c 16 16 = r.code ∧ bitsOf i 0 15 = r.baddr ∧ fieldNat i 15 3 = r.slot.val ∧ bitsOf i 24 40 = r.detail ∧
       (∀ x v, s.seq.xfer = some x → x.target = some v → 1 ≤ x.left → x.left ≤ 2 →
         fieldNat c 9 2 = x.left ∧ bitsOf c 32 15 = v.setWidth 15) ∧
       ((∀ x ∈ s.seq.xfer, x.target = none) → fieldNat c 9 2 = 0 ∧ bitsOf c 32 15 = 0)) ∧
  (∀ (r : TrapRec) (s : State) (p q : PendingWrite) (x y : Reg) (v w : Word), s.seq.mode = .user →
     s.seq.writes = [p, q] → p.dest = .x x v → q.dest = .x y w → p.bad = false → q.bad = false → x ≠ y → x ≠ 0 → y ≠ 0 →
     let t := s.enterTrap r
     t.x x = v ∧ t.x y = w ∧ (∀ z, z ≠ x → z ≠ y → t.x z = s.x z) ∧ ∀ k, t.pendingRead k = false)

/-- A trap in supervisor mode is a double trap (R141): TEPC, TCAUSE and TINFO keep their values, the cell stops
issuing, writes in flight land, health state but for a write in flight of its two registers stays, the report of
status 0xFFFF goes to the Apex, whose receipt ends the launch, and the heartbeats continue. -/
def Obligations.DoubleTrapStops : Prop :=
  ∀ (r : TrapRec) (s : State), s.seq.mode = .supervisor →
    let t := s.enterTrap r
    t.seq.run = .stopped ∧ (∀ u : State, u.seq.run = .stopped → u.runCycle = .next u) ∧ t.ann = s.ann ∧ t.seq.pc = s.seq.pc ∧
      { t.hl with pkey := s.hl.pkey, pmifsig := s.hl.pmifsig } = s.hl ∧ (∀ w ∈ t.seq.writes, w.isPush = true) ∧
      (s.seq.writes = [] → t.sys = s.sys ∧ t.seq.regs = s.seq.regs) ∧
      (∀ (w : PendingWrite) (x : Reg) (v : Word), s.seq.writes = [w] → w.dest = .x x v → w.bad = false → x ≠ 0 →
        t.x x = v ∧ (∀ z, z ≠ x → t.x z = s.x z) ∧ t.sys = s.sys) ∧
      t.planned (s.now + 1) rankEnd (.ev (.haltReport s.lid s.self 0xFFFF)) ∧
      ∀ l : LaunchRec, s.apex.frozen = none → s.pred = none → s.launchOf s.lid = some l →
        Completes (.haltReport s.lid s.self 0xFFFF) t (LaunchEnded t l 0x0204 (firstStatus l.halts))

/-- ERET (R140): in user mode the privilege trap; else the mode of TCAUSE.spm, fetch at TEPC three cycles on, and the
transfer that TCAUSE.bp and TCAUSE.btarget hold. For a TEPC beyond code memory R140 gives no fetch address: that the
fetch is at TEPC's low 15 bits is the model's own choice (log 49, DESIGN CHOICE, State.returnTrap), not the manual's. A
return to user mode lifts the suspension of R138. Nothing else changes. TRAP (R139): its bundle takes full effect; the trap, with cause 0x10, code id and detail arg, is taken in
place of the bundle that would issue next, unless one is due already (an arithmetic check's comes first, R145). In
user mode the supervisor-only operations take the privilege trap with their opcode (R137, R347, R392): AXRD with form
2, AXSLEW, AXSKIP, the eight cell-health instructions, and ERET; SPMWR so where its word is a spare map, since a bad
word's reserved-field trap comes first (R76). -/
def Obligations.TrapsRaisedAndReturned : Prop :=
  (∀ (s : State), (s.seq.mode = .user → Traps .eret s { cls := 4, cause := 0x04, code := 0, detail := 0x14 }) ∧
     (s.seq.mode = .supervisor → let c := s.sys.tcause
       Completes .eret s (· = { s with seq := { s.seq with
         mode := if c.getLsbD 8 then .supervisor else .user,
         suspended := c.getLsbD 8 && s.seq.suspended,
         pc := s.sys.tepc.setWidth 15, issueAt := s.now + 3, escPaid := false, arrived := true, badTarget := none,
         xfer := if fieldNat c 9 2 = 0 then none
           else some { left := fieldNat c 9 2, target := some ((bitsOf c 32 15).setWidth 64) },
         effect := .eret } }))) ∧
  (∀ (id : BitVec 16) (arg : BitVec 40) (s : State), s.seq.trapDue = none →
     let r : TrapRec := { cause := 0x10, code := id, baddr := s.seq.pc, slot := 0, detail := arg }
     Completes (.trap id arg) s (· = { s with seq := { s.seq with trapDue := some r } }) ∧
     ∀ u : State, u.seq.trapDue = some r → u.issueCycle = .next (u.enterTrap r)) ∧
  (∀ (xd xa : Reg) (sel : Fin 9) (map : Fin 3) (side : Fin 4) (s : State), s.seq.mode = .user →
     (s.pendingRead (.x xa) = false → ∀ b, spareBad (s.x xa) = some b → Traps (.spmwr xa) s (reservedTrap (64 + b))) ∧
     ∀ p ∈ [(Instr.axrd xd 2, 0x30), (.axslew xa, 0x31), (.axskip xa, 0x32), (.hbrd xd sel, 0x33), (.accuse side, 0x34),
         (.appeal xd, 0x35), (.ifst xd, 0x36), (.spmrd xd map, 0x37), (.spmwr xa, 0x38), (.spare xd, 0x39), (.selfoff, 0x3A),
         (.eret, 0x14)],
       (p.1 = .spmwr xa → s.pendingRead (.x xa) = true ∨ spareBad (s.x xa) = none) →
         Traps p.1 s { cls := 4, cause := 0x04, code := 0, detail := BitVec.ofNat 40 p.2 })

/-- SAFE (R122, R123): a schedule fault with detail 7, index 2 while a pending bit is set (R77), a vector row is on
its way or a shaping or st6 command is queued or runs; else SAFECT restarts and the safe point is noted. Registers,
memory and units at work stay; a staged spare map takes effect in an untimed image when both units of st0 are idle
(R227). SEGEND in a timed image's user code (R126, R128, R129): held before its cycle, and past it a cycle-count
mismatch; in it, quiet and with the expected signature, t0 to t7, acc0 and acc1 are zeroed, every port is reset, and
the boundary begins; with another signature it takes the signature mismatch. HALT (R133): no further bundle issues,
the loop stack is empty, writes in flight have landed, and the status is kept for the report; engine commands run on.
A status of 0x8000 or more from user mode takes the reserved-field trap. -/
def Obligations.SequencingOperations : Prop :=
  (∀ (cp : Option (Fin 256)) (s : State), s.ann.lmovs = [] →
     (s.pendingAny = true ∨ s.sh.busy = true ∨ s.tm.busy = true →
       Traps (.safe cp) s { cls := 5, cause := 0x05, code := 0, detail := 0x0207 }) ∧
     (s.pendingAny = false → s.sh.busy = false → s.tm.busy = false → (cp = none ∨ s.mx.busy = false ∧ s.cp.busy = false) →
       Completes (.safe cp) s fun t => t.sys = { s.sys with safect := 0 } ∧ t.seq = { s.seq with effect := .safe cp } ∧
         t.ann = s.ann ∧ t.cp = s.cp ∧ t.mx = s.mx ∧ t.sems = s.sems ∧
         t.hl = { s.hl with spareNow := if s.timedImage = false ∧ s.mx.array = none ∧ s.mx.drain = none ∧ s.mx.zero = none
           then s.hl.spareNew else s.hl.spareNow })) ∧
  (∀ (seg : BitVec 16) (count : BitVec 21) (g : Segment) (s : State), s.timedImage = true → s.seq.mode = .user →
     s.segTable[seg.toNat]? = some g →
     (s.seg.inSeg = true → s.relCycle < count.toNat - 1 →
       Completes (.segend seg count) s (· = { s with seq := { s.seq with effect := .hold } })) ∧
     (s.seg.inSeg = true → count.toNat ≤ s.relCycle →
       Traps (.segend seg count) s { cls := 5, cause := 0x11, code := 0, detail := BitVec.ofNat 40 s.seg.idx }) ∧
     (s.seg.inSeg = false ∨ s.relCycle + 1 = count.toNat → s.pendingAny = false → s.ann.lmovs = [] → s.sh.busy = false →
       s.mx.busy = false → s.tm.busy = false → s.timedBusy = false →
       (s.seg.noSig = false → s.expectedSig g ≠ some s.signature → Traps (.segend seg count) s
         { cls := 5, cause := 0x12, code := 0, detail := s.signature.setWidth 40 }) ∧
       (s.seg.noSig = true ∨ s.expectedSig g = some s.signature → s.ax.lkcfg.getLsbD 0 = false → Completes (.segend seg count) s fun t =>
         t.seq = { s.seq with tiles := Vector.replicate 128 0, effect := .segend } ∧ t.mx.acc0 = Acc.zero ∧
         t.mx.acc1 = Acc.zero ∧ (∀ q : Fin 8, t.ann.ports[q].bound = false ∧ t.ann.ports[q].rows = []) ∧
         t.ann.mem = s.ann.mem ∧ t.sys = s.sys ∧ t.sems = s.sems ∧ t.cp = s.cp))) ∧
  (∀ (status : BitVec 16) (s : State), (s.timedImage = false ∨ s.seq.mode = .supervisor ∨ (s.seg.ended = true ∧ s.seq.suspended = false)) →
     (s.seq.mode = .user → 0x8000 ≤ status.toNat → Traps (.halt status) s (reservedTrap 0)) ∧
     (s.seq.mode = .supervisor ∨ status.toNat < 0x8000 → Completes (.halt status) s fun t =>
       t.seq.run = .halted ∧ t.seq.loops = [] ∧ t.seq.haltSt = some status ∧ t.seq.pc = s.seq.pc ∧
       (∀ w ∈ t.seq.writes, w.isPush = true) ∧ t.ann = s.ann ∧ t.sems = s.sems ∧
       (s.seq.writes = [] → t.seq.regs = s.seq.regs ∧ t.sys = s.sys ∧ t.mx = s.mx ∧ t.cp = s.cp) ∧
       ∀ u : State, u.seq.run = .halted → u.runCycle = .next u))

/-- SWAIT (R312): the engine-error trap while the error bit is set; the bundle goes on at or above the threshold; else
it is held. SSIG, SSET, SCLRE (R313) change the counter, or the error bit and status word, of the one semaphore at
once; SSIG saturates with the error bit (R308). SRD (R314) gives counter and error bit, or the status word, after two
cycles. No other semaphore, register or memory changes. Hardware increments and failures of a cycle (R308, R309):
added to counters as the bundle left them; a failure sets the error bit and records its code, station or tile, and
index only when the bit is clear. FENCE (R316): a command issued in its cycle or later sees no older byte, an earlier
one what it saw before; SREL (R317) moves each named sector held by the running program to RELEASING and no other;
SACQ (R318) takes each named sector that is FREE or RELEASING by the program and goes on when all named ones are held,
else it holds the bundle, having taken what it could; one that names a sector of a saved context takes the
local-address fault (R424). -/
def Obligations.SemaphoresAndOrdering : Prop :=
  (∀ (n : Fin 256) (xt xd : Reg) (scope : Scope) (s : State), s.ready [xt] xd →
     let m := s.sems[n]
     let v := (s.x xt).toNat
     let only := fun (i : Instr) (m' : Sem) => Completes i s (· = { s with sems := s.sems.set n m' })
     (m.err = true → Traps (.swait n xt scope) s
       { cls := 5, cause := 0x0D, code := 0, detail := BitVec.ofNat 40 (n.val + m.status.toNat * 256) }) ∧
     (m.err = false → v ≤ m.cnt.toNat → Completes (.swait n xt scope) s (· = s)) ∧
     (m.err = false → m.cnt.toNat < v →
       Completes (.swait n xt scope) s (· = { s with seq := { s.seq with effect := .hold } })) ∧
     (∃ u, u.sems = s.sems.set n u.sems[n] ∧ { u with sems := s.sems, freeCtr := s.freeCtr } = s ∧
       Completes (.ssig n xt) s (· = u) ∧
       (m.cnt.toNat + v % 2 ^ 36 < 2 ^ 36 → u.sems[n] = { m with cnt := BitVec.ofNat 36 (m.cnt.toNat + v) }) ∧
       (2 ^ 36 ≤ m.cnt.toNat + v % 2 ^ 36 → u.sems[n].cnt.toNat = 2 ^ 36 - 1 ∧ u.sems[n].err = true ∧
         (m.err = true → u.sems[n].status = m.status) ∧ (m.err = false → u.sems[n].status.toNat % 256 = 0x2F))) ∧
     only (.sset n xt) { m with cnt := (s.x xt).setWidth 36 } ∧
     only (.sclre n) { m with err := false, status := 0 } ∧
     (∃ c, Gives (.srd xd n false) s (.x xd c) 2 ∧ c.setWidth 36 = m.cnt ∧ c.getLsbD 36 = m.err ∧ c.toNat < 2 ^ 37) ∧
     Gives (.srd xd n true) s (.x xd (m.status.setWidth 64)) 2) ∧
  ((∀ (s : State) (i : Inc), s.incs = [i] → s.fails = [] →
     let m := s.sems[i.sem]
     let t := s.applySignals
     t.incs = [] ∧ t.fails = [] ∧ (∀ k, k ≠ i.sem → t.sems[k] = s.sems[k]) ∧ t.seq = s.seq ∧ t.ann = s.ann ∧
       (m.cnt.toNat + i.n < 2 ^ 36 → t.sems[i.sem] = { m with cnt := BitVec.ofNat 36 (m.cnt.toNat + i.n) }) ∧
       (2 ^ 36 ≤ m.cnt.toNat + i.n → t.sems[i.sem].cnt.toNat = 2 ^ 36 - 1 ∧ t.sems[i.sem].err = true)) ∧
   (∀ (s : State) (n : Fin 256) (code detail : BitVec 8) (idx : BitVec 16), s.incs = [] → s.fails = [(n, code, detail, idx)] →
     let m := s.sems[n]
     let t := s.applySignals
     (∀ k, k ≠ n → t.sems[k] = s.sems[k]) ∧ t.sems[n].cnt = m.cnt ∧ t.sems[n].err = true ∧
       (m.err = true → t.sems[n] = m) ∧
       (m.err = false → t.sems[n].status.setWidth 8 = code ∧ (t.sems[n].status >>> 8).setWidth 8 = detail ∧
         (t.sems[n].status >>> 16).setWidth 16 = idx))) ∧
  (∀ (scope : Scope) (mask : BitVec 8) (s : State),
     Completes (.fence scope) s (fun t => { t with ann := { t.ann with unfenced := s.ann.unfenced } } = s ∧
       ∀ (issued : Nat) (sec : Fin 8) (row : Nat),
         (s.now ≤ issued → (∀ c ∈ s.ann.unfenced, ∀ f ∈ c.fenced, f ≤ s.now) → t.oldBytes issued sec row = []) ∧
         (issued < s.now → (t.oldBytes issued sec row).map (fun c => { c with fenced := none }) =
           (s.oldBytes issued sec row).map fun c => { c with fenced := none })) ∧
     Completes (.srel mask) s (fun t => { t with ann := { t.ann with own := s.ann.own } } = s ∧ ∀ k : Fin 8,
       t.ann.own[k] = if mask.getLsbD k = true ∧ s.ann.own[k] = .held false then .releasing false s.now else s.ann.own[k]) ∧
     (∀ k, s.savedNamed mask = some k → Traps (.sacq mask) s (localFault (k.val * 0x40000))) ∧
     ∃ own : Vector Own 8,
       (∀ k : Fin 8, (mask.getLsbD k = true → (s.ann.own[k] = .free ∨ ∃ c, s.ann.own[k] = .releasing false c) →
           own[k] = .held false) ∧
         (¬(mask.getLsbD k = true ∧ (s.ann.own[k] = .free ∨ ∃ c, s.ann.own[k] = .releasing false c)) →
           own[k] = s.ann.own[k])) ∧
       ((∀ k : Fin 8, mask.getLsbD k = true → own[k] = .held false) →
         Completes (.sacq mask) s (· = { s with ann := { s.ann with own := own } })) ∧
       (s.savedNamed mask = none → ¬(∀ k : Fin 8, mask.getLsbD k = true → own[k] = .held false) →
         Completes (.sacq mask) s (· = { s with ann := { s.ann with own := own }, seq := { s.seq with effect := .hold } })))

/-- AXRD, AXSLEW and AXSKIP where their mode allows them (R347 to R351): the counter less the segment's or the
launch's start, or the counter itself, after two cycles; the trim of the die's clock, clamped to 50,000 either way; a
pending step, clamped to 16 either way; both in force from the next cycle on. A clamped value sets the clamp bit,
which nothing here clears. A beat sent carries the counter, a beat heard gives the port's phase error (R343, R353), at
a port that has trained (R450);
the die's own step by the median within 16 either way (R345, R349), its trim within 50,000 (R350, R351), and the
keeper's pending step at s + 32, applied with one timed launch armed, else discarded (R349, R350). The counter in the
next cycle (R349): one more; held while a negative step lasts; n + 1 more for a positive step of n. The clock and
SAFECT go on by one (R20, R123). -/
def Obligations.AbscissaCounter : Prop :=
  (∀ (xd xa : Reg) (s : State), s.ready [xa] xd →
     let start := (s.prog.map (·.start)).getD 0
     let v := s.x xa
     let trim := min (max ((v.setWidth 32).toInt) (-50000)) 50000
     let n := min (max v.toInt (-16)) 16
     Gives (.axrd xd 0) s (.x xd (s.ax.value - if s.timedImage then s.seg.origin else start)) 2 ∧
     Gives (.axrd xd 1) s (.x xd (s.ax.value - start)) 2 ∧
     (s.seq.mode = .supervisor →
       Gives (.axrd xd 2) s (.x xd s.ax.value) 2 ∧
       (∃ w, Gives (.axslew xa) s (.sys 0x301 w) 1 ∧ ∀ u : State, (u.sysLand 0x301 w).ax = { u.ax with
         trim := BitVec.ofInt 32 trim, clamp := u.ax.clamp || decide (trim ≠ (v.setWidth 32).toInt) }) ∧
       ∃ w, Gives (.axskip xa) s (.sys 0x302 w) 1 ∧ ∀ u : State, (u.sysLand 0x302 w).ax = { u.ax with
         pend := some n, clamp := u.ax.clamp || decide (n ≠ v.toInt) })) ∧
  (∀ (p : Fin 18) (stamp : Word) (n : Int) (s : State),
     let quiet := fun (t : State) => t.seq = s.seq ∧ t.ann = s.ann ∧ t.ax.value = s.ax.value
     let steps := fun (n : Int) (t : State) => if 0 ≤ n then t.ax.jump = s.ax.jump + n.toNat ∧ t.ax.hold = s.ax.hold
       else t.ax.hold = s.ax.hold + (-n).toNat ∧ t.ax.jump = s.ax.jump
     (s.ax.ports[p].up = true → Completes (.timestampBeatSend p) s (· = { s with out := s.out ++ [.beat p s.ax.value] })) ∧
     (s.ax.ports[p].up = false → Completes (.timestampBeatSend p) s (· = s) ∧ Completes (.timestampBeat p stamp) s (· = s)) ∧
     (s.ax.ports[p].up = true → Completes (.timestampBeat p stamp) s fun t => quiet t ∧ t.ax.ports[p].heard = true ∧
       t.ax.ports[p].err = (stamp + BitVec.ofNat 64 (fieldNat s.ax.ports[p].hlat 0 16) - s.ax.value).toInt ∧
       t.ax.ports[p].hlat = s.ax.ports[p].hlat ∧ ∀ r, r ≠ p → t.ax.ports[r] = s.ax.ports[r]) ∧
     (s.ax.ref = false → s.ax.armed = 0 → s.liveErrs ≠ [] → Completes .abscissaAutoStep s fun t => quiet t ∧
       steps (min (max s.medianErr (-16)) 16) t ∧ t.ax.trim = s.ax.trim) ∧
     (0 < s.ax.armed → Completes .abscissaAutoStep s (· = s)) ∧
     (s.ax.ref = false → 0 < s.ax.armed → s.hasKeeper = false → s.liveErrs ≠ [] → Completes .trimUpdate s fun t =>
       quiet t ∧ -50000 ≤ t.ax.trim.toInt ∧ t.ax.trim.toInt ≤ 50000 ∧ t.ax.jump = s.ax.jump ∧ t.ax.hold = s.ax.hold) ∧
     (s.ax.pend = some n → s.ax.ref = false → Completes .abscissaStep s fun t => quiet t ∧ t.ax.pend = none ∧
       if s.ax.armed = 1 then steps n t else t.ax.jump = s.ax.jump ∧ t.ax.hold = s.ax.hold)) ∧
  (∀ (s : State), s.tick.now = s.now + 1 ∧ s.tick.phase = .pre ∧
     (0 < s.ax.hold → s.tick.ax.value = s.ax.value ∧ s.tick.ax.hold = s.ax.hold - 1) ∧
     (s.ax.hold = 0 → s.tick.ax.value = s.ax.value + 1 + BitVec.ofNat 64 s.ax.jump ∧ s.tick.ax.jump = 0) ∧
     ((∀ v r, s.seq.run ≠ .boundary v r true) → s.tick.sys.safect = s.sys.safect + 1) ∧
     s.tick.seq = s.seq ∧ s.tick.ann.mem = s.ann.mem ∧ s.tick.sems = s.sems)

/-- HBRD, SPMRD and SPMWR in supervisor mode (R393, R394, R397): the fields of the side's word and of the own status word;
the spare map in force, staged or in flash; a well-formed map staged, any other word refused by the reserved-field
trap with nothing written. ACCUSE, APPEAL, IFST, SPARE and SELFOFF in supervisor mode (R394, R395, R397): what each
starts and the 1 it answers, or the 0 where it starts nothing; an accusation of a healthy neighbour by a voter among
two or more, the window then being open; a fenced cell whose engine queues are empty. -/
def Obligations.HealthInstructions : Prop :=
  (∀ (xd xa : Reg) (i : Fin 4) (s : State), s.seq.mode = .supervisor → s.ready [xa] xd →
     let r := s.hl.sides[i]
     let v := s.x xa
     let row := fun (n : Nat) => n ≤ 66 ∨ n = 127
     let good := row (fieldNat v 0 7) ∧ row (fieldNat v 7 7) ∧ (fieldNat v 14 7 ≤ 65 ∨ fieldNat v 14 7 = 127) ∧
       (fieldNat v 0 7 = fieldNat v 7 7 → fieldNat v 0 7 = 127) ∧ fieldNat v 21 43 = 0
     (r.st = .absent → Gives (.hbrd xd ⟨i.val, by omega⟩) s (.x xd 6) 2) ∧
     (r.st ≠ .absent → r.miss < 4 → r.win = none → ∃ w, Gives (.hbrd xd ⟨i.val, by omega⟩) s (.x xd w) 2 ∧
       fieldNat w 0 3 = r.st.code ∧ fieldNat w 3 2 = r.miss ∧ bitsOf w 5 3 = r.cause ∧ fieldNat w 8 24 = 0 ∧
       bitsOf w 32 32 = r.hbc) ∧
     Gives (.hbrd xd ⟨i.val + 4, by omega⟩) s (.x xd r.feff) 2 ∧
     (∃ w, Gives (.hbrd xd 8) s (.x xd w) 2 ∧ w.getLsbD 0 = s.hl.fenced ∧ w.getLsbD 1 = s.hl.self ∧
       w.getLsbD 2 = s.hl.tend.isSome ∧ w.getLsbD 3 = s.hl.tpass ∧ w.getLsbD 4 = s.hl.tdone ∧
       w.getLsbD 5 = s.hl.apl.isSome ∧ fieldNat w 6 2 = s.rdm ∧ w.getLsbD 8 = s.hl.hold ∧ fieldNat w 9 23 = 0 ∧
       bitsOf w 32 32 = s.hl.tsig) ∧
     Gives (.spmrd xd 0) s (.x xd s.hl.spareNow) 2 ∧ Gives (.spmrd xd 1) s (.x xd s.hl.spareNew) 2 ∧
     Gives (.spmrd xd 2) s (.x xd s.hl.spareFlash) 2 ∧
     (good → Completes (.spmwr xa) s (· = { s with hl := { s.hl with spareNew := v } })) ∧
     (¬good → ∃ b, Traps (.spmwr xa) s (reservedTrap (64 + b)))) ∧
  (∀ (xd : Reg) (side : Fin 4) (s : State), s.seq.mode = .supervisor → s.ready [] xd →
     let st := s.hl.sides[side].st
     let soon := fun (cyc : Nat) (i : Instr) (t : State) => { at_ := cyc, rank := rankEnd, act := .ev i } ∈ t.agenda
     (st ≠ .healthy → st ≠ .accused → Completes (.accuse side) s (· = s)) ∧
     (st = .healthy → 2 ≤ s.voteN side → Completes (.accuse side) s fun t =>
       t.hl.sides[side].st = .suspect ∧ t.hl.sides[side].cause = 5 ∧ t.hl.sides[side].own = true ∧
       t.hl.sides[side].win = some (s.now + 16383) ∧ t.seq = s.seq ∧ t.ann = s.ann) ∧
     (s.hl.fenced = true ∧ s.hl.tdone = true ∧ s.hl.tpass = true ∧ s.hl.hold = false →
       Completes (.appeal xd) s fun t => ∃ u, InFlight u (.x xd 1) 2 t ∧ u.hl = { s.hl with apl := some (s.now + 17408) } ∧
         soon (s.now + 17408) .appealExpiry u ∧ u.seq = s.seq ∧ u.ann = s.ann) ∧
     (¬(s.hl.fenced = true ∧ s.hl.tdone = true ∧ s.hl.tpass = true ∧ s.hl.hold = false) →
       Gives (.appeal xd) s (.x xd 0) 2) ∧
     ((s.hl.fenced = true ∨ s.prog = none) ∧ s.hl.tend = none → Completes (.ifst xd) s fun t => ∃ u, InFlight u (.x xd 1) 2 t ∧
       u.hl = { s.hl with tend := some (s.now + 1048576) } ∧ soon (s.now + 1048576) .ifstComplete u ∧ u.seq = s.seq) ∧
     (¬((s.hl.fenced = true ∨ s.prog = none) ∧ s.hl.tend = none) → Gives (.ifst xd) s (.x xd 0) 2) ∧
     (s.hl.spareBusy = none → Completes (.spare xd) s fun t => ∃ u, InFlight u (.x xd 1) 2 t ∧
       u.hl = { s.hl with spareBusy := some s.hl.spareNew } ∧ u.seq = s.seq ∧ u.ann = s.ann) ∧
     (s.hl.spareBusy ≠ none → Gives (.spare xd) s (.x xd 0) 2) ∧
     Completes .selfoff s fun t => t.hl.fenced = true ∧ t.hl.self = true ∧ t.seq.pc = s.seq.pc ∧ t.seq.run = s.seq.run ∧
       t.seq.regs = s.seq.regs ∧ t.ann.mem = s.ann.mem ∧ t.mx.array = none ∧ t.mx.q.normal = [] ∧ t.mx.q.prio = [])

/-- The floating-point instructions of R155 and VRINT (R163), element by element at the active positions, for every
operand form: each result one rounding with the draw of the element's own index; VABS and VNEG act on the sign bit of
every code (R156). -/
def Obligations.VectorFloatResults : Prop :=
  ∀ (c : VCtl) (od oa ob oc : VOp) (s : State), c.fmt.isFp = true →
    let w := c.fmt.width
    let A := elem w (s.srcRow c c.fmt oa)
    let B := elem w (s.srcRow c c.fmt ob)
    let C := elem w (s.srcRow c c.fmt oc)
    let act := s.active c od
    let F := floatFormat c.fmt
    let R := s.rndAt c.rnd
    let one := fun (i : Instr) (lat : Nat) (f : Nat → Nat → Prop) => Elementwise i s c od [oa] [] lat act w f
    let two := fun (i : Instr) (lat : Nat) (f : Nat → Nat → Prop) => Elementwise i s c od [oa, ob] [] lat act w f
    let three := fun (i : Instr) (lat : Nat) (f : Nat → Nat → Prop) => Elementwise i s c od [oa, ob, oc] [] lat act w f
    two (.vadd c od oa ob) 4 (fun e v => v = fpAdd F (R e) c.sat (A e) (B e) % 2 ^ w) ∧
    two (.vsub c od oa ob) 4 (fun e v => v = fpSub F (R e) c.sat (A e) (B e) % 2 ^ w) ∧
    two (.vmul c od oa ob) 4 (fun e v => v = fpMul F (R e) c.sat (A e) (B e) % 2 ^ w) ∧
    two (.vdiv c od oa ob) 14 (fun e v => v = fpDiv F (R e) c.sat (A e) (B e) % 2 ^ w) ∧
    three (.vfma c od oa ob oc) 4 (fun e v => v = fpFma F (R e) c.sat false (A e) (B e) (C e) % 2 ^ w) ∧
    three (.vfms c od oa ob oc) 4 (fun e v => v = fpFma F (R e) c.sat true (A e) (B e) (C e) % 2 ^ w) ∧
    two (.vmin c od oa ob) 2 (fun e v => v = fpMin F (A e) (B e) % 2 ^ w) ∧
    two (.vmax c od oa ob) 2 (fun e v => v = fpMax F (A e) (B e) % 2 ^ w) ∧
    one (.vabs c od oa) 2 (fun e v => v = A e % 2 ^ (w - 1)) ∧
    one (.vneg c od oa) 2 (fun e v => v = (A e + 2 ^ (w - 1)) % 2 ^ w) ∧
    one (.vsqrt c od oa) 14 (fun e v => v = fpSqrt F (R e) c.sat (A e) % 2 ^ w) ∧
    one (.vrcp c od oa) 10 (fun e v => v = fpRcp F (R e) c.sat (A e) % 2 ^ w) ∧
    one (.vrsq c od oa) 10 (fun e v => v = fpRsq F (R e) c.sat (A e) % 2 ^ w) ∧
    one (.vrint c od oa) 3 (fun e v => v = fpRint F (R e) (A e) % 2 ^ w)

/-- The integer and bitwise instructions of R157 at the active positions: exact results modulo 2^w or clamped to the
format's range, the smaller and the larger, bits, and shifts by b mod w. The comparisons of R158: bit j of the column
mask of md is the comparison of element sub of position j where the column mask of the instruction is set, else 0; the
row mask of md is as before. -/
def Obligations.VectorIntegerResults : Prop :=
  (∀ (c : VCtl) (od oa ob oc : VOp) (s : State), c.fmt.isPlain = true →
     let w := c.fmt.width
     let A := elem w (s.srcRow c c.fmt oa)
     let B := elem w (s.srcRow c c.fmt ob)
     let C := elem w (s.srcRow c c.fmt oc)
     let act := s.active c od
     let V := fun (n : Nat) => if c.fmt = .u8 ∨ n < 2 ^ (w - 1) then (n : Int) else (n : Int) - 2 ^ w
     let lo : Int := if c.fmt = .u8 then 0 else -(2 ^ (w - 1))
     let hi : Int := if c.fmt = .u8 then 255 else 2 ^ (w - 1) - 1
     let res := fun (x : Int) (v : Nat) => if c.sat then V v = max lo (min hi x) else (v : Int) = x % 2 ^ w
     let two := fun (i : Instr) (lat : Nat) (f : Nat → Nat → Prop) => Elementwise i s c od [oa, ob] [] lat act w f
     (c.fmt.isInt = true →
       two (.viadd c od oa ob) 2 (fun e v => res (V (A e) + V (B e)) v) ∧
       two (.visub c od oa ob) 2 (fun e v => res (V (A e) - V (B e)) v) ∧
       two (.vimul c od oa ob) 4 (fun e v => res (V (A e) * V (B e)) v) ∧
       Elementwise (.vimad c od oa ob oc) s c od [oa, ob, oc] [] 4 act w (fun e v => res (V (A e) * V (B e) + V (C e)) v) ∧
       two (.vimin c od oa ob) 2 (fun e v => V v = min (V (A e)) (V (B e))) ∧
       two (.vimax c od oa ob) 2 (fun e v => V v = max (V (A e)) (V (B e))) ∧
       two (.vshl c od oa ob) 2 (fun e v => v = A e * 2 ^ (B e % w) % 2 ^ w) ∧
       two (.vshr c od oa ob) 2 (fun e v => v = A e / 2 ^ (B e % w)) ∧
       (c.fmt ≠ .u8 → two (.vsra c od oa ob) 2 (fun e v => V v = V (A e) / 2 ^ (B e % w)))) ∧
     two (.vand c od oa ob) 2 (fun e v => v = A e &&& B e) ∧
     two (.vor c od oa ob) 2 (fun e v => v = A e ||| B e) ∧
     two (.vxor c od oa ob) 2 (fun e v => v = A e ^^^ B e)) ∧
  (∀ (c : VCtl) (md : Fin 4) (oa ob : VOp) (sub : Fin 4) (s u : State), sub.val < 32 / c.fmt.width →
     dupPort [oa, ob] = none → s.pendingRead (.mask c.mp) = false → State.popAll c [oa, ob] s = .ok u →
     s.pendingWrite (.mask md) = false →
     let w := c.fmt.width
     let at_ := fun (o : VOp) (j : Nat) => elem w (s.srcRow c c.fmt o) (j * (32 / w) + sub.val)
     let F := floatFormat c.fmt
     let V := fun (n : Nat) => if n < 2 ^ (w - 1) then (n : Int) else (n : Int) - 2 ^ w
     let ok := fun (i : Instr) (cmp : Nat → Nat → Prop) => Completes i s fun t => ∃ cols,
       InFlight u (.mask md s.seq.maskRow[md] cols) 2 t ∧
         ∀ j < 128, (cols.getLsbD j = true ↔ s.seq.maskCol[c.mp].getLsbD j ≠ c.cpl ∧ cmp (at_ oa j) (at_ ob j))
     (c.fmt.isFp = true →
       ok (.vceq c md oa ob sub) (fun a b => fpEq F a b = true) ∧
       ok (.vcne c md oa ob sub) (fun a b => fpEq F a b = false) ∧
       ok (.vclt c md oa ob sub) (fun a b => fpLt F a b = true) ∧
       ok (.vcle c md oa ob sub) (fun a b => fpLe F a b = true) ∧
       ok (.vcun c md oa ob sub) (fun a b => F.isNaN a = true ∨ F.isNaN b = true)) ∧
     (c.fmt.isInt = true →
       (c.fmt ≠ .u8 → ok (.viclt c md oa ob sub) (fun a b => V a < V b)) ∧
       ok (.vicltu c md oa ob sub) (fun a b => a < b) ∧ ok (.viceq c md oa ob sub) (fun a b => a = b)))

/-- Selection and movement (R159), the draws of VRNG (R165) and MPOP (R167): VSEL selects by the column mask and writes
the whole row where the row mask allows; the others at the active positions. What a source operand supplies (R150):
the bits of a tile row, the row popped from a port, the low bits of the scalar in every element, zero, or the
element's own number as INT32 or as FP32. -/
def Obligations.VectorMoveResults : Prop :=
  (∀ (c : VCtl) (od oa ob : VOp) (ma : Fin 4) (s : State), c.fmt.isPlain = true →
     let w := c.fmt.width
     let n := 4096 / w
     let a := s.srcRow c c.fmt oa
     let b := s.srcRow c c.fmt ob
     let x := (s.x c.xs).toNat
     let act := s.active c od
     let next : Reg := Fin.ofNat 32 (c.xs.val + 1)
     Elementwise (.vsel c od oa ob) s c od [oa, ob] [] 2 (fun _ => s.rowOn c od) 32 (fun j v =>
       v = (if s.seq.maskCol[c.mp].getLsbD j != c.cpl then position a j else position b j).toNat) ∧
     Elementwise (.vmov c od oa) s c od [oa] [] 1 act 32 (fun j v => v = (position a j).toNat) ∧
     Elementwise (.vlane c od oa) s c od [oa] [c.xs] 2 act w (fun _ v => v = elem w a (x % n)) ∧
     Elementwise (.vperm c od oa ob) s c od [oa, ob] [] 3 act 32 (fun j v =>
       v = (position a ((position b j).toNat % 128)).toNat) ∧
     Elementwise (.vrot c od oa) s c od [oa] [c.xs] 2 act w (fun e v => v = elem w a ((e + x) % n)) ∧
     Elementwise (.viota c od) s c od [] [c.xs] 1 act 32 (fun j v => v = (x + j) % 2 ^ 32) ∧
     (c.fmt = .i32 → Elementwise (.vrng c od) s c od [] [c.xs, next] 6 act 32 (fun j v =>
       v = (qk64 (s.x c.xs) (s.x next + BitVec.ofNat 64 j)).toNat)) ∧
     (c.fmt = .fp32 → Elementwise (.vrng c od) s c od [] [c.xs, next] 6 act 32 (fun j v =>
       v = f32.round rne false { s := false, m := (qk64 (s.x c.xs) (s.x next + BitVec.ofNat 64 j)).toNat / 256, e := -24 } % 2 ^ 32)) ∧
     (od.isDest = true → s.pendingRead (.mask ma) = false → s.dstFault od 2 = none →
       ∃ r, (∀ j < 128, (position r j).toNat = ((List.range 128).filter fun k => s.seq.maskCol[ma].getLsbD k).length) ∧
         Completes (.mpop od ma) s (RowGiven s od 2 (fun _ => true) r))) ∧
  (∀ (c : VCtl) (k q : Fin 8) (row : Fin 16) (rest : List (Nat × Row)) (at_ : Nat) (r : Row) (s : State), c.fmt.isPlain = true →
     let w := c.fmt.width
     s.srcRow c c.fmt (.tile k row) = s.seq.tiles[16 * k.val + row.val] ∧
     (s.ann.ports[q].rows = (at_, r) :: rest → s.srcRow c c.fmt (.port q) = r) ∧
     (∀ e < 4096 / w, elem w (s.srcRow c c.fmt .bcast) e = (s.x c.xs).toNat % 2 ^ w) ∧
     (∀ e < 4096 / w, elem w (s.srcRow c c.fmt .zero) e = 0) ∧
     (∀ e < 128, elem 32 (s.srcRow c .i32 .lidx) e = e) ∧
     (∀ e < 128, f32Val (elem 32 (s.srcRow c .fp32 .lidx) e) = e))

/-- The reductions (R59 to R161): VRADD over the fixed tree of R59 with -0 for a position that the column mask leaves out,
VRMAX, VRMIN and VAMAX; the one result stands in every element, and the column mask does not gate the write. For
integers the result is the greatest or the least of the elements at the positions counted, and the format's extreme
when there is none. VCVT (R162): element e of the wide side pairs with element e, or with part 1 element e + n, of the
narrow side, where n is the number of wide elements; of the destination only the half written, at its active
positions, changes. -/
def Obligations.VectorReductionResults : Prop :=
  (∀ (c : VCtl) (od oa : VOp) (s : State), c.fmt.isPlain = true →
     let w := c.fmt.width
     let a := s.srcRow c c.fmt oa
     let R := s.rndAt c.rnd 0
     let cols := s.cols c.mp c.cpl
     let V := fun (n : Nat) => if c.fmt = .u8 ∨ n < 2 ^ (w - 1) then (n : Int) else (n : Int) - 2 ^ w
     let leaf := fun (j : Nat) => if cols.getLsbD j then
         (if w = 32 then elem 32 a j
           else fpAdd f32 R c.sat (toF32 c.fmt (elem 16 a (2 * j))) (toF32 c.fmt (elem 16 a (2 * j + 1)))) else 0x80000000
     let counted := fun (e : Nat) => e < 4096 / w ∧ cols.getLsbD (e / (32 / w)) = true
     let fill := fun (i : Instr) (lat w : Nat) (p : Nat → Prop) =>
       Elementwise i s c od [oa] [] lat (fun _ => s.rowOn c od) w (fun _ v => p v)
     (c.fmt.isFp = true → fill (.vradd c od oa) 12 32 fun v =>
       some v = (pairTree (fpAdd f32 R c.sat) 7 ((List.range 128).map leaf)).head?.map (· % 2 ^ 32)) ∧
     (c.fmt.isInt = true → fill (.vrmax c od oa) 8 w fun v => (∀ e, counted e → V (elem w a e) ≤ V v) ∧
       ((∃ e, counted e ∧ elem w a e = v) ∨
         (∀ e, ¬counted e) ∧ V v = if c.fmt = .u8 then 0 else -(2 ^ (w - 1)))) ∧
     (c.fmt.isInt = true → fill (.vrmin c od oa) 8 w fun v => (∀ e, counted e → V v ≤ V (elem w a e)) ∧
       ((∃ e, counted e ∧ elem w a e = v) ∨
         (∀ e, ¬counted e) ∧ V v = if c.fmt = .u8 then 255 else 2 ^ (w - 1) - 1)) ∧
     (c.fmt.isFp = true → fill (.vrmax c od oa) 8 w fun v =>
       v = reduceRow w (fpMax (floatFormat c.fmt)) id ((floatFormat c.fmt).infinity true) cols a % 2 ^ w) ∧
     (c.fmt.isFp = true → fill (.vrmin c od oa) 8 w fun v =>
       v = reduceRow w (fpMin (floatFormat c.fmt)) id ((floatFormat c.fmt).infinity false) cols a % 2 ^ w) ∧
     (c.fmt.isFp = true → fill (.vamax c od oa) 8 w fun v =>
       (∀ e, counted e → (floatFormat c.fmt).isNaN (elem w a e) = false → elem w a e % 2 ^ (w - 1) ≤ v) ∧
       (v = 0 ∨ ∃ e, counted e ∧ (floatFormat c.fmt).isNaN (elem w a e) = false ∧ elem w a e % 2 ^ (w - 1) = v))) ∧
  (∀ (c : VCtl) (od oa : VOp) (src : Fmt) (part : Bool) (s u : State), (Instr.vcvt c od oa src part).wf = true →
     s.vecReady c od [oa] [] 4 u →
     let ws := src.width
     let wd := c.fmt.width
     let n := 4096 / max ws wd
     let off := if part then n else 0
     let a := s.srcRow c src oa
     ∃ r, (∀ e < n,
         elem wd r (if wd < ws then e + off else e) = convertElem src c.fmt (s.rndAt c.rnd (if wd < ws then e + off else e)) c.sat
           (elem ws a (if ws < wd then e + off else e)) % 2 ^ wd) ∧
       Completes (.vcvt c od oa src part) s (RowGiven u od 4
         (fun j => s.active c od j && (wd ≥ ws || (decide (64 ≤ j) == part))) r))

/-- The mask instructions (R167) and the whole-tile ones (R168): masks all ones or zeros, joined, negated, from a scalar;
TZERO and TCPY of every active position, row r of a copy two cycles and r later. -/
def Obligations.MaskAndTileResults : Prop :=
  ∀ (md ma mb mp : Fin 4) (xs : Reg) (k k' : Fin 8) (row : Fin 16) (cpl : Bool) (s : State), s.seq.writes = [] →
    let q := s.seq
    let v := s.x xs
    let mask := fun (i : Instr) (rows : BitVec 16 → Prop) (cols : BitVec 128 → Prop) =>
      Completes i s fun t => ∃ a b, InFlight s (.mask md a b) 1 t ∧ rows a ∧ cols b
    let on := fun (r : Fin 16) (j : Nat) => q.maskRow[mp].getLsbD r.val && (q.maskCol[mp].getLsbD j != cpl)
    let row' := fun (w : PendingWrite) (r : Fin 16) (new : Row) => ∃ x, w.dest = .tile (tileIdx k r) x ∧ w.issued = s.now ∧
      ∀ j < 128, position x j = if on r j then position new j else position q.tiles[tileIdx k r] j
    mask (.mset md true) (· = 0xFFFF) (fun b => ∀ j < 128, b.getLsbD j = true) ∧
    mask (.mset md false) (· = 0) (· = 0) ∧
    mask (.mand md ma mb) (· = (q.maskRow[ma] &&& q.maskRow[mb])) (· = (q.maskCol[ma] &&& q.maskCol[mb])) ∧
    mask (.mor md ma mb) (· = (q.maskRow[ma] ||| q.maskRow[mb])) (· = (q.maskCol[ma] ||| q.maskCol[mb])) ∧
    mask (.mnot md ma) (· = q.maskRow[ma]) (fun b => ∀ j < 128, b.getLsbD j = !q.maskCol[ma].getLsbD j) ∧
    mask (.mrow md xs) (· = v.setWidth 16) (· = q.maskCol[md]) ∧
    mask (.mcol md xs) (· = q.maskRow[md]) (fun b => ∀ j < 128, (b.getLsbD j = true ↔ fieldNat v 0 8 ≤ j ∧ j < fieldNat v 8 8)) ∧
    Completes (.tzero k row false mp cpl) s (fun t => ∃ w, t = { s with seq := { q with writes := [w] } } ∧
      w.due = s.now + 1 ∧ row' w row 0) ∧
    Completes (.tzero k 0 true mp cpl) s (fun t => ∃ l, t = { s with seq := { q with writes := l } } ∧ l.length = 16 ∧
      ∀ r : Fin 16, ∃ w ∈ l[r.val]?, w.due = s.now + 1 ∧ row' w r 0) ∧
    Completes (.tcpy k k' mp cpl) s (fun t => ∃ l, t = { s with seq := { q with writes := l } } ∧ l.length = 16 ∧
      ∀ r : Fin 16, ∃ w ∈ l[r.val]?, w.due = s.now + 2 + r.val ∧ row' w r q.tiles[tileIdx k' r])

/-- MXCFG, FTSET and TOLSET act at issue (R211, R212): one word of the shadow table, of the format table, or of the
tolerance table is written, the command is counted, nothing else changes. MXSTAT (R212, R213): the word of each
selector goes to xd after four cycles, sampled at the end of the issue cycle; the fields of the words with an array
command that runs. MXABN (R212): the named unit's running command and its queued commands go; other queued commands
stay; each one gone with a signal fails with code 0x27; acc0 is zeroed with the array unit. That MXABN acts in its
issue cycle is log 22. -/
def Obligations.MatrixControls : Prop :=
  (∀ (xa : Reg) (n : Fin 10) (f : Fin 16) (k : Fin 8) (s : State), s.pendingRead (.x xa) = false →
     let q := { s.mx.q with count := s.mx.q.count + 1 }
     Completes (.mxcfg xa n) s (· = { s with mx := { s.mx with shadow := s.mx.shadow.set n (s.x xa), q := q } }) ∧
     Completes (.ftset xa f) s (· = { s with mx := { s.mx with ft := s.mx.ft.set f (s.x xa), q := q } }) ∧
     Completes (.tolset xa k) s (· = { s with mx := { s.mx with tol := s.mx.tol.set k ((s.x xa).setWidth 32), q := q } })) ∧
  (∀ (xd : Reg) (sel : Fin 7) (r : ArrayRun) (s : State), s.ready [] xd →
     Completes (.mxstat xd sel) s (fun t => ∃ u, InFlight s (.x xd (s.mx.word sel)) 4 u ∧ t.seq = u.seq ∧ t.ann = s.ann ∧
       t.mx = { s.mx with q := { s.mx.q with count := s.mx.q.count + 1 } } ∧
       { at_ := s.now, rank := rankEnd + 1, act := .micro (.statSample xd sel) } ∈ t.agenda) ∧
     (∀ w ∈ (s.statSample xd sel).seq.writes, w.slot = 4 → w.issued = s.now → ∀ v, w.dest = .x xd v → v = s.mx.word sel) ∧
     s.mx.word 3 = s.mx.fail.setWidth 64 ∧ s.mx.word 5 = s.mx.lastUn ∧
     bitsOf (s.mx.word 4) 0 32 = s.mx.corr ∧ bitsOf (s.mx.word 4) 32 32 = s.mx.uncorr ∧
     bitsOf (s.mx.word 6) 0 32 = s.mx.acc0.nb ∧ bitsOf (s.mx.word 6) 32 32 = s.mx.acc1.nb ∧
     (s.mx.array = some r → s.mx.q.normal.length ≤ 16 → s.mx.q.prio.length ≤ 16 →
       (s.mx.word 0).getLsbD 0 = true ∧ (s.mx.word 0).getLsbD 1 = (s.mx.drain.isSome || s.mx.zero.isSome) ∧
       fieldNat (s.mx.word 0) 8 5 = s.mx.q.normal.length ∧ fieldNat (s.mx.word 0) 16 5 = s.mx.q.prio.length ∧
       bitsOf (s.mx.word 0) 24 24 = r.cmd.idx)) ∧
  (∀ (a d : Bool) (s : State), (a = true ∨ d = true) → Completes (.mxabn a d) s fun t =>
     let needs := fun (c : Cmd) => (a = true ∧ (cmdUnits c.op).1 = true) ∨ (d = true ∧ (cmdUnits c.op).2 = true)
     let fails := fun (c : Cmd) => c.sinc ≠ 0 → c.pred = false → (c.ssem, 0x27#8, 0#8, c.idx.setWidth 16) ∈ t.fails
     (∀ c, c ∈ t.mx.q.normal ↔ c ∈ s.mx.q.normal ∧ ¬needs c) ∧ (∀ c, c ∈ t.mx.q.prio ↔ c ∈ s.mx.q.prio ∧ ¬needs c) ∧
     (∀ c ∈ s.mx.q.normal ++ s.mx.q.prio, needs c → fails c) ∧
     (a = true → t.mx.array = none ∧ t.mx.acc0 = Acc.zero ∧ ∀ r ∈ s.mx.array, fails r.cmd) ∧
     (d = true → (s.mx.drain = none → t.mx.drain = none) ∧ ∀ r ∈ s.mx.drain,
       (r.nested = false → t.mx.drain = none ∧ fails r.cmd) ∧
       (r.nested = true → ∀ m ∈ s.mx.array, t.mx.drain = none ∧ fails m.cmd)) ∧
     (a = false → t.mx.acc0 = s.mx.acc0) ∧ t.mx.acc1 = s.mx.acc1 ∧ t.seq = s.seq ∧ t.ann = s.ann ∧
     t.mx.q.count = s.mx.q.count + 1)

/-- The matrix and shaping commands and the collective steps that queue (R200, R211, R214, R218, R219, R231, R232, R358):
each joins its station's queue with what its issue captures; CVT, QAMAX, MXLDB and ACCDR also their format entry and
its tolerance, and MXGO its nest, its masks and its entry, when its base sectors obey the bank rule. The commands of
st5 and st6 that hold an entry (R261, R264, R320, R354, R355): with fewer than 512 entries held, each enters the table
at issue, not started, timed where the image and the form say so; CPABN holds none and is kept apart. Nothing else
changes but the count. -/
def Obligations.CommandsAreQueued : Prop :=
  (∀ (e : ECtl) (fe : Fin 16) (fm fm2 : Fmt) (rnd : RMode) (m : Fin 8) (slot lcn : Fin 4) (b1 b2 b3 b4 b5 b6 b7 : Bool) (s : State),
     let any := fun (_ : Cmd) => True
     let entry := fun (f : Fin 16) (c : Cmd) => c.ft = s.mx.ft[f] ∧ c.tau = s.mx.tol[Fin.ofNat 8 (fieldNat s.mx.ft[f] 39 3)]
     let odd := fun (w : Word) => fieldNat w 0 3 % 2
     let mk : Fin 4 := Fin.ofNat 4 (fieldNat s.mx.shadow[9] 0 2)
     (fieldNat (s.x e.xa) 0 3 % 2 = (if b1 then 0 else 1) → Joins (.mxldb e fe b1) s .array e 2 (entry fe)) ∧
     Joins (.accz e b1 b2) s .array e 0 any ∧
     Joins (.accdr e fe b1 b2) s .array e 4 (entry fe) ∧
     ((e.sinc = 0 → hasDrain s.mx.shadow = false) → s.pendingRead (.mask mk) = false → s.pendingRead (.lc lcn) = false →
       odd s.mx.shadow[6] = (if b2 then 1 else 0) → odd s.mx.shadow[7] = (if b2 then 0 else 1) →
       Joins (.mxgo e fe b1 lcn b2 b3) s .array e 4 fun c => c.nest = s.mx.shadow ∧ c.mrow = s.seq.maskRow[mk] ∧
         (∀ j < 128, c.mcol.getLsbD j = (s.seq.maskCol[mk].getLsbD j != s.mx.shadow[9].getLsbD 2)) ∧
         entry (Fin.ofNat 16 (if b1 then s.seq.lc[lcn].toNat + fe.val else fe.val)) c) ∧
     Joins (.cvt e fm fe rnd b1 b2 b3 b4 b5 b6) s .cvs e 4 (entry fe) ∧ Joins (.qamax e fe b1 b2) s .cvs e 4 (entry fe) ∧
     Joins (.qscl e fm m b1) s .cvs e 4 any ∧ Joins (.trn e b1) s .trs e 4 any ∧ Joins (.tbld e slot) s .tis e 4 any ∧
     Joins (.tbev e slot fm fm2 rnd b1 b7) s .tis e 4 any ∧ Joins (.gsum e fm b1) s .cvs e 4 any ∧
     Joins (.gver e) s .cvs e 4 any ∧ Joins (.clred e fm rnd b1) s .cls e 4 any ∧ Joins (.clgath e) s .cls e 4 any ∧
     Joins (.clbcst e) s .cls e 4 any) ∧
  (∀ (e : ECtl) (op : AtomOp) (kind : AtomKind) (b : Bool) (s : State), s.cmdReady e 4 → s.cp.ents.length < 512 →
     let enters := fun (i : Instr) (timed : Cmd → Prop) (rows : Cmd → Nat) => ∃ c ent, Captured s s.cp.count i e 4 c ∧
       ent.cmd = c ∧ (ent.timed = true ↔ timed c) ∧ ent.rows = min (rows c) 512 ∧ ent.start = none ∧ ent.nissue = 0 ∧ ent.nland = 0 ∧
       Completes i s (· = { s with cp := { s.cp with count := s.cp.count + 1, ents := s.cp.ents ++ [ent] } })
     enters (.cpl e) (fun _ => s.timedImage = true) Cmd.copyRows ∧ enters (.cpc e) (fun _ => False) Cmd.copyRows ∧
     enters (.cph e) (fun c => s.timedImage = true ∧ c.isWindow = true) Cmd.copyRows ∧
     enters (.cpv e) (fun _ => False) Cmd.copyRows ∧ enters (.tsend e) (fun _ => True) Cmd.timedRows ∧
     enters (.trecv e) (fun _ => True) Cmd.timedRows ∧ enters (.atom e op kind b) (fun _ => False) (fun _ => 1) ∧
     ∃ c, Captured s s.cp.count (.cpabn e b) e 4 c ∧ Completes (.cpabn e b) s
       (· = { s with cp := { s.cp with count := s.cp.count + 1, abns := s.cp.abns ++ [(c, none, [])] } }))

/-- A command issued to a full queue or table never enters it and fails with code 0x28 on its semaphore, with its station
as detail (R200, R231, R261): here one of each station. The bank rule (R19, R214, R137): an MXGO or MXLDB whose base
sector stands in the wrong group traps with that sector as detail; here with its registers and masks readable. An MXGO
that captures a drain role and signals nothing takes the reserved-field trap (R211). The cycle of the failure is log
21, and the detail for MXLDB log 23. -/
def Obligations.CommandsTurnedAway : Prop :=
  (∀ (e : ECtl) (slot : Fin 4) (s : State), s.cmdReady e 4 → e.sinc ≠ 0 →
     let full := fun (q : Queues) => 16 ≤ (if e.q then q.prio else q.normal).length
     let fails := fun (i : Instr) (stn : BitVec 8) (idx : BitVec 24) => Completes i s fun t =>
       t.fails = s.fails ++ [(e.ssem, 0x28#8, stn, idx.setWidth 16)] ∧ t.seq = s.seq ∧ t.ann = s.ann ∧
         t.mx.q.normal = s.mx.q.normal ∧ t.mx.q.prio = s.mx.q.prio ∧ t.cp.ents = s.cp.ents
     (full s.mx.q → fails (.accdr e 0 false false) 0 s.mx.q.count) ∧
     (full s.sh.tisQ → fails (.tbld e slot) 2 s.sh.tisQ.count) ∧ (full s.sh.cvsQ → fails (.gver e) 3 s.sh.cvsQ.count) ∧
     (full s.sh.trsQ → fails (.trn e false) 4 s.sh.trsQ.count) ∧ (full s.tm.q → fails (.clgath e) 6 s.tm.q.count) ∧
     (512 ≤ s.cp.ents.length → fails (.cpc e) 5 s.cp.count)) ∧
  (∀ (e : ECtl) (fe : Fin 16) (lcn : Fin 4) (fmode ga zacc : Bool) (s : State), s.cmdReady e 4 →
     let mk : Fin 4 := Fin.ofNat 4 (fieldNat s.mx.shadow[9] 0 2)
     let a := fieldNat s.mx.shadow[6] 0 3
     let b := fieldNat s.mx.shadow[7] 0 3
     let ok := a % 2 = (if ga then 1 else 0) ∧ b % 2 = (if ga then 0 else 1)
     let l := fieldNat (s.x e.xa) 0 3
     let trap := fun (n : Nat) => ({ cls := 5, cause := 0x08, code := 0, detail := BitVec.ofNat 40 n } : TrapReq)
     (¬ok → e.sinc ≠ 0 → s.pendingRead (.mask mk) = false → s.pendingRead (.lc lcn) = false →
       Traps (.mxgo e fe fmode lcn ga zacc) s (trap a)) ∧
     (e.sinc = 0 → hasDrain s.mx.shadow = true → Traps (.mxgo e fe fmode lcn ga zacc) s (reservedTrap 31)) ∧
     (l % 2 ≠ (if ga then 0 else 1) → Traps (.mxldb e fe ga) s (trap l)))

/-- PBIND (R176, R181, R178): on a port that is not bound, a lane in use for ports that no occupied segment shares, and a
sector that the program holds, the port is bound with base and element size, its walk one element long; a read port
claims its first reads, a write port none. PWALK (R182) sets one level while k is 0; a port bound already or not bound
traps. PTAG and PSTAMP arm a bound read or write port, PFLUSH discards a read port's rows, PRST unbinds (R183 to
R186); on another port PTAG, PSTAMP and PFLUSH take the schedule fault with detail 5, and PRST has no effect. LMOV
(R187): on a lane for ports that is free, with both sectors held and every access free, the copy is set with its rows
and its path's length, nothing read or written yet. PSTAT (R188, R189): the words of a bound port, of ownership, of
the error counts and of the range registers, after two cycles. -/
def Obligations.PortOperations : Prop :=
  (∀ (q sec stn : Fin 8) (lane : LaneRef) (xa : Reg) (lvl : Fin 4) (wr : Bool) (s : State), s.pendingRead (.x xa) = false →
     let p := s.ann.ports[q]
     let v := s.x xa
     (p.bound = true → Traps (.pbind q sec lane stn xa wr) s (schedFault 5 q.val)) ∧
     (p.bound = false → laneReserved lane = true → Traps (.pbind q sec lane stn xa wr) s
       { cls := 5, cause := 0x06, code := 0, detail := BitVec.ofNat 40 ((if lane.ccw then 1 else 0) + 2 * lane.num.val) }) ∧
     (p.bound = false → s.laneTrap (s.bindUse sec lane stn wr) = none → s.secFault sec = none →
       (wr = false → s.prefetchFault (s.bindPort sec lane stn v wr) = none) →
       Completes (.pbind q sec lane stn xa wr) s fun t => ∃ p' : PortState, t.ann.ports = s.ann.ports.set q p' ∧
         p'.bound = true ∧ p'.wr = wr ∧ p'.sec = sec ∧ p'.lane = lane ∧ p'.stn = stn ∧ p'.base.val = fieldNat v 0 9 ∧
         p'.esz = fieldNat v 9 4 + 1 ∧ p'.k = 0 ∧ p'.rows = [] ∧ p'.arm = .none ∧
         (∀ l : Fin 4, p'.lvls[l] = { count := 1, stride := 0 }) ∧ t.seq = s.seq ∧ t.ann.mem = s.ann.mem ∧
         (wr = true → t.ann.claims = s.ann.claims)) ∧
     (p.bound = false ∨ p.k ≠ 0 → Traps (.pwalk q xa lvl) s (schedFault 5 q.val)) ∧
     (p.bound = true → p.k = 0 → (p.wr = false →
         (s.unclaimReads q (s.now + 1)).prefetchFault (setLevel v lvl p) = none) →
       Completes (.pwalk q xa lvl) s fun t => ∃ p' : PortState, t.ann.ports = s.ann.ports.set q p' ∧
         p'.lvls[lvl].count = fieldNat v 0 12 + 1 ∧ (p'.lvls[lvl].stride : Int) = (bitsOf v 12 10).toInt ∧
         (∀ l, l ≠ lvl → p'.lvls[l] = p.lvls[l]) ∧ p'.bound = true ∧ p'.sec = p.sec ∧ p'.base = p.base ∧ p'.k = 0 ∧
         (p.wr = false → p'.rows = []) ∧ t.seq = s.seq ∧ t.ann.mem = s.ann.mem)) ∧
  (∀ (q : Fin 8) (tag : BitVec 16) (s : State),
     let p := s.ann.ports[q]
     let sets := fun (i : Instr) (p' : PortState) =>
       Completes i s (· = { s with ann := { s.ann with ports := s.ann.ports.set q p' } })
     (p.bound = true ∧ p.wr = false → sets (.ptag q tag) { p with arm := .ptag, tag := tag }) ∧
     (¬(p.bound = true ∧ p.wr = false) → Traps (.ptag q tag) s (schedFault 5 q.val)) ∧
     (p.bound = true ∧ p.wr = true → sets (.pstamp q tag) { p with arm := .pstamp, tag := tag }) ∧
     (¬(p.bound = true ∧ p.wr = true) → Traps (.pstamp q tag) s (schedFault 5 q.val)) ∧
     (p.bound = true → p.wr = false → (s.unclaimReads q (s.now + 1)).prefetchFault p = none →
       Completes (.pflush q) s fun t => t.ann.ports[q] = { p with rows := [], nread := p.k } ∧
         (∀ r, r ≠ q → t.ann.ports[r] = s.ann.ports[r]) ∧ t.seq = s.seq ∧ t.ann.mem = s.ann.mem) ∧
     (¬(p.bound = true ∧ p.wr = false) → Traps (.pflush q) s (schedFault 5 q.val)) ∧
     (p.bound = false → Completes (.prst q) s (· = s)) ∧
     (p.bound = true → Completes (.prst q) s fun t => t.ann.ports[q] = { PortState.reset with gen := p.gen } ∧
       (∀ r, r ≠ q → t.ann.ports[r] = s.ann.ports[r]) ∧ t.ann.pushes = s.ann.pushes ∧ t.seq = s.seq ∧ t.ann.mem = s.ann.mem)) ∧
  (∀ (src dst q : Fin 8) (lane : LaneRef) (xa xd : Reg) (k : Fin 16) (r : RangeReg) (s : State), s.ready [xa] xd →
     let v := s.x xa
     let n := fieldNat v 32 9 + 1
     let h := if lane.ccw then (2 * src.val + 16 - 2 * dst.val) % 16 else (2 * dst.val + 16 - 2 * src.val) % 16
     let p := s.ann.ports[q]
     let reads := fun (q : Fin 8) (sel : Fin 32) (f : Word → Prop) => ∃ w, Gives (.pstat q xd sel) s (.x xd w) 2 ∧ f w
     (s.laneTrap (s.lmovUse src lane dst n) = none → s.secFault src = none → s.secFault dst = none →
       (∀ c ∈ lmovClaims s.now src dst (fieldNat v 0 9) (fieldNat v 16 9) n h, s.claimFault c.2.1 c.2.2.1 c.1 c.2.2.2 7 = none) →
       Completes (.lmov src lane dst xa) s fun t =>
         t.ann.lmovs = s.ann.lmovs ++ [{ ssec := src, srow := fieldNat v 0 9, dsec := dst, drow := fieldNat v 16 9, count := n,
                                         start := s.now, hops := h, nread := 0, nwrit := 0, buf := [] }] ∧
         t.seq = s.seq ∧ t.ann.mem = s.ann.mem ∧ t.ann.ports = s.ann.ports) ∧
     (p.bound = false → reads q 0 (· = 0)) ∧
     (p.bound = true → 1 ≤ p.esz → p.esz ≤ 16 → reads q 0 fun w => w.getLsbD 0 = true ∧ w.getLsbD 1 = p.wr ∧
       fieldNat w 2 3 = p.sec.val ∧ w.getLsbD 5 = p.lane.ccw ∧ fieldNat w 6 3 = p.lane.num.val ∧ fieldNat w 9 3 = p.stn.val ∧
       fieldNat w 12 9 = p.base.val ∧ fieldNat w 21 4 = p.esz - 1 ∧ (p.arm ≠ .none → bitsOf w 27 16 = p.tag) ∧
       (w.getLsbD 43 = true ↔ p.total ≤ p.k)) ∧
     (p.k < 2 ^ 52 → p.rows.length < 32 → reads q 1 fun w => fieldNat w 0 52 = p.k ∧ fieldNat w 52 5 = p.rows.length) ∧
     reads 0 4 (fun w => ∀ i : Fin 8, fieldNat w (2 * i.val) 2 =
       match s.ann.own[i] with
       | .free => 0
       | .held false => 1
       | .held true => 2
       | .kept => 2
       | .releasing _ _ => 3
       | .keptRel _ => 3) ∧
     reads 0 5 (fun w => bitsOf w 0 32 = s.ann.eccCorr ∧ bitsOf w 32 32 = s.ann.eccPois) ∧
     (s.ann.ranges[k] = some r → reads 0 ⟨16 + k.val, by omega⟩ fun w => w.getLsbD 0 = true ∧ w.getLsbD 1 = r.write ∧
       fieldNat w 2 3 = r.sec.val ∧ fieldNat w 5 9 = r.first.val ∧ fieldNat w 14 9 = r.last.val ∧ bitsOf w 23 8 = r.stmask))

/-- ILLEGAL_CODE_UNIT_FETCH (R63, R66, R115), CYCLE_COUNT_MISMATCH (R126) and SAFE_POINT_STARVATION_FAULT (R123): each
takes its trap in place of the bundle at pc, with the cause and the detail of R137. A control transfer, SAFE, SEGEND,
HALT, TRAP or ERET in a delay bundle of a transfer takes the illegal-code trap in that bundle's place, with the code
unit at pc as detail (R80, R121). An opcode that no row of R74 lists
traps as illegal, in every slot's own space (R75): for a bundle of one such slot, with no other fault, the bundle's
place is taken by the trap with the opcode as detail. -/
def Obligations.SequencerFaults : Prop :=
  (∀ (s : State), s.seq.mode = .user →
     let a := s.seq.pc.toNat
     let c := s.codeAt a
     let traps := fun (i : Instr) (cause : BitVec 8) (d : BitVec 40) (p : State → State) =>
       Completes i s (· = p (s.enterTrap { cause := cause, code := 0, baddr := s.seq.pc, slot := 7, detail := d }))
     let bad := fun (n : Nat) => traps .illegalCodeUnitFetch 0x01 (BitVec.ofNat 40 n) id
     (∀ v, s.seq.badTarget = some v → bad (v.toNat % 2 ^ 40)) ∧
     (s.seq.badTarget = none → 0x7000 ≤ a → bad a) ∧
     (s.seq.badTarget = none → a < 0x7000 → s.seq.arrived = true → c.start = false → bad a) ∧
     (s.seq.badTarget = none → a < 0x7000 → (s.seq.arrived = true → c.start = true) → 0x800 ≤ c.unit.toNat →
       c.unit.toNat ≠ 0xFFFF → bad c.unit.toNat) ∧
     (s.seq.badTarget = none → a < 0x7000 → (s.seq.arrived = true → c.start = true) → c.unit.toNat = 0xFFFF →
       0x7000 < a + 25 → bad 0xFFFF) ∧
     traps .cycleCountMismatch 0x11 (BitVec.ofNat 40 s.seg.idx) id ∧
     traps .safePointStarvationFault 0x0E (s.sys.safect.setWidth 40) fun t => { t with seq := { t.seq with starved := true } }) ∧
  (∀ (s : State) (b : Bundle) (x : Xfer), s.seq.xfer = some x →
     let op := slotBits b 0 / 2 ^ 56
     (1 ≤ op ∧ op ≤ 0x0D) ∨ (0x10 ≤ op ∧ op ≤ 0x14) → s.issue b =
       .next (s.enterTrap { cause := 0x01, code := 0, baddr := s.seq.pc, slot := 0,
                            detail := BitVec.ofNat 40 (s.codeAt s.seq.pc.toNat).unit.toNat })) ∧
  (∀ (s : State) (b : Bundle) (k : Fin 6) (w : Nat), (∀ j, slotBits b j = if j = k.val then w else 0) →
     let op := w / 2 ^ 56
     let listed := match slotClass k.val with
       | .ctl => op ≤ 0x0D ∨ (0x10 ≤ op ∧ op ≤ 0x14) ∨ (0x18 ≤ op ∧ op ≤ 0x1F) ∨ (0x30 ≤ op ∧ op ≤ 0x3A)
       | .scalar => op ≤ 0x20 ∨ (0x28 ≤ op ∧ op ≤ 0x33) ∨ (0x38 ≤ op ∧ op ≤ 0x42) ∨ (0x48 ≤ op ∧ op ≤ 0x55) ∨
           (0x58 ≤ op ∧ op ≤ 0x5B)
       | .vec => op ≤ 0x0D ∨ (0x10 ≤ op ∧ op ≤ 0x1B) ∨ (0x20 ≤ op ∧ op ≤ 0x2D) ∨ (0x30 ≤ op ∧ op ≤ 0x33) ∨
           (0x38 ≤ op ∧ op ≤ 0x3A) ∨ (0x40 ≤ op ∧ op ≤ 0x46) ∨ (0x48 ≤ op ∧ op ≤ 0x49)
       | .eng => op ≤ 0x09 ∨ (0x10 ≤ op ∧ op ≤ 0x17) ∨ (0x20 ≤ op ∧ op ≤ 0x24) ∨ (0x28 ≤ op ∧ op ≤ 0x2C) ∨ op = 0x30
       | .lane => op ≤ 0x08
     ¬listed → s.issue b =
       .next (s.enterTrap { cause := 0x02, code := 0, baddr := s.seq.pc, slot := ⟨k.val, by omega⟩,
                            detail := BitVec.ofNat 40 op }))

/-- ARITHMETIC_CHECK_FAULT (R111, R112, R170, R252): the one result of the unit's slot that is due is dropped and its
register keeps its value; one still on its way is to fail in its own cycle; a mismatch of a shaping station fails its
command with code 0x31, its trap in the cycle after. ARCSTAT counts these and names the unit, and the arithmetic-check
fault falls due. The sums of a drain that differ fail it with 0x2D (R222), those of a receiving unit its window with
0x31 (R360). MEMORY_BIT_ERROR (R175, R253): the word of a sector becomes poisoned, or reads corrected; so does a word of a
table slot (R247). No stored byte and no other word's state changes. How a slot word in error is named
is log 25. -/
def Obligations.HardwareFaults : Prop :=
  (∀ (s : State) (w : PendingWrite) (r : Reg) (v : Word) (run : ShapeRun), s.seq.trapDue = none →
     let counted := fun (t : State) (n : Nat) => fieldNat t.sys.arcstat 0 32 = min (fieldNat s.sys.arcstat 0 32 + 1) 0xFFFFFFFF ∧
       fieldNat t.sys.arcstat 32 3 = n
     let due := fun (t : State) (n : Nat) (baddr : BitVec 15) (slot : Fin 8) => t.seq.trapDue = some
       { cause := 0x0C, code := 0, baddr := baddr, slot := slot, detail := BitVec.ofNat 40 n }
     (∀ p ∈ [(ArcUnit.sa, 1, 0), (.sb, 2, 1), (.vec, 3, 2)], s.seq.writes = [w] → w.slot = p.2.1 → w.dest = .x r v →
       (w.due ≤ s.now → w.bad = false → Completes (.arithmeticCheckFault ⟨p.1, 0⟩) s fun t =>
         t.seq.writes = [] ∧ t.seq.regs = s.seq.regs ∧ counted t p.2.2 ∧ due t p.2.2 w.baddr w.slot) ∧
       (s.now < w.due → Completes (.arithmeticCheckFault ⟨p.1, 0⟩) s
         (· = { s with seq := { s.seq with writes := [{ w with bad := true }] } }))) ∧
     (∀ p ∈ [(ArcUnit.tis, 2, 3), (.cvs, 3, 4)], (if p.2.1 = 2 then s.sh.tis else s.sh.cvs) = some run → run.cmd.sinc ≠ 0 →
       run.cmd.pred = false → s.seq.writes = [] → Completes (.arithmeticCheckFault ⟨p.1, 0⟩) s fun t =>
         (run.cmd.ssem, 0x31#8, BitVec.ofNat 8 p.2.1, run.cmd.idx.setWidth 16) ∈ t.fails ∧
         counted t p.2.2 ∧ (if p.2.1 = 2 then t.sh.tis else t.sh.cvs) = none ∧
         (s.phase = .pre → ∃ x : TrapRec, t.planned (s.now + 1) rankWriteback (.micro (.oweCheck x)) ∧
           x = { cause := 0x0C, code := 0, baddr := run.cmd.baddr, slot := 4, detail := BitVec.ofNat 40 p.2.2 }) ∧
         (s.phase = .post → due t p.2.2 run.cmd.baddr 4)) ∧
     (∀ d : DrainRun, s.mx.drain = some d → d.nested = false → d.out ≠ [] → d.cmd.signals →
       Completes (.arithmeticCheckFault ⟨.sums, 0⟩) s fun t =>
         FailsWith s d.cmd 0x2D 0 t ∧ t.mx.drain = none ∧ t.seq = s.seq ∧ t.sys = s.sys) ∧
     (∀ r : RecvRun, s.tm.recvs = [r] → r.done = false → Completes (.arithmeticCheckFault ⟨.recv, 0⟩) s fun t =>
       ∃ u : State, u.tm.recvs = [] ∧ u.tm.wins[r.win].failed = true ∧ u.seq = s.seq ∧ u.ann = s.ann ∧
         t = match s.tm.wins[r.win].cmd with
           | some i => u.copyFails i 0x31 5
           | none => u)) ∧
  (∀ (sec : Fin 8) (addr : Nat) (s : State),
     let w := (sec.val * 0x40000 + addr % 0x40000) / 8
     let only := fun (l m : List Nat) => ∀ v, v ≠ w → (v ∈ l ↔ v ∈ m)
     Completes (.memoryBitError false sec addr true) s (fun t => w ∈ t.ann.poison ∧ w ∉ t.ann.flawed ∧
       only t.ann.poison s.ann.poison ∧ only t.ann.flawed s.ann.flawed ∧ t.ann.mem = s.ann.mem ∧ t.seq = s.seq) ∧
     (w ∉ s.ann.poison → Completes (.memoryBitError false sec addr false) s fun t => w ∈ t.ann.flawed ∧
       t.ann.poison = s.ann.poison ∧ only t.ann.flawed s.ann.flawed ∧ t.ann.mem = s.ann.mem ∧ t.seq = s.seq) ∧
     let p := (sec.val % 4, addr)
     Completes (.memoryBitError true sec addr true) s (fun t => p ∈ t.sh.tblBad ∧ p ∉ t.sh.tblFlaw ∧ t.ann = s.ann ∧ t.seq = s.seq ∧
       t.sh.slots = s.sh.slots ∧ ∀ q, q ≠ p → (q ∈ t.sh.tblBad ↔ q ∈ s.sh.tblBad) ∧ (q ∈ t.sh.tblFlaw ↔ q ∈ s.sh.tblFlaw)) ∧
     (p ∉ s.sh.tblBad → Completes (.memoryBitError true sec addr false) s fun t => p ∈ t.sh.tblFlaw ∧ t.sh.tblBad = s.sh.tblBad ∧
       t.ann = s.ann ∧ t.seq = s.seq ∧ t.sh.slots = s.sh.slots))

/-- SEGMENT_START and HOLD_END (R124, R127, R129, R130, R362, R363): the next segment of the table begins in this
cycle at pc with its shadow taken and an empty signature, or past the last only a HALT may follow; so does one whose first
bundle a trap of the boundary stood in place of, when that bundle issues; a held boundary
waits until its hold semaphores are ready and the common resume cycle has come, reads SAFECT 0 at its end, and traps
on one in error. The replay of a segment (R31, R130, R131, R365, R390): a notice restores the boundary's state and
waits, acknowledged; the third ends the launch; acknowledgements are counted off; the start sets the segment's clock
anew; a member that is not heard for 65,536 cycles ends the launch; a notice of an earlier run of the segment changes
nothing (log 43). COMPARE_WORD (R352, R367, R368): an equal twin's word is noted; an unequal one, or none by its
deadline, is counted in LKCNT and raises the replay of the segment; here in a segment that none is pending for. When a
failed hold ends is log 15. -/
def Obligations.SegmentsAndReplay : Prop :=
  (∀ (v r : Nat) (s : State),
     let begins := fun (i : Instr) (safe : Prop) => Completes i s fun t =>
       t.seq.run = .running ∧ t.seq.issueAt = s.now ∧ t.seq.pc = s.seq.pc ∧ t.seq.regs = s.seq.regs ∧ t.ann.mem = s.ann.mem ∧
       (safe → t.sys.safect = 0) ∧
       (∀ g, s.segTable[s.seg.idx + 1]? = some g → t.seg.inSeg = true ∧ t.seg.idx = s.seg.idx + 1 ∧
         t.seg.origin = s.ax.value ∧ t.seg.startAt = s.now ∧ t.seg.replays = 0 ∧ t.seq.crc = 0xFFFFFFFF#32 ∧
         ∃ h, t.seg.shadow = some h ∧ h.regs = s.seq.regs ∧ h.pc = s.seq.pc ∧ h.sems = s.sems ∧ h.lc = s.seq.lc) ∧
       (s.segTable[s.seg.idx + 1]? = none → t.seg.inSeg = false ∧ t.seg.ended = true)
     (s.seq.run = .boundary v r false → begins .segmentStart False) ∧
     (s.seq.run = .running → s.seg.closed = true → begins .segmentStart False) ∧
     let comes := if r = 0 then s.mayResume = true else r ≤ s.absc
     (s.seq.run = .boundary v r true → s.holdReady = true → comes → s.holdError = none → begins .holdEnd True) ∧
     (s.seq.run = .boundary v r true → (s.holdReady = false ∨ ¬comes) → Completes .holdEnd s (· = s)) ∧
     (∀ n, s.seq.run = .boundary v r true → s.holdReady = true → comes → s.holdError = some n → Completes .holdEnd s
       (· = { s with seq := { s.seq with run := .running }, seg := { s.seg with closed := true } }.enterTrap
         { cause := 0x0D, code := 0, baddr := s.seq.pc, slot := 7,
           detail := BitVec.ofNat 40 (n.val + s.sems[n].status.toNat * 256) }))) ∧
  (∀ (f q : Nat) (h : Shadow) (cell : Peer) (w : List Peer) (s : State),
     (s.seg.inSeg = true → s.staleNotice f = true → Completes (.replayNotice f q) s (· = s)) ∧
     (s.seg.inSeg = true → s.staleNotice f = false → s.seg.shadow = some h → s.seg.pending = none → s.seg.replays < 2 →
       Completes (.replayNotice f q) s fun t => t.seq.run = .replayWait q ∧ t.seg.pending = some (f, q, s.group) ∧
         t.seq.regs = h.regs ∧ t.seq.pc = h.pc ∧ t.seq.mode = .user ∧ t.seq.lc = h.lc ∧ t.seq.loops = h.loops ∧
         (∀ w ∈ t.seq.writes, w.isPush = true) ∧ t.seq.tiles = Vector.replicate 128 0 ∧ t.mx.ft = h.ft ∧ t.mx.tol = h.tol ∧
         t.sys.srkey = h.srkey ∧ t.sys.srkctr = h.srkctr ∧ (s.seg.kept = [] → t.sems = h.sems) ∧ t.ann.mem = s.ann.mem ∧
         (s.hl.fenced = false → .ack f ∈ t.out)) ∧
     (s.seg.inSeg = true → s.staleNotice f = false → s.seg.shadow = some h → s.seg.pending = none → 2 ≤ s.seg.replays →
       Completes (.replayNotice f q) s (· = s.exhaust)) ∧
     (s.seg.pending = some (f, q, w) → s.seq.run = .replayWait q → (∃ p ∈ w, p ≠ cell) →
       Completes (.replayAck cell) s fun t => t.seg.pending = some (f, q, w.filter fun p => p ≠ cell) ∧
         t.seq = s.seq ∧ t.ann = s.ann) ∧
     (s.seg.pending = some (f, q, []) → s.seq.run = .replayWait q → Completes .replayStart s fun t =>
       t.seq.run = .running ∧ t.seq.issueAt = s.now ∧ t.seg.startAt = s.now ∧ t.seg.replays = s.seg.replays + 1 ∧
       t.seg.pending = none ∧ t.seq.regs = s.seq.regs ∧ t.seq.pc = s.seq.pc ∧
       t.seg.origin = s.ax.value - BitVec.ofNat 64 s.seg.resumedAt ∧ t.ann = s.ann) ∧
     (s.seg.pending = some (f, q, cell :: w) → s.seq.run = .replayWait q → s.now < s.seg.waitBy →
       Completes .replayWaitTimeout s (· = s)) ∧
     (s.seg.pending = some (f, q, cell :: w) → s.seq.run = .replayWait q → s.seg.waitBy ≤ s.now → s.prog.isSome = true →
       Completes .replayWaitTimeout s fun t => t.prog = none ∧ t.seq.run = .stopped)) ∧
  (∀ (o v : CompareWord) (s : State), s.seg.cmpOwn = some o →
     let counted := fun (t : State) => t.ax.lkcnt.toNat = min (s.ax.lkcnt.toNat + 1) 0xFFFFFFFF
     (v = o → Completes (.compareWord (some v)) s (· = { s with seg := { s.seg with cmpTwin := some v } })) ∧
     (s.seg.inSeg = true → s.seg.pending = none → s.noticeSent = false → s.seg.replays < 2 →
       (v ≠ o → Completes (.compareWord (some v)) s fun t => counted t ∧
         ∃ q, t.planned (s.now + 1) rankWriteback (.ev (.replayNotice s.absc q))) ∧
       (s.seg.cmpTwin = none → s.seg.cmpBy ≤ s.now → Completes (.compareWord none) s fun t => counted t ∧ t.seg.cmpOwn = none ∧
         ∃ q, t.planned (s.now + 1) rankWriteback (.ev (.replayNotice s.absc q)))) ∧
     (s.now < s.seg.cmpBy → Completes (.compareWord none) s (· = { s with seg := { s.seg with cmpOwn := none } })) ∧
     (s.seg.cmpTwin.isSome = true → s.seg.cmpBy ≤ s.now →
       Completes (.compareWord none) s (· = { s with seg := { s.seg with cmpOwn := none } })))

/-- A timed flit at a port (R344, R449): sound, live and at most 16 cycles early it waits for its cycle and is then
released, to land after the rest of its way; late, damaged or earlier it is dropped with the schedule fault of detail
6 and index 16 + p, in the cycle in which its row would have landed, and that row is not written; an untimed flit
passes, or damaged is asked for again; a port that has not trained carries none (R450). A flit on the mesh (R382, R388): damaged or at a closed port it is dropped, else delivered; a timed one
outside the link's mask is a cause. TIMED_ROW_LAND and CLRED_RESULT (R354, R356, R359, R360): a row that its armed
window holds fills its 512 bytes and counts; the row that fills the window completes the TRECV in the next cycle; a
row outside or with another tag raises the schedule fault of detail 6 and writes nothing. A row of a CLRED's sum is
written in its cycle. -/
def Obligations.TimedTraffic : Prop :=
  (∀ (p : Fin 18) (side : Fin 4) (f : Flit) (s : State),
     let late := (BitVec.ofNat 16 s.absc - (f.stamp + BitVec.ofNat 16 (2 * fieldNat s.ax.ports[p].hlat 0 16))).toInt
     let live := s.portLive p.val = true
     let fault := fun (t : State) => t.planned s.now rankEnd (.micro (.owe none
       { cause := 0x05, code := 0, baddr := s.seq.pc, slot := 7, detail := BitVec.ofNat 40 (6 + 256 * (16 + p.val)) }))
     let lands := fun (t : State) (cyc : Int) (row : TimedRow) => ∃ d ∈ t.agenda, (d.at_ : Int) = cyc ∧ d.act = .ev (.timedRowLand row)
     let drops := fun (i : Instr) => Completes i s fun t => t.seq = s.seq ∧ t.ann = s.ann ∧ (f.row = none → fault t) ∧
       ∀ lag row, f.row = some (lag, row) → let cyc := (s.now : Int) + lag - late
         (cyc < s.now → fault t) ∧ (s.now ≤ cyc → (cyc.toNat, p, row) ∈ t.tm.lost ∧ lands t cyc row)
     let r := s.hl.sides[side]
     let shut := r.st = .fenced ∨ r.st = .appealing ∨ r.st = .readmitted
     (live ∧ late = 0 → Completes (.timedFlitRelease p f) s fun t => t.seq = s.seq ∧ t.ann = s.ann ∧ t.tm = s.tm ∧
       (f.row = none → t = s) ∧ ∀ lag row, f.row = some (lag, row) → lands t (s.now + lag) row) ∧
     (¬(live ∧ late = 0) → drops (.timedFlitRelease p f)) ∧
     let up := s.ax.ports[p].up = true
     (up → f.timed = true → f.damaged = false ∧ live ∧ -16 ≤ late ∧ late ≤ 0 → Completes (.mbaperFlitArrival p f) s fun t =>
       t.planned (s.now + late.natAbs) 1 (.ev (.timedFlitRelease p f)) ∧ { t with agenda := s.agenda } = s) ∧
     (up → f.timed = true → ¬(f.damaged = false ∧ live ∧ -16 ≤ late ∧ late ≤ 0) → drops (.mbaperFlitArrival p f)) ∧
     (up → f.timed = false → f.damaged = true → Completes (.mbaperFlitArrival p f) s (· = { s with out := s.out ++ [.resend p f] })) ∧
     (¬up ∨ (f.timed = false ∧ f.damaged = false) → Completes (.mbaperFlitArrival p f) s (· = s)) ∧
     (f.damaged = true → Completes (.meshFlitArrival side f) s (· = s)) ∧
     (f.damaged = false → s.hl.silent = false → r.st ≠ .absent → ¬shut →
       (f.timed = false ∨ s.seg.inSeg = false ∨ r.mask.getLsbD (s.absc % 64) = true →
         Completes (.meshFlitArrival side f) s (· = { s with out := s.out ++ [.delivered side f] })) ∧
       (f.timed = true → s.seg.inSeg = true → r.mask.getLsbD (s.absc % 64) = false → r.st = .healthy → 2 ≤ s.voteN side →
         Completes (.meshFlitArrival side f) s fun t => .delivered side f ∈ t.out ∧ t.hl.sides[side].cause = 2 ∧
           t.hl.sides[side].st = .suspect)) ∧
     (shut → r.grace = none → (f.timed = false ∨ s.seg.inSeg = false ∨ r.mask.getLsbD (s.absc % 64) = true) →
       Completes (.meshFlitArrival side f) s (· = s))) ∧
  (∀ (r : TimedRow) (g : RecvRun) (k o w0 : Nat) (row : Row) (rest : List (Nat × Row)) (i : BitVec 24) (s : State),
     let w := s.tm.wins[r.win]
     let fault : Act := .micro (.owe none
       { cause := 0x05, code := 0, baddr := s.seq.pc, slot := 7, detail := BitVec.ofNat 40 (6 + 256 * r.win.val) })
     let lost := fun (p : Fin 18) => Act.micro (.owe none
       { cause := 0x05, code := 0, baddr := s.seq.pc, slot := 7, detail := BitVec.ofNat 40 (6 + 256 * (16 + p.val)) })
     let quiet := fun (t : State) => t.seq = { s.seq with writes := t.seq.writes } ∧
       (w.guard = false → r.poisoned = false → t.seq = s.seq)
     let fits := s.winArmed r.win = true ∧ (r.first = true → r.tag = w.tag)
     (s.seg.pending = none → ¬fits → Completes (.timedRowLand r) s fun t => SameCore s t ∧ t.planned s.now rankEnd fault) ∧
     (∀ p, s.seg.pending = none → fits → s.lostAt r = some p → Completes (.timedRowLand r) s fun t => SameCore s t ∧
       t.tm.wins = s.tm.wins ∧ t.planned s.now rankEnd (lost p)) ∧
     (s.seg.pending = none → fits → s.tm.lost = [] → r.red = none → r.coll = false → w.placeOf r.sec r.row.val = none →
       Completes (.timedRowLand r) s fun t => SameCore s t ∧ t.planned s.now rankEnd fault) ∧
     (s.seg.pending = none → fits → s.tm.lost = [] → r.red = none → r.coll = false → w.placeOf r.sec r.row.val = some k →
       s.landTrap r.lid r.issued r.win r.sec r.row.val true s.now 5 = none → Completes (.timedRowLand r) s fun t => quiet t ∧
         RowStored s.ann.mem (rowAddr r.sec r.row.val) r.data t.ann.mem ∧
         (w.guard = false → r.poisoned = false → t.tm.wins[r.win] = { w with count := w.count + 1 } ∧
           (w.cmd = some i → w.total ≤ w.count + 1 → t.planned (s.now + 1) 1 (.ev (.commandCompletion .cps i)))) ∧
         (r.poisoned = true → t.tm.wins[r.win].failed = true ∧ t.tm.wins[r.win].armed = false)) ∧
     (s.seg.pending ≠ none → Completes (.timedRowLand r) s (· = s)) ∧
     (s.tm.recvs = [g] → g.win = r.win → g.w = some w0 → w0 ≤ s.now → s.now < w0 + tileRows g.ofmt → g.done = true → g.out = (o, row) :: rest →
       w.placeOf g.sec ((g.row + o) % 512) = some k → Completes (.clredResult r.win) s fun t => quiet t ∧
         RowStored s.ann.mem (rowAddr g.sec ((g.row + o) % 512)) row t.ann.mem) ∧
     (s.tm.recvs = [] → Completes (.clredResult r.win) s (· = s)))

/-- PORT_PREFETCH_READ (R177, R178): the next row of the walk is read and is usable hops + 1 cycles later; PORT_PUSH_LAND
(R151, R179): the row is written at the positions of its column mask, and no other byte changes. LMOV_ROW (R187) of
the one LMOV at work: a row that is due is read, in order and modulo 512; with none to read, the first row that is due
is written and no other byte changes. SECTOR_FREE (R193, R317): a RELEASING sector whose releaser's earlier commands
have ended becomes FREE, no other does. -/
def Obligations.LaneRowsMove : Prop :=
  (∀ (q : Fin 8) (u : PushLand) (s : State),
     (let p := s.ann.ports[q]
      p.bound = true → p.wr = false → p.nread < p.total → Completes (.portPrefetchRead q) s fun t =>
       t.ann.ports[q] = { p with rows := p.rows ++ [(s.now + p.hops + 1, s.peekRow p.sec (p.walkRow p.nread))],
                                 nread := p.nread + 1 } ∧
       (∀ r, r ≠ q → t.ann.ports[r] = s.ann.ports[r]) ∧ t.ann.mem = s.ann.mem ∧ t.seq = s.seq) ∧
     (s.ann.pushes.find? (fun v => v.q = q && v.at_ ≤ s.now) = some u → Completes (.portPushLand q) s fun t =>
       let a := u.sec.val * 0x40000 + u.row % 512 * 512
       (∀ k < 512, t.ann.mem.get (a + k) =
         if u.cols.getLsbD (k / 4) then byteOf u.data.toNat k else s.ann.mem.get (a + k)) ∧
       (∀ b, b < a ∨ a + 512 ≤ b → t.ann.mem.get b = s.ann.mem.get b) ∧ t.ann.pushes = s.ann.pushes.erase u ∧
       t.ann.ports = s.ann.ports ∧ t.seq = s.seq)) ∧
  (∀ (r : LmovRun) (sec : Fin 8) (s : State),
     (s.ann.lmovs = [r] → r.nread < r.count → r.start + 1 + r.nread ≤ s.now → Completes .lmovRow s fun t =>
       t.ann.lmovs = (if r.nwrit = r.count then [] else
         [{ r with nread := r.nread + 1, buf := r.buf ++ [s.peekRow r.ssec ((r.srow + r.nread) % 512)] }]) ∧
       t.ann.mem = s.ann.mem ∧ t.seq = s.seq) ∧
     (s.ann.lmovs = [r] → r.nread = r.count → r.nwrit < r.nread → r.start + 1 + r.nwrit + r.hops ≤ s.now →
       Completes .lmovRow s fun t =>
         let a := r.dsec.val * 0x40000 + (r.drow + r.nwrit) % 512 * 512
         (∀ k < 512, t.ann.mem.get (a + k) = byteOf (r.buf.headD 0).toNat k) ∧
         (∀ b, b < a ∨ a + 512 ≤ b → t.ann.mem.get b = s.ann.mem.get b) ∧
         t.ann.lmovs = (if r.nwrit + 1 = r.count then [] else [{ r with nwrit := r.nwrit + 1, buf := r.buf.drop 1 }]) ∧
         t.seq = s.seq) ∧
     (s.releaseDone sec = true →
       Completes (.sectorFree sec) s (· = { s with ann := { s.ann with own := s.ann.own.set sec .free } })) ∧
     (s.releaseDone sec = false → Completes (.sectorFree sec) s (· = s)))

/-- COMMAND_START (R200, R231, R310): the command that acts next leaves its queue. One whose wait's semaphore is in error
fails with 0x29, one with a threshold beyond the counter with 0x33; another starts: ACCZ, MXLDB and ACCDR set their
ends, a shaping or st6 command takes its unit, a copy of st5 that breaks no rule of R267 begins in this cycle, or
fails with 0x33. Starting one command a cycle is log 20. -/
def Obligations.CommandsStart : Prop :=
  ∀ (c : Cmd) (u : EUnit) (a0 a1 : Bool) (ec : ECtl) (fe : Fin 16) (en : CopyEnt) (s : State),
    let left := fun (t : State) => (t.queues u).normal = ((s.queues u).leave s.now c).normal ∧
      (t.queues u).prio = ((s.queues u).leave s.now c).prio
    let fails := fun (code : Nat) => c.signals → Completes (.commandStart u c.idx) s fun t =>
      FailsWith s c code (stationOf u) t ∧ left t ∧ SameCore s t
    (u ≠ .cps → s.headNext u = some c →
      (∀ n thr, c.wait = some (n, thr) → (2 ^ 36 ≤ thr.toNat → fails 0x33) ∧
        (thr.toNat < 2 ^ 36 → s.sems[n].err = true → fails 0x29)) ∧
      (s.waitTest c = .ready → u = .array → c.op = .accz ec a0 a1 → Completes (.commandStart u c.idx) s fun t => left t ∧
        SameCore s t ∧ t.planned (s.now + 1) rankEnd (.ev (.commandCompletion (if a0 then .array else .drain) c.idx)) ∧
        (a0 = true → ∃ r, t.mx.array = some r ∧ r.cmd = c) ∧ (a1 = true → t.mx.zero = some c) ∧
        t.mx.acc0 = s.mx.acc0 ∧ t.mx.acc1 = s.mx.acc1) ∧
      (s.waitTest c = .ready → u = .array → c.op = .mxldb ec fe a0 → ftCode (ftOf c.ft) false c.tau = 0 →
        Completes (.commandStart u c.idx) s fun t => left t ∧ SameCore s t ∧
          t.planned (s.now + 4 + tileRows c.fb) rankEnd (.ev (.commandCompletion .array c.idx)) ∧
          ∃ r, t.mx.array = some r ∧ r.cmd = c ∧ r.nb = tileRows c.fb ∧ r.b0 = s.now + 1 ∧
            r.bAt.1.val = fieldNat c.xs[0] 0 3 ∧ r.bAt.2 = fieldNat c.xs[0] 3 9) ∧
      (s.waitTest c = .ready → u = .array → c.op = .accdr ec fe false a1 → ftCode (ftOf c.ft) true c.tau = 0 → s.mx.inj = 0 →
        Completes (.commandStart u c.idx) s fun t => left t ∧ SameCore s t ∧
          t.planned (s.now + 80 + tileRows c.fd) rankEnd (.ev (.commandCompletion .drain c.idx)) ∧
          ∃ d, t.mx.drain = some d ∧ d.cmd = c ∧ d.nested = false ∧ d.acc = s.mx.acc1 ∧ d.sec.val = fieldNat c.xs[0] 0 3 ∧
            d.row = fieldNat c.xs[0] 3 9) ∧
      (s.waitTest c = .ready → u ∈ [EUnit.tis, .cvs, .trs] →
        (s.startCode c = none → Completes (.commandStart u c.idx) s fun t => left t ∧ SameCore s t ∧
          ∃ r, t.shapeOf u = some r ∧ r.cmd = c ∧ r.start = s.now) ∧
        (∀ code, s.startCode c = some code → fails code)) ∧
      (s.waitTest c = .ready → u = .cls → (s.collCode c = none → Completes (.commandStart u c.idx) s fun t => left t ∧ SameCore s t ∧
        ∃ r, t.tm.send = some r ∧ r.cmd = c ∧ r.start = s.now) ∧ ∀ code, s.collCode c = some code → fails code)) ∧
    (s.ent c.idx = some en → en.cmd = c → en.start = none → en.held = false → en.stoppable = true → s.cp.abns = [] →
      s.waitTest c = .ready →
      (s.copyBad c = false → s.peerFenced c = false → (c.isWindow = true → s.windowBad c = false) →
        Completes (.commandStart .cps c.idx) s fun t => SameCore s t ∧ t.ent c.idx = some { en with start := some s.now }) ∧
      (s.copyBad c = true → c.signals → Completes (.commandStart .cps c.idx) s fun t =>
        FailsWith s c 0x33 5 t ∧ t.ent c.idx = none ∧ t.seq = s.seq ∧ t.ann.mem = s.ann.mem))

/-- COMMAND_COMPLETION (R72, R218, R219, R226, R236, R249, R274, R359): the running command with this index ends, its unit
or entry is freed, and it signals once. ACCZ and ACCDR zero their accumulators, MXLDB and TBLD fill the B buffer and
the table slot; a copy whose rows do not verify fails. -/
def Obligations.CommandsComplete : Prop :=
  ∀ (r : ArrayRun) (g : ShapeRun) (u : EUnit) (cz : Cmd) (d : DrainRun) (en : CopyEnt) (ec : ECtl) (f : Fin 16) (slot l : Fin 4)
    (b0 b1 b2 : Bool) (s : State),
    let ends := fun (u : EUnit) (c : Cmd) (bytes : Nat) (p : State → Prop) =>
      Completes (.commandCompletion u c.idx) s fun t => Signals s c bytes t ∧ SameCore s t ∧ p t
    let kept := fun (t : State) => t.mx.acc0 = s.mx.acc0 ∧ t.mx.acc1 = s.mx.acc1
    let h := r.bufB.headD 0
    (s.mx.array = some r →
      (r.cmd.op = .mxgo ec f b0 l b1 b2 → r.next = none → s.mx.drain = none → r.dfree ≤ s.now →
        ends .array r.cmd r.bytes fun t => t.mx.array = none ∧ kept t) ∧
      (r.cmd.op = .accz ec b0 b1 → ends .array r.cmd 0 fun t => t.mx.array = none ∧
        t.mx.acc0 = (if b0 then Acc.zero else s.mx.acc0) ∧ t.mx.acc1 = if b1 then Acc.zero else s.mx.acc1) ∧
      (r.cmd.op = .accdr ec f true b0 → ends .array r.cmd (512 * tileRows r.cmd.fd) fun t => t.mx.array = none ∧
        t.mx.acc0 = (if b0 then s.mx.acc0 else Acc.zero) ∧ t.mx.acc1 = s.mx.acc1) ∧
      (r.cmd.op = .mxldb ec f b0 → hdrZero h = true → (hdrOf h).code = r.cmd.fb.code →
        (r.cmd.fb.isBlock = true → (hdrOf h).orient = true) → tileMalformed r.cmd.fb (hdrOf h) = false →
        (r.cmd.xs[1].getLsbD 16 = true → (hdrOf h).tag = bitsOf r.cmd.xs[1] 0 16) →
        ends .array r.cmd 0 fun t => t.mx.array = none ∧ kept t ∧
          t.mx.bbuf = some { sec := r.bAt.1, row := r.bAt.2, rows := r.bufB })) ∧
    (s.mx.zero = some cz → cz.op = .accz ec false true →
      ends .drain cz 0 fun t => t.mx.zero = none ∧ t.mx.acc0 = s.mx.acc0 ∧ t.mx.acc1 = Acc.zero) ∧
    (s.mx.zero = none → s.mx.drain = some d → d.cmd.op = .accdr ec f false b0 →
      ends .drain d.cmd (512 * tileRows d.cmd.fd) fun t => t.mx.drain = none ∧ t.mx.acc0 = s.mx.acc0 ∧
        t.mx.acc1 = if b0 then s.mx.acc1 else Acc.zero) ∧
    (u ∈ [EUnit.tis, .cvs, .trs] → s.shapeOf u = some g →
      ((∀ e k, g.cmd.op ≠ .tbld e k) → ends u g.cmd g.bytes fun t => t.shapeOf u = none) ∧
      (∀ tab, g.cmd.op = .tbld ec slot → tableOf g.rows = some tab → ends u g.cmd 0 fun t => t.shapeOf u = none ∧
        t.sh.slots[slot] = some tab ∧ ∀ k, k ≠ slot → t.sh.slots[k] = s.sh.slots[k])) ∧
    (s.ent en.cmd.idx = some en → en.stoppable = true → en.park = none → s.cp.abns = [] →
      (s.copyVerdict en = none → Completes (.commandCompletion .cps en.cmd.idx) s fun t =>
        Signals s en.cmd (512 * en.rows) t ∧ t.ent en.cmd.idx = none ∧ t.seq = s.seq ∧ t.ann.mem = s.ann.mem) ∧
      (∀ v, s.copyVerdict en = some v → en.cmd.signals → Completes (.commandCompletion .cps en.cmd.idx) s fun t =>
        FailsWith s en.cmd v.1 v.2 t ∧ t.ent en.cmd.idx = none ∧ t.seq = s.seq ∧ t.ann.mem = s.ann.mem)) ∧
    (∀ c n, s.tm.sent = [(c, n)] → ends .cls c (512 * n) fun t => t.tm.sent = [])

/-- MATRIX_STEP, SWAP, DRAIN (R215 to R217, R219, R225, R229): a step adds its tiles into acc0, and ends the command with
a header that does not fit; paused by a pre-emption, or in a restored program that has not started, it changes nothing. A swap, once the drain unit is free, moves
acc0 to acc1 and leaves zero; its drain begins 130 cycles later with acc1, not under an injection. The checks of a
drain and the correction of one element (R220, R221): what passes uncorrected is the accumulator itself, each of its
columns and rows in bound; what passes corrected differs in one element, at the crossing of the one failing row and
the one failing column, and passes there. The correction stage ends six cycles later, and the accumulator then holds the
element as its column gives it, whether or not the re-check passes. The checked drain is counted or fails with 0x24; its rows are written in their order, and no other
byte changes. -/
def Obligations.MatrixStepsAndDrains : Prop :=
  (∀ (r : ArrayRun) (d : DrainRun) (dr : Bool) (more : List Bool) (s : State), s.mx.array = some r →
     let rows := match r.fill, s.mx.bbuf with
       | false, some b => b.rows
       | _, _ => r.bufB
     let ha := r.bufA.headD 0
     let hb := r.bufB.headD 0
     let c := r.cmd
     let code := stepHdrCode c.fa c.fb ha hb
     let tags := (c.xs[0].getLsbD 32 = true → (hdrOf ha).tag = bitsOf c.xs[0] 0 16) ∧
       (c.xs[0].getLsbD 33 = true → (hdrOf hb).tag = bitsOf c.xs[0] 16 16)
     let fails := fun (code : Nat) => c.signals → Completes .matrixStep s fun t =>
       FailsWith s c code 0 t ∧ t.mx.array = none ∧ t.mx.acc0 = s.mx.acc0 ∧ SameCore s t
     let held := s.stepsHeld = true ∧ c.pred = false
     (held → Completes .matrixStep s (· = { s with mx := { s.mx with array := some { r with paused := true } } })) ∧
     (¬held → r.on = true →
       (code ≠ 0 → fails code) ∧ (code = 0 → r.seen = false → ¬tags → fails 0x2A) ∧
       (code = 0 → r.seen = true ∨ tags → Completes .matrixStep s fun t => SameCore s t ∧ t.mx.acc1 = s.mx.acc1 ∧
         t.mx.acc0 = stepAcc s.mx.acc0 (atileOf c.fa r.bufA) (atileOf c.fb rows) (zeroPoint (ftOf c.ft).zpa c.fa (ftOf c.ft).za)
           (zeroPoint (ftOf c.ft).zpb c.fb (ftOf c.ft).zb))) ∧
     (¬held → r.on = false → Completes .matrixStep s fun t => SameCore s t ∧ t.mx.acc0 = s.mx.acc0 ∧
       t.mx.acc1 = s.mx.acc1 ∧ t.mx.bbuf = s.mx.bbuf) ∧
     (r.due = dr :: more → s.drainHeld = true → Completes .swap s fun t => t.mx = s.mx ∧ SameCore s t ∧
       t.planned (s.now + 1) rankRead (.ev .swap)) ∧
     (r.due = dr :: more → s.drainHeld = false → Completes .swap s fun t => t.mx.acc0 = Acc.zero ∧ t.mx.acc1 = s.mx.acc0 ∧
       SameCore s t ∧ (dr = true → t.planned (s.now + 130) rankRead (.ev .drain))) ∧
     (r.next = some d → s.mx.drain = none → s.mx.zero = none → s.mx.dfree ≤ s.now → s.mx.inj = 0 →
       Completes .drain s fun t => t.mx.drain = some { d with d := s.now, acc := s.mx.acc1 } ∧ t.mx.acc0 = s.mx.acc0 ∧
         t.mx.acc1 = s.mx.acc1 ∧ SameCore s t ∧ t.planned (s.now + 72) rankRead (.micro (.drainCheck false)))) ∧
  ((∀ (tau : BitVec 32) (acc : Acc) (el el' : Vector (Vector (BitVec 32) 65) 65) (fixed : Option (Fin 64 × Fin 64)),
     drainCheck tau acc el = .pass el' fixed →
       (fixed = none → el' = el ∧ (∀ n, colCheck tau acc el n = true) ∧ ∀ m, rowCheck tau acc el m = true) ∧
       (∀ m n, fixed = some (m, n) → colCheck tau acc el n = false ∧ rowCheck tau acc el m = false ∧
         colCheck tau acc el' n = true ∧ rowCheck tau acc el' m = true ∧
         ∀ i j : Fin 65, (i.val ≠ m.val ∨ j.val ≠ n.val) → el'[i][j] = el[i][j])) ∧
   (∀ (d : DrainRun) (el : Vector (Vector (BitVec 32) 65) 65) (m n : Fin 64) (rf cf : List (Fin 64)) (s : State),
     s.mx.drain = some d → d.nested = false →
       let t := s.drainChecked false
       let single := (failedRows d.cmd.tau d.acc d.acc.el).length = 1 ∧ (failedCols d.cmd.tau d.acc d.acc.el).length = 1
       let result := drainCheck d.cmd.tau d.acc d.acc.el
       (result = .pass el none → t.mx.corr = s.mx.corr ∧ t.mx.uncorr = s.mx.uncorr ∧ t.mx.acc1 = s.mx.acc1) ∧
       (single → s.now < d.d + 78 → t.planned (d.d + 78) rankRead (.micro (.drainCheck false)) ∧ t.mx = s.mx) ∧
       (result = .pass el (some (m, n)) → d.d + 78 ≤ s.now →
         t.mx.corr.toNat = min (s.mx.corr.toNat + 1) 0xFFFFFFFF ∧ t.mx.uncorr = s.mx.uncorr ∧ t.mx.acc0 = s.mx.acc0 ∧
         ∀ i j : Fin 65, t.mx.acc1.el[i][j] = if i.val = m.val ∧ j.val = n.val then el[i][j] else s.mx.acc1.el[i][j]) ∧
       (result = .fail rf cf → (single → d.d + 78 ≤ s.now) → d.cmd.signals →
         t.mx.uncorr.toNat = min (s.mx.uncorr.toNat + 1) 0xFFFFFFFF ∧ FailsWith s d.cmd 0x24 0 t ∧ t.mx.drain = none ∧
         (¬single → t.mx.acc1 = s.mx.acc1) ∧ (single → rf = [m] → cf = [n] → t.mx.acc1.el =
           setEl m n (correction d.acc.el m n) s.mx.acc1.el))) ∧
   ∀ (d : DrainRun) (k : Nat) (row : Row) (rest : List (Nat × Row)) (s : State), s.mx.drain = some d → d.out = (k, row) :: rest →
     RowStored s.ann.mem (d.sec.val * 0x40000 + (d.row + k) % 512 * 512) row (s.drainWrite false).ann.mem)

/-- COPY_ROW_ISSUE and COPY_ROW_LAND (R262, R268, R270, R272): a row of a CPL is read from its place and lands,
untimed in a later cycle, timed by a write claimed seven cycles on; a landing fills exactly the row's 512 bytes and
counts. A row that another cell asks for or puts is served the same way, or answered with why not. Rows that are ready
together land on a lane by q, then by issue. HBM_BANK_ACCESS, PUT_ACKNOWLEDGEMENT, COMPLETION_TIMEOUT (R274, R275,
R280, R289, R468), of an untimed copy: an access waits for its bank, then a put writes its row into HBM and no other
byte, and a get reads it; an acknowledged row counts, and the last one completes the copy; a request to the host that
stays without completion ends it with 0x38, a saved context's on its resume (R299). -/
def Obligations.CopyRowsMove : Prop :=
  (∀ (e : CopyEnt) (k : Nat) (ec : ECtl) (src : Peer) (lid : BitVec 32) (issued : Nat) (prio : Bool) (idx : BitVec 24) (sec : Fin 8)
     (row : Fin 512) (inner outer : Nat) (guard tchk : Bool) (tag : BitVec 16) (data : Row) (st : FarStatus) (s : State),
     let far : RowSrc := .far src lid issued prio idx k sec row inner outer guard tchk tag
     let own : RowSrc := .own e.cmd.idx k
     let p := e.cmd.srcPlace k
     let d := e.cmd.dstPlace k
     let v := s.peekRow p.1 p.2
     let sends := fun (i : Instr) (r : Row) (st : FarStatus) => Completes i s fun t =>
       t.out = s.out ++ [.served far st r] ∧ t.seq = s.seq ∧ t.ann.mem = s.ann.mem
     let quiet := fun (t : State) => t.seq = { s.seq with writes := t.seq.writes } ∧ (e.failed = none → t.seq = s.seq)
     (s.ent e.cmd.idx = some e → e.cmd.op = .cpl ec →
       (k < e.rows → s.ann.unfenced = [] → e.timed = false → s.accessCode e.cmd p.1 p.2 false = none →
         Completes (.copyRowIssue own) s fun t => t.seq = s.seq ∧ t.ann.mem = s.ann.mem ∧
           t.ent e.cmd.idx = some { e with nissue := k + 1, trans := none, fly := e.fly ++ [k], data := e.data ++ [(k, v)] } ∧
           ∃ cyc, s.now < cyc ∧ t.planned cyc 5 (.ev (.copyRowLand own v .ok))) ∧
       (k < e.rows → s.ann.unfenced = [] → e.timed = true → Completes (.copyRowIssue own) s fun t => t.seq = s.seq ∧
         t.ann.mem = s.ann.mem ∧ t.ent e.cmd.idx = some { e with nissue := k + 1, data := e.data ++ [(k, v)] } ∧
         t.planned (s.now + 7) rankEnd (.micro (.copyClaim e.cmd.idx k true v))) ∧
       (e.timed = true → Completes (.copyRowLand own data st) s fun t => quiet t ∧
         RowStored s.ann.mem (rowAddr d.1 d.2) data t.ann.mem) ∧
       (e.timed = false → farCode st = none → s.accessCode e.cmd d.1 d.2 true = none →
         s.landsAfter d.1 e.cmd.prio (s.valueAt e.cmd.issued) = false →
         (s.laneFree d.1 = true → s.claimOk d.1 s.now true = true → Completes (.copyRowLand own data st) s fun t =>
           quiet t ∧ RowStored s.ann.mem (rowAddr d.1 d.2) data t.ann.mem ∧
           (e.nland + 1 < e.rows → ∃ e', t.ent e.cmd.idx = some e' ∧ e'.nland = e.nland + 1) ∧
           (e.failed = none → e.park = none → e.rows = e.nland + 1 → e.cmd.guards = false →
             t.planned (s.now + 1) rankEnd (.ev (.commandCompletion .cps e.cmd.idx)))) ∧
         (s.laneFree d.1 = false → Completes (.copyRowLand own data st) s fun t => SameCore s t ∧
           t.planned (s.now + 1) 5 (.ev (.copyRowLand own data st))))) ∧
     (s.hl.fenced = true → sends (.copyRowIssue far) 0 .fenced ∧ sends (.copyRowLand far data st) 0 .fenced) ∧
     (s.hl.fenced = false → s.peerHolds lid issued sec = false →
       sends (.copyRowIssue far) 0 .ownership ∧ sends (.copyRowLand far data st) 0 .ownership) ∧
     (s.hl.fenced = false → s.peerHolds lid issued sec = true → s.claimOk sec s.now false = true →
       sends (.copyRowIssue far) (s.peekRow sec row.val) .ok) ∧
     (s.hl.fenced = false → s.peerHolds lid issued sec = true → s.rangeBreak true sec row.val 5 = none →
       s.landsAfter sec prio issued = false → s.laneFree sec = true → s.claimOk sec s.now true = true → guard = false → Completes (.copyRowLand far data .ok) s fun t =>
         t.out = s.out ++ [.served far .ok 0] ∧ t.seq = s.seq ∧ RowStored s.ann.mem (rowAddr sec row.val) data t.ann.mem)) ∧
  (∀ (e : CopyEnt) (k a : Nat) (s : State), s.ent e.cmd.idx = some e → e.timed = false →
     let i := e.cmd.idx
     let data := ((e.data.find? fun p => p.1 = k).map (·.2)).getD 0
     ((e.places.find? fun p => p.1 = k) = some (k, a) →
       (s.bankHeld a = true ∨ s.inSlotMap a = true → Completes (.hbmBankAccess i k) s fun t => SameCore s t ∧ t.cp = s.cp ∧
         t.planned (s.now + 1) rankRead (.ev (.hbmBankAccess i k))) ∧
       (s.bankHeld a = false → s.inSlotMap a = false → e.cmd.isPut = true → Completes (.hbmBankAccess i k) s fun t =>
         SameCore s t ∧ RowStored s.cp.hbm a data t.cp.hbm ∧
         ∃ cyc, s.now < cyc ∧ t.planned cyc 5 (.ev (.putAcknowledgement i k .ok))) ∧
       (s.bankHeld a = false → s.inSlotMap a = false → e.cmd.isPut = false → s.phyOf a = none →
         Completes (.hbmBankAccess i k) s fun t => SameCore s t ∧ t.cp.hbm = s.cp.hbm ∧ ∃ cyc, s.now < cyc ∧
           t.planned cyc 5 (.ev (.copyRowLand (.own i k) (s.cp.hbm.row a)
             (if s.cp.hbmBad.contains (a / 512) then .poisoned else .ok))))) ∧
     (e.nland < e.rows → e.failed = none → Completes (.putAcknowledgement i k .ok) s fun t => SameCore s t ∧
       (e.nland + 1 < e.rows → ∃ e', t.ent i = some e' ∧ e'.nland = e.nland + 1 ∧ e'.nissue = e.nissue) ∧
       (e.rows = e.nland + 1 → e.park = none →
         t.planned (s.now + (if e.cmd.guards then 12 else 0)) rankEnd (.ev (.commandCompletion .cps i)))) ∧
     (e.nland < e.rows → e.nissue ≤ e.nland + 1 → e.failed = none → e.park = none → e.cmd.signals →
       Completes (.putAcknowledgement i k .ownership) s fun t => FailsWith s e.cmd 0x2E 5 t ∧ t.ent i = none ∧
         t.seq = s.seq ∧ t.ann.mem = s.ann.mem) ∧
     (e.park = none → e.cmd.signals → (∃ q ∈ e.reqs, q.2 + Config.pcieTimeout ≤ s.now) → Completes (.completionTimeout i) s fun t =>
       FailsWith s e.cmd 0x38 5 t ∧ t.ent i = none ∧ t.seq = s.seq ∧ t.ann.mem = s.ann.mem) ∧
     (e.park ≠ none → e.failed = none → (∃ q ∈ e.reqs, q.2 + Config.pcieTimeout ≤ s.now) →
       Completes (.completionTimeout i) s fun t => SameCore s t ∧ t.fails = s.fails ∧
         ∃ e', t.ent i = some e' ∧ e'.failed = some (0x38, 5) ∧ e'.park = e.park) ∧
     ((∀ q ∈ e.reqs, s.now < q.2 + Config.pcieTimeout) → Completes (.completionTimeout i) s (· = s)))

/-- TRANSLATION_COMPLETE and ATS_COMPLETION (R287 to R289, R291, R292, R297) for a row that waits for them: a page
gives the row its place, a failing walk stops the copy, a fault pauses it with a record; a walk whose banks are held
waits a cycle; a host translation is cached, and serves the row or is a violation. FAULT_RECORD_READ, PAGE_SERVICED,
PRI_GROUP_RESPONSE (R290 to R294, R447): the oldest record leaves its queue and begins its page's service, which is
passed to the driver as an event of kind 1 with the records merged into it; the answer of a service of a module page
lets a copy paused on the page translate again, or stops it with 0x36, and the driver's command ends with its result
and its vector. The record of kind 5, left out here, is log 14, and when a service is passed is log 58. -/
def Obligations.TranslationsAndPages : Prop :=
  (∀ (e : CopyEnt) (base size frame page : Nat) (rd wr : Bool) (kind : Nat) (pasid : BitVec 20) (w : State) (s : State),
     s.ent e.cmd.idx = some e → e.walking = true → e.paused = false → e.nissue < e.rows →
     let i := e.cmd.idx
     let a := e.cmd.dva e.nissue
     let mine := e.cmd.writes
     let walk := s.walkPage (s.ctxOf e) a mine
     let free := s.walkHeld (s.ctxOf e) a mine = false
     let stops := fun (code : Nat) => e.nissue ≤ e.nland → e.failed = none → e.park = none → e.cmd.signals →
       Completes (.translationComplete i) s fun t => FailsWith s e.cmd code 5 t ∧ t.ent i = none ∧ t.seq = s.seq
     (¬free → Completes (.translationComplete i) s (· = s.plan (s.now + 1) rankRead (.ev (.translationComplete i)))) ∧
     (free → walk = (.page base size frame rd wr none, w) → Completes (.translationComplete i) s fun t => SameCore s t ∧
       t.ent i = some { e with trans := some (.hbm (frame + (a - base))), walking := false, paused := false }) ∧
     (free → walk = (.record kind, w) → kind ≠ 5 → s.cp.faultq.length < 4096 → Completes (.translationComplete i) s fun t =>
       SameCore s t ∧ t.cp.faultq = s.cp.faultq ++ [s.faultRec e kind] ∧
       t.ent i = some { e with paused := true, trans := none, walking := false, wantsRec := none }) ∧
     (free → walk = (.table false, w) → stops 0x35) ∧ (free → walk = (.bad, w) → stops 0x38) ∧
     (rd = true ∨ wr = true → Completes (.atsCompletion pasid page (.granted frame rd wr)) s fun t => SameCore s t ∧
       t.cp.ats.head? = some { pasid := pasid, page := page, frame := frame, rd := rd, wr := wr } ∧
       (∀ x ∈ t.cp.ats.tail, x ∈ s.cp.ats ∧ ¬(x.pasid = pasid ∧ x.page = page)) ∧
       (s.cp.atsWait = [(i, pasid, page)] → hostPage a = page → (if mine then wr else rd) = true → ∃ l, t.ent i = some
         { e with reqs := l, trans := some (.host (frame * 4096 + a % 4096)), walking := false, paused := false })) ∧
     (s.cp.atsWait = [(i, pasid, page)] → hostPage a = page → e.nissue ≤ e.nland → e.failed = none → e.park = none →
       e.cmd.signals → s.seq.writes = [] →
       Completes (.atsCompletion pasid page .unsupported) s fun t => FailsWith s e.cmd 0x34 5 t ∧ t.ent i = none ∧
         t.cp.vladdr = BitVec.ofNat 64 a ∧ fieldNat t.cp.vlinfo 16 8 = 3)) ∧
  (∀ (r : FaultRec) (rest : List FaultRec) (e : CopyEnt) (fn : Fin 9) (dva : Nat) (asid : BitVec 16) (pasid : BitVec 20) (ok : Bool)
     (s : State), s.apex.frozen = none →
     let i := e.cmd.idx
     let a := e.cmd.dva e.nissue
     let waits := s.cp.ents = [e] ∧ e.paused = true ∧ e.wantsRec = none
     let quiet := fun (t : State) => t.seq = { s.seq with writes := t.seq.writes } ∧ (ok = true → t.seq = s.seq)
     let goes := fun (t : State) => t.ent i = some { e with paused := false, trans := none, walking := false }
     let stops := fun (t : State) => e.nissue ≤ e.nland → e.failed = none → e.park = none → e.cmd.signals →
       FailsWith s e.cmd 0x36 5 t ∧ t.ent i = none
     (s.cp.faultq = r :: rest → r.kind ≠ 5 → (∀ x ∈ s.cp.ents, x.wantsRec = none) → s.apex.services = [] →
       Completes .faultRecordRead s fun t => SameCore s t ∧ t.cp.faultq = rest ∧ t.apex.services = [(r.page, r.asid, r.cell, 1)] ∧
         t.apex.events = s.apex.events ∧ ∃ cyc, s.now < cyc ∧ t.planned cyc rankEnd (.micro (.passService r.page r.asid))) ∧
     (∀ n, s.apex.services = [(r.page, r.asid, r.cell, n)] → let t := s.passService r.page r.asid
       SameCore s t ∧ t.apex.services = [] ∧ t.apex.events = s.apex.events ++
         [⟨1, 0, r.cell, 0, s.ax.value, BitVec.ofNat 128 (r.page + r.asid.toNat * 2 ^ 64 + min n 0xFFFF * 2 ^ 80)⟩]) ∧
     (s.apex.boot = .up → s.apex.busy = false → 2 ^ 54 ≤ dva → Completes (.pageServiced fn dva asid (!ok)) s fun t =>
       SameCore s t ∧ t.cp = s.cp ∧ t.apex.busy = false ∧ t.apex.result = 0 ∧ .msix fn.val 0 ∈ t.out) ∧
     (s.apex.boot = .up → s.apex.busy = false → dva < 2 ^ 54 → Completes (.pageServiced fn dva asid (!ok)) s fun t =>
       quiet t ∧ t.ann.mem = s.ann.mem ∧ t.apex.busy = false ∧ t.apex.result = 0 ∧ .msix fn.val 0 ∈ t.out ∧
       (waits → a < 2 ^ 54 → a / 65536 = dva / 65536 → ctxAsid (s.ctxOf e) = asid → if ok then goes t else stops t)) ∧
     (Completes (.priGroupResponse pasid (dva % 2 ^ 54 / 4096) ok) s fun t => quiet t ∧ t.ann.mem = s.ann.mem ∧
       (s.apex.priWait = [] → (pasid, dva % 2 ^ 54 / 4096) ∉ t.apex.pris) ∧
       (waits → 2 ^ 54 ≤ a → hostPage a = dva % 2 ^ 54 / 4096 → s.hostPasid e = pasid →
         if ok then goes t else stops t)))

/-- The invalidations (R295, R296, R447): ATS entries, TLB entries and walk-cache entries of the range go and no
others do; a row in hand under one translates again; the completion is sent once the rows issued under one have
landed, and of the driver's with its result; the entries of the other dies' map units go too. APERTURE_ACCESS, RDMA and REGISTER_WRITE (R446, R451, R105): a byte of
module HBM at APBASE plus the offset, a fault outside the window or the memory; incoming data are written at their
address; what leaves is what the memory holds. No other byte changes. BAR0 reads what stands there, a virtual function
zero for another's queues, and ones until the endpoint accepts accesses (R446, R453). -/
def Obligations.InvalidationsAndHostAccess : Prop :=
  (∀ (fn : Fin 9) (asid : BitVec 16) (pasid : BitVec 20) (dva len page pages : Nat) (v : Inval) (s : State),
     Completes (.atsInvalidation pasid page pages) s (fun t => SameCore s t ∧
       (∀ x, x ∈ t.cp.ats ↔ x ∈ s.cp.ats ∧ ¬(x.pasid = pasid ∧ page ≤ x.page ∧ x.page < page + pages)) ∧
       (∃ u, t.cp.invals = s.cp.invals ++ [u] ∧ u.host = true ∧ u.waits = s.inFlight (s.hostCovers pasid page pages)) ∧
       ∀ x ∈ t.cp.ents, x.timed = false → s.hostCovers pasid page pages x (x.cmd.dva x.nissue) = true → x.trans = none) ∧
     (s.apex.boot = .up → s.apex.busy = false → Completes (.invalidateDeviceTables fn asid dva len) s fun t => SameCore s t ∧
       t.apex.busy = true ∧ t.apex.dfn = fn ∧
       (∀ x, x ∈ t.cp.tlb ↔ x ∈ s.cp.tlb ∧ ¬(x.asid = asid ∧ x.base < dva + len ∧ dva < x.base + x.size)) ∧
       (∀ x, x ∈ t.cp.walks ↔ x ∈ s.cp.walks ∧ ¬(x.asid = asid ∧ x.base < dva + len ∧ dva < x.base + 2 ^ (55 - 13 * x.lvl))) ∧
       (∀ d ∈ t.dies, ∀ x ∈ d.2.tlb, ¬(x.asid = asid ∧ x.base < dva + len ∧ dva < x.base + x.size)) ∧
       (∀ d ∈ t.dies, ∀ x ∈ d.2.walks, ¬(x.asid = asid ∧ x.base < dva + len ∧ dva < x.base + 2 ^ (55 - 13 * x.lvl))) ∧
       (∃ u, t.cp.invals = s.cp.invals ++ [u] ∧ u.host = false ∧ u.waits = s.inFlight (s.deviceCovers asid dva len)) ∧
       ∀ x ∈ t.cp.ents, x.timed = false → s.deviceCovers asid dva len x (x.cmd.dva x.nissue) = true → x.trans = none) ∧
     (s.cp.invals = [v] → v.host = true → s.invalDone v = true → Completes .atsInvalidationComplete s
       (· = { s with cp := { s.cp with invals := [] }, out := s.out ++ [.atsDone] })) ∧
     (s.cp.invals = [v] → v.host = true → s.invalDone v = false → Completes .atsInvalidationComplete s (· = s)) ∧
     (s.cp.invals = [v] → v.host = false → s.invalDone v = true → Completes .invalidationComplete s
       (· = { s with cp := { s.cp with invals := [] }, apex := { s.apex with busy := false, result := 0 },
                     out := s.out ++ [.invalDone, .msix s.apex.dfn.val 0] })) ∧
     (s.cp.invals = [v] → v.host = false → s.invalDone v = false → Completes .invalidationComplete s (· = s))) ∧
  (∀ (off addr : Nat) (b : Byte) (l : List Byte) (num : BitVec 12) (fn : Fin 9) (v : Word) (s : State),
     let a := s.apex.apbase.toNat + off
     let inside := off < 2 ^ 32 ∧ a < Config.hbmBytes
     let stored := fun (a : Nat) (l : List Byte) (t : State) => t = { s with cp := { s.cp with hbm := t.cp.hbm } } ∧
       (∀ k < l.length, some (t.cp.hbm.get (a + k)) = l[k]?) ∧ ∀ x, x < a ∨ a + l.length ≤ x → t.cp.hbm.get x = s.cp.hbm.get x
     let held := (List.range l.length).map fun k => s.cp.hbm.get (addr + k)
     (inside → Completes (.apertureAccess true off b) s (stored a [b]) ∧
       Completes (.apertureAccess false off b) s (· = { s with out := s.out ++ [.aperture off (s.cp.hbm.get a)] })) ∧
     (¬inside → ∀ w, exec (.apertureAccess w off b) s = .fault .apertureOutside) ∧
     (addr + l.length ≤ Config.hbmBytes → Completes (.rdmaWrite true addr l) s (stored addr l)) ∧
     Completes (.rdmaWrite false addr l) s (· = { s with out := s.out ++ [.rdma 0 addr held] }) ∧
     Completes (.rdmaRead .served addr l.length) s (· = { s with out := s.out ++ [.rdma 1 addr held] }) ∧
     Completes (.rdmaRead .posted addr l.length) s (· = { s with out := s.out ++ [.rdma 4 addr []] }) ∧
     (addr + l.length ≤ Config.hbmBytes → Completes (.rdmaRead (.answer l) addr l.length) s (stored addr l) ∧
       Completes (.rdmaSend true { addr := addr, data := l }) s (stored addr l)) ∧
     Completes (.rdmaSend false { addr := addr, data := l }) s (· = { s with out := s.out ++ [.rdma 2 addr held] }) ∧
     Completes (.registerWrite .sys (num.setWidth 16) v) s (· = if (s.sysAccess num).isSome then s.sysLand num v else s) ∧
     (s.apex.boot = .up →
       Completes (.registerWrite (.bar fn) 0x820 v) s (· = { s with apex := { s.apex with apbase := v } }) ∧
       Completes (.registerWrite (.barRead fn) 0x820 v) s (· = { s with out := s.out ++ [.bar fn 0x820 s.apex.apbase] }) ∧
       (∀ q : Fin 64, fn ≠ 0 → (s.apex.queues[q]).vf ≠ fn.val → let off : BitVec 16 := BitVec.ofNat 16 (32 * q.val)
         Completes (.registerWrite (.barRead fn) off v) s (· = { s with out := s.out ++ [.bar fn off.toNat 0] }) ∧
         Completes (.registerWrite (.bar fn) off v) s (· = s))) ∧
     (s.apex.boot ≠ .up → Completes (.registerWrite (.barRead fn) (num.setWidth 16) v) s
       (· = { s with out := s.out ++ [.bar fn num.toNat (BitVec.allOnes 64)] })))

/-- ATOM_REQUEST and REPLAY_ENTRY_EXPIRY (R322, R323): a request that a replay table holds is answered with the
recorded word and performed no second time; a retry at or below its source's floor, or too old, is stale; another acts
once on its word, on a semaphore after the bundle of its cycle, the old word is recorded and answered, and no other
byte changes; entries of 2^22 cycles or more go and raise the floors. ATOM_RESPONSE, ATOM_TIMEOUT, FABRIC_PATH_LOST
(R324): the result word is written and the command completes in the next cycle, or fails with the code answered, 0x3A
if stale; with no response in 2^21 cycles, or its path lost, it fails with 0x39 and stands in the unknown table. A
response to an ATOM that has ended is discarded. The code for another launch's semaphore is log 35. -/
def Obligations.AtomsActOnce : Prop :=
  (∀ (r : AtomReq) (x : ReplayEnt) (s : State),
     let tab := (s.atomTab r).expire s.absc
     let found := tab.ents.find? fun e => e.lid = r.lid && e.src = r.src && e.seq = r.seq
     let answers := fun (e : AtomEnd) (t : State) =>
       if s.asked r = true then ∃ cyc, s.now < cyc ∧ t.planned cyc 5 (.ev (.atomResponse r.idx e))
       else .atomAns r e ∈ t.out
     let idle := fun (t : State) => SameCore s t ∧ t.cp.hbm = s.cp.hbm ∧ t.cp.ents = s.cp.ents ∧ t.atomTab r = tab
     let stale := r.retry = true ∧ (r.t0 + 2 ^ 22 ≤ s.absc ∨ r.t0 ≤ tab.floorOf r.lid r.src)
     let recorded := fun (old : Word) (t : State) => answers (.done old) t ∧
       { lid := r.lid, src := r.src, seq := r.seq, t0 := r.t0, result := old : ReplayEnt } ∈ (t.atomTab r).ents
     let stored := fun (m : Memory) (a : Nat) (v : Word) (m' : Memory) =>
       (∀ k < 8, m'.get (a + k) = byteOf v.toNat k) ∧ ∀ b, b < a ∨ a + 8 ≤ b → m'.get b = m.get b
     let at_ := rowAddr r.sec r.row.val + 8 * r.word.val
     let word := fun (m : Memory) (a : Nat) => (BitVec.ofNat 64 (m.readNat a 8) : Word)
     (found = some x → Completes (.atomRequest r) s fun t => idle t ∧ answers (.done x.result) t) ∧
     (found = none → stale → Completes (.atomRequest r) s fun t => idle t ∧ answers .stale t) ∧
     (found = none → ¬stale → r.kind = .cell → s.hl.fenced = false → s.peerHolds r.lid r.issued r.sec = true →
       s.rangeBreak true r.sec r.row.val 5 = none → s.claimOk r.sec s.now false = true → s.claimOk r.sec s.now true = true →
       at_ / 8 ∉ s.ann.poison → Completes (.atomRequest r) s fun t => recorded (word s.ann.mem at_) t ∧ t.seq = s.seq ∧
         stored s.ann.mem at_ (atomResult r.op (word s.ann.mem at_) r.v r.cmp) t.ann.mem) ∧
     (found = none → ¬stale → r.kind = .hbm → s.bankHeld r.addr = false → s.inSlotMap r.addr = false →
       r.addr / 512 ∉ s.cp.hbmBad → Completes (.atomRequest r) s fun t => recorded (word s.cp.hbm r.addr) t ∧ SameCore s t ∧
         stored s.cp.hbm r.addr (atomResult r.op (word s.cp.hbm r.addr) r.v r.cmp) t.cp.hbm) ∧
     (found = none → ¬stale → r.kind = .sem → s.hl.fenced = false → s.lid = r.lid → s.phase = .pre →
       Completes (.atomRequest r) s fun t => idle t ∧ t.planned s.now rankEnd (.ev (.atomRequest r))) ∧
     (found = none → ¬stale → r.kind = .sem → s.hl.fenced = false → s.lid = r.lid → s.phase = .post → (∀ i ∈ s.incs, i.sem ≠ r.sem) →
       Completes (.atomRequest r) s fun t => SameCore s t ∧ (∃ i : Inc, t.incs = s.incs ++ [i] ∧ i.sem = r.sem ∧ i.n = r.v.toNat % 2 ^ 36) ∧
         recorded (BitVec.ofNat 64 ((s.sems[r.sem]).cnt.toNat + if (s.sems[r.sem]).err then 2 ^ 36 else 0)) t) ∧
     (found = none → ¬stale → s.hl.fenced = true → r.kind ≠ .hbm → Completes (.atomRequest r) s fun t => idle t ∧
       answers (.failed 0x37) t) ∧
     Completes .replayEntryExpiry s (fun t => SameCore s t ∧ t.cp.hbm = s.cp.hbm ∧
       (∀ e, e ∈ t.cp.cellTab.ents ↔ e ∈ s.cp.cellTab.ents ∧ s.absc < e.t0 + 2 ^ 22) ∧
       ∀ e ∈ s.cp.cellTab.ents, e.t0 + 2 ^ 22 ≤ s.absc → e.t0 ≤ t.cp.cellTab.floorOf e.lid e.src)) ∧
  (∀ (e : CopyEnt) (ec : ECtl) (op : AtomOp) (kind : AtomKind) (b : Bool) (v : Word) (code : BitVec 8) (sent key : Nat)
     (idx : BitVec 24) (r : AtomEnd) (s : State), s.ent e.cmd.idx = some e → e.cmd.op = .atom ec op kind b → e.sent = some sent →
     e.places = [(0, key)] → e.cmd.signals →
     let c := e.cmd
     let fails := fun (i : Instr) (code : Nat) => Completes i s fun t => FailsWith s c code 5 t ∧ t.ent c.idx = none ∧
       t.seq = s.seq ∧ t.ann.mem = s.ann.mem
     let lost := fun (i : Instr) => Completes i s fun t => FailsWith s c 0x39 5 t ∧ t.ent c.idx = none ∧
       (key, bitsOf c.xs[3] 0 16, e.t0) ∈ t.cp.unknown ∧ t.seq = s.seq ∧ t.ann.mem = s.ann.mem
     (s.cmdHolds c c.resSec = true → s.rangeBreak true c.resSec c.resRow 5 = none → s.claimOk c.resSec s.now true = true →
       Completes (.atomResponse c.idx (.done v)) s fun t => t.seq = s.seq ∧ t.ent c.idx = some { e.landed 0 with sent := none, nland := 1 } ∧
         t.planned (s.now + 1) rankEnd (.ev (.commandCompletion .cps c.idx)) ∧
         (∀ k < 8, t.ann.mem.get (c.resAddr + k) = byteOf v.toNat k) ∧
         ∀ a, a < c.resAddr ∨ c.resAddr + 8 ≤ a → t.ann.mem.get a = s.ann.mem.get a) ∧
     (s.cmdHolds c c.resSec = false → fails (.atomResponse c.idx (.done v)) 0x2E) ∧
     fails (.atomResponse c.idx .stale) 0x3A ∧ fails (.atomResponse c.idx (.failed code)) code.toNat ∧
     (sent + 2 ^ 21 ≤ s.now → lost (.atomTimeout c.idx)) ∧ (s.now < sent + 2 ^ 21 → Completes (.atomTimeout c.idx) s (· = s)) ∧
     lost (.fabricPathLost c.idx) ∧ (s.ent idx = none → Completes (.atomResponse idx r) s (· = s)))

/-- Messages that arrive (R377 to R382, R385): one whose seal, form, place or sender does not fit is a cause with code 4;
a valid heartbeat of the period counts, and clears the misses in an open window, one of another period only counts
towards the rate; a second heartbeat of a period is a cause with code 3, and so is the 17th message of another kind; a
silent cell and an absent side take nothing. FENCE_NOTICE (R384 to R387): one that names this cell fences it: no command
stays, and the sequencer restarts at 0x7000 with TEPC, TCAUSE and TINFO unchanged; one that names a neighbour that is
HEALTHY, SUSPECT, ACCUSED or READMITTED closes its side; of any other cell only the fence map may change. LIFT_NOTICE
(R384, R395, R396): of this cell it is kept until the domain's boundary; of another it clears the map, and the cell's
ports reopen at that boundary. -/
def Obligations.PerimeterMessages : Prop :=
  (∀ (side : Fin 4) (m : BitVec 256) (s : State),
     let r := s.hl.sides[side]
     let all := [(1, Instr.heartbeat side m), (2, .accusation side m), (3, .appealMessage side m), (4, .readmissionVote side m),
       (5, .fenceNotice side m), (6, .liftNotice side m)]
     let suspects := fun (code : BitVec 3) (t : State) => t.hl.sides[side].st = .suspect ∧
       t.hl.sides[side].cause = code ∧ t.hl.sides[side].own = true ∧ t.hl.sides[side].win = some (s.now + 16383)
     let suspect := fun (i : Instr) (code : BitVec 3) => Completes i s fun t => suspects code t ∧ SameCore s t
     let about := (msgField m 96 5, msgField m 101 5)
     let takes := s.hl.silent = false ∧ r.st ≠ .absent
     let votes := r.st = .healthy ∧ 2 ≤ s.voteN side
     (∀ p ∈ all, s.hl.silent = true ∨ r.st = .absent → Completes p.2 s (· = s)) ∧
     (∀ p ∈ all, takes → votes → r.nhb ≠ 1 → r.nmsg ≠ 16 → s.msgValid side m p.1 = false → suspect p.2 4) ∧
     (∀ p ∈ all, takes → votes → s.msgValid side m p.1 = false → Completes p.2 s fun t =>
       t.hl.sides[side].st = .suspect ∧ t.hl.sides[side].own = true ∧ SameCore s t) ∧
     (takes → r.nhb ≠ 1 → s.msgValid side m 1 = true →
       (msgField m 24 32 = s.absc / 4096 % 2 ^ 32 → Completes (.heartbeat side m) s fun t => SameCore s t ∧
         t.hl.sides[side].heard = true ∧ t.hl.sides[side].hbc = BitVec.ofNat 32 (s.absc / 4096) ∧
         t.hl.sides[side].miss = (if r.win.isSome then 0 else r.miss) ∧ t.hl.sides[side].st = r.st ∧
         ∀ k, k ≠ side → t.hl.sides[k] = s.hl.sides[k]) ∧
       (msgField m 24 32 ≠ s.absc / 4096 % 2 ^ 32 → Completes (.heartbeat side m) s fun t => SameCore s t ∧
         t.hl.sides[side] = { r with nhb := r.nhb + 1 } ∧ ∀ k, k ≠ side → t.hl.sides[k] = s.hl.sides[k])) ∧
     (takes → votes → r.nhb = 1 → s.msgValid side m 1 = true → suspect (.heartbeat side m) 3) ∧
     (takes → votes → r.nmsg = 16 →
       (s.msgValid side m 2 = true → about ≠ s.suspect side → suspect (.accusation side m) 3) ∧
       (s.msgValid side m 3 = true → suspect (.appealMessage side m) 3) ∧
       (s.msgValid side m 4 = true → suspect (.readmissionVote side m) 3) ∧
       (s.msgValid side m 5 = true → about ≠ s.suspect side → Completes (.fenceNotice side m) s (suspects 3)) ∧
       (s.msgValid side m 6 = true → suspect (.liftNotice side m) 3) ∧
       (s.msgValid side m 2 = true → about = s.suspect side → Completes (.accusation side m) s fun t =>
         t.hl.sides[side].cause = 3 ∧ (t.hl.sides[side].st = .suspect ∨ t.hl.sides[side].st = .fenced) ∧ SameCore s t) ∧
       (s.msgValid side m 5 = true → about = s.suspect side → Completes (.fenceNotice side m) s fun t =>
         t.hl.sides[side].st = .fenced ∧ t.hl.sides[side].feff = s.ax.value ∧ SameCore s t))) ∧
  (∀ (side i : Fin 4) (m : BitVec 256) (s : State), s.hl.silent = false → s.hl.sides[side].st ≠ .absent →
     s.hl.sides[side].nmsg ≠ 16 →
     let c := (msgField m 96 5, msgField m 101 5)
     let others := fun (t : State) => ∀ d, d ≠ c → (d ∈ t.hl.fmap ↔ d ∈ s.hl.fmap)
     (s.msgValid side m 5 = true → s.hl.fenced = false → c = s.phys → Completes (.fenceNotice side m) s fun t =>
       t.hl.fenced = true ∧ t.hl.self = false ∧ t.seq.pc = 0x7000 ∧ t.seq.mode = .supervisor ∧ t.seq.regs = s.seq.regs ∧
       t.sys.tepc = s.sys.tepc ∧ t.sys.tcause = s.sys.tcause ∧ t.sys.tinfo = s.sys.tinfo ∧ t.mx.array = none ∧ t.mx.drain = none ∧
       t.mx.q.normal = [] ∧ t.cp.ents = [] ∧ t.sh.cvs = none ∧ t.tm.send = none ∧ t.fails = s.fails ∧ t.incs = s.incs ∧
       t.ann.mem = s.ann.mem) ∧
     (s.msgValid side m 5 = true → s.hl.fenced = true → c = s.phys → Completes (.fenceNotice side m) s fun t =>
       t.hl.fenced = true ∧ t.hl.fmap = s.hl.fmap ∧ SameCore s t) ∧
     (s.msgValid side m 5 = true → c ≠ s.phys → sideTo s.phys c = some i →
       (s.hl.sides[i].st = .healthy ∨ s.hl.sides[i].st = .suspect ∨ s.hl.sides[i].st = .accused ∨ s.hl.sides[i].st = .readmitted →
         Completes (.fenceNotice side m) s fun t => t.hl.sides[i].st = .fenced ∧ t.hl.sides[i].feff = s.ax.value ∧ c ∈ t.hl.fmap ∧
           others t ∧ t.hl.fenced = s.hl.fenced ∧ SameCore s t) ∧
       (s.hl.sides[i].st = .fenced ∨ s.hl.sides[i].st = .appealing ∨ s.hl.sides[i].st = .absent → Completes (.fenceNotice side m) s fun t =>
         t.hl.sides[i].st = s.hl.sides[i].st ∧ c ∈ t.hl.fmap ∧ others t ∧ t.hl.fenced = s.hl.fenced ∧ SameCore s t)) ∧
     (s.msgValid side m 5 = true → c ≠ s.phys → sideTo s.phys c = none → Completes (.fenceNotice side m) s fun t =>
       (∀ k : Fin 4, t.hl.sides[k].st = s.hl.sides[k].st) ∧ (meshDist s.phys c ≤ 2 → c ∈ t.hl.fmap) ∧ others t ∧
       t.hl.fenced = s.hl.fenced ∧ SameCore s t) ∧
     (s.msgValid side m 6 = true → c = s.phys → Completes (.liftNotice side m) s fun t =>
       (s.hl.fenced = true → t.hl.lifted = true ∧ t.hl.apl = none) ∧ (s.hl.fenced = false → t.hl.lifted = s.hl.lifted) ∧
       t.hl.fenced = s.hl.fenced ∧ t.hl.fmap = s.hl.fmap ∧ SameCore s t) ∧
     (s.msgValid side m 6 = true → c ≠ s.phys → Completes (.liftNotice side m) s fun t => c ∉ t.hl.fmap ∧ c ∈ t.hl.lifting ∧
       others t ∧ t.hl.fenced = s.hl.fenced ∧ SameCore s t))

/-- The vote (R383 to R388, R395, R396), by valid messages of a side within its rate: a first accusation opens a
window as ACCUSED; a new voter's that makes the majority fences the side; an appeal whose signature fits opens a
window as APPEALING, and a new vote that makes the majority readmits the side, which a cause of the same cycle fences
again (R385); no message reopens a fence by itself.
What the perimeter unit does by itself (R380, R384 to R388, R394, R395, R399): the heartbeats it sends, misses at a
period's end, the third of which is a cause with code 1, the end of a window without a majority, the end of the grace,
readmitted sides and lifted fences at a boundary, from which launches may be placed there again and after whose
period the cell's heartbeats resume, an appeal's end, and a cell that falls silent. Periods at counter
multiples are log 36. -/
def Obligations.PerimeterVotes : Prop :=
  (∀ (side i : Fin 4) (m : BitVec 256) (v : Nat × Nat) (s : State), s.hl.silent = false → s.hl.fenced = false →
     s.hl.sides[side].st ≠ .absent → s.hl.sides[side].nmsg ≠ 16 →
     let r := s.hl.sides[i]
     let about := sideTo s.phys (ringParts m).1 = some i ∧ ringVoter m = some v ∧ v ≠ s.phys ∧ v ∉ s.hl.fmap
     let majority := s.voteN i / 2 + 1
     let votes := r.voters.length + (if r.own then 1 else 0)
     let opened := ∃ e ∈ r.win, s.now ≤ e
     let becomes := fun (j : Instr) (p : SideRec → Prop) => Completes j s fun t => p t.hl.sides[i] ∧ SameCore s t
     (s.msgValid side m 2 = true → about →
       (r.st = .healthy → 2 ≤ majority → becomes (.accusation side m) fun x =>
         x.st = .accused ∧ x.own = false ∧ x.voters = [v] ∧ x.win = some (s.now + 16383)) ∧
       (r.st = .suspect ∨ r.st = .accused → opened → v ∉ r.voters → votes + 1 < majority →
         becomes (.accusation side m) fun x => x.st = r.st ∧ x.voters = v :: r.voters) ∧
       (r.st = .suspect ∨ r.st = .accused → opened → v ∉ r.voters → majority ≤ votes + 1 →
         becomes (.accusation side m) fun x => x.st = .fenced ∧ x.feff = s.ax.value ∧ x.win = none ∧ x.voters = [] ∧
           x.grace = some (s.now + 4096)) ∧
       (r.st = .suspect ∨ r.st = .accused → ¬opened → votes < majority → becomes (.accusation side m) fun x => x = { r with nmsg := x.nmsg }) ∧
       (r.st = .fenced ∨ r.st = .readmitted ∨ r.st = .appealing → becomes (.accusation side m) fun x => x.st = r.st)) ∧
     (s.msgValid side m 3 = true → i = side →
       (r.st = .fenced → msgField m 96 32 = fieldNat s.hl.pmifsig 0 32 → s.refuses side = false →
         2 ≤ majority → becomes (.appealMessage side m) fun x => x.st = .appealing ∧ x.own = true ∧ x.voters = [] ∧
           x.win = some (s.now + 16383)) ∧
       (r.st = .fenced → msgField m 96 32 ≠ fieldNat s.hl.pmifsig 0 32 →
         becomes (.appealMessage side m) fun x => x.st = .fenced)) ∧
     (s.msgValid side m 4 = true → about →
       (r.st = .appealing → opened → v ∉ r.voters → majority ≤ votes + 1 →
         (r.late ≠ some s.now → becomes (.readmissionVote side m) fun x =>
           x.st = .readmitted ∧ x.win = none ∧ x.grants.head? = some s.absc) ∧
         (r.late = some s.now → becomes (.readmissionVote side m) fun x => x.st = .fenced ∧ x.feff = s.ax.value)) ∧
       (r.st ≠ .appealing → becomes (.readmissionVote side m) fun x => x.st = r.st))) ∧
  (∀ (i : Fin 4) (s : State),
     let r := s.hl.sides[i]
     let side := fun (j : Instr) (p : SideRec → Prop) => Completes j s fun t => p t.hl.sides[i] ∧ SameCore s t
     (s.hl.fenced = true → Completes .heartbeatSend s (· = s)) ∧
     (s.absc / 4096 < s.hl.hbFrom → Completes .heartbeatSend s (· = s)) ∧
     (s.hl.hbFrom ≤ s.absc / 4096 → s.hl.fenced = false → s.hl.silent = false → s.phys.1 < 32 → s.phys.2 < 24 → Completes .heartbeatSend s fun t => t = { s with out := t.out } ∧
       (t.out.length = s.out.length + (presentSides s.phys).length) ∧ t.out.take s.out.length = s.out ∧
       ∀ x ∈ t.out.drop s.out.length, ∃ k ∈ presentSides s.phys, ∃ m, x = .perimeter k m ∧ msgField m 0 4 = 1 ∧
         msgField m 24 32 = s.absc / 4096 % 2 ^ 32) ∧
     ((∀ k : Fin 4, s.hl.sides[k].quiet = false) → 8192 ≤ s.absc → r.st ≠ .absent →
       (r.heard = true → side .periodEnd fun x => x.miss = 0 ∧ x.heard = false ∧ x.nhb = 0 ∧ x.nmsg = 0 ∧ x.st = r.st) ∧
       (r.heard = false → r.miss < 2 → side .periodEnd fun x =>
         x.miss = r.miss + 1 ∧ x.nhb = 0 ∧ x.nmsg = 0 ∧ x.st = r.st) ∧
       (r.heard = false → r.miss = 2 → Completes .periodEnd s fun t => t.hl.sides[i].miss = 3 ∧ t.hl.sides[i].quiet = true ∧
         t.hl.sides[i].st = r.st ∧ SameCore s t ∧ t.planned s.now rankWriteback (.ev .periodEnd))) ∧
     (r.quiet = true → (∀ k, k ≠ i → s.hl.sides[k].quiet = false) → r.st = .healthy → 2 ≤ s.voteN i → side .periodEnd fun x =>
       x.st = .suspect ∧ x.cause = 1 ∧ x.own = true ∧ x.quiet = false ∧ x.win = some (s.now + 16383)) ∧
     (∀ e, r.win = some e → s.now ≤ e → Completes (.voteWindowEnd i) s (· = s)) ∧
     (∀ e, r.win = some e → e < s.now →
       (r.st = .suspect → r.miss ≠ 3 → r.again = false → side (.voteWindowEnd i) fun x => x.st = .healthy ∧ x.win = none) ∧
       (r.st = .accused → side (.voteWindowEnd i) fun x => x.st = .healthy ∧ x.win = none ∧ x.voters = []) ∧
       (r.st = .appealing → side (.voteWindowEnd i) fun x => x.st = .fenced ∧ x.win = none ∧ x.voters = [])) ∧
     side (.fenceGraceEnd i) (fun x => x = if r.grace.any (fun e => e ≤ s.now) then { r with grace := none } else r) ∧
     side .domainBoundary (fun x => if r.st = .readmitted then x.st = .healthy ∧ x.miss = 0 else x = r) ∧
     (s.hl.fenced = true → s.hl.lifted = true → Completes .domainBoundary s fun t => t.hl.fenced = false ∧ t.hl.self = false ∧
       t.hl.readm = (s.absc :: s.hl.readm).take 2 ∧ t.hl.hbFrom = s.absc / 4096 + 1 ∧ s.phys ∉ t.apex.fences) ∧
     (r.st = .readmitted → Completes .domainBoundary s fun t => s.suspect i ∉ t.apex.fences) ∧
     Completes .domainBoundary s (fun t => t.hl.lifting = [] ∧ (∀ c ∈ s.hl.lifting, c ∉ t.apex.fences) ∧
       ∀ c ∈ t.apex.fences, c ∈ s.apex.fences) ∧
     (s.hl.lifted = false → Completes .domainBoundary s fun t => t.hl.fenced = s.hl.fenced) ∧
     (∀ e, s.hl.apl = some e → e ≤ s.now → Completes .appealExpiry s (· = { s with hl := { s.hl with apl := none } })) ∧
     Completes .cellFallsSilent s fun t => t.hl.silent = true ∧ t.seq.run = .stopped ∧ t.mx.array = none ∧ t.cp.ents = [] ∧
       t.ann.mem = s.ann.mem ∧ ∀ k c b (j : Fin 4), (t.sendMsg k c b j).out = t.out)

/-- IFST_COMPLETE and SPARE_FLASH_WRITE (R395, R397, R398, R415): the test leaves sectors, tiles and semaphores zero and
the masks all ones, and passes exactly when its signature is the expected one, whatever that is; a failed one reports
each launch that ran; the flash takes the map handed over, with an event of kind 8. The test's signature is a free
value, log 7. -/
def Obligations.SelfTestAndSpareFlash : Prop :=
  ∀ (e : Nat) (w : Word) (s : State),
    (s.hl.tend = some e → e ≤ s.now → Completes .ifstComplete s fun t => t.hl.tend = none ∧ t.hl.tdone = true ∧
      (t.hl.tpass = true ↔ t.hl.tsig.toNat = fieldNat s.hl.pmifsig 0 32) ∧ t.ann.mem = [] ∧ t.ann.poison = [] ∧
      (∀ k : Fin 128, t.seq.tiles[k] = 0) ∧ (∀ k : Fin 4, t.seq.maskRow[k] = 0xFFFF ∧ t.sh.slots[k] = none) ∧
      (∀ k : Fin 256, t.sems[k] = Sem.zero) ∧ t.mx.acc0 = Acc.zero ∧ t.mx.acc1 = Acc.zero ∧ t.seq.regs = s.seq.regs ∧
      (t.hl.tpass = true → t.hl.pmlast = s.ax.value ∧ t.hl.ran = [] ∧ t.apex.events = s.apex.events) ∧
      (t.hl.tpass = false → t.hl.pmlast = s.hl.pmlast ∧ t.apex.events.length = s.apex.events.length + s.hl.ran.length ∧
        ∀ x ∈ t.apex.events.drop s.apex.events.length, x.kind = 3 ∧ ∃ y ∈ s.hl.ran, x.lid = y.1)) ∧
    (s.hl.tend = some e → s.now < e → Completes .ifstComplete s (· = s)) ∧
    (s.hl.spareBusy = some w → Completes .spareFlashWrite s fun t => SameCore s t ∧
      t.hl = { s.hl with spareFlash := w, spareBusy := none } ∧ ∃ x : EventRec, t.apex.events = s.apex.events ++ [x] ∧ x.kind = 8 ∧
        x.data = w.setWidth 128) ∧
    (s.hl.spareBusy = none → Completes .spareFlashWrite s (· = s))

/-- QUEUE_DOORBELL, QUEUE_FETCH, ENABLE_QUEUE and RESET_QUEUE (R403 to R405, R447): a tail in range asks for a fetch, one
beyond the ring stands the queue in ERROR; a fetch takes the packet at the head into the heap and moves the head; one
that cannot be read parks the queue with an event of kind 5; a DISABLED queue becomes ACTIVE, an ERROR one DISABLED
and empty. COND, LOOP_NODE, LOOP_NODE_REREAD, SWITCH (R408, R409) on an entry that is due, its queue word read as v:
the chain that v names runs, a loop's body once whatever v is and then again while the word read anew is not 0, or the
loop ends; a word that cannot be read and a SWITCH beyond its table end the node with 0x0208. A chain packet that cannot be read, left out here, is log 14. -/
def Obligations.QueuesAndNodes : Prop :=
  (∀ (q : Fin 64) (tail : BitVec 32) (fn : Fin 9) (b kind : Nat) (s : State), s.apex.boot = .up → s.apex.frozen = none →
     let d := s.apex.queues[q]
     let others := fun (t : State) => ∀ k, k ≠ q → t.apex.queues[k] = s.apex.queues[k]
     let asks := fun (t : State) => ∃ x ∈ t.agenda, x.act = .ev (.queueFetch q none none)
     let bell := fun (d' : QueueDesc) (p : State → Prop) => Completes (.queueDoorbell q tail) s fun t =>
       t.apex.queues[q] = d' ∧ others t ∧ SameCore s t ∧ p t
     let idle := fun (_ : State) => True
     (d.st ≠ .active → bell { d with tail := tail } idle) ∧
     (d.st = .active → (tail - d.head).toNat ≤ 2 ^ d.lgsz → bell { d with tail := tail } asks) ∧
     (d.st = .active → 2 ^ d.lgsz < (tail - d.head).toNat → bell { d with tail := tail, st := .error } idle) ∧
     (d.st = .active → d.head ≠ d.tail → s.chainNode q = none → s.queuePlace d d.nextDva false = .at_ (.hbm b) →
       Completes (.queueFetch q none none) s fun t => t.apex.queues[q] = { d with head := d.head + 1 } ∧ others t ∧
         t.apex.nextId = s.apex.nextId + 1 ∧ SameCore s t ∧
         ∃ e ∈ t.apex.heap, e.id = s.apex.nextId ∧ e.q = q ∧ e.node = none ∧
           e.stag = BitVec.ofNat 32 (pktField (BitVec.ofNat 1024 (s.cp.hbm.readNat b 128)) 4 4)) ∧
     (d.st = .active → d.head ≠ d.tail → s.chainNode q = none → s.queuePlace d d.nextDva false = .fault kind →
       Completes (.queueFetch q none none) s fun t => t.apex.queues[q] = { d with st := .fetchFaulted } ∧ others t ∧ SameCore s t ∧
         ∃ x : EventRec, t.apex.events = s.apex.events ++ [x] ∧ x.kind = 5 ∧ x.queue = BitVec.ofNat 8 q.val) ∧
     (d.st = .active → d.head = d.tail → s.chainNode q = none → Completes (.queueFetch q none none) s (· = s)) ∧
     (s.apex.busy = false → fn = 0 ∨ d.vf = fn.val →
       (d.st = .disabled → d.dies &&& ~~~(s.apex.partition d.vf) = 0 → (d.tail - d.head).toNat ≤ 2 ^ d.lgsz →
         Completes (.enableQueue fn q) s fun t => t.apex.queues[q] = { d with st := .active } ∧ others t ∧ asks t ∧
           CommandEnded fn 0 t ∧ SameCore s t) ∧
       (d.dies &&& ~~~(s.apex.partition d.vf) ≠ 0 → Completes (.enableQueue fn q) s fun t => t.apex.queues = s.apex.queues ∧
         CommandEnded fn 4 t ∧ SameCore s t) ∧
       (d.st = .error → Completes (.resetQueue fn q) s fun t =>
         t.apex.queues[q] = { d with st := .disabled, head := d.tail } ∧ others t ∧ CommandEnded fn 0 t ∧ SameCore s t)) ∧
     (s.apex.busy = false → fn ≠ 0 → d.vf ≠ fn.val →
       (Completes (.enableQueue fn q) s fun t => t.apex.queues = s.apex.queues ∧ CommandEnded fn 3 t) ∧
       Completes (.resetQueue fn q) s fun t => t.apex.queues = s.apex.queues ∧ CommandEnded fn 3 t)) ∧
  (∀ (id : Nat) (e : HeapEnt) (w a b : Nat) (n m v c x : Nat) (s : State), s.apex.frozen = none → s.heapEnt id = some e → e.done = none →
     e.depth ≤ 8 →
     let d := s.apex.queues[e.q]
     let runs := fun (i : Instr) (dva n : Nat) => n ≠ 0 → Completes i s fun t => SameCore s t ∧
       t.heapEnt id = some { e with st := .running, chain := some (dva, n), runs := e.runs + 1 } ∧
       ∃ y ∈ t.agenda, y.act = .ev (.queueFetch e.q none none)
     let ends := fun (i : Instr) (status : BitVec 16) => Completes i s fun t => SameCore s t ∧ EntryDone s id status 0 0 t ∧
       t.planned s.now rankEnd (.ev (.packetCompletion id))
     (e.st = .waiting → e.body = .cond w a b n m →
       (s.queueWord d w = some v → v ≠ 0 → runs (.cond id) a n) ∧ (s.queueWord d w = some 0 → runs (.cond id) b m) ∧
       (s.queueWord d w = none → ends (.cond id) 0x0208)) ∧
     (e.st = .waiting → e.body = .loop w a n m →
       (s.queueWord d w = some v → runs (.loopNode id) a n) ∧
       (s.queueWord d w = none → ends (.loopNode id) 0x0208)) ∧
     (e.st = .running → s.apex.chainDone e = true → e.body = .loop w a n m →
       (s.queueWord d w = some v → v ≠ 0 → e.runs < m → runs (.loopNodeReread id) a n) ∧
       (s.queueWord d w = some v → v = 0 ∨ m ≤ e.runs → ends (.loopNodeReread id) 0)) ∧
     (e.st = .waiting → e.body = .switch w a n → s.queueWord d w = some v →
       (v < n → s.queueWord d (a + 16 * v) = some x → s.queueWord d (a + 16 * v + 8) = some c → c ≤ 4096 → x % 128 = 0 →
         runs (.switch id) x c) ∧
       (n ≤ v → ends (.switch id) 0x0208)))

/-- SIGNAL, FENCE, the completion record and the event queue (R411 to R413, R415, R446): a SIGNAL writes its eight bytes
or sends its vector and ends; a FENCE ends once the packets it waits for have; the 32 bytes of a record are written,
its vector follows, and the entry is gone; an event record takes its place in the ring while there is room. That FENCE
holds back no later packet, and records for the host leave as host writes, is log 14. -/
def Obligations.PacketsEnd : Prop :=
  ∀ (id : Nat) (e : HeapEnt) (a x vec : Nat) (v mask h : Word) (st cs : BitVec 16) (r : EventRec) (rest : List EventRec)
    (head : BitVec 32) (s : State), s.apex.frozen = none →
    let d := s.apex.queues[e.q]
    let stored := fun (a : Nat) (l : List Byte) (t : State) =>
      (∀ k < l.length, some (t.cp.hbm.get (a + k)) = l[k]?) ∧ ∀ b, b < a ∨ a + l.length ≤ b → t.cp.hbm.get b = s.cp.hbm.get b
    let ends := fun (t : State) => SameCore s t ∧ EntryDone s id 0 0 0 t ∧ t.planned s.now rankEnd (.ev (.packetCompletion id))
    (s.heapEnt id = some e → e.done = none →
      (e.body = .signal 0 a v vec → s.queuePlace d a true = .at_ (.hbm x) → Completes (.signalWrite id) s fun t => ends t ∧
        stored x (bytesOf 8 v.toNat) t) ∧
      (e.body = .signal 0 a v vec → s.queuePlace d a true = .violation → Completes (.signalWrite id) s fun t =>
        SameCore s t ∧ EntryDone s id 0x020C 0 0 t ∧ t.cp = s.cp) ∧
      (e.body = .signal 1 a v vec → Completes (.signalMsix id) s fun t => ends t ∧ t.out = s.out ++ [.msix d.vf vec] ∧ t.cp = s.cp) ∧
      (e.body = .fence mask → s.apex.fenceDone e mask = true → Completes (.fencePacket id) s fun t => ends t ∧ t.cp = s.cp) ∧
      (e.body = .fence mask → s.apex.fenceDone e mask = false → Completes (.fencePacket id) s (· = s))) ∧
    (s.heapEnt id = some e → e.done = some (st, cs, h) → s.queuePlace d e.cplt true = .at_ (.hbm x) → e.cplt ≠ 0 →
      s.apex.busy = false → Completes (.packetCompletion id) s fun t => SameCore s t ∧ t.heapEnt id = none ∧
        (e.flags.getLsbD 1 = true → .msix d.vf e.mvec ∈ t.out) ∧
        stored x (bytesOf 2 st.toNat ++ bytesOf 2 cs.toNat ++ bytesOf 4 e.stag.toNat ++ bytesOf 8 s.absc ++ bytesOf 8 h.toNat ++
          bytesOf 4 e.lid.toNat ++ bytesOf 4 0) t) ∧
    (s.apex.boot = .up → Completes (.eventHeadWrite head) s fun t => t.apex = { s.apex with evhead := head } ∧ SameCore s t ∧
      t.planned s.now rankEnd (.ev .eventRecordWrite)) ∧
    (s.apex.events = r :: rest → (s.apex.evtail - s.apex.evhead).toNat < 2 ^ s.apex.evlg → Completes .eventRecordWrite s fun t =>
      t.apex = { s.apex with events := rest, evtail := s.apex.evtail + 1 } ∧ SameCore s t ∧
      t.out = s.out ++ [.hostWrite (s.apex.evbase.toNat + 32 * (s.apex.evtail.toNat % 2 ^ s.apex.evlg)) r.bytes]) ∧
    (s.apex.events = r :: rest → 2 ^ s.apex.evlg ≤ (s.apex.evtail - s.apex.evhead).toNat → Completes .eventRecordWrite s (· = s))

/-- LAUNCH, REMOTE_LAUNCH and DISPATCH (R407, R414, R416 to R420) of one packet in an empty heap: refused with the status
of its first failing check, refused by the admission test with 0x0100, or admitted; an admitted one whose rectangle is
free is placed and loaded, and its cells are to start. The choice of shape is log 14. A launch that other modules hold a
part of is put to them first, and is admitted only when each of them admits it; each tests it as its own and answers; the
first module's word gives all the same rectangle, start, pre-emption and end (R25, R420). The form of these messages is
the model's, log 76. -/
def Obligations.LaunchesAreAdmitted : Prop :=
  ∀ (q : Fin 64) (p : LaunchPkt) (g : Image) (code k : Nat) (o xy : Nat × Nat) (e : HeapEnt)
    (wins : List Window) (s : State), s.apex.fwWait = false →
    s.apex.frozen = none →
    let d := s.apex.queues[q]
    let enters := fun (i : Instr) (p : LaunchPkt) (q : Fin 64) (f : HeapEnt → Prop) (h : State → Prop) => Completes i s fun t =>
      SameCore s t ∧ h t ∧ t.apex.launches = s.apex.launches ∧
      ∃ x, t.apex.heap = [x] ∧ x.id = s.apex.nextId ∧ x.q = q ∧ x.body = .launch p (some g) ∧ f x
    let tells := fun (m : RemoteMsg) (t : State) => .remote m ∈ t.out
    let still := fun (_ : State) => True
    let q0 := s.apex.queues[(0 : Fin 64)]
    let far := { p with cplt := 0, flags := 0 }
    (s.apex.heap = [] →
      (s.refusal false d p g = some code → enters (.launch q p g) p q (fun x => x.done = some (BitVec.ofNat 16 code, 0, 0)) still) ∧
      (s.refusal false d p g = none → s.admits d p g = false →
        enters (.launch q p g) p q (fun x => x.done = some (0x0100, 0, 0)) still) ∧
      (s.refusal false d p g = none → s.admits d p g = true → s.mates p g.timed = 0 →
        enters (.launch q p g) p q (fun x => x.done = none ∧ x.st = .admitted) still) ∧
      (s.refusal false d p g = none → s.admits d p g = true → s.mates p g.timed ≠ 0 →
        enters (.launch q p g) p q (fun x => x.done = none ∧ x.st = .asking ∧ x.agreed = 0) (tells (.test p))) ∧
      (s.refusal true q0 far g = some code →
        enters (.remoteLaunch (.test p) g) far 0 (fun x => x.done = some (BitVec.ofNat 16 code, 0, 0)) (tells (.verdict p.stag false))) ∧
      (s.refusal true q0 far g = none → s.admits q0 far g = false →
        enters (.remoteLaunch (.test p) g) far 0 (fun x => x.done = some (0x0100, 0, 0)) (tells (.verdict p.stag false))) ∧
      (s.refusal true q0 far g = none → s.admits q0 far g = true →
        enters (.remoteLaunch (.test p) g) far 0 (fun x => x.done = none ∧ x.st = .asking ∧ x.remote = true)
          (tells (.verdict p.stag true))) ∧
      Completes .dispatch s (· = s)) ∧
    (s.apex.heap = [e] → e.done = none → e.st = .admitted → e.body = .launch p (some g) → p.ctx = 0 → e.q = q → p.mlog = 0 →
      g.timed = false → e.told = none → (originsOf d p).find? (s.mayStand p g) = some o → s.holders p o = [] →
      pickShape g (s.fencesFor p) o p = some (k, xy) → s.pinWindows s.apex.queues[e.q] g (o, p.w, p.h) = some wins →
      s.overCap s.apex.nextLid g k = false → Completes .dispatch s fun t =>
        let lid := s.apex.nextLid
        t.apex.nextLid = lid + 1 ∧ t.apex.heap = [{ e with st := .running, lid := lid }] ∧
        (∃ cyc, s.now < cyc ∧ t.planned cyc rankRead (.ev (.cellStart lid))) ∧
        ∃ l : LaunchRec, t.apex.launches = s.apex.launches ++ [l] ∧ l.lid = lid ∧ l.entry = e.id ∧ l.st = .loading ∧ l.shape = k ∧
          (l.rx, l.ry) = o ∧ (l.px, l.py) = xy ∧ l.img = g ∧ l.wins = wins ∧
          (l.holdsCell s.phys = true → t.seq.run = .idle ∧ t.seq.mode = .user ∧ t.sys.tvec = 0x7000 ∧
            (∀ r : Reg, t.seq.regs[r] = 0) ∧ (∀ n : Fin 256, t.sems[n] = Sem.zero) ∧ ∃ pr, t.prog = some pr ∧ pr.lid = lid) ∧
          (l.holdsCell s.phys = false → SameCore s t ∧ t.prog = s.prog)) ∧
    (∀ (img : Image) (x y t0 : Nat) (full : Bool) (atP : Option Nat) (l : LaunchRec), s.apex.heap = [e] →
      let hears := fun (m : RemoteMsg) (f : State → Prop) => Completes (.remoteLaunch m img) s fun t => SameCore s t ∧ f t
      let asked := e.done = none ∧ e.st = .asking ∧ e.body = .launch p (some g)
      (asked → e.remote = false →
        hears (.verdict e.stag false) (fun t => EntryDone s e.id 0x0100 0 0 t ∧ tells (.drop e.stag) t) ∧
        (e.agreed + 1 < s.mates p g.timed →
          hears (.verdict e.stag true) fun t => t.apex.heap = [{ e with agreed := e.agreed + 1 }]) ∧
        (s.mates p g.timed ≤ e.agreed + 1 →
          hears (.verdict e.stag true) fun t => t.apex.heap = [{ e with st := .admitted, agreed := e.agreed + 1 }])) ∧
      (asked → e.remote = true →
        hears (.place e.stag l.lid x y t0) (fun t => t.apex.heap =
          [{ e with st := .admitted, told := some (l.lid, t0), body := .launch { p with ox := x, oy := y } (some g) }]) ∧
        hears (.drop e.stag) (EntryDone s e.id 0x0100 0 0)) ∧
      (s.launchOf l.lid = some l → s.pred = none →
        (∀ st : BitVec 16, st ≠ 0x020D → Completes (.remoteLaunch (.ended l.lid st) img) s (LaunchEnded s l st (firstStatus l.halts))) ∧
        (l.st = .restoring → l.back = true → hears (.arm l.lid t0) fun t => ∃ m, t.launchOf l.lid = some m ∧ m.st = .resuming ∧
          m.t0 = t0 ∧ t.planned (s.now + lookAhead (t0 - 4096 - s.absc)) rankEnd (.ev (.armingDeadline l.lid))) ∧
        (l.st = .running → hears (.preempt l.lid full atP) fun t => .request l.lid full atP ∈ t.out ∧
          t.launchOf l.lid = some { l with st := .saving, full := full, ctx := none })))

/-- READY_REPORT, ARMING_DEADLINE, ARMED_START, CELL_START, HALT_REPORT, WATCHDOG_LIMIT (R123, R124, R133, R141, R413,
R414, R418, R421, R435): a report is kept, and with the last one a restored launch goes on; a cell missing at the deadline
of a start or a resume ends the launch with 0x0203, as a slip does; at T0, or when
started untimed, the cell issues its first bundle; the last HALT completes the launch with the first status that is
not zero; a double trap ends it with 0x0204, a runtime's status with 0x020D, and the watchdog with 0x0205 when its
packet asks so, with one event of kind 4; a launch ended so has the first status that is not zero as its cstat. An act that comes before its counter value, the counter having stepped,
waits for it. -/
def Obligations.LaunchesRunAndEnd : Prop :=
  ∀ (lid : BitVec 32) (cell : Peer) (status : BitVec 16) (l : LaunchRec) (s : State), s.apex.frozen = none →
    s.launchOf lid = some l → s.pred = none →
    let n := s.cyclesRun l
    let runs := fun (t : State) => t.launchOf lid = some { l with st := .running, began := s.absc }
    let first := fun (t : State) => t.seq.run = .running ∧ t.seq.issueAt = s.now ∧ t.seq.pc = s.seq.pc ∧ t.seq.regs = s.seq.regs ∧
      t.sys.safect = 0 ∧ ∀ p, s.prog = some p → t.prog = some { p with start := s.ax.value }
    let said := firstStatus l.halts
    (l.st ≠ .restoring ∨ l.back = false → Completes (.readyReport lid cell) s fun t => SameCore s t ∧
      ∃ l', t.launchOf lid = some l' ∧ l' = { l with ready := l'.ready } ∧ cell ∈ l'.ready ∧ ∀ c ∈ l.ready, c ∈ l'.ready) ∧
    (l.st = .restoring → l.back = true → l.img.timed = false → l.farCells ≤ l.ready.length → Completes (.readyReport lid cell) s fun t =>
      SameCore s t ∧ (∃ l', t.launchOf lid = some l' ∧ l'.st = .resuming ∧ cell ∈ l'.ready) ∧
        t.planned (s.now + 1) rankRead (.ev (.resumeStart l.placement))) ∧
    (l.arming = true → l.t0 ≤ s.absc + 4096 → l.ready.length < l.ncells →
      Completes (.armingDeadline lid) s fun t => LaunchEnded s l 0x0203 said t) ∧
    (l.arming = false ∨ l.t0 ≤ s.absc + 4096 ∧ l.ncells ≤ l.ready.length → Completes (.armingDeadline lid) s (· = s)) ∧
    (l.arming = true → s.absc + 4096 < l.t0 → Completes (.armingDeadline lid) s
      (· = s.planFor (l.t0 - 4096) rankEnd (.ev (.armingDeadline lid)))) ∧
    (l.st = .armed → s.absc < l.t0 → Completes (.armedStart lid) s (· = s.planFor l.t0 rankRead (.ev (.armedStart lid)))) ∧
    (l.st = .armed → s.absc = l.t0 → s.runsHere l = true → s.hl.fenced = false → s.seq.run = .idle →
      Completes (.armedStart lid) s fun t => runs t ∧ first t ∧ ∀ g, s.segTable[0]? = some g →
        t.seg.inSeg = true ∧ t.seg.idx = 0 ∧ t.seg.origin = s.ax.value ∧ t.seg.startAt = s.now) ∧
    (l.st = .armed → l.t0 ≤ s.absc → s.runsHere l = true → s.hl.fenced = true ∨ s.seq.run ≠ .idle ∨ l.t0 < s.absc →
      Completes (.armedStart lid) s fun t => LaunchEnded s l 0x0203 said t) ∧
    (l.st = .loading → s.runsHere l = true → s.seq.run = .idle → Completes (.cellStart lid) s fun t => runs t ∧ first t) ∧
    (l.st = .loading → s.runsHere l = false → Completes (.cellStart lid) s fun t => runs t ∧ SameCore s t) ∧
    (cell ≠ s.self → status.toNat < 0x8000 → l.halts.length + 1 < l.ncells → Completes (.haltReport lid cell status) s fun t =>
      t.launchOf lid = some { l with halts := l.halts ++ [(cell, status)] } ∧ SameCore s t) ∧
    (cell ≠ s.self → status.toNat < 0x8000 → l.ncells ≤ l.halts.length + 1 → Completes (.haltReport lid cell status) s fun t =>
      let c := firstStatus (l.halts ++ [(cell, status)])
      LaunchEnded s l (if c = 0 then 0 else 1) c t ∧ SameCore s t) ∧
    (cell = s.self → status.toNat < 0x8000 → s.lid = lid → s.prog.isSome = true → Completes (.haltReport lid cell status) s fun t =>
      t.prog = none ∧ t.seq.haltSt = none ∧ ∀ k : Fin 8, s.ann.own[k] = .held false → t.ann.own[k] = .free) ∧
    (status = 0xFFFF → Completes (.haltReport lid cell status) s fun t => LaunchEnded s l 0x0204 said t) ∧
    (0x8000 ≤ status.toNat → status ≠ 0xFFFF → Completes (.haltReport lid cell status) s fun t => LaunchEnded s l 0x020D status t) ∧
    (l.wdogged = false → l.pkt.wdog ≤ n → l.st = .running → Completes (.watchdogLimit lid) s fun t =>
      (∃ x : EventRec, t.apex.events = s.apex.events ++ [x] ∧ x.kind = 4 ∧ x.lid = lid ∧ x.data = BitVec.ofNat 128 n) ∧
      (l.pkt.lflags.getLsbD 2 = false → t.launchOf lid = some { l with wdogged := true } ∧ SameCore s t) ∧
      (l.pkt.lflags.getLsbD 2 = true → LaunchEnded s l 0x0205 said t)) ∧
    (l.wdogged = true ∨ (l.st ≠ .running ∧ l.st ≠ .saving) → Completes (.watchdogLimit lid) s (· = s)) ∧
    (l.wdogged = false → l.st = .running → n < l.pkt.wdog → Completes (.watchdogLimit lid) s fun t =>
      t = { s with agenda := t.agenda } ∧ ∃ cyc, s.now < cyc ∧ t.planned cyc rankEnd (.ev (.watchdogLimit lid)))

/-- Pre-emption, saves, checkpoints and resumes (R422 to R435): a request is noted in CTXSTAT; the save keeps the
registers, the semaphores and the sectors' contents under code 2, writes the save area's header and tile registers
(R427) and frees the cell; a full save frees the sectors; the last cell's acknowledgement commits the bank; a resume
from the save area restores what was saved, and at its start the program goes on from there with its sectors HELD. A full
save beside a context that keeps the save area is log 74. That a saved context's sectors read as 2 in PSTAT with a
predecessor's is R193's; how the model tells them apart is log 40. -/
def Obligations.ContextsMove : Prop :=
  ∀ (full : Bool) (atP : Option Nat) (lid : BitVec 32) (cell : Peer) (p : Prog) (r : PreReq) (c : SavedCtx) (l : LaunchRec)
    (w : State) (s : State), s.apex.frozen = none →
    (s.prog = none → Completes (.preemptionRequest full atP) s (· = s)) ∧
    (s.prog = some p → Completes (.preemptionRequest full atP) s fun t => t = { s with preq := t.preq, sys := t.sys } ∧
      (∃ x, t.preq = some x ∧ x.full = full ∧ x.atP = atP) ∧ t.sys = { s.sys with ctxstat := t.sys.ctxstat } ∧
      t.sys.ctxstat.getLsbD 1 = true ∧ t.sys.ctxstat.getLsbD 2 = full ∧
      ∀ i, i ≠ 1 → i ≠ 2 → t.sys.ctxstat.getLsbD i = s.sys.ctxstat.getLsbD i) ∧
    (s.seq.run = .preempted → s.prog = some p → s.preq = some r → s.ckptOpen = true →
      Completes .saveComplete s (· = s.plan (s.now + 1) rankEnd (.ev .saveComplete))) ∧
    (∀ d, s.seq.run = .preempted → s.prog = some p → s.preq = some r → s.ckptOpen = false → s.saved = some d →
      Completes .saveComplete s fun t => t.prog = none ∧ t.preq = none ∧ t.seq.run = .idle ∧ t.ann.mem = s.ann.mem ∧
        t.saved = s.saved ∧ (∀ k : Fin 8, s.ann.own[k] = .held false → t.ann.own[k] = .kept) ∧
        ∃ x, t.saving = some x ∧ x.prog = p ∧ x.full = true ∧ x.seq.regs = s.seq.regs ∧ x.sems = s.sems ∧
          t.planned (s.now + fullSave (sectorBytes x.sectors)) rankEnd (.ev .fullSaveComplete)) ∧
    (s.seq.run = .preempted → s.prog = some p → s.preq = some r → s.ckptOpen = false → s.saved = none →
      Completes .saveComplete s fun t => t.prog = none ∧ t.preq = none ∧
      t.seq.run = .idle ∧ (∀ a, a < 0x1D8000 → t.ann.mem.get a = s.ann.mem.get a) ∧
      (∀ k : Fin 128, t.ann.mem.row (rowAddr 7 (207 + k.val)) = s.seq.tiles[k]) ∧
      (let h := (t.ann.mem.row (rowAddr 7 192)).toNat; h / 2 ^ 16 % 2 ^ 32 = p.lid.toNat ∧ h / 2 ^ 192 % 2 ^ 32 = s.seq.crc.toNat) ∧
      (∀ k : Fin 8, s.ann.own[k] = .held false → t.ann.own[k] = .kept) ∧
      t.sys.ctxstat.getLsbD 0 = true ∧ bitsOf t.sys.ctxstat 32 32 = p.lid ∧
      ∃ x, t.saved = some x ∧ x.prog = p ∧ x.full = r.full ∧ x.seq.regs = s.seq.regs ∧ x.seq.pc = s.seq.pc ∧ x.sems = s.sems ∧
        x.own = s.ann.own ∧ x.seq.tiles = s.seq.tiles ∧ x.mx.acc0 = s.mx.acc0 ∧ x.mx.acc1 = s.mx.acc1 ∧ x.slots = s.sh.slots) ∧
    (s.launchOf c.prog.lid = some l →
      let done := fun (t : State) => t.launchOf l.lid = some { l with ctx := some c } ∧ t.cp.hbm = w.cp.hbm ∧
        t.ann.mem = s.ann.mem ∧ ∀ k : Fin 8, c.own[k] = .held false → s.ann.own[k] = .kept → t.ann.own[k] = .free
      (s.saving = none → s.saved = some c → c.full = true →
        (s.saveSectors c = some w → Completes .fullSaveComplete s fun t => done t ∧ t.saved = none ∧ t.sys.ctxstat.getLsbD 0 = false) ∧
        (s.saveSectors c = none → s.pred = none → Completes .fullSaveComplete s (LaunchEnded s l 0x020B (firstStatus l.halts)))) ∧
      (s.saving = some c →
        ((s.writeArea c).saveSectors c = some w → Completes .fullSaveComplete s fun t => done t ∧ t.saving = none ∧ t.saved = s.saved) ∧
        ((s.writeArea c).saveSectors c = none → s.pred = none →
          Completes .fullSaveComplete s (LaunchEnded s l 0x020B (firstStatus l.halts))))) ∧
    (s.launchOf lid = some l → cell ∉ l.acked →
      (l.acked.length + 1 < l.ncells → Completes (.checkpointAck lid cell) s fun t =>
        t.launchOf lid = some { l with acked := cell :: l.acked } ∧ SameCore s t) ∧
      (l.ncells ≤ l.acked.length + 1 → Completes (.checkpointAck lid cell) s fun t => SameCore s t ∧
        let b := (l.lastCk.map (·.2)).getD l.bank
        t.launchOf lid = some { l with acked := [], committed := some b, bank := 1 - b, heldCk := l.openCk })) ∧
    (s.launchOf lid = some l → l.lid = lid → l.st = .restoring → l.back = false → l.ctx = some c → s.prog = none → s.saved = some c →
      c.shape.toNat = l.shape → l.cellAt c.cell = s.phys → s.hl.fenced = false → s.mx.works = false → l.img.timed = false →
      l.farCells ≤ l.ready.length →
        let t := s.restored lid
        t.seq.run = .idle ∧ t.seq.mode = .user ∧ t.seq.regs = c.seq.regs ∧ t.seq.pc = c.seq.pc ∧ t.seq.tiles = c.seq.tiles ∧
        t.seq.loops = c.seq.loops ∧ t.sems = c.sems ∧ t.ann = s.ann ∧ t.mx.acc0 = c.mx.acc0 ∧ t.mx.acc1 = c.mx.acc1 ∧
        t.sh.slots = c.slots ∧ t.saved = s.saved ∧ (∃ x, t.launchOf lid = some x ∧ x.st = .resuming ∧ x.ctx = some c) ∧
        t.planned (s.now + 1) rankRead (.ev (.resumeStart l.placement))) ∧
    (s.launchOf lid = some l → l.lid = lid → l.st = .resuming → l.ctx = some c → s.runsHere l = true → s.seq.run = .idle →
      c.seg.inSeg = false → l.startOf ≤ s.absc → l.img.timed = false ∨ (l.startOf = s.absc ∧ s.hl.fenced = false) →
      Completes (.resumeStart { lid := lid, shape := 0, px := 0, py := 0 }) s fun t =>
        t.seq.run = .running ∧ t.seq.issueAt = s.now ∧ t.seq.mode = s.seq.mode ∧ t.seq.regs = s.seq.regs ∧ t.seq.pc = s.seq.pc ∧
        t.seq.tiles = s.seq.tiles ∧ t.sems = s.sems ∧ (∀ k : Fin 8, c.own[k] = .held false → t.ann.own[k] = .held false) ∧
        (∀ k : Fin 8, c.own[k] = .free → t.ann.own[k] = s.ann.own[k]) ∧ t.ann.mem = s.ann.mem ∧ t.mx.acc0 = s.mx.acc0 ∧
        t.mx.acc1 = s.mx.acc1 ∧ t.sh.slots = s.sh.slots ∧ (s.saved = some c → c.prog.lid = lid → t.saved = none) ∧
        ∃ x, t.launchOf lid = some x ∧ x.st = .running)

/-- The driver's commands on launches and copies (R269, R414, R429, R437, R447): a launch whose packet allows no full save
is not suspended, with result 0x06; a running one is asked to save; an abandoned launch ends with 0x0206, and its
command with its record; a copy is stopped as by CPABN; a function that does not own the launch's queue gets 0x03.
FENCE_REPORT, APEX_MISMATCH, APEX_RESTART, CLEAR_SERVICE_HOLD (R386, R396, R401, R402, R414, R415): a fence that is
new is kept, with an event of kind 2, and ends a launch without checkpoints whose shape holds the cell with 0x020A; so does
one that another module's Apex passes on (its form is log 76); a mismatch freezes dispatch and starts, and the restart ends the freeze with an event of kind 6; the hold of a cell is cleared for
function 0 only. -/
def Obligations.ApexCommands : Prop :=
  (∀ (fn : Fin 9) (lid : BitVec 32) (l : LaunchRec) (e : CopyEnt) (px py : Nat) (s : State), s.takesCommand →
     (s.launchOf lid = some l →
       (fn ≠ 0 → s.apex.queues[l.q].vf ≠ fn.val → ∀ i ∈ [Instr.suspendLaunch fn lid, .abandonLaunch fn lid],
         Completes i s fun t => CommandEnded fn 3 t ∧ SameCore s t ∧ t.apex.launches = s.apex.launches) ∧
       (fn = 0 ∨ s.apex.queues[l.q].vf = fn.val →
         (l.mayFull = false → Completes (.suspendLaunch fn lid) s fun t => CommandEnded fn 6 t ∧ SameCore s t ∧
           t.apex.launches = s.apex.launches) ∧
         (l.mayFull = true → l.st = .running → l.lid = lid → s.apex.frozen = none → Completes (.suspendLaunch fn lid) s fun t => t.apex.busy = true ∧
           SameCore s t ∧ (∃ x, t.launchOf lid = some x ∧ x.st = .saving ∧ x.suspend = true) ∧
           ∃ v, .request lid true v ∈ t.out) ∧
         (l.mayFull = true → l.st = .running → l.lid = lid → s.apex.frozen.isSome = true → Completes (.suspendLaunch fn lid) s fun t =>
           t.apex.busy = true ∧ SameCore s t ∧ t.launchOf lid = some { l with suspend := true } ∧
           t.planned (s.now + 1) rankEnd (.micro (.launchSaved lid))) ∧
         (l.lid = lid → s.pred = none → (s.heapEnt l.entry).isSome = true → Completes (.abandonLaunch fn lid) s fun t =>
           LaunchEnded s l 0x0206 (firstStatus l.halts) t ∧ t.apex.busy = true ∧ t.apex.dwait = some l.entry))) ∧
     ((px, py) = s.phys → s.ent e.cmd.idx = some e → e.stoppable = true → e.nissue ≤ e.nland → e.failed = none → e.park = none →
       e.cmd.signals → Completes (.abandonCopy fn px py e.cmd.idx) s fun t => FailsWith s e.cmd 0x27 5 t ∧ t.ent e.cmd.idx = none ∧
         CommandEnded fn 0 t ∧ t.seq = s.seq ∧ t.ann.mem = s.ann.mem) ∧
     ((px, py) ≠ s.phys → Completes (.abandonCopy fn px py e.cmd.idx) s fun t => CommandEnded fn 0 t ∧ t.cp = s.cp ∧ SameCore s t)) ∧
  (∀ (px py f : Nat) (cause : Fin 8) (fn : Fin 9) (l : LaunchRec) (v : Nat) (s : State),
     let event := fun (k : BitVec 8) (t : State) => ∃ x : EventRec, t.apex.events = s.apex.events ++ [x] ∧ x.kind = k
     (s.apex.frozen = none → px < 32 → (px, py) ∈ s.apex.fences → Completes (.fenceReport px py cause f) s (· = s)) ∧
     (s.apex.frozen = none → 32 ≤ px → let c := (px / 32 - 1, px % 32, py)
       (c ∈ s.apex.farFences → Completes (.fenceReport px py cause f) s (· = s)) ∧
       (c ∉ s.apex.farFences → s.apex.launches = [l] → s.pred = none → Completes (.fenceReport px py cause f) s fun t =>
         t.apex.farFences = s.apex.farFences ++ [c] ∧ t.apex.fences = s.apex.fences ∧
         (l.draws = true → l.onModule c.1 = true → l.holdsCell c.2 = true → l.img.ckpt = false →
           LaunchEnded s l 0x020A (firstStatus l.halts) t) ∧
         (l.onModule c.1 = false → t.apex.launches = [l] ∧ SameCore s t))) ∧
     (s.apex.frozen = none → px < 32 → (px, py) ∉ s.apex.fences → s.apex.launches = [l] → s.pred = none →
       Completes (.fenceReport px py cause f) s fun t => t.apex.fences = s.apex.fences ++ [(px, py)] ∧ event 2 t ∧
         (l.draws = true → l.holdsCell (px, py) = true → l.img.ckpt = false → LaunchEnded s l 0x020A (firstStatus l.halts) t) ∧
         (l.holdsCell (px, py) = false → t.apex.launches = [l] ∧ SameCore s t)) ∧
     (s.apex.frozen = none → Completes .apexMismatch s fun t => t.apex = { s.apex with frozen := some s.absc } ∧ SameCore s t ∧
       ∃ cyc, s.now < cyc ∧ cyc ≤ s.now + 7200000 ∧ t.planned cyc rankEnd (.ev .apexRestart)) ∧
     (s.apex.frozen = some v → Completes .apexMismatch s (· = s) ∧
       (∀ i ∈ [Instr.dispatch, .cellStart 0, .armedStart 0, .preemptionRequest false none, .faultRecordRead, .fencePacket 0], Completes i s fun t => SameCore s t ∧
         t.apex = s.apex ∧ t.cp = s.cp ∧ t.planned (s.now + 1) rankEnd (.ev i))) ∧
     (s.apex.frozen = some v → s.apex.heap = [] → (∀ x ∈ s.apex.launches, x.ahead s.absc = false) → Completes .apexRestart s fun t =>
       t.apex.frozen = none ∧ event 6 t ∧ t.apex.launches = s.apex.launches ∧ SameCore s t) ∧
     (s.takesCommand → fn = 0 → Completes (.clearServiceHold fn px py) s fun t => (px, py) ∉ t.apex.holds ∧ CommandEnded fn 0 t ∧
       SameCore s t ∧ (∀ c, c ≠ (px, py) → (c ∈ t.apex.holds ↔ c ∈ s.apex.holds)) ∧ ((px, py) = s.phys → t.hl.hold = false)) ∧
     (s.takesCommand → fn ≠ 0 → Completes (.clearServiceHold fn px py) s fun t => t.apex.holds = s.apex.holds ∧ CommandEnded fn 2 t ∧
       SameCore s t))

/-- Firmware, functions and measurements (R430, R447, R448, R452): a staged image is one that verifies; activation waits
until no launch is active and then takes the staged image in force; with a context that it could not restore it is
refused with an event of kind 7; the measurements are digests of the images and of every cell's spare map; a function is bound to a legal partition that no other overlaps. POWER_ON,
MODULE_RESET and THERMAL_TRIP (R108, R402, R453, R456): every register, semaphore and sector is as after reset, no
program and no command is left and the start order begins; flash keeps its spare map, a reset keeps the HBM and the
journal's queues and the launches that lie in HBM, suspended or fully saved. Which launches a reset keeps is log 14, and whether an image verifies is log
9. -/
def Obligations.ModuleManagement : Prop :=
  (∀ (fn vf : Fin 9) (dva len : Nat) (version prev : BitVec 16) (dies : BitVec 4) (f : Firmware) (s : State),
     let refused := fun (i : Instr) => Completes i s fun t => CommandEnded fn 2 t ∧ SameCore s t ∧ t.apex.fwStage = s.apex.fwStage ∧
       t.apex.fwRun = s.apex.fwRun ∧ t.apex.fwWait = s.apex.fwWait
     (s.takesCommand → fn ≠ 0 → refused (.stageFirmware fn dva len version prev) ∧ refused (.activateFirmware fn)) ∧
     (s.takesCommand → fn = 0 → Completes (.stageFirmware fn dva len version prev) s fun t => SameCore s t ∧
       t.apex.fwRun = s.apex.fwRun ∧
       (CommandEnded fn 0 t ∧ (∃ x, t.apex.fwStage = some x ∧ x.version = version ∧ x.prev = prev) ∨
         CommandEnded fn 5 t ∧ t.apex.fwStage = s.apex.fwStage)) ∧
     (s.takesCommand → fn = 0 → s.apex.fwStage = some f → s.unrestorable f = [] → Completes (.activateFirmware fn) s fun t =>
       t.apex.fwWait = true ∧ t.apex.busy = true ∧ SameCore s t ∧ ∃ x ∈ t.agenda, x.act = .ev .firmwareActivation) ∧
     (s.takesCommand → fn = 0 → s.apex.fwStage = some f → s.unrestorable f ≠ [] → Completes (.activateFirmware fn) s fun t =>
       t.apex.fwWait = s.apex.fwWait ∧ t.apex.fwRun = s.apex.fwRun ∧ SameCore s t ∧
       ∃ x : EventRec, t.apex.events = s.apex.events ++ [x] ∧ x.kind = 7) ∧
     (s.apex.fwWait = true → s.apex.fwStage = some f → (∀ l ∈ s.apex.launches, l.active = false) → s.apex.heap = [] →
       Completes .firmwareActivation s fun t => t.apex.fwRun = f ∧ t.apex.fwOther = s.apex.fwRun ∧ t.apex.fwStage = none ∧ t.apex.fwWait = false ∧
         fieldNat t.sys.ctxver 0 16 = f.version.toNat ∧ fieldNat t.sys.ctxver 16 16 = f.prev.toNat ∧ t.seq = s.seq) ∧
     (s.apex.fwWait = true → s.apex.fwStage = some f → (∃ l ∈ s.apex.launches, l.active = true) →
       Completes .firmwareActivation s (· = s)) ∧
     (Completes .getMeasurements s fun t => ∃ l, t = { s with out := s.out ++ [.measures l] } ∧ (s.apex.boot = .dead → l = []) ∧
       (s.apex.boot ≠ .dead → l.length = (if s.apex.fwStage.isSome then 2 else 1) + 768)) ∧
     (vf ≠ 0 → dies ∈ ([0, 1, 2, 4, 8, 3, 12, 15] : List (BitVec 4)) → (∀ v : Fin 9, v ≠ vf → s.apex.vfs[v] &&& dies = 0) →
       Completes (.vfBind vf dies) s (· = { s with apex := { s.apex with vfs := s.apex.vfs.set vf dies } })) ∧
     (vf = 0 ∨ dies ∉ ([0, 1, 2, 4, 8, 3, 12, 15] : List (BitVec 4)) ∨ (∃ v : Fin 9, v ≠ vf ∧ s.apex.vfs[v] &&& dies ≠ 0) →
       Completes (.vfBind vf dies) s (· = s))) ∧
  (∀ (s : State),
     let fresh := fun (t : State) => t.seq = { State.reset.seq with run := .idle, issueAt := s.now } ∧ t.sems = State.reset.sems ∧
       t.ann = State.reset.ann ∧ t.mx = State.reset.mx ∧ t.prog = none ∧ t.saved = none ∧ t.cp.ents = [] ∧ t.now = s.now ∧
       t.sys.tvec = State.reset.sys.tvec ∧ t.hl.spareFlash = s.hl.spareFlash ∧ t.hl.spareNow = 0x1FFFFF ∧ t.apex.boot = .verify ∧ t.apex.fwRun = s.apex.fwRun ∧
       ∃ cyc, s.now < cyc ∧ t.planned cyc rankEnd (.micro .bootStep)
     let kept := fun (t : State) => t.cp.hbm = s.cp.hbm ∧ t.apex.queues = s.apex.queues ∧
       t.apex.launches = s.apex.launches.filter LaunchRec.inHbm
     Completes .powerOn s fresh ∧ Completes .moduleReset s (fun t => fresh t ∧ kept t) ∧
     Completes .thermalTrip s fun t => fresh t ∧ kept t)

/-- The forms of the sequencer, of launches, contexts and the self test complete, each in every state that meets the
conditions named: SAFE, SEGEND, HALT (R122, R126, R129, R133) with nothing pending and, for SEGEND, in its cycle with the
expected signature; READY_REPORT, ARMING_DEADLINE, ARMED_START, CELL_START, HALT_REPORT, WATCHDOG_LIMIT (R133, R414, R418,
R421) of a launch that the Apex knows, the Apex not frozen; LAUNCH, REMOTE_LAUNCH, DISPATCH (R407, R416, R417, R420):
every packet enters the heap, and one admitted for a free place is loaded; PREEMPTION_REQUEST, SAVE_COMPLETE,
FULL_SAVE_COMPLETE, CHECKPOINT_ACK, RESUME_START (R423 to R434); IFST_COMPLETE and SPARE_FLASH_WRITE (R395, R397). -/
def Obligations.SequencerAndLaunchFormsComplete : Prop :=
  (∀ (cp : Option (Fin 256)) (s : State), s.pendingAny = false → s.ann.lmovs = [] → s.sh.busy = false → s.tm.busy = false →
     (cp = none ∨ s.mx.busy = false ∧ s.cp.busy = false) → Completes (.safe cp) s fun t =>
       t.sys = { s.sys with safect := 0 } ∧ t.seq = { s.seq with effect := .safe cp } ∧ t.ann = s.ann) ∧
  (∀ (seg : BitVec 16) (count : BitVec 21) (g : Segment) (s : State), s.timedImage = true → s.seq.mode = .user →
     s.segTable[seg.toNat]? = some g → s.seg.inSeg = true → s.relCycle + 1 = count.toNat → s.pendingAny = false →
     s.ann.lmovs = [] → s.sh.busy = false → s.mx.busy = false → s.tm.busy = false → s.timedBusy = false →
     s.expectedSig g = some s.signature → Completes (.segend seg count) s fun t =>
       t.seq = { s.seq with tiles := Vector.replicate 128 0, effect := .segend } ∧ t.mx.acc0 = Acc.zero ∧
       t.mx.acc1 = Acc.zero ∧ t.ann.mem = s.ann.mem ∧ t.sys = s.sys ∧ t.sems = s.sems) ∧
  (∀ (status : BitVec 16) (s : State), s.timedImage = false ∨ s.seq.mode = .supervisor ∨ s.seg.ended = true ∧ s.seq.suspended = false →
     s.seq.mode = .supervisor ∨ status.toNat < 0x8000 → s.seq.writes = [] → Completes (.halt status) s
       (· = { s with seq := { s.seq with run := .halted, loops := [], xfer := none, haltSt := some status, effect := .halt } })) ∧
  (∀ (lid : BitVec 32) (cell : Peer) (status : BitVec 16) (l : LaunchRec) (s : State), s.apex.frozen = none →
     s.launchOf lid = some l →
     let gone := fun (t : State) => ∀ m ∈ t.apex.launches, m.lid ≠ lid
     let runs := fun (t : State) => t.launchOf lid = some { l with st := .running, began := s.absc }
     (l.st ≠ .restoring ∨ l.back = false → Completes (.readyReport lid cell) s fun t => SameCore s t ∧
       ∃ l', t.launchOf lid = some l' ∧ cell ∈ l'.ready) ∧
     (l.arming = true → l.t0 ≤ s.absc + 4096 → l.ready.length < l.ncells → Completes (.armingDeadline lid) s gone) ∧
     (l.st = .armed → s.absc = l.t0 → s.runsHere l = true → s.hl.fenced = false → s.seq.run = .idle →
       Completes (.armedStart lid) s fun t => runs t ∧ t.seq.run = .running ∧ t.seq.issueAt = s.now ∧ t.sys.safect = 0) ∧
     (l.st = .armed → l.t0 ≤ s.absc → s.runsHere l = false → Completes (.armedStart lid) s fun t => runs t ∧ SameCore s t) ∧
     (l.st = .loading → s.runsHere l = true → s.seq.run = .idle → Completes (.cellStart lid) s fun t => runs t ∧
       t.seq.run = .running ∧ t.seq.issueAt = s.now ∧ t.sys.safect = 0) ∧
     (cell ≠ s.self → status.toNat < 0x8000 → l.halts.length + 1 < l.ncells → Completes (.haltReport lid cell status) s fun t =>
       t.launchOf lid = some { l with halts := l.halts ++ [(cell, status)] } ∧ SameCore s t) ∧
     (cell ≠ s.self → status.toNat < 0x8000 → l.ncells ≤ l.halts.length + 1 → Completes (.haltReport lid cell status) s fun t =>
       gone t ∧ SameCore s t) ∧
     (l.wdogged = false → l.pkt.wdog ≤ s.cyclesRun l → l.st = .running → Completes (.watchdogLimit lid) s fun t =>
       ∃ x : EventRec, t.apex.events = s.apex.events ++ [x] ∧ x.kind = 4 ∧ x.lid = lid) ∧
     (cell ∉ l.acked → l.acked.length + 1 < l.ncells → Completes (.checkpointAck lid cell) s fun t =>
       t.launchOf lid = some { l with acked := cell :: l.acked } ∧ SameCore s t)) ∧
  (∀ (q : Fin 64) (p : LaunchPkt) (g : Image) (k : Nat) (o xy : Nat × Nat) (e : HeapEnt) (wins : List Window) (s : State),
     let enters := fun (i : Instr) (q : Fin 64) (p : LaunchPkt) => Completes i s fun t => SameCore s t ∧
       ∃ x ∈ t.apex.heap, x.q = q ∧ x.body = .launch p (some g)
     enters (.launch q p g) q p ∧ enters (.remoteLaunch (.test p) g) 0 { p with cplt := 0, flags := 0 } ∧
     (s.apex.frozen = none → s.apex.fwWait = false → s.apex.heap = [e] → e.done = none → e.st = .admitted →
       e.body = .launch p (some g) → p.ctx = 0 → p.mlog = 0 → g.timed = false → e.told = none →
       (originsOf s.apex.queues[e.q] p).find? (s.mayStand p g) = some o → s.holders p o = [] →
       pickShape g (s.fencesFor p) o p = some (k, xy) → s.pinWindows s.apex.queues[e.q] g (o, p.w, p.h) = some wins →
       s.overCap s.apex.nextLid g k = false → Completes .dispatch s fun t => ∃ l : LaunchRec,
         t.apex.launches = s.apex.launches ++ [l] ∧ l.lid = s.apex.nextLid ∧ l.st = .loading ∧ l.img = g ∧
         ∃ cyc, s.now < cyc ∧ t.planned cyc rankRead (.ev (.cellStart l.lid)))) ∧
  (∀ (full : Bool) (atP : Option Nat) (p : Prog) (r : PreReq) (c : SavedCtx) (l : LaunchRec) (v : Nat) (w : Word) (u s : State),
     (s.prog = some p → s.apex.frozen = none → Completes (.preemptionRequest full atP) s fun t => t.seq = s.seq ∧
       t.sys.ctxstat.getLsbD 1 = true ∧ t.sys.ctxstat.getLsbD 2 = full ∧ ∃ x, t.preq = some x ∧ x.full = full) ∧
     (s.seq.run = .preempted → s.prog = some p → s.preq = some r → s.ckptOpen = false → s.saved = none →
       Completes .saveComplete s fun t => t.prog = none ∧ t.seq.run = .idle ∧ ∃ x, t.saved = some x ∧ x.prog = p ∧ x.seq.regs = s.seq.regs ∧ x.sems = s.sems) ∧
     (s.saving = none → s.saved = some c → c.full = true → s.launchOf c.prog.lid = some l →
       s.saveSectors c = some u → Completes .fullSaveComplete s fun t =>
         t.saved = none ∧ t.cp.hbm = u.cp.hbm ∧ t.launchOf l.lid = some { l with ctx := some c }) ∧
     (s.apex.frozen = none → s.launchOf l.lid = some l → l.st = .resuming → l.ctx = some c → s.runsHere l = true → s.seq.run = .idle →
       l.startOf ≤ s.absc → l.img.timed = false ∨ (l.startOf = s.absc ∧ s.hl.fenced = false) →
       Completes (.resumeStart { lid := l.lid, shape := 0, px := 0, py := 0 }) s fun t =>
         t.seq.run = .running ∧ t.seq.issueAt = s.now ∧ t.seq.regs = s.seq.regs ∧ t.sems = s.sems) ∧
     (s.hl.tend = some v → v ≤ s.now → Completes .ifstComplete s fun t => t.hl.tend = none ∧ t.hl.tdone = true ∧
       t.ann.mem = [] ∧ t.seq.regs = s.seq.regs) ∧
     (s.hl.spareBusy = some w → Completes .spareFlashWrite s fun t => SameCore s t ∧
       t.hl = { s.hl with spareFlash := w, spareBusy := none }))
end

