-- ==== Sys2Proof/Laws/Memory.lean ====
section
/-! SUPPORT. What the memory operations do: the canonical form is kept, a read after a write gives the bytes written, and
every other byte stays. -/

namespace Sys2Proof.Machine

/-! ## The canonical form -/

theorem Memory.risingFrom_le {lo lo' : Nat} {m : Memory} (h : Memory.risingFrom lo m = true) (hl : lo' ≤ lo) :
    Memory.risingFrom lo' m = true := by
  cases m with
  | nil => rfl
  | cons c m =>
    simp only [Memory.risingFrom, Bool.and_eq_true, decide_eq_true_eq] at h ⊢
    exact ⟨⟨by omega, h.1.2⟩, h.2⟩

theorem Memory.risingFrom_ge {lo : Nat} {m : Memory} (h : Memory.risingFrom lo m = true) : ∀ c ∈ m, lo ≤ c.1 := by
  induction m generalizing lo with
  | nil => simp
  | cons d m ih =>
    simp only [Memory.risingFrom, Bool.and_eq_true, decide_eq_true_eq] at h
    intro c hc
    rcases List.mem_cons.mp hc with rfl | hc
    · exact h.1.1
    · have := ih h.2 c hc; omega

theorem Memory.risingFrom_filter {lo : Nat} {m : Memory} (p : Host.Cell → Bool) (h : Memory.risingFrom lo m = true) :
    Memory.risingFrom lo (m.filter p) = true := by
  induction m generalizing lo with
  | nil => rfl
  | cons c m ih =>
    simp only [Memory.risingFrom, Bool.and_eq_true, decide_eq_true_eq] at h
    by_cases hp : p c = true
    · simp only [List.filter_cons, hp, if_true, Memory.risingFrom, Bool.and_eq_true, decide_eq_true_eq]
      exact ⟨h.1, ih h.2⟩
    · simp only [List.filter_cons, hp]
      exact Memory.risingFrom_le (ih h.2) (by omega)

/-- Two rising lists, the second above the first. -/
theorem Memory.risingFrom_append {lo b : Nat} {m n : Memory} (hm : Memory.risingFrom lo m = true)
    (hb : ∀ c ∈ m, c.1 < b) (hl : lo ≤ b) (hn : Memory.risingFrom b n = true) : Memory.risingFrom lo (m ++ n) = true := by
  induction m generalizing lo with
  | nil => exact Memory.risingFrom_le hn hl
  | cons c m ih =>
    simp only [Memory.risingFrom, Bool.and_eq_true, decide_eq_true_eq] at hm
    simp only [List.cons_append, Memory.risingFrom, Bool.and_eq_true, decide_eq_true_eq]
    have hc := hb c (List.mem_cons_self ..)
    exact ⟨hm.1, ih hm.2 (fun d hd => hb d (List.mem_cons_of_mem _ hd)) (by omega)⟩

theorem Memory.cellsOf_rising (a : Nat) (l : List Byte) : Memory.risingFrom a (Memory.cellsOf a l) = true := by
  induction l generalizing a with
  | nil => rfl
  | cons b l ih =>
    by_cases hb : b = Config.unwritten
    · simp only [Memory.cellsOf, hb, if_true]
      exact Memory.risingFrom_le (ih (a + 1)) (by omega)
    · simp only [Memory.cellsOf, hb, if_false, Memory.risingFrom, Bool.and_eq_true, decide_eq_true_eq]
      exact ⟨⟨by omega, by simpa using hb⟩, ih (a + 1)⟩

theorem Memory.cellsOf_lt (a : Nat) (l : List Byte) : ∀ c ∈ Memory.cellsOf a l, c.1 < a + l.length := by
  induction l generalizing a with
  | nil => simp [Memory.cellsOf]
  | cons b l ih =>
    intro c hc
    have key : ∀ c ∈ Memory.cellsOf (a + 1) l, c.1 < a + (b :: l).length := by
      intro c hc
      have := ih (a + 1) c hc
      simp only [List.length_cons]; omega
    by_cases hb : b = Config.unwritten
    · exact key c (by simpa [Memory.cellsOf, hb] using hc)
    · simp only [Memory.cellsOf, hb, if_false, List.mem_cons] at hc
      rcases hc with rfl | hc
      · simp only [List.length_cons]; omega
      · exact key c hc

/-- A write keeps the canonical form. -/
theorem Memory.write_wf {m : Memory} (a : Nat) (l : List Byte) (h : m.wf = true) : (m.write a l).wf = true := by
  have hlo := Memory.risingFrom_filter (fun c => decide (c.1 < a)) h
  have hhi : Memory.risingFrom (a + l.length) (m.filter fun c => decide (a + l.length ≤ c.1)) = true := by
    have := Memory.risingFrom_filter (fun c => decide (a + l.length ≤ c.1)) h
    generalize hk : m.filter (fun c => decide (a + l.length ≤ c.1)) = k at this
    have hge : ∀ c ∈ k, a + l.length ≤ c.1 := by
      intro c hc
      rw [← hk] at hc
      simpa using (List.mem_filter.mp hc).2
    cases k with
    | nil => rfl
    | cons c k =>
      simp only [Memory.risingFrom, Bool.and_eq_true, decide_eq_true_eq] at this ⊢
      exact ⟨⟨hge c (List.mem_cons_self ..), this.1.2⟩, this.2⟩
  have hmid := Memory.risingFrom_append (Memory.cellsOf_rising a l) (Memory.cellsOf_lt a l) (by omega) hhi
  exact Memory.risingFrom_append hlo (by intro c hc; simpa using (List.mem_filter.mp hc).2) (by omega) hmid

/-- A row write keeps the canonical form. -/
theorem Memory.setRow_wf {m : Memory} (a : Nat) (r : Row) (h : m.wf = true) : (m.setRow a r).wf = true :=
  Memory.write_wf _ _ h

/-- The empty memory is canonical. -/
theorem Memory.nil_wf : Memory.wf [] = true := rfl

/-- The memories after reset are canonical. -/
theorem State.reset_mem_wf : State.reset.ann.mem.wf = true ∧ State.reset.cp.hbm.wf = true := ⟨rfl, rfl⟩

/-! ## Reads after writes -/

theorem Memory.get_append_left {m n : Memory} {b : Nat} (h : ∀ c ∈ m, c.1 ≠ b) : Memory.get (m ++ n) b = Memory.get n b := by
  induction m with
  | nil => rfl
  | cons c m ih =>
    have := h c (List.mem_cons_self ..)
    simp only [List.cons_append, Memory.get, this, if_false]
    exact ih fun d hd => h d (List.mem_cons_of_mem _ hd)

theorem Memory.get_append_right {m n : Memory} {b : Nat} (h : ∀ c ∈ n, c.1 ≠ b) : Memory.get (m ++ n) b = Memory.get m b := by
  induction m with
  | nil =>
    induction n with
    | nil => rfl
    | cons c n ih =>
      have := h c (List.mem_cons_self ..)
      simp only [List.nil_append, Memory.get, this, if_false]
      simpa [Memory.get] using ih fun d hd => h d (List.mem_cons_of_mem _ hd)
  | cons c m ih => simp only [List.cons_append, Memory.get, ih]

theorem Memory.get_filter {m : Memory} {b : Nat} (p : Host.Cell → Bool) (h : ∀ c ∈ m, c.1 = b → p c = true) :
    Memory.get (m.filter p) b = Memory.get m b := by
  induction m with
  | nil => rfl
  | cons c m ih =>
    have ih := ih fun d hd => h d (List.mem_cons_of_mem _ hd)
    by_cases hp : p c = true
    · simp only [List.filter_cons, hp, if_true, Memory.get, ih]
    · have hc : c.1 ≠ b := fun e => hp (h c (List.mem_cons_self ..) e)
      simp only [List.filter_cons, hp, Memory.get, hc, if_false]
      exact ih

theorem Memory.get_cellsOf (a : Nat) (l : List Byte) (b : Nat) (hl : a ≤ b) :
    Memory.get (Memory.cellsOf a l) b = (l[b - a]?).getD Config.unwritten := by
  induction l generalizing a with
  | nil => simp [Memory.cellsOf, Memory.get]
  | cons x l ih =>
    by_cases hab : a = b
    · subst hab
      simp only [Nat.sub_self, List.getElem?_cons_zero, Option.getD_some]
      by_cases hx : x = Config.unwritten
      · simp only [Memory.cellsOf, hx, if_true]
        have : Memory.get (Memory.cellsOf (a + 1) l) a = Config.unwritten := by
          have hn : ∀ c ∈ Memory.cellsOf (a + 1) l, c.1 ≠ a := by
            intro c hc
            have := Memory.risingFrom_ge (Memory.cellsOf_rising (a + 1) l) c hc
            omega
          have := Memory.get_append_left (n := []) hn
          simpa [Memory.get] using this
        exact this
      · simp [Memory.cellsOf, hx, Memory.get]
    · have hs : b - a = (b - (a + 1)) + 1 := by omega
      have ih := ih (a + 1) (by omega)
      rw [hs, List.getElem?_cons_succ, ← ih]
      by_cases hx : x = Config.unwritten
      · simp [Memory.cellsOf, hx]
      · simp [Memory.cellsOf, hx, Memory.get, hab]

/-- A read after a write: the byte written inside, the byte of before outside. -/
theorem Memory.get_write (m : Memory) (a : Nat) (l : List Byte) (b : Nat) :
    (m.write a l).get b = if a ≤ b ∧ b < a + l.length then (l[b - a]?).getD Config.unwritten else m.get b := by
  have hlow : ∀ c ∈ m.filter (fun c => decide (c.1 < a)), c.1 < a := fun c hc => by
    simpa using (List.mem_filter.mp hc).2
  have hhigh : ∀ c ∈ m.filter (fun c => decide (a + l.length ≤ c.1)), a + l.length ≤ c.1 := fun c hc => by
    simpa using (List.mem_filter.mp hc).2
  have hmid := Memory.cellsOf_lt a l
  have hmid' := Memory.risingFrom_ge (Memory.cellsOf_rising a l)
  unfold Memory.write
  by_cases h1 : b < a
  · rw [Memory.get_append_right, Memory.get_filter]
    · simp [show ¬a ≤ b by omega]
    · intro c _ hc; simpa [hc] using h1
    · intro c hc
      rcases List.mem_append.mp hc with hc | hc
      · have := hmid' c hc; omega
      · have := hhigh c hc; omega
  · rw [Memory.get_append_left fun c hc => by have := hlow c hc; omega]
    by_cases h2 : b < a + l.length
    · rw [Memory.get_append_right fun c hc => by have := hhigh c hc; omega, Memory.get_cellsOf _ _ _ (by omega)]
      simp [show a ≤ b by omega, h2]
    · rw [Memory.get_append_left fun c hc => by have := hmid c hc; omega, Memory.get_filter]
      · simp [h2]
      · intro c _ hc; simp only [decide_eq_true_eq]; omega

/-! ## Wide reads -/

theorem ofBytes_cons (b : Byte) (l : List Byte) : ofBytes (b :: l) = ofBytes l * 256 + b.toNat := rfl

theorem ofBytes_lt (l : List Byte) : ofBytes l < 256 ^ l.length := by
  induction l with
  | nil => simp [ofBytes]
  | cons b l ih =>
    have := b.isLt
    rw [ofBytes_cons, List.length_cons, Nat.pow_succ]
    omega

theorem ofBytes_append (l k : List Byte) : ofBytes (l ++ k) = ofBytes l + 256 ^ l.length * ofBytes k := by
  induction l with
  | nil => simp [ofBytes]
  | cons b l ih =>
    rw [List.cons_append, ofBytes_cons, ih, ofBytes_cons, List.length_cons, Nat.pow_succ]
    ring

theorem ofBytes_byte (l : List Byte) (k : Nat) : byteOf (ofBytes l) k = (l[k]?).getD 0 := by
  induction l generalizing k with
  | nil => simp [ofBytes, byteOf]
  | cons b l ih =>
    cases k with
    | zero =>
      apply BitVec.eq_of_toNat_eq
      have := b.isLt
      simp only [byteOf, ofBytes_cons, Nat.pow_zero, Nat.div_one, BitVec.toNat_ofNat, List.getElem?_cons_zero,
        Option.getD_some]
      omega
    | succ k =>
      have hd : (ofBytes l * 256 + b.toNat) / 256 ^ (k + 1) = ofBytes l / 256 ^ k := by
        have := b.isLt
        rw [Nat.pow_succ', ← Nat.div_div_eq_div_mul]
        congr 1
        omega
      have := ih k
      simp only [byteOf, ofBytes_cons, hd, List.getElem?_cons_succ] at this ⊢
      exact this

theorem Memory.get_of_ge {m : Memory} {lo b : Nat} (h : Memory.risingFrom lo m = true) (hb : b < lo) :
    Memory.get m b = Config.unwritten := by
  have hn : ∀ c ∈ m, c.1 ≠ b := fun c hc => by have := Memory.risingFrom_ge h c hc; omega
  simpa [Memory.get] using Memory.get_append_left (n := []) hn

theorem ofBytes_map_range (n : Nat) (f : Nat → Byte) :
    ofBytes ((List.range n).map f) = ∑ k ∈ Finset.range n, (f k).toNat * 256 ^ k := by
  induction n with
  | zero => simp [ofBytes]
  | succ n ih =>
    rw [List.range_succ, List.map_append, ofBytes_append, ih, Finset.sum_range_succ]
    simp [ofBytes, Nat.mul_comm]

/-- A wide read of a canonical memory is the little-endian number of its bytes. -/
theorem Memory.readNat_eq {m : Memory} {lo : Nat} (h : Memory.risingFrom lo m = true) (a n : Nat) :
    Memory.readNat m a n = ofBytes ((List.range n).map fun k => m.get (a + k)) := by
  rw [ofBytes_map_range]
  induction m generalizing lo with
  | nil => simp [Memory.readNat, Memory.get, Config.unwritten]
  | cons c m ih =>
    simp only [Memory.risingFrom, Bool.and_eq_true, decide_eq_true_eq] at h
    have h0 : Memory.get m c.1 = 0 := Memory.get_of_ge h.2 (by omega)
    have hstep : Memory.readNat (c :: m) a n =
        if a ≤ c.1 ∧ c.1 < a + n then c.2.toNat * 256 ^ (c.1 - a) + Memory.readNat m a n else Memory.readNat m a n := by
      simp [Memory.readNat]
    rw [hstep, ih h.2]
    by_cases hc : a ≤ c.1 ∧ c.1 < a + n
    · rw [if_pos hc]
      have hk : c.1 - a ∈ Finset.range n := by simp only [Finset.mem_range]; omega
      rw [← Finset.add_sum_erase _ _ hk, ← Finset.add_sum_erase _ _ hk]
      have e : a + (c.1 - a) = c.1 := by omega
      have hrest : ∑ k ∈ (Finset.range n).erase (c.1 - a), (Memory.get (c :: m) (a + k)).toNat * 256 ^ k
          = ∑ k ∈ (Finset.range n).erase (c.1 - a), (Memory.get m (a + k)).toNat * 256 ^ k := by
        apply Finset.sum_congr rfl
        intro k hk
        have hne : c.1 ≠ a + k := by
          have := (Finset.mem_erase.mp hk).1
          omega
        simp only [Memory.get, hne, if_false]
      rw [hrest, e]
      simp [Memory.get, h0]
    · rw [if_neg hc]
      apply Finset.sum_congr rfl
      intro k hk
      have hne : c.1 ≠ a + k := by
        have := Finset.mem_range.mp hk
        omega
      simp only [Memory.get, hne, if_false]

/-- Byte k of a wide read of a canonical memory. -/
theorem Memory.readNat_byte {m : Memory} (h : m.wf = true) (a n k : Nat) (hk : k < n) :
    byteOf (m.readNat a n) k = m.get (a + k) := by
  rw [Memory.readNat_eq h, ofBytes_byte]
  simp [hk]

/-- A wide read has no more than its bytes. -/
theorem Memory.readNat_lt {m : Memory} (h : m.wf = true) (a n : Nat) : m.readNat a n < 256 ^ n := by
  rw [Memory.readNat_eq h]
  simpa using ofBytes_lt ((List.range n).map fun k => m.get (a + k))

/-- Canonical memories that read alike are equal data. -/
theorem Memory.ext {m n : Memory} {lo : Nat} (hm : Memory.risingFrom lo m = true) (hn : Memory.risingFrom lo n = true)
    (h : ∀ a, m.get a = n.get a) : m = n := by
  induction m generalizing n lo with
  | nil =>
    cases n with
    | nil => rfl
    | cons d n =>
      simp only [Memory.risingFrom, Bool.and_eq_true, decide_eq_true_eq] at hn
      have := h d.1
      simp [Memory.get] at this
      simp [← this] at hn
  | cons c m ih =>
    cases n with
    | nil =>
      simp only [Memory.risingFrom, Bool.and_eq_true, decide_eq_true_eq] at hm
      have := h c.1
      simp [Memory.get] at this
      simp [this] at hm
    | cons d n =>
      simp only [Memory.risingFrom, Bool.and_eq_true, decide_eq_true_eq] at hm hn
      have hc := h c.1
      have hd := h d.1
      simp only [Memory.get, if_true] at hc hd
      have e1 : c.1 = d.1 := by
        by_contra hne
        rcases Nat.lt_or_gt_of_ne hne with hlt | hgt
        · rw [if_neg (by omega), Memory.get_of_ge hn.2 (by omega)] at hc
          simp [hc] at hm
        · rw [if_neg (by omega), Memory.get_of_ge hm.2 (by omega)] at hd
          simp [← hd] at hn
      have e2 : c.2 = d.2 := by rw [if_pos e1.symm] at hc; exact hc
      have hcd : c = d := Prod.ext e1 e2
      subst hcd
      congr 1
      refine ih hm.2 hn.2 fun a => ?_
      by_cases ha : c.1 = a
      · subst ha
        rw [Memory.get_of_ge hm.2 (by omega), Memory.get_of_ge hn.2 (by omega)]
      · have := h a
        simpa [Memory.get, ha] using this

end Sys2Proof.Machine
end

