-- ==== Sys2Proof/Laws/State.lean ====
section
/-! SUPPORT. One lemma for each field of the state and each update of it: what the update leaves and what it sets. -/

namespace Sys2Proof.Machine

variable (s : State)

/-! ### onSeq -/

@[simp] theorem State.onSeq_now (f : Seq → Seq) : (s.onSeq f).now = s.now := rfl
@[simp] theorem State.onSeq_phase (f : Seq → Seq) : (s.onSeq f).phase = s.phase := rfl
@[simp] theorem State.onSeq_seq (f : Seq → Seq) : (s.onSeq f).seq = f s.seq := rfl
@[simp] theorem State.onSeq_sys (f : Seq → Seq) : (s.onSeq f).sys = s.sys := rfl
@[simp] theorem State.onSeq_ann (f : Seq → Seq) : (s.onSeq f).ann = s.ann := rfl
@[simp] theorem State.onSeq_sems (f : Seq → Seq) : (s.onSeq f).sems = s.sems := rfl
@[simp] theorem State.onSeq_mx (f : Seq → Seq) : (s.onSeq f).mx = s.mx := rfl
@[simp] theorem State.onSeq_sh (f : Seq → Seq) : (s.onSeq f).sh = s.sh := rfl
@[simp] theorem State.onSeq_cp (f : Seq → Seq) : (s.onSeq f).cp = s.cp := rfl
@[simp] theorem State.onSeq_tm (f : Seq → Seq) : (s.onSeq f).tm = s.tm := rfl
@[simp] theorem State.onSeq_ax (f : Seq → Seq) : (s.onSeq f).ax = s.ax := rfl
@[simp] theorem State.onSeq_seg (f : Seq → Seq) : (s.onSeq f).seg = s.seg := rfl
@[simp] theorem State.onSeq_prog (f : Seq → Seq) : (s.onSeq f).prog = s.prog := rfl
@[simp] theorem State.onSeq_pred (f : Seq → Seq) : (s.onSeq f).pred = s.pred := rfl
@[simp] theorem State.onSeq_hl (f : Seq → Seq) : (s.onSeq f).hl = s.hl := rfl
@[simp] theorem State.onSeq_phy (f : Seq → Seq) : (s.onSeq f).phy = s.phy := rfl
@[simp] theorem State.onSeq_phyFlash (f : Seq → Seq) : (s.onSeq f).phyFlash = s.phyFlash := rfl
@[simp] theorem State.onSeq_apex (f : Seq → Seq) : (s.onSeq f).apex = s.apex := rfl
@[simp] theorem State.onSeq_predOut (f : Seq → Seq) : (s.onSeq f).predOut = s.predOut := rfl
@[simp] theorem State.onSeq_predAs (f : Seq → Seq) : (s.onSeq f).predAs = s.predAs := rfl
@[simp] theorem State.onSeq_dies (f : Seq → Seq) : (s.onSeq f).dies = s.dies := rfl
@[simp] theorem State.onSeq_saving (f : Seq → Seq) : (s.onSeq f).saving = s.saving := rfl
@[simp] theorem State.onSeq_saved (f : Seq → Seq) : (s.onSeq f).saved = s.saved := rfl
@[simp] theorem State.onSeq_preq (f : Seq → Seq) : (s.onSeq f).preq = s.preq := rfl
@[simp] theorem State.onSeq_ckptOpen (f : Seq → Seq) : (s.onSeq f).ckptOpen = s.ckptOpen := rfl
@[simp] theorem State.onSeq_frame (f : Seq → Seq) : (s.onSeq f).frame = s.frame := rfl
@[simp] theorem State.onSeq_firmware (f : Seq → Seq) : (s.onSeq f).firmware = s.firmware := rfl
@[simp] theorem State.onSeq_incs (f : Seq → Seq) : (s.onSeq f).incs = s.incs := rfl
@[simp] theorem State.onSeq_fails (f : Seq → Seq) : (s.onSeq f).fails = s.fails := rfl
@[simp] theorem State.onSeq_agenda (f : Seq → Seq) : (s.onSeq f).agenda = s.agenda := rfl
@[simp] theorem State.onSeq_inbox (f : Seq → Seq) : (s.onSeq f).inbox = s.inbox := rfl
@[simp] theorem State.onSeq_out (f : Seq → Seq) : (s.onSeq f).out = s.out := rfl
@[simp] theorem State.onSeq_freeCtr (f : Seq → Seq) : (s.onSeq f).freeCtr = s.freeCtr := rfl

/-! ### onSys -/

@[simp] theorem State.onSys_now (f : SysRegs → SysRegs) : (s.onSys f).now = s.now := rfl
@[simp] theorem State.onSys_phase (f : SysRegs → SysRegs) : (s.onSys f).phase = s.phase := rfl
@[simp] theorem State.onSys_seq (f : SysRegs → SysRegs) : (s.onSys f).seq = s.seq := rfl
@[simp] theorem State.onSys_sys (f : SysRegs → SysRegs) : (s.onSys f).sys = f s.sys := rfl
@[simp] theorem State.onSys_ann (f : SysRegs → SysRegs) : (s.onSys f).ann = s.ann := rfl
@[simp] theorem State.onSys_sems (f : SysRegs → SysRegs) : (s.onSys f).sems = s.sems := rfl
@[simp] theorem State.onSys_mx (f : SysRegs → SysRegs) : (s.onSys f).mx = s.mx := rfl
@[simp] theorem State.onSys_sh (f : SysRegs → SysRegs) : (s.onSys f).sh = s.sh := rfl
@[simp] theorem State.onSys_cp (f : SysRegs → SysRegs) : (s.onSys f).cp = s.cp := rfl
@[simp] theorem State.onSys_tm (f : SysRegs → SysRegs) : (s.onSys f).tm = s.tm := rfl
@[simp] theorem State.onSys_ax (f : SysRegs → SysRegs) : (s.onSys f).ax = s.ax := rfl
@[simp] theorem State.onSys_seg (f : SysRegs → SysRegs) : (s.onSys f).seg = s.seg := rfl
@[simp] theorem State.onSys_prog (f : SysRegs → SysRegs) : (s.onSys f).prog = s.prog := rfl
@[simp] theorem State.onSys_pred (f : SysRegs → SysRegs) : (s.onSys f).pred = s.pred := rfl
@[simp] theorem State.onSys_hl (f : SysRegs → SysRegs) : (s.onSys f).hl = s.hl := rfl
@[simp] theorem State.onSys_phy (f : SysRegs → SysRegs) : (s.onSys f).phy = s.phy := rfl
@[simp] theorem State.onSys_phyFlash (f : SysRegs → SysRegs) : (s.onSys f).phyFlash = s.phyFlash := rfl
@[simp] theorem State.onSys_apex (f : SysRegs → SysRegs) : (s.onSys f).apex = s.apex := rfl
@[simp] theorem State.onSys_predOut (f : SysRegs → SysRegs) : (s.onSys f).predOut = s.predOut := rfl
@[simp] theorem State.onSys_predAs (f : SysRegs → SysRegs) : (s.onSys f).predAs = s.predAs := rfl
@[simp] theorem State.onSys_dies (f : SysRegs → SysRegs) : (s.onSys f).dies = s.dies := rfl
@[simp] theorem State.onSys_saving (f : SysRegs → SysRegs) : (s.onSys f).saving = s.saving := rfl
@[simp] theorem State.onSys_saved (f : SysRegs → SysRegs) : (s.onSys f).saved = s.saved := rfl
@[simp] theorem State.onSys_preq (f : SysRegs → SysRegs) : (s.onSys f).preq = s.preq := rfl
@[simp] theorem State.onSys_ckptOpen (f : SysRegs → SysRegs) : (s.onSys f).ckptOpen = s.ckptOpen := rfl
@[simp] theorem State.onSys_frame (f : SysRegs → SysRegs) : (s.onSys f).frame = s.frame := rfl
@[simp] theorem State.onSys_firmware (f : SysRegs → SysRegs) : (s.onSys f).firmware = s.firmware := rfl
@[simp] theorem State.onSys_incs (f : SysRegs → SysRegs) : (s.onSys f).incs = s.incs := rfl
@[simp] theorem State.onSys_fails (f : SysRegs → SysRegs) : (s.onSys f).fails = s.fails := rfl
@[simp] theorem State.onSys_agenda (f : SysRegs → SysRegs) : (s.onSys f).agenda = s.agenda := rfl
@[simp] theorem State.onSys_inbox (f : SysRegs → SysRegs) : (s.onSys f).inbox = s.inbox := rfl
@[simp] theorem State.onSys_out (f : SysRegs → SysRegs) : (s.onSys f).out = s.out := rfl
@[simp] theorem State.onSys_freeCtr (f : SysRegs → SysRegs) : (s.onSys f).freeCtr = s.freeCtr := rfl

/-! ### onAnn -/

@[simp] theorem State.onAnn_now (f : Annulus → Annulus) : (s.onAnn f).now = s.now := rfl
@[simp] theorem State.onAnn_phase (f : Annulus → Annulus) : (s.onAnn f).phase = s.phase := rfl
@[simp] theorem State.onAnn_seq (f : Annulus → Annulus) : (s.onAnn f).seq = s.seq := rfl
@[simp] theorem State.onAnn_sys (f : Annulus → Annulus) : (s.onAnn f).sys = s.sys := rfl
@[simp] theorem State.onAnn_ann (f : Annulus → Annulus) : (s.onAnn f).ann = f s.ann := rfl
@[simp] theorem State.onAnn_sems (f : Annulus → Annulus) : (s.onAnn f).sems = s.sems := rfl
@[simp] theorem State.onAnn_mx (f : Annulus → Annulus) : (s.onAnn f).mx = s.mx := rfl
@[simp] theorem State.onAnn_sh (f : Annulus → Annulus) : (s.onAnn f).sh = s.sh := rfl
@[simp] theorem State.onAnn_cp (f : Annulus → Annulus) : (s.onAnn f).cp = s.cp := rfl
@[simp] theorem State.onAnn_tm (f : Annulus → Annulus) : (s.onAnn f).tm = s.tm := rfl
@[simp] theorem State.onAnn_ax (f : Annulus → Annulus) : (s.onAnn f).ax = s.ax := rfl
@[simp] theorem State.onAnn_seg (f : Annulus → Annulus) : (s.onAnn f).seg = s.seg := rfl
@[simp] theorem State.onAnn_prog (f : Annulus → Annulus) : (s.onAnn f).prog = s.prog := rfl
@[simp] theorem State.onAnn_pred (f : Annulus → Annulus) : (s.onAnn f).pred = s.pred := rfl
@[simp] theorem State.onAnn_hl (f : Annulus → Annulus) : (s.onAnn f).hl = s.hl := rfl
@[simp] theorem State.onAnn_phy (f : Annulus → Annulus) : (s.onAnn f).phy = s.phy := rfl
@[simp] theorem State.onAnn_phyFlash (f : Annulus → Annulus) : (s.onAnn f).phyFlash = s.phyFlash := rfl
@[simp] theorem State.onAnn_apex (f : Annulus → Annulus) : (s.onAnn f).apex = s.apex := rfl
@[simp] theorem State.onAnn_predOut (f : Annulus → Annulus) : (s.onAnn f).predOut = s.predOut := rfl
@[simp] theorem State.onAnn_predAs (f : Annulus → Annulus) : (s.onAnn f).predAs = s.predAs := rfl
@[simp] theorem State.onAnn_dies (f : Annulus → Annulus) : (s.onAnn f).dies = s.dies := rfl
@[simp] theorem State.onAnn_saving (f : Annulus → Annulus) : (s.onAnn f).saving = s.saving := rfl
@[simp] theorem State.onAnn_saved (f : Annulus → Annulus) : (s.onAnn f).saved = s.saved := rfl
@[simp] theorem State.onAnn_preq (f : Annulus → Annulus) : (s.onAnn f).preq = s.preq := rfl
@[simp] theorem State.onAnn_ckptOpen (f : Annulus → Annulus) : (s.onAnn f).ckptOpen = s.ckptOpen := rfl
@[simp] theorem State.onAnn_frame (f : Annulus → Annulus) : (s.onAnn f).frame = s.frame := rfl
@[simp] theorem State.onAnn_firmware (f : Annulus → Annulus) : (s.onAnn f).firmware = s.firmware := rfl
@[simp] theorem State.onAnn_incs (f : Annulus → Annulus) : (s.onAnn f).incs = s.incs := rfl
@[simp] theorem State.onAnn_fails (f : Annulus → Annulus) : (s.onAnn f).fails = s.fails := rfl
@[simp] theorem State.onAnn_agenda (f : Annulus → Annulus) : (s.onAnn f).agenda = s.agenda := rfl
@[simp] theorem State.onAnn_inbox (f : Annulus → Annulus) : (s.onAnn f).inbox = s.inbox := rfl
@[simp] theorem State.onAnn_out (f : Annulus → Annulus) : (s.onAnn f).out = s.out := rfl
@[simp] theorem State.onAnn_freeCtr (f : Annulus → Annulus) : (s.onAnn f).freeCtr = s.freeCtr := rfl

/-! ### onMx -/

@[simp] theorem State.onMx_now (f : Matrix → Matrix) : (s.onMx f).now = s.now := rfl
@[simp] theorem State.onMx_phase (f : Matrix → Matrix) : (s.onMx f).phase = s.phase := rfl
@[simp] theorem State.onMx_seq (f : Matrix → Matrix) : (s.onMx f).seq = s.seq := rfl
@[simp] theorem State.onMx_sys (f : Matrix → Matrix) : (s.onMx f).sys = s.sys := rfl
@[simp] theorem State.onMx_ann (f : Matrix → Matrix) : (s.onMx f).ann = s.ann := rfl
@[simp] theorem State.onMx_sems (f : Matrix → Matrix) : (s.onMx f).sems = s.sems := rfl
@[simp] theorem State.onMx_mx (f : Matrix → Matrix) : (s.onMx f).mx = f s.mx := rfl
@[simp] theorem State.onMx_sh (f : Matrix → Matrix) : (s.onMx f).sh = s.sh := rfl
@[simp] theorem State.onMx_cp (f : Matrix → Matrix) : (s.onMx f).cp = s.cp := rfl
@[simp] theorem State.onMx_tm (f : Matrix → Matrix) : (s.onMx f).tm = s.tm := rfl
@[simp] theorem State.onMx_ax (f : Matrix → Matrix) : (s.onMx f).ax = s.ax := rfl
@[simp] theorem State.onMx_seg (f : Matrix → Matrix) : (s.onMx f).seg = s.seg := rfl
@[simp] theorem State.onMx_prog (f : Matrix → Matrix) : (s.onMx f).prog = s.prog := rfl
@[simp] theorem State.onMx_pred (f : Matrix → Matrix) : (s.onMx f).pred = s.pred := rfl
@[simp] theorem State.onMx_hl (f : Matrix → Matrix) : (s.onMx f).hl = s.hl := rfl
@[simp] theorem State.onMx_phy (f : Matrix → Matrix) : (s.onMx f).phy = s.phy := rfl
@[simp] theorem State.onMx_phyFlash (f : Matrix → Matrix) : (s.onMx f).phyFlash = s.phyFlash := rfl
@[simp] theorem State.onMx_apex (f : Matrix → Matrix) : (s.onMx f).apex = s.apex := rfl
@[simp] theorem State.onMx_predOut (f : Matrix → Matrix) : (s.onMx f).predOut = s.predOut := rfl
@[simp] theorem State.onMx_predAs (f : Matrix → Matrix) : (s.onMx f).predAs = s.predAs := rfl
@[simp] theorem State.onMx_dies (f : Matrix → Matrix) : (s.onMx f).dies = s.dies := rfl
@[simp] theorem State.onMx_saving (f : Matrix → Matrix) : (s.onMx f).saving = s.saving := rfl
@[simp] theorem State.onMx_saved (f : Matrix → Matrix) : (s.onMx f).saved = s.saved := rfl
@[simp] theorem State.onMx_preq (f : Matrix → Matrix) : (s.onMx f).preq = s.preq := rfl
@[simp] theorem State.onMx_ckptOpen (f : Matrix → Matrix) : (s.onMx f).ckptOpen = s.ckptOpen := rfl
@[simp] theorem State.onMx_frame (f : Matrix → Matrix) : (s.onMx f).frame = s.frame := rfl
@[simp] theorem State.onMx_firmware (f : Matrix → Matrix) : (s.onMx f).firmware = s.firmware := rfl
@[simp] theorem State.onMx_incs (f : Matrix → Matrix) : (s.onMx f).incs = s.incs := rfl
@[simp] theorem State.onMx_fails (f : Matrix → Matrix) : (s.onMx f).fails = s.fails := rfl
@[simp] theorem State.onMx_agenda (f : Matrix → Matrix) : (s.onMx f).agenda = s.agenda := rfl
@[simp] theorem State.onMx_inbox (f : Matrix → Matrix) : (s.onMx f).inbox = s.inbox := rfl
@[simp] theorem State.onMx_out (f : Matrix → Matrix) : (s.onMx f).out = s.out := rfl
@[simp] theorem State.onMx_freeCtr (f : Matrix → Matrix) : (s.onMx f).freeCtr = s.freeCtr := rfl

/-! ### onSh -/

@[simp] theorem State.onSh_now (f : Shaping → Shaping) : (s.onSh f).now = s.now := rfl
@[simp] theorem State.onSh_phase (f : Shaping → Shaping) : (s.onSh f).phase = s.phase := rfl
@[simp] theorem State.onSh_seq (f : Shaping → Shaping) : (s.onSh f).seq = s.seq := rfl
@[simp] theorem State.onSh_sys (f : Shaping → Shaping) : (s.onSh f).sys = s.sys := rfl
@[simp] theorem State.onSh_ann (f : Shaping → Shaping) : (s.onSh f).ann = s.ann := rfl
@[simp] theorem State.onSh_sems (f : Shaping → Shaping) : (s.onSh f).sems = s.sems := rfl
@[simp] theorem State.onSh_mx (f : Shaping → Shaping) : (s.onSh f).mx = s.mx := rfl
@[simp] theorem State.onSh_sh (f : Shaping → Shaping) : (s.onSh f).sh = f s.sh := rfl
@[simp] theorem State.onSh_cp (f : Shaping → Shaping) : (s.onSh f).cp = s.cp := rfl
@[simp] theorem State.onSh_tm (f : Shaping → Shaping) : (s.onSh f).tm = s.tm := rfl
@[simp] theorem State.onSh_ax (f : Shaping → Shaping) : (s.onSh f).ax = s.ax := rfl
@[simp] theorem State.onSh_seg (f : Shaping → Shaping) : (s.onSh f).seg = s.seg := rfl
@[simp] theorem State.onSh_prog (f : Shaping → Shaping) : (s.onSh f).prog = s.prog := rfl
@[simp] theorem State.onSh_pred (f : Shaping → Shaping) : (s.onSh f).pred = s.pred := rfl
@[simp] theorem State.onSh_hl (f : Shaping → Shaping) : (s.onSh f).hl = s.hl := rfl
@[simp] theorem State.onSh_phy (f : Shaping → Shaping) : (s.onSh f).phy = s.phy := rfl
@[simp] theorem State.onSh_phyFlash (f : Shaping → Shaping) : (s.onSh f).phyFlash = s.phyFlash := rfl
@[simp] theorem State.onSh_apex (f : Shaping → Shaping) : (s.onSh f).apex = s.apex := rfl
@[simp] theorem State.onSh_predOut (f : Shaping → Shaping) : (s.onSh f).predOut = s.predOut := rfl
@[simp] theorem State.onSh_predAs (f : Shaping → Shaping) : (s.onSh f).predAs = s.predAs := rfl
@[simp] theorem State.onSh_dies (f : Shaping → Shaping) : (s.onSh f).dies = s.dies := rfl
@[simp] theorem State.onSh_saving (f : Shaping → Shaping) : (s.onSh f).saving = s.saving := rfl
@[simp] theorem State.onSh_saved (f : Shaping → Shaping) : (s.onSh f).saved = s.saved := rfl
@[simp] theorem State.onSh_preq (f : Shaping → Shaping) : (s.onSh f).preq = s.preq := rfl
@[simp] theorem State.onSh_ckptOpen (f : Shaping → Shaping) : (s.onSh f).ckptOpen = s.ckptOpen := rfl
@[simp] theorem State.onSh_frame (f : Shaping → Shaping) : (s.onSh f).frame = s.frame := rfl
@[simp] theorem State.onSh_firmware (f : Shaping → Shaping) : (s.onSh f).firmware = s.firmware := rfl
@[simp] theorem State.onSh_incs (f : Shaping → Shaping) : (s.onSh f).incs = s.incs := rfl
@[simp] theorem State.onSh_fails (f : Shaping → Shaping) : (s.onSh f).fails = s.fails := rfl
@[simp] theorem State.onSh_agenda (f : Shaping → Shaping) : (s.onSh f).agenda = s.agenda := rfl
@[simp] theorem State.onSh_inbox (f : Shaping → Shaping) : (s.onSh f).inbox = s.inbox := rfl
@[simp] theorem State.onSh_out (f : Shaping → Shaping) : (s.onSh f).out = s.out := rfl
@[simp] theorem State.onSh_freeCtr (f : Shaping → Shaping) : (s.onSh f).freeCtr = s.freeCtr := rfl

/-! ### onCp -/

@[simp] theorem State.onCp_now (f : Copy → Copy) : (s.onCp f).now = s.now := rfl
@[simp] theorem State.onCp_phase (f : Copy → Copy) : (s.onCp f).phase = s.phase := rfl
@[simp] theorem State.onCp_seq (f : Copy → Copy) : (s.onCp f).seq = s.seq := rfl
@[simp] theorem State.onCp_sys (f : Copy → Copy) : (s.onCp f).sys = s.sys := rfl
@[simp] theorem State.onCp_ann (f : Copy → Copy) : (s.onCp f).ann = s.ann := rfl
@[simp] theorem State.onCp_sems (f : Copy → Copy) : (s.onCp f).sems = s.sems := rfl
@[simp] theorem State.onCp_mx (f : Copy → Copy) : (s.onCp f).mx = s.mx := rfl
@[simp] theorem State.onCp_sh (f : Copy → Copy) : (s.onCp f).sh = s.sh := rfl
@[simp] theorem State.onCp_cp (f : Copy → Copy) : (s.onCp f).cp = f s.cp := rfl
@[simp] theorem State.onCp_tm (f : Copy → Copy) : (s.onCp f).tm = s.tm := rfl
@[simp] theorem State.onCp_ax (f : Copy → Copy) : (s.onCp f).ax = s.ax := rfl
@[simp] theorem State.onCp_seg (f : Copy → Copy) : (s.onCp f).seg = s.seg := rfl
@[simp] theorem State.onCp_prog (f : Copy → Copy) : (s.onCp f).prog = s.prog := rfl
@[simp] theorem State.onCp_pred (f : Copy → Copy) : (s.onCp f).pred = s.pred := rfl
@[simp] theorem State.onCp_hl (f : Copy → Copy) : (s.onCp f).hl = s.hl := rfl
@[simp] theorem State.onCp_phy (f : Copy → Copy) : (s.onCp f).phy = s.phy := rfl
@[simp] theorem State.onCp_phyFlash (f : Copy → Copy) : (s.onCp f).phyFlash = s.phyFlash := rfl
@[simp] theorem State.onCp_apex (f : Copy → Copy) : (s.onCp f).apex = s.apex := rfl
@[simp] theorem State.onCp_predOut (f : Copy → Copy) : (s.onCp f).predOut = s.predOut := rfl
@[simp] theorem State.onCp_predAs (f : Copy → Copy) : (s.onCp f).predAs = s.predAs := rfl
@[simp] theorem State.onCp_dies (f : Copy → Copy) : (s.onCp f).dies = s.dies := rfl
@[simp] theorem State.onCp_saving (f : Copy → Copy) : (s.onCp f).saving = s.saving := rfl
@[simp] theorem State.onCp_saved (f : Copy → Copy) : (s.onCp f).saved = s.saved := rfl
@[simp] theorem State.onCp_preq (f : Copy → Copy) : (s.onCp f).preq = s.preq := rfl
@[simp] theorem State.onCp_ckptOpen (f : Copy → Copy) : (s.onCp f).ckptOpen = s.ckptOpen := rfl
@[simp] theorem State.onCp_frame (f : Copy → Copy) : (s.onCp f).frame = s.frame := rfl
@[simp] theorem State.onCp_firmware (f : Copy → Copy) : (s.onCp f).firmware = s.firmware := rfl
@[simp] theorem State.onCp_incs (f : Copy → Copy) : (s.onCp f).incs = s.incs := rfl
@[simp] theorem State.onCp_fails (f : Copy → Copy) : (s.onCp f).fails = s.fails := rfl
@[simp] theorem State.onCp_agenda (f : Copy → Copy) : (s.onCp f).agenda = s.agenda := rfl
@[simp] theorem State.onCp_inbox (f : Copy → Copy) : (s.onCp f).inbox = s.inbox := rfl
@[simp] theorem State.onCp_out (f : Copy → Copy) : (s.onCp f).out = s.out := rfl
@[simp] theorem State.onCp_freeCtr (f : Copy → Copy) : (s.onCp f).freeCtr = s.freeCtr := rfl

/-! ### onTm -/

@[simp] theorem State.onTm_now (f : Timed → Timed) : (s.onTm f).now = s.now := rfl
@[simp] theorem State.onTm_phase (f : Timed → Timed) : (s.onTm f).phase = s.phase := rfl
@[simp] theorem State.onTm_seq (f : Timed → Timed) : (s.onTm f).seq = s.seq := rfl
@[simp] theorem State.onTm_sys (f : Timed → Timed) : (s.onTm f).sys = s.sys := rfl
@[simp] theorem State.onTm_ann (f : Timed → Timed) : (s.onTm f).ann = s.ann := rfl
@[simp] theorem State.onTm_sems (f : Timed → Timed) : (s.onTm f).sems = s.sems := rfl
@[simp] theorem State.onTm_mx (f : Timed → Timed) : (s.onTm f).mx = s.mx := rfl
@[simp] theorem State.onTm_sh (f : Timed → Timed) : (s.onTm f).sh = s.sh := rfl
@[simp] theorem State.onTm_cp (f : Timed → Timed) : (s.onTm f).cp = s.cp := rfl
@[simp] theorem State.onTm_tm (f : Timed → Timed) : (s.onTm f).tm = f s.tm := rfl
@[simp] theorem State.onTm_ax (f : Timed → Timed) : (s.onTm f).ax = s.ax := rfl
@[simp] theorem State.onTm_seg (f : Timed → Timed) : (s.onTm f).seg = s.seg := rfl
@[simp] theorem State.onTm_prog (f : Timed → Timed) : (s.onTm f).prog = s.prog := rfl
@[simp] theorem State.onTm_pred (f : Timed → Timed) : (s.onTm f).pred = s.pred := rfl
@[simp] theorem State.onTm_hl (f : Timed → Timed) : (s.onTm f).hl = s.hl := rfl
@[simp] theorem State.onTm_phy (f : Timed → Timed) : (s.onTm f).phy = s.phy := rfl
@[simp] theorem State.onTm_phyFlash (f : Timed → Timed) : (s.onTm f).phyFlash = s.phyFlash := rfl
@[simp] theorem State.onTm_apex (f : Timed → Timed) : (s.onTm f).apex = s.apex := rfl
@[simp] theorem State.onTm_predOut (f : Timed → Timed) : (s.onTm f).predOut = s.predOut := rfl
@[simp] theorem State.onTm_predAs (f : Timed → Timed) : (s.onTm f).predAs = s.predAs := rfl
@[simp] theorem State.onTm_dies (f : Timed → Timed) : (s.onTm f).dies = s.dies := rfl
@[simp] theorem State.onTm_saving (f : Timed → Timed) : (s.onTm f).saving = s.saving := rfl
@[simp] theorem State.onTm_saved (f : Timed → Timed) : (s.onTm f).saved = s.saved := rfl
@[simp] theorem State.onTm_preq (f : Timed → Timed) : (s.onTm f).preq = s.preq := rfl
@[simp] theorem State.onTm_ckptOpen (f : Timed → Timed) : (s.onTm f).ckptOpen = s.ckptOpen := rfl
@[simp] theorem State.onTm_frame (f : Timed → Timed) : (s.onTm f).frame = s.frame := rfl
@[simp] theorem State.onTm_firmware (f : Timed → Timed) : (s.onTm f).firmware = s.firmware := rfl
@[simp] theorem State.onTm_incs (f : Timed → Timed) : (s.onTm f).incs = s.incs := rfl
@[simp] theorem State.onTm_fails (f : Timed → Timed) : (s.onTm f).fails = s.fails := rfl
@[simp] theorem State.onTm_agenda (f : Timed → Timed) : (s.onTm f).agenda = s.agenda := rfl
@[simp] theorem State.onTm_inbox (f : Timed → Timed) : (s.onTm f).inbox = s.inbox := rfl
@[simp] theorem State.onTm_out (f : Timed → Timed) : (s.onTm f).out = s.out := rfl
@[simp] theorem State.onTm_freeCtr (f : Timed → Timed) : (s.onTm f).freeCtr = s.freeCtr := rfl

/-! ### onAx -/

@[simp] theorem State.onAx_now (f : Abscissa → Abscissa) : (s.onAx f).now = s.now := rfl
@[simp] theorem State.onAx_phase (f : Abscissa → Abscissa) : (s.onAx f).phase = s.phase := rfl
@[simp] theorem State.onAx_seq (f : Abscissa → Abscissa) : (s.onAx f).seq = s.seq := rfl
@[simp] theorem State.onAx_sys (f : Abscissa → Abscissa) : (s.onAx f).sys = s.sys := rfl
@[simp] theorem State.onAx_ann (f : Abscissa → Abscissa) : (s.onAx f).ann = s.ann := rfl
@[simp] theorem State.onAx_sems (f : Abscissa → Abscissa) : (s.onAx f).sems = s.sems := rfl
@[simp] theorem State.onAx_mx (f : Abscissa → Abscissa) : (s.onAx f).mx = s.mx := rfl
@[simp] theorem State.onAx_sh (f : Abscissa → Abscissa) : (s.onAx f).sh = s.sh := rfl
@[simp] theorem State.onAx_cp (f : Abscissa → Abscissa) : (s.onAx f).cp = s.cp := rfl
@[simp] theorem State.onAx_tm (f : Abscissa → Abscissa) : (s.onAx f).tm = s.tm := rfl
@[simp] theorem State.onAx_ax (f : Abscissa → Abscissa) : (s.onAx f).ax = f s.ax := rfl
@[simp] theorem State.onAx_seg (f : Abscissa → Abscissa) : (s.onAx f).seg = s.seg := rfl
@[simp] theorem State.onAx_prog (f : Abscissa → Abscissa) : (s.onAx f).prog = s.prog := rfl
@[simp] theorem State.onAx_pred (f : Abscissa → Abscissa) : (s.onAx f).pred = s.pred := rfl
@[simp] theorem State.onAx_hl (f : Abscissa → Abscissa) : (s.onAx f).hl = s.hl := rfl
@[simp] theorem State.onAx_phy (f : Abscissa → Abscissa) : (s.onAx f).phy = s.phy := rfl
@[simp] theorem State.onAx_phyFlash (f : Abscissa → Abscissa) : (s.onAx f).phyFlash = s.phyFlash := rfl
@[simp] theorem State.onAx_apex (f : Abscissa → Abscissa) : (s.onAx f).apex = s.apex := rfl
@[simp] theorem State.onAx_predOut (f : Abscissa → Abscissa) : (s.onAx f).predOut = s.predOut := rfl
@[simp] theorem State.onAx_predAs (f : Abscissa → Abscissa) : (s.onAx f).predAs = s.predAs := rfl
@[simp] theorem State.onAx_dies (f : Abscissa → Abscissa) : (s.onAx f).dies = s.dies := rfl
@[simp] theorem State.onAx_saving (f : Abscissa → Abscissa) : (s.onAx f).saving = s.saving := rfl
@[simp] theorem State.onAx_saved (f : Abscissa → Abscissa) : (s.onAx f).saved = s.saved := rfl
@[simp] theorem State.onAx_preq (f : Abscissa → Abscissa) : (s.onAx f).preq = s.preq := rfl
@[simp] theorem State.onAx_ckptOpen (f : Abscissa → Abscissa) : (s.onAx f).ckptOpen = s.ckptOpen := rfl
@[simp] theorem State.onAx_frame (f : Abscissa → Abscissa) : (s.onAx f).frame = s.frame := rfl
@[simp] theorem State.onAx_firmware (f : Abscissa → Abscissa) : (s.onAx f).firmware = s.firmware := rfl
@[simp] theorem State.onAx_incs (f : Abscissa → Abscissa) : (s.onAx f).incs = s.incs := rfl
@[simp] theorem State.onAx_fails (f : Abscissa → Abscissa) : (s.onAx f).fails = s.fails := rfl
@[simp] theorem State.onAx_agenda (f : Abscissa → Abscissa) : (s.onAx f).agenda = s.agenda := rfl
@[simp] theorem State.onAx_inbox (f : Abscissa → Abscissa) : (s.onAx f).inbox = s.inbox := rfl
@[simp] theorem State.onAx_out (f : Abscissa → Abscissa) : (s.onAx f).out = s.out := rfl
@[simp] theorem State.onAx_freeCtr (f : Abscissa → Abscissa) : (s.onAx f).freeCtr = s.freeCtr := rfl

/-! ### onHl -/

@[simp] theorem State.onHl_now (f : Health → Health) : (s.onHl f).now = s.now := rfl
@[simp] theorem State.onHl_phase (f : Health → Health) : (s.onHl f).phase = s.phase := rfl
@[simp] theorem State.onHl_seq (f : Health → Health) : (s.onHl f).seq = s.seq := rfl
@[simp] theorem State.onHl_sys (f : Health → Health) : (s.onHl f).sys = s.sys := rfl
@[simp] theorem State.onHl_ann (f : Health → Health) : (s.onHl f).ann = s.ann := rfl
@[simp] theorem State.onHl_sems (f : Health → Health) : (s.onHl f).sems = s.sems := rfl
@[simp] theorem State.onHl_mx (f : Health → Health) : (s.onHl f).mx = s.mx := rfl
@[simp] theorem State.onHl_sh (f : Health → Health) : (s.onHl f).sh = s.sh := rfl
@[simp] theorem State.onHl_cp (f : Health → Health) : (s.onHl f).cp = s.cp := rfl
@[simp] theorem State.onHl_tm (f : Health → Health) : (s.onHl f).tm = s.tm := rfl
@[simp] theorem State.onHl_ax (f : Health → Health) : (s.onHl f).ax = s.ax := rfl
@[simp] theorem State.onHl_seg (f : Health → Health) : (s.onHl f).seg = s.seg := rfl
@[simp] theorem State.onHl_prog (f : Health → Health) : (s.onHl f).prog = s.prog := rfl
@[simp] theorem State.onHl_pred (f : Health → Health) : (s.onHl f).pred = s.pred := rfl
@[simp] theorem State.onHl_hl (f : Health → Health) : (s.onHl f).hl = f s.hl := rfl
@[simp] theorem State.onHl_phy (f : Health → Health) : (s.onHl f).phy = s.phy := rfl
@[simp] theorem State.onHl_phyFlash (f : Health → Health) : (s.onHl f).phyFlash = s.phyFlash := rfl
@[simp] theorem State.onHl_apex (f : Health → Health) : (s.onHl f).apex = s.apex := rfl
@[simp] theorem State.onHl_predOut (f : Health → Health) : (s.onHl f).predOut = s.predOut := rfl
@[simp] theorem State.onHl_predAs (f : Health → Health) : (s.onHl f).predAs = s.predAs := rfl
@[simp] theorem State.onHl_dies (f : Health → Health) : (s.onHl f).dies = s.dies := rfl
@[simp] theorem State.onHl_saving (f : Health → Health) : (s.onHl f).saving = s.saving := rfl
@[simp] theorem State.onHl_saved (f : Health → Health) : (s.onHl f).saved = s.saved := rfl
@[simp] theorem State.onHl_preq (f : Health → Health) : (s.onHl f).preq = s.preq := rfl
@[simp] theorem State.onHl_ckptOpen (f : Health → Health) : (s.onHl f).ckptOpen = s.ckptOpen := rfl
@[simp] theorem State.onHl_frame (f : Health → Health) : (s.onHl f).frame = s.frame := rfl
@[simp] theorem State.onHl_firmware (f : Health → Health) : (s.onHl f).firmware = s.firmware := rfl
@[simp] theorem State.onHl_incs (f : Health → Health) : (s.onHl f).incs = s.incs := rfl
@[simp] theorem State.onHl_fails (f : Health → Health) : (s.onHl f).fails = s.fails := rfl
@[simp] theorem State.onHl_agenda (f : Health → Health) : (s.onHl f).agenda = s.agenda := rfl
@[simp] theorem State.onHl_inbox (f : Health → Health) : (s.onHl f).inbox = s.inbox := rfl
@[simp] theorem State.onHl_out (f : Health → Health) : (s.onHl f).out = s.out := rfl
@[simp] theorem State.onHl_freeCtr (f : Health → Health) : (s.onHl f).freeCtr = s.freeCtr := rfl

/-! ### onApex -/

@[simp] theorem State.onApex_now (f : Apex → Apex) : (s.onApex f).now = s.now := rfl
@[simp] theorem State.onApex_phase (f : Apex → Apex) : (s.onApex f).phase = s.phase := rfl
@[simp] theorem State.onApex_seq (f : Apex → Apex) : (s.onApex f).seq = s.seq := rfl
@[simp] theorem State.onApex_sys (f : Apex → Apex) : (s.onApex f).sys = s.sys := rfl
@[simp] theorem State.onApex_ann (f : Apex → Apex) : (s.onApex f).ann = s.ann := rfl
@[simp] theorem State.onApex_sems (f : Apex → Apex) : (s.onApex f).sems = s.sems := rfl
@[simp] theorem State.onApex_mx (f : Apex → Apex) : (s.onApex f).mx = s.mx := rfl
@[simp] theorem State.onApex_sh (f : Apex → Apex) : (s.onApex f).sh = s.sh := rfl
@[simp] theorem State.onApex_cp (f : Apex → Apex) : (s.onApex f).cp = s.cp := rfl
@[simp] theorem State.onApex_tm (f : Apex → Apex) : (s.onApex f).tm = s.tm := rfl
@[simp] theorem State.onApex_ax (f : Apex → Apex) : (s.onApex f).ax = s.ax := rfl
@[simp] theorem State.onApex_seg (f : Apex → Apex) : (s.onApex f).seg = s.seg := rfl
@[simp] theorem State.onApex_prog (f : Apex → Apex) : (s.onApex f).prog = s.prog := rfl
@[simp] theorem State.onApex_pred (f : Apex → Apex) : (s.onApex f).pred = s.pred := rfl
@[simp] theorem State.onApex_hl (f : Apex → Apex) : (s.onApex f).hl = s.hl := rfl
@[simp] theorem State.onApex_phy (f : Apex → Apex) : (s.onApex f).phy = s.phy := rfl
@[simp] theorem State.onApex_phyFlash (f : Apex → Apex) : (s.onApex f).phyFlash = s.phyFlash := rfl
@[simp] theorem State.onApex_apex (f : Apex → Apex) : (s.onApex f).apex = f s.apex := rfl
@[simp] theorem State.onApex_predOut (f : Apex → Apex) : (s.onApex f).predOut = s.predOut := rfl
@[simp] theorem State.onApex_predAs (f : Apex → Apex) : (s.onApex f).predAs = s.predAs := rfl
@[simp] theorem State.onApex_dies (f : Apex → Apex) : (s.onApex f).dies = s.dies := rfl
@[simp] theorem State.onApex_saving (f : Apex → Apex) : (s.onApex f).saving = s.saving := rfl
@[simp] theorem State.onApex_saved (f : Apex → Apex) : (s.onApex f).saved = s.saved := rfl
@[simp] theorem State.onApex_preq (f : Apex → Apex) : (s.onApex f).preq = s.preq := rfl
@[simp] theorem State.onApex_ckptOpen (f : Apex → Apex) : (s.onApex f).ckptOpen = s.ckptOpen := rfl
@[simp] theorem State.onApex_frame (f : Apex → Apex) : (s.onApex f).frame = s.frame := rfl
@[simp] theorem State.onApex_firmware (f : Apex → Apex) : (s.onApex f).firmware = s.firmware := rfl
@[simp] theorem State.onApex_incs (f : Apex → Apex) : (s.onApex f).incs = s.incs := rfl
@[simp] theorem State.onApex_fails (f : Apex → Apex) : (s.onApex f).fails = s.fails := rfl
@[simp] theorem State.onApex_agenda (f : Apex → Apex) : (s.onApex f).agenda = s.agenda := rfl
@[simp] theorem State.onApex_inbox (f : Apex → Apex) : (s.onApex f).inbox = s.inbox := rfl
@[simp] theorem State.onApex_out (f : Apex → Apex) : (s.onApex f).out = s.out := rfl
@[simp] theorem State.onApex_freeCtr (f : Apex → Apex) : (s.onApex f).freeCtr = s.freeCtr := rfl

/-! ### onSeg -/

@[simp] theorem State.onSeg_now (f : SegState → SegState) : (s.onSeg f).now = s.now := rfl
@[simp] theorem State.onSeg_phase (f : SegState → SegState) : (s.onSeg f).phase = s.phase := rfl
@[simp] theorem State.onSeg_seq (f : SegState → SegState) : (s.onSeg f).seq = s.seq := rfl
@[simp] theorem State.onSeg_sys (f : SegState → SegState) : (s.onSeg f).sys = s.sys := rfl
@[simp] theorem State.onSeg_ann (f : SegState → SegState) : (s.onSeg f).ann = s.ann := rfl
@[simp] theorem State.onSeg_sems (f : SegState → SegState) : (s.onSeg f).sems = s.sems := rfl
@[simp] theorem State.onSeg_mx (f : SegState → SegState) : (s.onSeg f).mx = s.mx := rfl
@[simp] theorem State.onSeg_sh (f : SegState → SegState) : (s.onSeg f).sh = s.sh := rfl
@[simp] theorem State.onSeg_cp (f : SegState → SegState) : (s.onSeg f).cp = s.cp := rfl
@[simp] theorem State.onSeg_tm (f : SegState → SegState) : (s.onSeg f).tm = s.tm := rfl
@[simp] theorem State.onSeg_ax (f : SegState → SegState) : (s.onSeg f).ax = s.ax := rfl
@[simp] theorem State.onSeg_seg (f : SegState → SegState) : (s.onSeg f).seg = f s.seg := rfl
@[simp] theorem State.onSeg_prog (f : SegState → SegState) : (s.onSeg f).prog = s.prog := rfl
@[simp] theorem State.onSeg_pred (f : SegState → SegState) : (s.onSeg f).pred = s.pred := rfl
@[simp] theorem State.onSeg_hl (f : SegState → SegState) : (s.onSeg f).hl = s.hl := rfl
@[simp] theorem State.onSeg_phy (f : SegState → SegState) : (s.onSeg f).phy = s.phy := rfl
@[simp] theorem State.onSeg_phyFlash (f : SegState → SegState) : (s.onSeg f).phyFlash = s.phyFlash := rfl
@[simp] theorem State.onSeg_apex (f : SegState → SegState) : (s.onSeg f).apex = s.apex := rfl
@[simp] theorem State.onSeg_predOut (f : SegState → SegState) : (s.onSeg f).predOut = s.predOut := rfl
@[simp] theorem State.onSeg_predAs (f : SegState → SegState) : (s.onSeg f).predAs = s.predAs := rfl
@[simp] theorem State.onSeg_dies (f : SegState → SegState) : (s.onSeg f).dies = s.dies := rfl
@[simp] theorem State.onSeg_saving (f : SegState → SegState) : (s.onSeg f).saving = s.saving := rfl
@[simp] theorem State.onSeg_saved (f : SegState → SegState) : (s.onSeg f).saved = s.saved := rfl
@[simp] theorem State.onSeg_preq (f : SegState → SegState) : (s.onSeg f).preq = s.preq := rfl
@[simp] theorem State.onSeg_ckptOpen (f : SegState → SegState) : (s.onSeg f).ckptOpen = s.ckptOpen := rfl
@[simp] theorem State.onSeg_frame (f : SegState → SegState) : (s.onSeg f).frame = s.frame := rfl
@[simp] theorem State.onSeg_firmware (f : SegState → SegState) : (s.onSeg f).firmware = s.firmware := rfl
@[simp] theorem State.onSeg_incs (f : SegState → SegState) : (s.onSeg f).incs = s.incs := rfl
@[simp] theorem State.onSeg_fails (f : SegState → SegState) : (s.onSeg f).fails = s.fails := rfl
@[simp] theorem State.onSeg_agenda (f : SegState → SegState) : (s.onSeg f).agenda = s.agenda := rfl
@[simp] theorem State.onSeg_inbox (f : SegState → SegState) : (s.onSeg f).inbox = s.inbox := rfl
@[simp] theorem State.onSeg_out (f : SegState → SegState) : (s.onSeg f).out = s.out := rfl
@[simp] theorem State.onSeg_freeCtr (f : SegState → SegState) : (s.onSeg f).freeCtr = s.freeCtr := rfl

/-! ### plan -/

@[simp] theorem State.plan_now (c r : Nat) (a : Act) : (s.plan c r a).now = s.now := rfl
@[simp] theorem State.plan_phase (c r : Nat) (a : Act) : (s.plan c r a).phase = s.phase := rfl
@[simp] theorem State.plan_seq (c r : Nat) (a : Act) : (s.plan c r a).seq = s.seq := rfl
@[simp] theorem State.plan_sys (c r : Nat) (a : Act) : (s.plan c r a).sys = s.sys := rfl
@[simp] theorem State.plan_ann (c r : Nat) (a : Act) : (s.plan c r a).ann = s.ann := rfl
@[simp] theorem State.plan_sems (c r : Nat) (a : Act) : (s.plan c r a).sems = s.sems := rfl
@[simp] theorem State.plan_mx (c r : Nat) (a : Act) : (s.plan c r a).mx = s.mx := rfl
@[simp] theorem State.plan_sh (c r : Nat) (a : Act) : (s.plan c r a).sh = s.sh := rfl
@[simp] theorem State.plan_cp (c r : Nat) (a : Act) : (s.plan c r a).cp = s.cp := rfl
@[simp] theorem State.plan_tm (c r : Nat) (a : Act) : (s.plan c r a).tm = s.tm := rfl
@[simp] theorem State.plan_ax (c r : Nat) (a : Act) : (s.plan c r a).ax = s.ax := rfl
@[simp] theorem State.plan_seg (c r : Nat) (a : Act) : (s.plan c r a).seg = s.seg := rfl
@[simp] theorem State.plan_prog (c r : Nat) (a : Act) : (s.plan c r a).prog = s.prog := rfl
@[simp] theorem State.plan_pred (c r : Nat) (a : Act) : (s.plan c r a).pred = s.pred := rfl
@[simp] theorem State.plan_hl (c r : Nat) (a : Act) : (s.plan c r a).hl = s.hl := rfl
@[simp] theorem State.plan_phy (c r : Nat) (a : Act) : (s.plan c r a).phy = s.phy := rfl
@[simp] theorem State.plan_phyFlash (c r : Nat) (a : Act) : (s.plan c r a).phyFlash = s.phyFlash := rfl
@[simp] theorem State.plan_apex (c r : Nat) (a : Act) : (s.plan c r a).apex = s.apex := rfl
@[simp] theorem State.plan_predOut (c r : Nat) (a : Act) : (s.plan c r a).predOut = s.predOut := rfl
@[simp] theorem State.plan_predAs (c r : Nat) (a : Act) : (s.plan c r a).predAs = s.predAs := rfl
@[simp] theorem State.plan_dies (c r : Nat) (a : Act) : (s.plan c r a).dies = s.dies := rfl
@[simp] theorem State.plan_saving (c r : Nat) (a : Act) : (s.plan c r a).saving = s.saving := rfl
@[simp] theorem State.plan_saved (c r : Nat) (a : Act) : (s.plan c r a).saved = s.saved := rfl
@[simp] theorem State.plan_preq (c r : Nat) (a : Act) : (s.plan c r a).preq = s.preq := rfl
@[simp] theorem State.plan_ckptOpen (c r : Nat) (a : Act) : (s.plan c r a).ckptOpen = s.ckptOpen := rfl
@[simp] theorem State.plan_frame (c r : Nat) (a : Act) : (s.plan c r a).frame = s.frame := rfl
@[simp] theorem State.plan_firmware (c r : Nat) (a : Act) : (s.plan c r a).firmware = s.firmware := rfl
@[simp] theorem State.plan_incs (c r : Nat) (a : Act) : (s.plan c r a).incs = s.incs := rfl
@[simp] theorem State.plan_fails (c r : Nat) (a : Act) : (s.plan c r a).fails = s.fails := rfl
@[simp] theorem State.plan_agenda (c r : Nat) (a : Act) : (s.plan c r a).agenda = insertDue { at_ := c, rank := r, act := a } s.agenda := rfl
@[simp] theorem State.plan_inbox (c r : Nat) (a : Act) : (s.plan c r a).inbox = s.inbox := rfl
@[simp] theorem State.plan_out (c r : Nat) (a : Act) : (s.plan c r a).out = s.out := rfl
@[simp] theorem State.plan_freeCtr (c r : Nat) (a : Act) : (s.plan c r a).freeCtr = s.freeCtr := rfl

/-! ### emit -/

@[simp] theorem State.emit_now (m : OutMsg) : (s.emit m).now = s.now := rfl
@[simp] theorem State.emit_phase (m : OutMsg) : (s.emit m).phase = s.phase := rfl
@[simp] theorem State.emit_seq (m : OutMsg) : (s.emit m).seq = s.seq := rfl
@[simp] theorem State.emit_sys (m : OutMsg) : (s.emit m).sys = s.sys := rfl
@[simp] theorem State.emit_ann (m : OutMsg) : (s.emit m).ann = s.ann := rfl
@[simp] theorem State.emit_sems (m : OutMsg) : (s.emit m).sems = s.sems := rfl
@[simp] theorem State.emit_mx (m : OutMsg) : (s.emit m).mx = s.mx := rfl
@[simp] theorem State.emit_sh (m : OutMsg) : (s.emit m).sh = s.sh := rfl
@[simp] theorem State.emit_cp (m : OutMsg) : (s.emit m).cp = s.cp := rfl
@[simp] theorem State.emit_tm (m : OutMsg) : (s.emit m).tm = s.tm := rfl
@[simp] theorem State.emit_ax (m : OutMsg) : (s.emit m).ax = s.ax := rfl
@[simp] theorem State.emit_seg (m : OutMsg) : (s.emit m).seg = s.seg := rfl
@[simp] theorem State.emit_prog (m : OutMsg) : (s.emit m).prog = s.prog := rfl
@[simp] theorem State.emit_pred (m : OutMsg) : (s.emit m).pred = s.pred := rfl
@[simp] theorem State.emit_hl (m : OutMsg) : (s.emit m).hl = s.hl := rfl
@[simp] theorem State.emit_phy (m : OutMsg) : (s.emit m).phy = s.phy := rfl
@[simp] theorem State.emit_phyFlash (m : OutMsg) : (s.emit m).phyFlash = s.phyFlash := rfl
@[simp] theorem State.emit_apex (m : OutMsg) : (s.emit m).apex = s.apex := rfl
@[simp] theorem State.emit_predOut (m : OutMsg) : (s.emit m).predOut = s.predOut := rfl
@[simp] theorem State.emit_predAs (m : OutMsg) : (s.emit m).predAs = s.predAs := rfl
@[simp] theorem State.emit_dies (m : OutMsg) : (s.emit m).dies = s.dies := rfl
@[simp] theorem State.emit_saving (m : OutMsg) : (s.emit m).saving = s.saving := rfl
@[simp] theorem State.emit_saved (m : OutMsg) : (s.emit m).saved = s.saved := rfl
@[simp] theorem State.emit_preq (m : OutMsg) : (s.emit m).preq = s.preq := rfl
@[simp] theorem State.emit_ckptOpen (m : OutMsg) : (s.emit m).ckptOpen = s.ckptOpen := rfl
@[simp] theorem State.emit_frame (m : OutMsg) : (s.emit m).frame = s.frame := rfl
@[simp] theorem State.emit_firmware (m : OutMsg) : (s.emit m).firmware = s.firmware := rfl
@[simp] theorem State.emit_incs (m : OutMsg) : (s.emit m).incs = s.incs := rfl
@[simp] theorem State.emit_fails (m : OutMsg) : (s.emit m).fails = s.fails := rfl
@[simp] theorem State.emit_agenda (m : OutMsg) : (s.emit m).agenda = s.agenda := rfl
@[simp] theorem State.emit_inbox (m : OutMsg) : (s.emit m).inbox = s.inbox := rfl
@[simp] theorem State.emit_out (m : OutMsg) : (s.emit m).out = s.out ++ [m] := rfl
@[simp] theorem State.emit_freeCtr (m : OutMsg) : (s.emit m).freeCtr = s.freeCtr := rfl

/-! ### signal -/

@[simp] theorem State.signal_now (i : Inc) : (s.signal i).now = s.now := rfl
@[simp] theorem State.signal_phase (i : Inc) : (s.signal i).phase = s.phase := rfl
@[simp] theorem State.signal_seq (i : Inc) : (s.signal i).seq = s.seq := rfl
@[simp] theorem State.signal_sys (i : Inc) : (s.signal i).sys = s.sys := rfl
@[simp] theorem State.signal_ann (i : Inc) : (s.signal i).ann = s.ann := rfl
@[simp] theorem State.signal_sems (i : Inc) : (s.signal i).sems = s.sems := rfl
@[simp] theorem State.signal_mx (i : Inc) : (s.signal i).mx = s.mx := rfl
@[simp] theorem State.signal_sh (i : Inc) : (s.signal i).sh = s.sh := rfl
@[simp] theorem State.signal_cp (i : Inc) : (s.signal i).cp = s.cp := rfl
@[simp] theorem State.signal_tm (i : Inc) : (s.signal i).tm = s.tm := rfl
@[simp] theorem State.signal_ax (i : Inc) : (s.signal i).ax = s.ax := rfl
@[simp] theorem State.signal_seg (i : Inc) : (s.signal i).seg = s.seg := rfl
@[simp] theorem State.signal_prog (i : Inc) : (s.signal i).prog = s.prog := rfl
@[simp] theorem State.signal_pred (i : Inc) : (s.signal i).pred = s.pred := rfl
@[simp] theorem State.signal_hl (i : Inc) : (s.signal i).hl = s.hl := rfl
@[simp] theorem State.signal_phy (i : Inc) : (s.signal i).phy = s.phy := rfl
@[simp] theorem State.signal_phyFlash (i : Inc) : (s.signal i).phyFlash = s.phyFlash := rfl
@[simp] theorem State.signal_apex (i : Inc) : (s.signal i).apex = s.apex := rfl
@[simp] theorem State.signal_predOut (i : Inc) : (s.signal i).predOut = s.predOut := rfl
@[simp] theorem State.signal_predAs (i : Inc) : (s.signal i).predAs = s.predAs := rfl
@[simp] theorem State.signal_dies (i : Inc) : (s.signal i).dies = s.dies := rfl
@[simp] theorem State.signal_saving (i : Inc) : (s.signal i).saving = s.saving := rfl
@[simp] theorem State.signal_saved (i : Inc) : (s.signal i).saved = s.saved := rfl
@[simp] theorem State.signal_preq (i : Inc) : (s.signal i).preq = s.preq := rfl
@[simp] theorem State.signal_ckptOpen (i : Inc) : (s.signal i).ckptOpen = s.ckptOpen := rfl
@[simp] theorem State.signal_frame (i : Inc) : (s.signal i).frame = s.frame := rfl
@[simp] theorem State.signal_firmware (i : Inc) : (s.signal i).firmware = s.firmware := rfl
@[simp] theorem State.signal_incs (i : Inc) : (s.signal i).incs = s.incs ++ [i] := rfl
@[simp] theorem State.signal_fails (i : Inc) : (s.signal i).fails = s.fails := rfl
@[simp] theorem State.signal_agenda (i : Inc) : (s.signal i).agenda = s.agenda := rfl
@[simp] theorem State.signal_inbox (i : Inc) : (s.signal i).inbox = s.inbox := rfl
@[simp] theorem State.signal_out (i : Inc) : (s.signal i).out = s.out := rfl
@[simp] theorem State.signal_freeCtr (i : Inc) : (s.signal i).freeCtr = s.freeCtr := rfl

/-! ### onSem -/

@[simp] theorem State.onSem_now (n : Fin 256) (f : Sem → Sem) : (s.onSem n f).now = s.now := rfl
@[simp] theorem State.onSem_phase (n : Fin 256) (f : Sem → Sem) : (s.onSem n f).phase = s.phase := rfl
@[simp] theorem State.onSem_seq (n : Fin 256) (f : Sem → Sem) : (s.onSem n f).seq = s.seq := rfl
@[simp] theorem State.onSem_sys (n : Fin 256) (f : Sem → Sem) : (s.onSem n f).sys = s.sys := rfl
@[simp] theorem State.onSem_ann (n : Fin 256) (f : Sem → Sem) : (s.onSem n f).ann = s.ann := rfl
@[simp] theorem State.onSem_sems (n : Fin 256) (f : Sem → Sem) : (s.onSem n f).sems = s.sems.set n (f s.sems[n]) := rfl
@[simp] theorem State.onSem_mx (n : Fin 256) (f : Sem → Sem) : (s.onSem n f).mx = s.mx := rfl
@[simp] theorem State.onSem_sh (n : Fin 256) (f : Sem → Sem) : (s.onSem n f).sh = s.sh := rfl
@[simp] theorem State.onSem_cp (n : Fin 256) (f : Sem → Sem) : (s.onSem n f).cp = s.cp := rfl
@[simp] theorem State.onSem_tm (n : Fin 256) (f : Sem → Sem) : (s.onSem n f).tm = s.tm := rfl
@[simp] theorem State.onSem_ax (n : Fin 256) (f : Sem → Sem) : (s.onSem n f).ax = s.ax := rfl
@[simp] theorem State.onSem_seg (n : Fin 256) (f : Sem → Sem) : (s.onSem n f).seg = s.seg := rfl
@[simp] theorem State.onSem_prog (n : Fin 256) (f : Sem → Sem) : (s.onSem n f).prog = s.prog := rfl
@[simp] theorem State.onSem_pred (n : Fin 256) (f : Sem → Sem) : (s.onSem n f).pred = s.pred := rfl
@[simp] theorem State.onSem_hl (n : Fin 256) (f : Sem → Sem) : (s.onSem n f).hl = s.hl := rfl
@[simp] theorem State.onSem_phy (n : Fin 256) (f : Sem → Sem) : (s.onSem n f).phy = s.phy := rfl
@[simp] theorem State.onSem_phyFlash (n : Fin 256) (f : Sem → Sem) : (s.onSem n f).phyFlash = s.phyFlash := rfl
@[simp] theorem State.onSem_apex (n : Fin 256) (f : Sem → Sem) : (s.onSem n f).apex = s.apex := rfl
@[simp] theorem State.onSem_predOut (n : Fin 256) (f : Sem → Sem) : (s.onSem n f).predOut = s.predOut := rfl
@[simp] theorem State.onSem_predAs (n : Fin 256) (f : Sem → Sem) : (s.onSem n f).predAs = s.predAs := rfl
@[simp] theorem State.onSem_dies (n : Fin 256) (f : Sem → Sem) : (s.onSem n f).dies = s.dies := rfl
@[simp] theorem State.onSem_saving (n : Fin 256) (f : Sem → Sem) : (s.onSem n f).saving = s.saving := rfl
@[simp] theorem State.onSem_saved (n : Fin 256) (f : Sem → Sem) : (s.onSem n f).saved = s.saved := rfl
@[simp] theorem State.onSem_preq (n : Fin 256) (f : Sem → Sem) : (s.onSem n f).preq = s.preq := rfl
@[simp] theorem State.onSem_ckptOpen (n : Fin 256) (f : Sem → Sem) : (s.onSem n f).ckptOpen = s.ckptOpen := rfl
@[simp] theorem State.onSem_frame (n : Fin 256) (f : Sem → Sem) : (s.onSem n f).frame = s.frame := rfl
@[simp] theorem State.onSem_firmware (n : Fin 256) (f : Sem → Sem) : (s.onSem n f).firmware = s.firmware := rfl
@[simp] theorem State.onSem_incs (n : Fin 256) (f : Sem → Sem) : (s.onSem n f).incs = s.incs := rfl
@[simp] theorem State.onSem_fails (n : Fin 256) (f : Sem → Sem) : (s.onSem n f).fails = s.fails := rfl
@[simp] theorem State.onSem_agenda (n : Fin 256) (f : Sem → Sem) : (s.onSem n f).agenda = s.agenda := rfl
@[simp] theorem State.onSem_inbox (n : Fin 256) (f : Sem → Sem) : (s.onSem n f).inbox = s.inbox := rfl
@[simp] theorem State.onSem_out (n : Fin 256) (f : Sem → Sem) : (s.onSem n f).out = s.out := rfl
@[simp] theorem State.onSem_freeCtr (n : Fin 256) (f : Sem → Sem) : (s.onSem n f).freeCtr = s.freeCtr := rfl

/-! ### onPhy -/

@[simp] theorem State.onPhy_now (c : Nat) (f : Phy → Phy) : (s.onPhy c f).now = s.now := rfl
@[simp] theorem State.onPhy_phase (c : Nat) (f : Phy → Phy) : (s.onPhy c f).phase = s.phase := rfl
@[simp] theorem State.onPhy_seq (c : Nat) (f : Phy → Phy) : (s.onPhy c f).seq = s.seq := rfl
@[simp] theorem State.onPhy_sys (c : Nat) (f : Phy → Phy) : (s.onPhy c f).sys = s.sys := rfl
@[simp] theorem State.onPhy_ann (c : Nat) (f : Phy → Phy) : (s.onPhy c f).ann = s.ann := rfl
@[simp] theorem State.onPhy_sems (c : Nat) (f : Phy → Phy) : (s.onPhy c f).sems = s.sems := rfl
@[simp] theorem State.onPhy_mx (c : Nat) (f : Phy → Phy) : (s.onPhy c f).mx = s.mx := rfl
@[simp] theorem State.onPhy_sh (c : Nat) (f : Phy → Phy) : (s.onPhy c f).sh = s.sh := rfl
@[simp] theorem State.onPhy_cp (c : Nat) (f : Phy → Phy) : (s.onPhy c f).cp = s.cp := rfl
@[simp] theorem State.onPhy_tm (c : Nat) (f : Phy → Phy) : (s.onPhy c f).tm = s.tm := rfl
@[simp] theorem State.onPhy_ax (c : Nat) (f : Phy → Phy) : (s.onPhy c f).ax = s.ax := rfl
@[simp] theorem State.onPhy_seg (c : Nat) (f : Phy → Phy) : (s.onPhy c f).seg = s.seg := rfl
@[simp] theorem State.onPhy_prog (c : Nat) (f : Phy → Phy) : (s.onPhy c f).prog = s.prog := rfl
@[simp] theorem State.onPhy_pred (c : Nat) (f : Phy → Phy) : (s.onPhy c f).pred = s.pred := rfl
@[simp] theorem State.onPhy_hl (c : Nat) (f : Phy → Phy) : (s.onPhy c f).hl = s.hl := rfl
@[simp] theorem State.onPhy_phy (c : Nat) (f : Phy → Phy) : (s.onPhy c f).phy = s.phy.setIfInBounds c (f (s.phy[c]?.getD Phy.reset)) := rfl
@[simp] theorem State.onPhy_phyFlash (c : Nat) (f : Phy → Phy) : (s.onPhy c f).phyFlash = s.phyFlash := rfl
@[simp] theorem State.onPhy_apex (c : Nat) (f : Phy → Phy) : (s.onPhy c f).apex = s.apex := rfl
@[simp] theorem State.onPhy_predOut (c : Nat) (f : Phy → Phy) : (s.onPhy c f).predOut = s.predOut := rfl
@[simp] theorem State.onPhy_predAs (c : Nat) (f : Phy → Phy) : (s.onPhy c f).predAs = s.predAs := rfl
@[simp] theorem State.onPhy_dies (c : Nat) (f : Phy → Phy) : (s.onPhy c f).dies = s.dies := rfl
@[simp] theorem State.onPhy_saving (c : Nat) (f : Phy → Phy) : (s.onPhy c f).saving = s.saving := rfl
@[simp] theorem State.onPhy_saved (c : Nat) (f : Phy → Phy) : (s.onPhy c f).saved = s.saved := rfl
@[simp] theorem State.onPhy_preq (c : Nat) (f : Phy → Phy) : (s.onPhy c f).preq = s.preq := rfl
@[simp] theorem State.onPhy_ckptOpen (c : Nat) (f : Phy → Phy) : (s.onPhy c f).ckptOpen = s.ckptOpen := rfl
@[simp] theorem State.onPhy_frame (c : Nat) (f : Phy → Phy) : (s.onPhy c f).frame = s.frame := rfl
@[simp] theorem State.onPhy_firmware (c : Nat) (f : Phy → Phy) : (s.onPhy c f).firmware = s.firmware := rfl
@[simp] theorem State.onPhy_incs (c : Nat) (f : Phy → Phy) : (s.onPhy c f).incs = s.incs := rfl
@[simp] theorem State.onPhy_fails (c : Nat) (f : Phy → Phy) : (s.onPhy c f).fails = s.fails := rfl
@[simp] theorem State.onPhy_agenda (c : Nat) (f : Phy → Phy) : (s.onPhy c f).agenda = s.agenda := rfl
@[simp] theorem State.onPhy_inbox (c : Nat) (f : Phy → Phy) : (s.onPhy c f).inbox = s.inbox := rfl
@[simp] theorem State.onPhy_out (c : Nat) (f : Phy → Phy) : (s.onPhy c f).out = s.out := rfl
@[simp] theorem State.onPhy_freeCtr (c : Nat) (f : Phy → Phy) : (s.onPhy c f).freeCtr = s.freeCtr := rfl

/-! ### fresh -/

@[simp] theorem State.fresh_now : s.fresh.2.now = s.now := rfl
@[simp] theorem State.fresh_phase : s.fresh.2.phase = s.phase := rfl
@[simp] theorem State.fresh_seq : s.fresh.2.seq = s.seq := rfl
@[simp] theorem State.fresh_sys : s.fresh.2.sys = s.sys := rfl
@[simp] theorem State.fresh_ann : s.fresh.2.ann = s.ann := rfl
@[simp] theorem State.fresh_sems : s.fresh.2.sems = s.sems := rfl
@[simp] theorem State.fresh_mx : s.fresh.2.mx = s.mx := rfl
@[simp] theorem State.fresh_sh : s.fresh.2.sh = s.sh := rfl
@[simp] theorem State.fresh_cp : s.fresh.2.cp = s.cp := rfl
@[simp] theorem State.fresh_tm : s.fresh.2.tm = s.tm := rfl
@[simp] theorem State.fresh_ax : s.fresh.2.ax = s.ax := rfl
@[simp] theorem State.fresh_seg : s.fresh.2.seg = s.seg := rfl
@[simp] theorem State.fresh_prog : s.fresh.2.prog = s.prog := rfl
@[simp] theorem State.fresh_pred : s.fresh.2.pred = s.pred := rfl
@[simp] theorem State.fresh_hl : s.fresh.2.hl = s.hl := rfl
@[simp] theorem State.fresh_phy : s.fresh.2.phy = s.phy := rfl
@[simp] theorem State.fresh_phyFlash : s.fresh.2.phyFlash = s.phyFlash := rfl
@[simp] theorem State.fresh_apex : s.fresh.2.apex = s.apex := rfl
@[simp] theorem State.fresh_predOut : s.fresh.2.predOut = s.predOut := rfl
@[simp] theorem State.fresh_predAs : s.fresh.2.predAs = s.predAs := rfl
@[simp] theorem State.fresh_dies : s.fresh.2.dies = s.dies := rfl
@[simp] theorem State.fresh_saving : s.fresh.2.saving = s.saving := rfl
@[simp] theorem State.fresh_saved : s.fresh.2.saved = s.saved := rfl
@[simp] theorem State.fresh_preq : s.fresh.2.preq = s.preq := rfl
@[simp] theorem State.fresh_ckptOpen : s.fresh.2.ckptOpen = s.ckptOpen := rfl
@[simp] theorem State.fresh_frame : s.fresh.2.frame = s.frame := rfl
@[simp] theorem State.fresh_firmware : s.fresh.2.firmware = s.firmware := rfl
@[simp] theorem State.fresh_incs : s.fresh.2.incs = s.incs := rfl
@[simp] theorem State.fresh_fails : s.fresh.2.fails = s.fails := rfl
@[simp] theorem State.fresh_agenda : s.fresh.2.agenda = s.agenda := rfl
@[simp] theorem State.fresh_inbox : s.fresh.2.inbox = s.inbox := rfl
@[simp] theorem State.fresh_out : s.fresh.2.out = s.out := rfl
@[simp] theorem State.fresh_freeCtr : s.fresh.2.freeCtr = s.freeCtr + 1 := rfl
@[simp] theorem State.fresh_index : s.fresh.1 = s.freeCtr := rfl

end Sys2Proof.Machine
end

