-- ==== Sys2Proof/Laws/Ops.lean ====
section
/-! SUPPORT. What the shared operations do, once: checks in order, register writes put in flight, traps, planned acts,
memory writes, and which of them leave both memories as they are. -/

namespace Sys2Proof.Machine

/-! ## Checks -/

/-- No check fires exactly when each is silent. -/
theorem firstTrap_none {l : List (Option TrapReq)} : firstTrap l = none ↔ ∀ x ∈ l, x = none := by
  induction l with
  | nil => simp [firstTrap]
  | cons a l ih =>
    cases a with
    | none => simp [firstTrap, ih]
    | some t => cases h : firstTrap l <;> simp [firstTrap, h]; split <;> simp

/-- Checks that are silent let the effect happen. -/
theorem guarded_pass {s : State} {l : List (Option TrapReq)} {f : State → State} (h : ∀ x ∈ l, x = none) :
    s.guarded l f = f s := by
  simp [State.guarded, firstTrap_none.2 h]

/-- The first check that fires takes its trap. -/
theorem guarded_trap {s : State} {l : List (Option TrapReq)} {f : State → State} {t : TrapReq} (h : firstTrap l = some t) :
    s.guarded l f = s.takeTrap t := by
  simp [State.guarded, h]

theorem readFault_none {s : State} {k : Key} (h : s.pendingRead k = false) : s.readFault k = none := by
  simp [State.readFault, h]

theorem rdX_none {s : State} {r : Reg} (h : s.pendingRead (.x r) = false) : s.rdX r = none := readFault_none h

theorem wrX_none {s : State} {r : Reg} (h : r = 0 ∨ s.pendingWrite (.x r) = false) : s.wrX r = none := by
  rcases h with h | h
  · subst h; simp [State.wrX, State.writeFault]
  · simp [State.wrX, State.writeFault, h]

/-- A register of a ready state reads without fault. -/
theorem ready_rd {s : State} {l : List Reg} {d r : Reg} (h : s.ready l d) (hr : r ∈ l) : s.rdX r = none :=
  readFault_none (h.1 r hr)

/-- The destination of a ready state is free. -/
theorem ready_wr {s : State} {l : List Reg} {d : Reg} (h : s.ready l d) : s.wrX d = none := wrX_none h.2

/-- No transfer fault away from a loop's end. -/
theorem nearEnd_none {s : State} (h : s.clearOfLoopEnd) : s.nearEnd = none := by
  unfold State.nearEnd State.clearOfLoopEnd at *
  cases hl : s.seq.loops with
  | nil => rfl
  | cons l ls => rw [hl] at h; have := h l rfl; simp [trapIf]; omega

/-! ## Register writes in flight -/

/-- Putting a result in flight does nothing else. -/
theorem enqueue_inFlight (s : State) (d : Dest) (lat : Nat) (r : Bool) : InFlight s d lat (s.enqueue d lat r) := by
  refine ⟨_, rfl, rfl, rfl, ?_, rfl⟩
  intro h
  simp only [State.injected, h]
  cases r <;> simp

theorem putX_inFlight (s : State) (x : Reg) (v : Word) (lat : Nat) (r : Bool) : InFlight s (.x x v) lat (s.putX x v lat r) :=
  enqueue_inFlight s _ lat r

/-- A two-source scalar operation of a ready state gives its one result and nothing else. -/
theorem srOp_inFlight {s : State} {xa xb xd : Reg} {l} (h : s.ready l xd) (ha : xa ∈ l) (hb : xb ∈ l) (lat r f) :
    InFlight s (.x xd (f (s.x xa) (s.x xb))) lat (srOp lat r f xd xa xb s) := by
  simp only [srOp, State.guarded, ready_rd h ha, ready_rd h hb, ready_wr h, firstTrap]
  exact putX_inFlight ..

/-- A one-source scalar operation of a ready state gives its one result and nothing else. -/
theorem srOp1_inFlight {s : State} {xa xd : Reg} {l} (h : s.ready l xd) (ha : xa ∈ l) (lat r f) :
    InFlight s (.x xd (f (s.x xa))) lat (srOp1 lat r f xd xa s) := by
  simp only [srOp1, State.guarded, ready_rd h ha, ready_wr h, firstTrap]
  exact putX_inFlight ..

/-- What a result in flight leaves: registers, memory, system registers and every unit as they were. -/
theorem InFlight.frame {s t : State} {d : Dest} {lat : Nat} (h : InFlight s d lat t) :
    t.seq.regs = s.seq.regs ∧ t.seq.tiles = s.seq.tiles ∧ t.seq.pc = s.seq.pc ∧ t.ann = s.ann ∧ t.sys = s.sys ∧ t.sems = s.sems ∧
      t.mx = s.mx ∧ t.cp = s.cp ∧ t.agenda = s.agenda := by
  obtain ⟨w, -, -, -, -, rfl⟩ := h
  exact ⟨rfl, rfl, rfl, rfl, rfl, rfl, rfl, rfl, rfl⟩

/-! ## Planned acts -/

theorem insertDue_mem {d e : Due} {l : List Due} : e ∈ insertDue d l ↔ e = d ∨ e ∈ l := by
  induction l with
  | nil => simp [insertDue]
  | cons a l ih =>
    simp only [insertDue]
    split
    · simp
    · simp only [List.mem_cons, ih]; tauto

/-- A planned act stands on the agenda. -/
theorem plan_planned (s : State) (c r : Nat) (a : Act) : (s.plan c r a).planned c r a := by
  simp [State.planned, State.plan, insertDue_mem]

/-- What stood on the agenda still does. -/
theorem plan_keeps {s : State} {c r c' r' : Nat} {a a' : Act} (h : s.planned c r a) : (s.plan c' r' a').planned c r a := by
  simp only [State.planned, State.plan, insertDue_mem] at *
  exact Or.inr h

/-! ## Traps -/

/-- Nothing in flight: nothing lands. -/
theorem landAll_nil {s : State} (h : s.seq.writes = []) : s.landAll = s := by
  unfold State.landAll State.onSeq
  simp only [h, List.filter_nil, List.foldl_nil, firstOfChecks]
  rw [← h]

/-- A trap in supervisor mode stops the cell. -/
theorem enterTrap_supervisor {s : State} (r : TrapRec) (h : s.seq.mode = .supervisor) : s.enterTrap r = s.stopWith 0xFFFF := by
  simp [State.enterTrap, h]

/-! ## Memory -/

/-- The two memories are those of another state. -/
def SameMem (s t : State) : Prop := t.ann.mem = s.ann.mem ∧ t.cp.hbm = s.cp.hbm

theorem SameMem.refl (s : State) : SameMem s s := ⟨rfl, rfl⟩

theorem SameMem.trans {s t u : State} (h : SameMem s t) (g : SameMem t u) : SameMem s u :=
  ⟨g.1.trans h.1, g.2.trans h.2⟩

theorem SameMem.memWf {s t : State} (h : SameMem s t) (w : s.memWf = true) : t.memWf = true := by
  unfold State.memWf at *
  rw [h.1, h.2]; exact w

/-- A system register write reaches no memory. -/
theorem sysLand_sameMem (s : State) (num : BitVec 12) (v : Word) : SameMem s (s.sysLand num v) := by
  unfold State.sysLand SameMem
  repeat' split
  all_goals first
    | exact ⟨rfl, rfl⟩
    | (dsimp only; split <;> exact ⟨rfl, rfl⟩)

/-- A result that lands reaches no memory. -/
theorem landDest_sameMem (s : State) (d : Dest) : SameMem s (s.landDest d) := by
  cases d with
  | x r v => unfold State.landDest State.setX SameMem; simp only; split <;> exact ⟨rfl, rfl⟩
  | sys n v => exact sysLand_sameMem s n v
  | _ => exact ⟨rfl, rfl⟩

/-- What the hardware does to a system register reaches no memory. -/
theorem hwSys_sameMem (s : State) (num : BitVec 12) (get : State → Word) (f : Word → Word) : SameMem s (s.hwSys num get f) :=
  sysLand_sameMem s num (f (get s))

/-- A failing check that is counted reaches no memory. -/
theorem noteCheck_sameMem (s : State) (w : PendingWrite) : SameMem s (s.noteCheck w) := by
  unfold State.noteCheck
  have h : SameMem s (s.countArc (slotArc w.slot)) := hwSys_sameMem s _ _ _
  dsimp only
  split
  · exact h.trans (hwSys_sameMem _ _ _ _)
  · exact h

/-- A list of changes none of which reaches a memory. -/
theorem foldl_sameMem {α : Type} {f : State → α → State} (h : ∀ u a, SameMem u (f u a)) (l : List α) (u : State) :
    SameMem u (l.foldl f u) := by
  induction l generalizing u with
  | nil => exact SameMem.refl u
  | cons a l ih => exact (h u a).trans (ih _)

/-- A claim given up reaches no memory. -/
theorem unpush_sameMem (s : State) (w : PendingWrite) : SameMem s (s.unpush w) := by
  unfold State.unpush
  repeat' split
  all_goals exact SameMem.refl s

theorem landAll_sameMem (s : State) : SameMem s s.landAll :=
  (foldl_sameMem unpush_sameMem (s.seq.writes.filter fun w => w.bad) s).trans <| (foldl_sameMem (fun u w => landDest_sameMem u w.dest) (s.seq.writes.filter fun w => !w.isPush && !w.bad) _).trans
    (foldl_sameMem noteCheck_sameMem (firstOfChecks (s.seq.writes.filter fun w => w.bad)) _)

/-- Taking a trap reaches no memory. -/
theorem enterTrap_sameMem (s : State) (r : TrapRec) : SameMem s (s.enterTrap r) := by
  unfold State.enterTrap
  cases s.seq.mode with
  | supervisor => exact landAll_sameMem s
  | user => exact landAll_sameMem s

theorem takeTrap_sameMem (s : State) (t : TrapReq) : SameMem s (s.takeTrap t) := enterTrap_sameMem s _

/-- A guarded effect reaches no memory if the effect does not. -/
theorem guarded_sameMem {s : State} {l : List (Option TrapReq)} {f : State → State} (h : SameMem s (f s)) :
    SameMem s (s.guarded l f) := by
  unfold State.guarded
  split
  · exact takeTrap_sameMem s _
  · exact h

/-- Bytes written to the sectors: exactly they change. -/
theorem writeLocal_get (s : State) (a : Nat) (l : List Byte) (b : Nat) :
    (s.writeLocal a l).ann.mem.get b = (s.ann.mem.write a l).get b := rfl

theorem writeLocal_memWf {s : State} (a : Nat) (l : List Byte) (h : s.memWf = true) : (s.writeLocal a l).memWf = true := by
  simp only [State.memWf, Bool.and_eq_true] at *
  exact ⟨Memory.write_wf a l h.1, h.2⟩

theorem writeRow_memWf {s : State} (sec : Fin 8) (row : Nat) (r : Row) (h : s.memWf = true) : (s.writeRow sec row r).memWf = true :=
  writeLocal_memWf _ _ h

/-! ## Slots -/

/-- A zero word is NOP in every slot (R74). -/
theorem decodeBundleSlot_zero (b : Bundle) (k : Nat) (h : slotBits b k = 0) : decodeBundleSlot b k = .ok .nop := by
  unfold decodeBundleSlot
  rw [h]
  cases slotClass k <;> decide

end Sys2Proof.Machine
end

