-- ==== Sys2Proof/Laws/PerInstr.lean ====
section
/-! SUPPORT. Per-instruction laws. Family Fits: the word of an instruction fits the 64 bits of a slot (R60). -/

namespace Sys2Proof.Laws

/-- A product of a bounded field and its place. -/
theorem vop_code_lt (o : VOp) : o.code < 32 := by
  cases o with
  | tile t r => have := t.isLt; simp only [VOp.code]; omega
  | port q => have := q.isLt; simp only [VOp.code]; omega
  | _ => simp [VOp.code]

theorem vop_row_lt (o : VOp) : o.rowField < 16 := by
  cases o with
  | tile t r => exact r.isLt
  | _ => simp [VOp.rowField]

theorem fmt_code_lt (f : Fmt) : f.code < 16 := by cases f <;> decide

theorem rmode_code_lt (r : RMode) : r.code < 8 := by cases r <;> decide

theorem scope_code_lt (r : Scope) : r.code < 8 := by cases r <;> decide

theorem bool_nat_lt (b : Bool) : b.toNat < 2 := by cases b <;> decide

theorem vctl_lt (c : VCtl) : c.fmt.code < 16 ∧ c.mp.val < 4 ∧ c.cpl.toNat < 2 ∧ c.rnd.code < 8 ∧ c.sat.toNat < 2 ∧ c.xs.val < 32 :=
  ⟨fmt_code_lt _, c.mp.isLt, bool_nat_lt _, rmode_code_lt _, bool_nat_lt _, c.xs.isLt⟩

theorem ectl_lt (e : ECtl) : e.wsem.val < 256 ∧ e.wx.val < 32 ∧ e.ssem.val < 256 ∧ e.sinc.val < 16 ∧ e.xa.val < 32 ∧ e.q.toNat < 2 :=
  ⟨e.wsem.isLt, e.wx.isLt, e.ssem.isLt, e.sinc.isLt, e.xa.isLt, bool_nat_lt _⟩

theorem srWord_lt (op fn : Nat) (a b c d : Reg) (ho : op < 256) (hf : fn < 64) : srWord op a b c d fn < 2 ^ 64 := by
  have := a.isLt; have := b.isLt; have := c.isLt; have := d.isLt
  simp only [srWord]; omega

theorem siWord_lt (op imm : Nat) (a b : Reg) (ho : op < 256) (hi : imm < 2 ^ 46) : siWord op a b imm < 2 ^ 64 := by
  have := a.isLt; have := b.isLt
  simp only [siWord]; omega

theorem cbWord_lt (op t : Nat) (a b : Reg) (ho : op < 256) (ht : t < 2 ^ 46) : cbWord op a b t < 2 ^ 64 := by
  have := a.isLt; have := b.isLt
  simp only [cbWord]; omega

theorem cmWord_lt (op id arg : Nat) (ho : op < 256) (hi : id < 2 ^ 16) (ha : arg < 2 ^ 40) : cmWord op id arg < 2 ^ 64 := by
  simp only [cmWord]; omega

theorem csWord_lt (op fl : Nat) (n : Fin 256) (a b : Reg) (ho : op < 256) (hf : fl < 8) : csWord op n a fl b < 2 ^ 64 := by
  have := a.isLt; have := b.isLt; have := n.isLt
  simp only [csWord]; omega

theorem cxWord_lt (op imm : Nat) (a b : Reg) (ho : op < 256) (hi : imm < 2 ^ 46) : cxWord op a b imm < 2 ^ 64 := by
  have := a.isLt; have := b.isLt
  simp only [cxWord]; omega

theorem vrWord_lt (op k d dr a ar b br e er : Nat) (c : VCtl) (ho : op < 128) (hd : d < 32) (hdr : dr < 16) (ha : a < 32)
    (har : ar < 16) (hb : b < 32) (hbr : br < 16) (he : e < 32) (her : er < 16) (hk : k < 256) :
    vrWord op c d dr a ar b br e er k < 2 ^ 64 := by
  have := vctl_lt c
  simp only [vrWord]; omega

theorem vmWord_lt (op f d a b xs k : Nat) (ho : op < 256) (hf : f < 16) (hd : d < 32) (ha : a < 32) (hb : b < 32) (hx : xs < 32)
    (hk : k < 2 ^ 16) : vmWord op f d a b xs k < 2 ^ 64 := by
  simp only [vmWord]; omega

theorem ecWord_lt (op k : Nat) (e : ECtl) (ho : op < 256) (hk : k < 2 ^ 25) : ecWord op e k < 2 ^ 64 := by
  have := ectl_lt e
  simp only [ecWord]; omega

theorem ecRaw_lt (op k : Nat) (a : Reg) (ho : op < 256) (hk : k < 2 ^ 25) : ecRaw op a k < 2 ^ 64 := by
  have := a.isLt
  simp only [ecRaw]; omega

theorem lnWord_lt (op l t : Nat) (p s : Fin 8) (r : LaneRef) (n : Fin 8) (a : Reg) (ho : op < 256) (hl : l < 8) (ht : t < 2 ^ 16) :
    lnWord op p s r n a l t < 2 ^ 64 := by
  have := p.isLt; have := s.isLt; have := n.isLt; have := a.isLt; have := r.num.isLt; have := bool_nat_lt r.ccw
  simp only [lnWord]; omega

namespace Fits

/-- The instruction's word, if it has one, fits a slot. -/
def Statement (i : Instr) : Prop := ∀ c w, encode i = some (c, w) → w < 2 ^ 64

/-- An event has no word. -/
theorem event {i : Instr} (h : encode i = none) : Statement i := fun c w g => by rw [h] at g; cases g

/-- One word, one bound. -/
theorem word {i : Instr} {c : SlotClass} {w : Nat} (h : encode i = some (c, w)) (hw : w < 2 ^ 64) : Statement i :=
  fun c' w' g => by rw [h] at g; cases g; exact hw

theorem nop : Statement .nop := word rfl (by decide)
theorem add (xd xa xb : Reg) : Statement (.add xd xa xb) := by
  have := xd.isLt
  have := xa.isLt
  have := xb.isLt
  exact word rfl (srWord_lt _ _ _ _ _ _ (by omega) (by omega))
theorem sub (xd xa xb : Reg) : Statement (.sub xd xa xb) := by
  have := xd.isLt
  have := xa.isLt
  have := xb.isLt
  exact word rfl (srWord_lt _ _ _ _ _ _ (by omega) (by omega))
theorem and (xd xa xb : Reg) : Statement (.and xd xa xb) := by
  have := xd.isLt
  have := xa.isLt
  have := xb.isLt
  exact word rfl (srWord_lt _ _ _ _ _ _ (by omega) (by omega))
theorem or (xd xa xb : Reg) : Statement (.or xd xa xb) := by
  have := xd.isLt
  have := xa.isLt
  have := xb.isLt
  exact word rfl (srWord_lt _ _ _ _ _ _ (by omega) (by omega))
theorem xor (xd xa xb : Reg) : Statement (.xor xd xa xb) := by
  have := xd.isLt
  have := xa.isLt
  have := xb.isLt
  exact word rfl (srWord_lt _ _ _ _ _ _ (by omega) (by omega))
theorem andn (xd xa xb : Reg) : Statement (.andn xd xa xb) := by
  have := xd.isLt
  have := xa.isLt
  have := xb.isLt
  exact word rfl (srWord_lt _ _ _ _ _ _ (by omega) (by omega))
theorem shl (xd xa xb : Reg) : Statement (.shl xd xa xb) := by
  have := xd.isLt
  have := xa.isLt
  have := xb.isLt
  exact word rfl (srWord_lt _ _ _ _ _ _ (by omega) (by omega))
theorem shr (xd xa xb : Reg) : Statement (.shr xd xa xb) := by
  have := xd.isLt
  have := xa.isLt
  have := xb.isLt
  exact word rfl (srWord_lt _ _ _ _ _ _ (by omega) (by omega))
theorem sra (xd xa xb : Reg) : Statement (.sra xd xa xb) := by
  have := xd.isLt
  have := xa.isLt
  have := xb.isLt
  exact word rfl (srWord_lt _ _ _ _ _ _ (by omega) (by omega))
theorem rotl (xd xa xb : Reg) : Statement (.rotl xd xa xb) := by
  have := xd.isLt
  have := xa.isLt
  have := xb.isLt
  exact word rfl (srWord_lt _ _ _ _ _ _ (by omega) (by omega))
theorem mul (xd xa xb : Reg) : Statement (.mul xd xa xb) := by
  have := xd.isLt
  have := xa.isLt
  have := xb.isLt
  exact word rfl (srWord_lt _ _ _ _ _ _ (by omega) (by omega))
theorem mulh (xd xa xb : Reg) : Statement (.mulh xd xa xb) := by
  have := xd.isLt
  have := xa.isLt
  have := xb.isLt
  exact word rfl (srWord_lt _ _ _ _ _ _ (by omega) (by omega))
theorem mulhu (xd xa xb : Reg) : Statement (.mulhu xd xa xb) := by
  have := xd.isLt
  have := xa.isLt
  have := xb.isLt
  exact word rfl (srWord_lt _ _ _ _ _ _ (by omega) (by omega))
theorem div (xd xa xb : Reg) : Statement (.div xd xa xb) := by
  have := xd.isLt
  have := xa.isLt
  have := xb.isLt
  exact word rfl (srWord_lt _ _ _ _ _ _ (by omega) (by omega))
theorem divu (xd xa xb : Reg) : Statement (.divu xd xa xb) := by
  have := xd.isLt
  have := xa.isLt
  have := xb.isLt
  exact word rfl (srWord_lt _ _ _ _ _ _ (by omega) (by omega))
theorem rem (xd xa xb : Reg) : Statement (.rem xd xa xb) := by
  have := xd.isLt
  have := xa.isLt
  have := xb.isLt
  exact word rfl (srWord_lt _ _ _ _ _ _ (by omega) (by omega))
theorem remu (xd xa xb : Reg) : Statement (.remu xd xa xb) := by
  have := xd.isLt
  have := xa.isLt
  have := xb.isLt
  exact word rfl (srWord_lt _ _ _ _ _ _ (by omega) (by omega))
theorem min (xd xa xb : Reg) : Statement (.min xd xa xb) := by
  have := xd.isLt
  have := xa.isLt
  have := xb.isLt
  exact word rfl (srWord_lt _ _ _ _ _ _ (by omega) (by omega))
theorem max (xd xa xb : Reg) : Statement (.max xd xa xb) := by
  have := xd.isLt
  have := xa.isLt
  have := xb.isLt
  exact word rfl (srWord_lt _ _ _ _ _ _ (by omega) (by omega))
theorem minu (xd xa xb : Reg) : Statement (.minu xd xa xb) := by
  have := xd.isLt
  have := xa.isLt
  have := xb.isLt
  exact word rfl (srWord_lt _ _ _ _ _ _ (by omega) (by omega))
theorem maxu (xd xa xb : Reg) : Statement (.maxu xd xa xb) := by
  have := xd.isLt
  have := xa.isLt
  have := xb.isLt
  exact word rfl (srWord_lt _ _ _ _ _ _ (by omega) (by omega))
theorem slt (xd xa xb : Reg) : Statement (.slt xd xa xb) := by
  have := xd.isLt
  have := xa.isLt
  have := xb.isLt
  exact word rfl (srWord_lt _ _ _ _ _ _ (by omega) (by omega))
theorem sltu (xd xa xb : Reg) : Statement (.sltu xd xa xb) := by
  have := xd.isLt
  have := xa.isLt
  have := xb.isLt
  exact word rfl (srWord_lt _ _ _ _ _ _ (by omega) (by omega))
theorem seq (xd xa xb : Reg) : Statement (.seq xd xa xb) := by
  have := xd.isLt
  have := xa.isLt
  have := xb.isLt
  exact word rfl (srWord_lt _ _ _ _ _ _ (by omega) (by omega))
theorem sne (xd xa xb : Reg) : Statement (.sne xd xa xb) := by
  have := xd.isLt
  have := xa.isLt
  have := xb.isLt
  exact word rfl (srWord_lt _ _ _ _ _ _ (by omega) (by omega))
theorem sel (xd xa xb xc : Reg) : Statement (.sel xd xa xb xc) := by
  have := xd.isLt
  have := xa.isLt
  have := xb.isLt
  have := xc.isLt
  exact word rfl (srWord_lt _ _ _ _ _ _ (by omega) (by omega))
theorem clz (xd xa : Reg) : Statement (.clz xd xa) := by
  have := xd.isLt
  have := xa.isLt
  exact word rfl (srWord_lt _ _ _ _ _ _ (by omega) (by omega))
theorem ctz (xd xa : Reg) : Statement (.ctz xd xa) := by
  have := xd.isLt
  have := xa.isLt
  exact word rfl (srWord_lt _ _ _ _ _ _ (by omega) (by omega))
theorem popc (xd xa : Reg) : Statement (.popc xd xa) := by
  have := xd.isLt
  have := xa.isLt
  exact word rfl (srWord_lt _ _ _ _ _ _ (by omega) (by omega))
theorem bfx (xd xa : Reg) (pos wm1 : Fin 64) : Statement (.bfx xd xa pos wm1) := by
  have := xd.isLt
  have := xa.isLt
  have := pos.isLt
  have := wm1.isLt
  exact word rfl (siWord_lt _ _ _ _ (by omega) (by omega))
theorem bfi (xd xa : Reg) (pos wm1 : Fin 64) : Statement (.bfi xd xa pos wm1) := by
  have := xd.isLt
  have := xa.isLt
  have := pos.isLt
  have := wm1.isLt
  exact word rfl (siWord_lt _ _ _ _ (by omega) (by omega))
theorem addx (xd xa xb : Reg) (sh : Fin 8) : Statement (.addx xd xa xb sh) := by
  have := xd.isLt
  have := xa.isLt
  have := xb.isLt
  have := sh.isLt
  exact word rfl (srWord_lt _ _ _ _ _ _ (by omega) (by omega))
theorem addi (xd xa : Reg) (imm : BitVec 46) : Statement (.addi xd xa imm) := by
  have := xd.isLt
  have := xa.isLt
  have := imm.isLt
  exact word rfl (siWord_lt _ _ _ _ (by omega) (by omega))
theorem andi (xd xa : Reg) (imm : BitVec 46) : Statement (.andi xd xa imm) := by
  have := xd.isLt
  have := xa.isLt
  have := imm.isLt
  exact word rfl (siWord_lt _ _ _ _ (by omega) (by omega))
theorem ori (xd xa : Reg) (imm : BitVec 46) : Statement (.ori xd xa imm) := by
  have := xd.isLt
  have := xa.isLt
  have := imm.isLt
  exact word rfl (siWord_lt _ _ _ _ (by omega) (by omega))
theorem xori (xd xa : Reg) (imm : BitVec 46) : Statement (.xori xd xa imm) := by
  have := xd.isLt
  have := xa.isLt
  have := imm.isLt
  exact word rfl (siWord_lt _ _ _ _ (by omega) (by omega))
theorem shli (xd xa : Reg) (n : Fin 64) : Statement (.shli xd xa n) := by
  have := xd.isLt
  have := xa.isLt
  have := n.isLt
  exact word rfl (siWord_lt _ _ _ _ (by omega) (by omega))
theorem shri (xd xa : Reg) (n : Fin 64) : Statement (.shri xd xa n) := by
  have := xd.isLt
  have := xa.isLt
  have := n.isLt
  exact word rfl (siWord_lt _ _ _ _ (by omega) (by omega))
theorem srai (xd xa : Reg) (n : Fin 64) : Statement (.srai xd xa n) := by
  have := xd.isLt
  have := xa.isLt
  have := n.isLt
  exact word rfl (siWord_lt _ _ _ _ (by omega) (by omega))
theorem muli (xd xa : Reg) (imm : BitVec 46) : Statement (.muli xd xa imm) := by
  have := xd.isLt
  have := xa.isLt
  have := imm.isLt
  exact word rfl (siWord_lt _ _ _ _ (by omega) (by omega))
theorem slti (xd xa : Reg) (imm : BitVec 46) : Statement (.slti xd xa imm) := by
  have := xd.isLt
  have := xa.isLt
  have := imm.isLt
  exact word rfl (siWord_lt _ _ _ _ (by omega) (by omega))
theorem sltiu (xd xa : Reg) (imm : BitVec 46) : Statement (.sltiu xd xa imm) := by
  have := xd.isLt
  have := xa.isLt
  have := imm.isLt
  exact word rfl (siWord_lt _ _ _ _ (by omega) (by omega))
theorem movi (xd : Reg) (imm : BitVec 46) : Statement (.movi xd imm) := by
  have := xd.isLt
  have := imm.isLt
  exact word rfl (siWord_lt _ _ _ _ (by omega) (by omega))
theorem movhi (xd xa : Reg) (imm : BitVec 18) : Statement (.movhi xd xa imm) := by
  have := xd.isLt
  have := xa.isLt
  have := imm.isLt
  exact word rfl (siWord_lt _ _ _ _ (by omega) (by omega))
theorem ldb (xd xa : Reg) (imm : BitVec 46) : Statement (.ldb xd xa imm) := by
  have := xd.isLt
  have := xa.isLt
  have := imm.isLt
  exact word rfl (siWord_lt _ _ _ _ (by omega) (by omega))
theorem ldbu (xd xa : Reg) (imm : BitVec 46) : Statement (.ldbu xd xa imm) := by
  have := xd.isLt
  have := xa.isLt
  have := imm.isLt
  exact word rfl (siWord_lt _ _ _ _ (by omega) (by omega))
theorem ldh (xd xa : Reg) (imm : BitVec 46) : Statement (.ldh xd xa imm) := by
  have := xd.isLt
  have := xa.isLt
  have := imm.isLt
  exact word rfl (siWord_lt _ _ _ _ (by omega) (by omega))
theorem ldhu (xd xa : Reg) (imm : BitVec 46) : Statement (.ldhu xd xa imm) := by
  have := xd.isLt
  have := xa.isLt
  have := imm.isLt
  exact word rfl (siWord_lt _ _ _ _ (by omega) (by omega))
theorem ldw (xd xa : Reg) (imm : BitVec 46) : Statement (.ldw xd xa imm) := by
  have := xd.isLt
  have := xa.isLt
  have := imm.isLt
  exact word rfl (siWord_lt _ _ _ _ (by omega) (by omega))
theorem ldwu (xd xa : Reg) (imm : BitVec 46) : Statement (.ldwu xd xa imm) := by
  have := xd.isLt
  have := xa.isLt
  have := imm.isLt
  exact word rfl (siWord_lt _ _ _ _ (by omega) (by omega))
theorem ldd (xd xa : Reg) (imm : BitVec 46) : Statement (.ldd xd xa imm) := by
  have := xd.isLt
  have := xa.isLt
  have := imm.isLt
  exact word rfl (siWord_lt _ _ _ _ (by omega) (by omega))
theorem stb (xd xa : Reg) (imm : BitVec 46) : Statement (.stb xd xa imm) := by
  have := xd.isLt
  have := xa.isLt
  have := imm.isLt
  exact word rfl (siWord_lt _ _ _ _ (by omega) (by omega))
theorem sth (xd xa : Reg) (imm : BitVec 46) : Statement (.sth xd xa imm) := by
  have := xd.isLt
  have := xa.isLt
  have := imm.isLt
  exact word rfl (siWord_lt _ _ _ _ (by omega) (by omega))
theorem stw (xd xa : Reg) (imm : BitVec 46) : Statement (.stw xd xa imm) := by
  have := xd.isLt
  have := xa.isLt
  have := imm.isLt
  exact word rfl (siWord_lt _ _ _ _ (by omega) (by omega))
theorem std (xd xa : Reg) (imm : BitVec 46) : Statement (.std xd xa imm) := by
  have := xd.isLt
  have := xa.isLt
  have := imm.isLt
  exact word rfl (siWord_lt _ _ _ _ (by omega) (by omega))
theorem fadd (xd xa xb : Reg) (rnd : RMode) : Statement (.fadd xd xa xb rnd) := by
  have := xd.isLt
  have := xa.isLt
  have := xb.isLt
  have := rmode_code_lt rnd
  exact word rfl (srWord_lt _ _ _ _ _ _ (by omega) (by omega))
theorem fsub (xd xa xb : Reg) (rnd : RMode) : Statement (.fsub xd xa xb rnd) := by
  have := xd.isLt
  have := xa.isLt
  have := xb.isLt
  have := rmode_code_lt rnd
  exact word rfl (srWord_lt _ _ _ _ _ _ (by omega) (by omega))
theorem fmul (xd xa xb : Reg) (rnd : RMode) : Statement (.fmul xd xa xb rnd) := by
  have := xd.isLt
  have := xa.isLt
  have := xb.isLt
  have := rmode_code_lt rnd
  exact word rfl (srWord_lt _ _ _ _ _ _ (by omega) (by omega))
theorem ffma (xd xa xb xc : Reg) (rnd : RMode) : Statement (.ffma xd xa xb xc rnd) := by
  have := xd.isLt
  have := xa.isLt
  have := xb.isLt
  have := xc.isLt
  have := rmode_code_lt rnd
  exact word rfl (srWord_lt _ _ _ _ _ _ (by omega) (by omega))
theorem fdiv (xd xa xb : Reg) (rnd : RMode) : Statement (.fdiv xd xa xb rnd) := by
  have := xd.isLt
  have := xa.isLt
  have := xb.isLt
  have := rmode_code_lt rnd
  exact word rfl (srWord_lt _ _ _ _ _ _ (by omega) (by omega))
theorem fsqrt (xd xa : Reg) (rnd : RMode) : Statement (.fsqrt xd xa rnd) := by
  have := xd.isLt
  have := xa.isLt
  have := rmode_code_lt rnd
  exact word rfl (srWord_lt _ _ _ _ _ _ (by omega) (by omega))
theorem fmin (xd xa xb : Reg) : Statement (.fmin xd xa xb) := by
  have := xd.isLt
  have := xa.isLt
  have := xb.isLt
  exact word rfl (srWord_lt _ _ _ _ _ _ (by omega) (by omega))
theorem fmax (xd xa xb : Reg) : Statement (.fmax xd xa xb) := by
  have := xd.isLt
  have := xa.isLt
  have := xb.isLt
  exact word rfl (srWord_lt _ _ _ _ _ _ (by omega) (by omega))
theorem feq (xd xa xb : Reg) : Statement (.feq xd xa xb) := by
  have := xd.isLt
  have := xa.isLt
  have := xb.isLt
  exact word rfl (srWord_lt _ _ _ _ _ _ (by omega) (by omega))
theorem flt (xd xa xb : Reg) : Statement (.flt xd xa xb) := by
  have := xd.isLt
  have := xa.isLt
  have := xb.isLt
  exact word rfl (srWord_lt _ _ _ _ _ _ (by omega) (by omega))
theorem fle (xd xa xb : Reg) : Statement (.fle xd xa xb) := by
  have := xd.isLt
  have := xa.isLt
  have := xb.isLt
  exact word rfl (srWord_lt _ _ _ _ _ _ (by omega) (by omega))
theorem fcvtws (xd xa : Reg) (rnd : RMode) (sat : Bool) : Statement (.fcvtws xd xa rnd sat) := by
  have := xd.isLt
  have := xa.isLt
  have := rmode_code_lt rnd
  have := bool_nat_lt sat
  exact word rfl (srWord_lt _ _ _ _ _ _ (by omega) (by omega))
theorem fcvtsw (xd xa : Reg) (rnd : RMode) : Statement (.fcvtsw xd xa rnd) := by
  have := xd.isLt
  have := xa.isLt
  have := rmode_code_lt rnd
  exact word rfl (srWord_lt _ _ _ _ _ _ (by omega) (by omega))
theorem fclass (xd xa : Reg) : Statement (.fclass xd xa) := by
  have := xd.isLt
  have := xa.isLt
  exact word rfl (srWord_lt _ _ _ _ _ _ (by omega) (by omega))
theorem sysrd (xd : Reg) (num : BitVec 12) : Statement (.sysrd xd num) := by
  have := xd.isLt
  have := num.isLt
  exact word rfl (siWord_lt _ _ _ _ (by omega) (by omega))
theorem syswr (xa : Reg) (num : BitVec 12) : Statement (.syswr xa num) := by
  have := xa.isLt
  have := num.isLt
  exact word rfl (siWord_lt _ _ _ _ (by omega) (by omega))
theorem sysset (xd xa : Reg) (num : BitVec 12) : Statement (.sysset xd xa num) := by
  have := xd.isLt
  have := xa.isLt
  have := num.isLt
  exact word rfl (siWord_lt _ _ _ _ (by omega) (by omega))
theorem sysclr (xd xa : Reg) (num : BitVec 12) : Statement (.sysclr xd xa num) := by
  have := xd.isLt
  have := xa.isLt
  have := num.isLt
  exact word rfl (siWord_lt _ _ _ _ (by omega) (by omega))
theorem beq (xa xb : Reg) (target : BitVec 15) : Statement (.beq xa xb target) := by
  have := xa.isLt
  have := xb.isLt
  have := target.isLt
  exact word rfl (cbWord_lt _ _ _ _ (by omega) (by omega))
theorem bne (xa xb : Reg) (target : BitVec 15) : Statement (.bne xa xb target) := by
  have := xa.isLt
  have := xb.isLt
  have := target.isLt
  exact word rfl (cbWord_lt _ _ _ _ (by omega) (by omega))
theorem blt (xa xb : Reg) (target : BitVec 15) : Statement (.blt xa xb target) := by
  have := xa.isLt
  have := xb.isLt
  have := target.isLt
  exact word rfl (cbWord_lt _ _ _ _ (by omega) (by omega))
theorem bge (xa xb : Reg) (target : BitVec 15) : Statement (.bge xa xb target) := by
  have := xa.isLt
  have := xb.isLt
  have := target.isLt
  exact word rfl (cbWord_lt _ _ _ _ (by omega) (by omega))
theorem bltu (xa xb : Reg) (target : BitVec 15) : Statement (.bltu xa xb target) := by
  have := xa.isLt
  have := xb.isLt
  have := target.isLt
  exact word rfl (cbWord_lt _ _ _ _ (by omega) (by omega))
theorem bgeu (xa xb : Reg) (target : BitVec 15) : Statement (.bgeu xa xb target) := by
  have := xa.isLt
  have := xb.isLt
  have := target.isLt
  exact word rfl (cbWord_lt _ _ _ _ (by omega) (by omega))
theorem jmp (target : BitVec 15) : Statement (.jmp target) := by
  have := target.isLt
  exact word rfl (cbWord_lt _ _ _ _ (by omega) (by omega))
theorem jmpx (xa : Reg) : Statement (.jmpx xa) := by
  have := xa.isLt
  exact word rfl (cbWord_lt _ _ _ _ (by omega) (by omega))
theorem call (target : BitVec 15) : Statement (.call target) := by
  have := target.isLt
  exact word rfl (cbWord_lt _ _ _ _ (by omega) (by omega))
theorem callx (xa : Reg) : Statement (.callx xa) := by
  have := xa.isLt
  exact word rfl (cbWord_lt _ _ _ _ (by omega) (by omega))
theorem ret : Statement .ret := by
  exact word rfl (cbWord_lt _ _ _ _ (by omega) (by omega))
theorem loop (lc : Fin 4) (xa : Reg) (trip : BitVec 25) (last : BitVec 15) : Statement (.loop lc xa trip last) := by
  refine word rfl ?_
  have := lc.isLt; have := xa.isLt; have := trip.isLt; have := last.isLt
  omega
theorem lexit (xa : Reg) : Statement (.lexit xa) := by
  have := xa.isLt
  exact word rfl (cbWord_lt _ _ _ _ (by omega) (by omega))
theorem safe (cp : Option (Fin 256)) : Statement (.safe cp) := by
  cases cp with
  | none => exact word rfl (by decide)
  | some c => have := c.isLt; exact word rfl (cmWord_lt _ _ _ (by omega) (by simp only; omega) (by omega))
theorem segend (seg : BitVec 16) (count : BitVec 21) : Statement (.segend seg count) := by
  have := seg.isLt
  have := count.isLt
  exact word rfl (cmWord_lt _ _ _ (by omega) (by omega) (by omega))
theorem halt (status : BitVec 16) : Statement (.halt status) := by
  have := status.isLt
  exact word rfl (cmWord_lt _ _ _ (by omega) (by omega) (by omega))
theorem trap (id : BitVec 16) (arg : BitVec 40) : Statement (.trap id arg) := by
  have := id.isLt
  have := arg.isLt
  exact word rfl (cmWord_lt _ _ _ (by omega) (by omega) (by omega))
theorem eret : Statement .eret := by
  exact word rfl (cmWord_lt _ _ _ (by omega) (by omega) (by omega))
theorem swait (sem : Fin 256) (xt : Reg) (scope : Scope) : Statement (.swait sem xt scope) := by
  have := sem.isLt
  have := xt.isLt
  have := scope_code_lt scope
  exact word rfl (csWord_lt _ _ _ _ _ (by omega) (by omega))
theorem ssig (sem : Fin 256) (xt : Reg) : Statement (.ssig sem xt) := by
  have := sem.isLt
  have := xt.isLt
  exact word rfl (csWord_lt _ _ _ _ _ (by omega) (by omega))
theorem srd (xd : Reg) (sem : Fin 256) (status : Bool) : Statement (.srd xd sem status) := by
  have := xd.isLt
  have := sem.isLt
  have := bool_nat_lt status
  exact word rfl (csWord_lt _ _ _ _ _ (by omega) (by omega))
theorem sset (sem : Fin 256) (xt : Reg) : Statement (.sset sem xt) := by
  have := sem.isLt
  have := xt.isLt
  exact word rfl (csWord_lt _ _ _ _ _ (by omega) (by omega))
theorem sclre (sem : Fin 256) : Statement (.sclre sem) := by
  have := sem.isLt
  exact word rfl (csWord_lt _ _ _ _ _ (by omega) (by omega))
theorem fence (scope : Scope) : Statement (.fence scope) := by
  have := scope_code_lt scope
  exact word rfl (cxWord_lt _ _ _ _ (by omega) (by omega))
theorem srel (mask : BitVec 8) : Statement (.srel mask) := by
  have := mask.isLt
  exact word rfl (cxWord_lt _ _ _ _ (by omega) (by omega))
theorem sacq (mask : BitVec 8) : Statement (.sacq mask) := by
  have := mask.isLt
  exact word rfl (cxWord_lt _ _ _ _ (by omega) (by omega))
theorem axrd (xd : Reg) (form : Fin 3) : Statement (.axrd xd form) := by
  have := xd.isLt
  have := form.isLt
  exact word rfl (cxWord_lt _ _ _ _ (by omega) (by omega))
theorem axslew (xa : Reg) : Statement (.axslew xa) := by
  have := xa.isLt
  exact word rfl (cxWord_lt _ _ _ _ (by omega) (by omega))
theorem axskip (xa : Reg) : Statement (.axskip xa) := by
  have := xa.isLt
  exact word rfl (cxWord_lt _ _ _ _ (by omega) (by omega))
theorem hbrd (xd : Reg) (sel : Fin 9) : Statement (.hbrd xd sel) := by
  have := xd.isLt
  have := sel.isLt
  exact word rfl (cxWord_lt _ _ _ _ (by omega) (by omega))
theorem accuse (side : Fin 4) : Statement (.accuse side) := by
  have := side.isLt
  exact word rfl (cxWord_lt _ _ _ _ (by omega) (by omega))
theorem appeal (xd : Reg) : Statement (.appeal xd) := by
  have := xd.isLt
  exact word rfl (cxWord_lt _ _ _ _ (by omega) (by omega))
theorem ifst (xd : Reg) : Statement (.ifst xd) := by
  have := xd.isLt
  exact word rfl (cxWord_lt _ _ _ _ (by omega) (by omega))
theorem spmrd (xd : Reg) (sel : Fin 3) : Statement (.spmrd xd sel) := by
  have := xd.isLt
  have := sel.isLt
  exact word rfl (cxWord_lt _ _ _ _ (by omega) (by omega))
theorem spmwr (xa : Reg) : Statement (.spmwr xa) := by
  have := xa.isLt
  exact word rfl (cxWord_lt _ _ _ _ (by omega) (by omega))
theorem spare (xd : Reg) : Statement (.spare xd) := by
  have := xd.isLt
  exact word rfl (cxWord_lt _ _ _ _ (by omega) (by omega))
theorem selfoff : Statement .selfoff := by
  exact word rfl (cxWord_lt _ _ _ _ (by omega) (by omega))
theorem vadd (c : VCtl) (od oa ob : VOp) : Statement (.vadd c od oa ob) := by
  have := vop_code_lt od
  have := vop_row_lt od
  have := vop_code_lt oa
  have := vop_row_lt oa
  have := vop_code_lt ob
  have := vop_row_lt ob
  exact word rfl (vrWord_lt _ _ _ _ _ _ _ _ _ _ _ (by omega) (by omega) (by omega) (by omega) (by omega) (by omega) (by omega) (by omega) (by omega) (by omega))
theorem vsub (c : VCtl) (od oa ob : VOp) : Statement (.vsub c od oa ob) := by
  have := vop_code_lt od
  have := vop_row_lt od
  have := vop_code_lt oa
  have := vop_row_lt oa
  have := vop_code_lt ob
  have := vop_row_lt ob
  exact word rfl (vrWord_lt _ _ _ _ _ _ _ _ _ _ _ (by omega) (by omega) (by omega) (by omega) (by omega) (by omega) (by omega) (by omega) (by omega) (by omega))
theorem vmul (c : VCtl) (od oa ob : VOp) : Statement (.vmul c od oa ob) := by
  have := vop_code_lt od
  have := vop_row_lt od
  have := vop_code_lt oa
  have := vop_row_lt oa
  have := vop_code_lt ob
  have := vop_row_lt ob
  exact word rfl (vrWord_lt _ _ _ _ _ _ _ _ _ _ _ (by omega) (by omega) (by omega) (by omega) (by omega) (by omega) (by omega) (by omega) (by omega) (by omega))
theorem vfma (c : VCtl) (od oa ob oc : VOp) : Statement (.vfma c od oa ob oc) := by
  have := vop_code_lt od
  have := vop_row_lt od
  have := vop_code_lt oa
  have := vop_row_lt oa
  have := vop_code_lt ob
  have := vop_row_lt ob
  have := vop_code_lt oc
  have := vop_row_lt oc
  exact word rfl (vrWord_lt _ _ _ _ _ _ _ _ _ _ _ (by omega) (by omega) (by omega) (by omega) (by omega) (by omega) (by omega) (by omega) (by omega) (by omega))
theorem vfms (c : VCtl) (od oa ob oc : VOp) : Statement (.vfms c od oa ob oc) := by
  have := vop_code_lt od
  have := vop_row_lt od
  have := vop_code_lt oa
  have := vop_row_lt oa
  have := vop_code_lt ob
  have := vop_row_lt ob
  have := vop_code_lt oc
  have := vop_row_lt oc
  exact word rfl (vrWord_lt _ _ _ _ _ _ _ _ _ _ _ (by omega) (by omega) (by omega) (by omega) (by omega) (by omega) (by omega) (by omega) (by omega) (by omega))
theorem vmin (c : VCtl) (od oa ob : VOp) : Statement (.vmin c od oa ob) := by
  have := vop_code_lt od
  have := vop_row_lt od
  have := vop_code_lt oa
  have := vop_row_lt oa
  have := vop_code_lt ob
  have := vop_row_lt ob
  exact word rfl (vrWord_lt _ _ _ _ _ _ _ _ _ _ _ (by omega) (by omega) (by omega) (by omega) (by omega) (by omega) (by omega) (by omega) (by omega) (by omega))
theorem vmax (c : VCtl) (od oa ob : VOp) : Statement (.vmax c od oa ob) := by
  have := vop_code_lt od
  have := vop_row_lt od
  have := vop_code_lt oa
  have := vop_row_lt oa
  have := vop_code_lt ob
  have := vop_row_lt ob
  exact word rfl (vrWord_lt _ _ _ _ _ _ _ _ _ _ _ (by omega) (by omega) (by omega) (by omega) (by omega) (by omega) (by omega) (by omega) (by omega) (by omega))
theorem vabs (c : VCtl) (od oa : VOp) : Statement (.vabs c od oa) := by
  have := vop_code_lt od
  have := vop_row_lt od
  have := vop_code_lt oa
  have := vop_row_lt oa
  exact word rfl (vrWord_lt _ _ _ _ _ _ _ _ _ _ _ (by omega) (by omega) (by omega) (by omega) (by omega) (by omega) (by omega) (by omega) (by omega) (by omega))
theorem vneg (c : VCtl) (od oa : VOp) : Statement (.vneg c od oa) := by
  have := vop_code_lt od
  have := vop_row_lt od
  have := vop_code_lt oa
  have := vop_row_lt oa
  exact word rfl (vrWord_lt _ _ _ _ _ _ _ _ _ _ _ (by omega) (by omega) (by omega) (by omega) (by omega) (by omega) (by omega) (by omega) (by omega) (by omega))
theorem vdiv (c : VCtl) (od oa ob : VOp) : Statement (.vdiv c od oa ob) := by
  have := vop_code_lt od
  have := vop_row_lt od
  have := vop_code_lt oa
  have := vop_row_lt oa
  have := vop_code_lt ob
  have := vop_row_lt ob
  exact word rfl (vrWord_lt _ _ _ _ _ _ _ _ _ _ _ (by omega) (by omega) (by omega) (by omega) (by omega) (by omega) (by omega) (by omega) (by omega) (by omega))
theorem vsqrt (c : VCtl) (od oa : VOp) : Statement (.vsqrt c od oa) := by
  have := vop_code_lt od
  have := vop_row_lt od
  have := vop_code_lt oa
  have := vop_row_lt oa
  exact word rfl (vrWord_lt _ _ _ _ _ _ _ _ _ _ _ (by omega) (by omega) (by omega) (by omega) (by omega) (by omega) (by omega) (by omega) (by omega) (by omega))
theorem vrcp (c : VCtl) (od oa : VOp) : Statement (.vrcp c od oa) := by
  have := vop_code_lt od
  have := vop_row_lt od
  have := vop_code_lt oa
  have := vop_row_lt oa
  exact word rfl (vrWord_lt _ _ _ _ _ _ _ _ _ _ _ (by omega) (by omega) (by omega) (by omega) (by omega) (by omega) (by omega) (by omega) (by omega) (by omega))
theorem vrsq (c : VCtl) (od oa : VOp) : Statement (.vrsq c od oa) := by
  have := vop_code_lt od
  have := vop_row_lt od
  have := vop_code_lt oa
  have := vop_row_lt oa
  exact word rfl (vrWord_lt _ _ _ _ _ _ _ _ _ _ _ (by omega) (by omega) (by omega) (by omega) (by omega) (by omega) (by omega) (by omega) (by omega) (by omega))
theorem viadd (c : VCtl) (od oa ob : VOp) : Statement (.viadd c od oa ob) := by
  have := vop_code_lt od
  have := vop_row_lt od
  have := vop_code_lt oa
  have := vop_row_lt oa
  have := vop_code_lt ob
  have := vop_row_lt ob
  exact word rfl (vrWord_lt _ _ _ _ _ _ _ _ _ _ _ (by omega) (by omega) (by omega) (by omega) (by omega) (by omega) (by omega) (by omega) (by omega) (by omega))
theorem visub (c : VCtl) (od oa ob : VOp) : Statement (.visub c od oa ob) := by
  have := vop_code_lt od
  have := vop_row_lt od
  have := vop_code_lt oa
  have := vop_row_lt oa
  have := vop_code_lt ob
  have := vop_row_lt ob
  exact word rfl (vrWord_lt _ _ _ _ _ _ _ _ _ _ _ (by omega) (by omega) (by omega) (by omega) (by omega) (by omega) (by omega) (by omega) (by omega) (by omega))
theorem vimul (c : VCtl) (od oa ob : VOp) : Statement (.vimul c od oa ob) := by
  have := vop_code_lt od
  have := vop_row_lt od
  have := vop_code_lt oa
  have := vop_row_lt oa
  have := vop_code_lt ob
  have := vop_row_lt ob
  exact word rfl (vrWord_lt _ _ _ _ _ _ _ _ _ _ _ (by omega) (by omega) (by omega) (by omega) (by omega) (by omega) (by omega) (by omega) (by omega) (by omega))
theorem vimin (c : VCtl) (od oa ob : VOp) : Statement (.vimin c od oa ob) := by
  have := vop_code_lt od
  have := vop_row_lt od
  have := vop_code_lt oa
  have := vop_row_lt oa
  have := vop_code_lt ob
  have := vop_row_lt ob
  exact word rfl (vrWord_lt _ _ _ _ _ _ _ _ _ _ _ (by omega) (by omega) (by omega) (by omega) (by omega) (by omega) (by omega) (by omega) (by omega) (by omega))
theorem vimax (c : VCtl) (od oa ob : VOp) : Statement (.vimax c od oa ob) := by
  have := vop_code_lt od
  have := vop_row_lt od
  have := vop_code_lt oa
  have := vop_row_lt oa
  have := vop_code_lt ob
  have := vop_row_lt ob
  exact word rfl (vrWord_lt _ _ _ _ _ _ _ _ _ _ _ (by omega) (by omega) (by omega) (by omega) (by omega) (by omega) (by omega) (by omega) (by omega) (by omega))
theorem vand (c : VCtl) (od oa ob : VOp) : Statement (.vand c od oa ob) := by
  have := vop_code_lt od
  have := vop_row_lt od
  have := vop_code_lt oa
  have := vop_row_lt oa
  have := vop_code_lt ob
  have := vop_row_lt ob
  exact word rfl (vrWord_lt _ _ _ _ _ _ _ _ _ _ _ (by omega) (by omega) (by omega) (by omega) (by omega) (by omega) (by omega) (by omega) (by omega) (by omega))
theorem vor (c : VCtl) (od oa ob : VOp) : Statement (.vor c od oa ob) := by
  have := vop_code_lt od
  have := vop_row_lt od
  have := vop_code_lt oa
  have := vop_row_lt oa
  have := vop_code_lt ob
  have := vop_row_lt ob
  exact word rfl (vrWord_lt _ _ _ _ _ _ _ _ _ _ _ (by omega) (by omega) (by omega) (by omega) (by omega) (by omega) (by omega) (by omega) (by omega) (by omega))
theorem vxor (c : VCtl) (od oa ob : VOp) : Statement (.vxor c od oa ob) := by
  have := vop_code_lt od
  have := vop_row_lt od
  have := vop_code_lt oa
  have := vop_row_lt oa
  have := vop_code_lt ob
  have := vop_row_lt ob
  exact word rfl (vrWord_lt _ _ _ _ _ _ _ _ _ _ _ (by omega) (by omega) (by omega) (by omega) (by omega) (by omega) (by omega) (by omega) (by omega) (by omega))
theorem vshl (c : VCtl) (od oa ob : VOp) : Statement (.vshl c od oa ob) := by
  have := vop_code_lt od
  have := vop_row_lt od
  have := vop_code_lt oa
  have := vop_row_lt oa
  have := vop_code_lt ob
  have := vop_row_lt ob
  exact word rfl (vrWord_lt _ _ _ _ _ _ _ _ _ _ _ (by omega) (by omega) (by omega) (by omega) (by omega) (by omega) (by omega) (by omega) (by omega) (by omega))
theorem vshr (c : VCtl) (od oa ob : VOp) : Statement (.vshr c od oa ob) := by
  have := vop_code_lt od
  have := vop_row_lt od
  have := vop_code_lt oa
  have := vop_row_lt oa
  have := vop_code_lt ob
  have := vop_row_lt ob
  exact word rfl (vrWord_lt _ _ _ _ _ _ _ _ _ _ _ (by omega) (by omega) (by omega) (by omega) (by omega) (by omega) (by omega) (by omega) (by omega) (by omega))
theorem vsra (c : VCtl) (od oa ob : VOp) : Statement (.vsra c od oa ob) := by
  have := vop_code_lt od
  have := vop_row_lt od
  have := vop_code_lt oa
  have := vop_row_lt oa
  have := vop_code_lt ob
  have := vop_row_lt ob
  exact word rfl (vrWord_lt _ _ _ _ _ _ _ _ _ _ _ (by omega) (by omega) (by omega) (by omega) (by omega) (by omega) (by omega) (by omega) (by omega) (by omega))
theorem vimad (c : VCtl) (od oa ob oc : VOp) : Statement (.vimad c od oa ob oc) := by
  have := vop_code_lt od
  have := vop_row_lt od
  have := vop_code_lt oa
  have := vop_row_lt oa
  have := vop_code_lt ob
  have := vop_row_lt ob
  have := vop_code_lt oc
  have := vop_row_lt oc
  exact word rfl (vrWord_lt _ _ _ _ _ _ _ _ _ _ _ (by omega) (by omega) (by omega) (by omega) (by omega) (by omega) (by omega) (by omega) (by omega) (by omega))
theorem vceq (c : VCtl) (md : Fin 4) (oa ob : VOp) (sub : Fin 4) : Statement (.vceq c md oa ob sub) := by
  have := md.isLt
  have := vop_code_lt oa
  have := vop_row_lt oa
  have := vop_code_lt ob
  have := vop_row_lt ob
  have := sub.isLt
  exact word rfl (vrWord_lt _ _ _ _ _ _ _ _ _ _ _ (by omega) (by omega) (by omega) (by omega) (by omega) (by omega) (by omega) (by omega) (by omega) (by omega))
theorem vcne (c : VCtl) (md : Fin 4) (oa ob : VOp) (sub : Fin 4) : Statement (.vcne c md oa ob sub) := by
  have := md.isLt
  have := vop_code_lt oa
  have := vop_row_lt oa
  have := vop_code_lt ob
  have := vop_row_lt ob
  have := sub.isLt
  exact word rfl (vrWord_lt _ _ _ _ _ _ _ _ _ _ _ (by omega) (by omega) (by omega) (by omega) (by omega) (by omega) (by omega) (by omega) (by omega) (by omega))
theorem vclt (c : VCtl) (md : Fin 4) (oa ob : VOp) (sub : Fin 4) : Statement (.vclt c md oa ob sub) := by
  have := md.isLt
  have := vop_code_lt oa
  have := vop_row_lt oa
  have := vop_code_lt ob
  have := vop_row_lt ob
  have := sub.isLt
  exact word rfl (vrWord_lt _ _ _ _ _ _ _ _ _ _ _ (by omega) (by omega) (by omega) (by omega) (by omega) (by omega) (by omega) (by omega) (by omega) (by omega))
theorem vcle (c : VCtl) (md : Fin 4) (oa ob : VOp) (sub : Fin 4) : Statement (.vcle c md oa ob sub) := by
  have := md.isLt
  have := vop_code_lt oa
  have := vop_row_lt oa
  have := vop_code_lt ob
  have := vop_row_lt ob
  have := sub.isLt
  exact word rfl (vrWord_lt _ _ _ _ _ _ _ _ _ _ _ (by omega) (by omega) (by omega) (by omega) (by omega) (by omega) (by omega) (by omega) (by omega) (by omega))
theorem vcun (c : VCtl) (md : Fin 4) (oa ob : VOp) (sub : Fin 4) : Statement (.vcun c md oa ob sub) := by
  have := md.isLt
  have := vop_code_lt oa
  have := vop_row_lt oa
  have := vop_code_lt ob
  have := vop_row_lt ob
  have := sub.isLt
  exact word rfl (vrWord_lt _ _ _ _ _ _ _ _ _ _ _ (by omega) (by omega) (by omega) (by omega) (by omega) (by omega) (by omega) (by omega) (by omega) (by omega))
theorem viclt (c : VCtl) (md : Fin 4) (oa ob : VOp) (sub : Fin 4) : Statement (.viclt c md oa ob sub) := by
  have := md.isLt
  have := vop_code_lt oa
  have := vop_row_lt oa
  have := vop_code_lt ob
  have := vop_row_lt ob
  have := sub.isLt
  exact word rfl (vrWord_lt _ _ _ _ _ _ _ _ _ _ _ (by omega) (by omega) (by omega) (by omega) (by omega) (by omega) (by omega) (by omega) (by omega) (by omega))
theorem vicltu (c : VCtl) (md : Fin 4) (oa ob : VOp) (sub : Fin 4) : Statement (.vicltu c md oa ob sub) := by
  have := md.isLt
  have := vop_code_lt oa
  have := vop_row_lt oa
  have := vop_code_lt ob
  have := vop_row_lt ob
  have := sub.isLt
  exact word rfl (vrWord_lt _ _ _ _ _ _ _ _ _ _ _ (by omega) (by omega) (by omega) (by omega) (by omega) (by omega) (by omega) (by omega) (by omega) (by omega))
theorem viceq (c : VCtl) (md : Fin 4) (oa ob : VOp) (sub : Fin 4) : Statement (.viceq c md oa ob sub) := by
  have := md.isLt
  have := vop_code_lt oa
  have := vop_row_lt oa
  have := vop_code_lt ob
  have := vop_row_lt ob
  have := sub.isLt
  exact word rfl (vrWord_lt _ _ _ _ _ _ _ _ _ _ _ (by omega) (by omega) (by omega) (by omega) (by omega) (by omega) (by omega) (by omega) (by omega) (by omega))
theorem vsel (c : VCtl) (od oa ob : VOp) : Statement (.vsel c od oa ob) := by
  have := vop_code_lt od
  have := vop_row_lt od
  have := vop_code_lt oa
  have := vop_row_lt oa
  have := vop_code_lt ob
  have := vop_row_lt ob
  exact word rfl (vrWord_lt _ _ _ _ _ _ _ _ _ _ _ (by omega) (by omega) (by omega) (by omega) (by omega) (by omega) (by omega) (by omega) (by omega) (by omega))
theorem vmov (c : VCtl) (od oa : VOp) : Statement (.vmov c od oa) := by
  have := vop_code_lt od
  have := vop_row_lt od
  have := vop_code_lt oa
  have := vop_row_lt oa
  exact word rfl (vrWord_lt _ _ _ _ _ _ _ _ _ _ _ (by omega) (by omega) (by omega) (by omega) (by omega) (by omega) (by omega) (by omega) (by omega) (by omega))
theorem vlane (c : VCtl) (od oa : VOp) : Statement (.vlane c od oa) := by
  have := vop_code_lt od
  have := vop_row_lt od
  have := vop_code_lt oa
  have := vop_row_lt oa
  exact word rfl (vrWord_lt _ _ _ _ _ _ _ _ _ _ _ (by omega) (by omega) (by omega) (by omega) (by omega) (by omega) (by omega) (by omega) (by omega) (by omega))
theorem vperm (c : VCtl) (od oa ob : VOp) : Statement (.vperm c od oa ob) := by
  have := vop_code_lt od
  have := vop_row_lt od
  have := vop_code_lt oa
  have := vop_row_lt oa
  have := vop_code_lt ob
  have := vop_row_lt ob
  exact word rfl (vrWord_lt _ _ _ _ _ _ _ _ _ _ _ (by omega) (by omega) (by omega) (by omega) (by omega) (by omega) (by omega) (by omega) (by omega) (by omega))
theorem vrot (c : VCtl) (od oa : VOp) : Statement (.vrot c od oa) := by
  have := vop_code_lt od
  have := vop_row_lt od
  have := vop_code_lt oa
  have := vop_row_lt oa
  exact word rfl (vrWord_lt _ _ _ _ _ _ _ _ _ _ _ (by omega) (by omega) (by omega) (by omega) (by omega) (by omega) (by omega) (by omega) (by omega) (by omega))
theorem viota (c : VCtl) (od : VOp) : Statement (.viota c od) := by
  have := vop_code_lt od
  have := vop_row_lt od
  exact word rfl (vrWord_lt _ _ _ _ _ _ _ _ _ _ _ (by omega) (by omega) (by omega) (by omega) (by omega) (by omega) (by omega) (by omega) (by omega) (by omega))
theorem vradd (c : VCtl) (od oa : VOp) : Statement (.vradd c od oa) := by
  have := vop_code_lt od
  have := vop_row_lt od
  have := vop_code_lt oa
  have := vop_row_lt oa
  exact word rfl (vrWord_lt _ _ _ _ _ _ _ _ _ _ _ (by omega) (by omega) (by omega) (by omega) (by omega) (by omega) (by omega) (by omega) (by omega) (by omega))
theorem vrmax (c : VCtl) (od oa : VOp) : Statement (.vrmax c od oa) := by
  have := vop_code_lt od
  have := vop_row_lt od
  have := vop_code_lt oa
  have := vop_row_lt oa
  exact word rfl (vrWord_lt _ _ _ _ _ _ _ _ _ _ _ (by omega) (by omega) (by omega) (by omega) (by omega) (by omega) (by omega) (by omega) (by omega) (by omega))
theorem vrmin (c : VCtl) (od oa : VOp) : Statement (.vrmin c od oa) := by
  have := vop_code_lt od
  have := vop_row_lt od
  have := vop_code_lt oa
  have := vop_row_lt oa
  exact word rfl (vrWord_lt _ _ _ _ _ _ _ _ _ _ _ (by omega) (by omega) (by omega) (by omega) (by omega) (by omega) (by omega) (by omega) (by omega) (by omega))
theorem vamax (c : VCtl) (od oa : VOp) : Statement (.vamax c od oa) := by
  have := vop_code_lt od
  have := vop_row_lt od
  have := vop_code_lt oa
  have := vop_row_lt oa
  exact word rfl (vrWord_lt _ _ _ _ _ _ _ _ _ _ _ (by omega) (by omega) (by omega) (by omega) (by omega) (by omega) (by omega) (by omega) (by omega) (by omega))
theorem vcvt (c : VCtl) (od oa : VOp) (src : Fmt) (part : Bool) : Statement (.vcvt c od oa src part) := by
  have := vop_code_lt od
  have := vop_row_lt od
  have := vop_code_lt oa
  have := vop_row_lt oa
  have := fmt_code_lt src
  have := bool_nat_lt part
  exact word rfl (vrWord_lt _ _ _ _ _ _ _ _ _ _ _ (by omega) (by omega) (by omega) (by omega) (by omega) (by omega) (by omega) (by omega) (by omega) (by omega))
theorem vrint (c : VCtl) (od oa : VOp) : Statement (.vrint c od oa) := by
  have := vop_code_lt od
  have := vop_row_lt od
  have := vop_code_lt oa
  have := vop_row_lt oa
  exact word rfl (vrWord_lt _ _ _ _ _ _ _ _ _ _ _ (by omega) (by omega) (by omega) (by omega) (by omega) (by omega) (by omega) (by omega) (by omega) (by omega))
theorem vrng (c : VCtl) (od : VOp) : Statement (.vrng c od) := by
  have := vop_code_lt od
  have := vop_row_lt od
  exact word rfl (vrWord_lt _ _ _ _ _ _ _ _ _ _ _ (by omega) (by omega) (by omega) (by omega) (by omega) (by omega) (by omega) (by omega) (by omega) (by omega))
theorem mset (md : Fin 4) (ones : Bool) : Statement (.mset md ones) := by
  have := md.isLt
  have := bool_nat_lt ones
  exact word rfl (vmWord_lt _ _ _ _ _ _ _ (by omega) (by omega) (by omega) (by omega) (by omega) (by omega) (by omega))
theorem mand (md ma mb : Fin 4) : Statement (.mand md ma mb) := by
  have := md.isLt
  have := ma.isLt
  have := mb.isLt
  exact word rfl (vmWord_lt _ _ _ _ _ _ _ (by omega) (by omega) (by omega) (by omega) (by omega) (by omega) (by omega))
theorem mor (md ma mb : Fin 4) : Statement (.mor md ma mb) := by
  have := md.isLt
  have := ma.isLt
  have := mb.isLt
  exact word rfl (vmWord_lt _ _ _ _ _ _ _ (by omega) (by omega) (by omega) (by omega) (by omega) (by omega) (by omega))
theorem mnot (md ma : Fin 4) : Statement (.mnot md ma) := by
  have := md.isLt
  have := ma.isLt
  exact word rfl (vmWord_lt _ _ _ _ _ _ _ (by omega) (by omega) (by omega) (by omega) (by omega) (by omega) (by omega))
theorem mpop (od : VOp) (ma : Fin 4) : Statement (.mpop od ma) := by
  have := vop_code_lt od
  have := vop_row_lt od
  have := ma.isLt
  refine word rfl ?_
  simp only [vmWord]
  omega
theorem mrow (md : Fin 4) (xs : Reg) : Statement (.mrow md xs) := by
  have := md.isLt
  have := xs.isLt
  exact word rfl (vmWord_lt _ _ _ _ _ _ _ (by omega) (by omega) (by omega) (by omega) (by omega) (by omega) (by omega))
theorem mcol (md : Fin 4) (xs : Reg) : Statement (.mcol md xs) := by
  have := md.isLt
  have := xs.isLt
  exact word rfl (vmWord_lt _ _ _ _ _ _ _ (by omega) (by omega) (by omega) (by omega) (by omega) (by omega) (by omega))
theorem tzero (t : Fin 8) (row : Fin 16) (whole : Bool) (mp : Fin 4) (cpl : Bool) : Statement (.tzero t row whole mp cpl) := by
  have := t.isLt
  have := row.isLt
  have := bool_nat_lt whole
  have := mp.isLt
  have := bool_nat_lt cpl
  refine word rfl ?_
  simp only [vmWord]
  omega
theorem tcpy (td ta : Fin 8) (mp : Fin 4) (cpl : Bool) : Statement (.tcpy td ta mp cpl) := by
  have := td.isLt
  have := ta.isLt
  have := mp.isLt
  have := bool_nat_lt cpl
  refine word rfl ?_
  simp only [vmWord]
  omega
theorem mxcfg (xa : Reg) (entry : Fin 10) : Statement (.mxcfg xa entry) := by
  have := xa.isLt
  have := entry.isLt
  exact word rfl (ecRaw_lt _ _ _ (by omega) (by omega))
theorem mxgo (e : ECtl) (fbase : Fin 16) (fmode : Bool) (lcn : Fin 4) (ga zacc : Bool) : Statement (.mxgo e fbase fmode lcn ga zacc) := by
  have := fbase.isLt
  have := bool_nat_lt fmode
  have := lcn.isLt
  have := bool_nat_lt ga
  have := bool_nat_lt zacc
  exact word rfl (ecWord_lt _ _ _ (by omega) (by omega))
theorem mxldb (e : ECtl) (fe : Fin 16) (ga : Bool) : Statement (.mxldb e fe ga) := by
  have := fe.isLt
  have := bool_nat_lt ga
  exact word rfl (ecWord_lt _ _ _ (by omega) (by omega))
theorem accz (e : ECtl) (a0 a1 : Bool) : Statement (.accz e a0 a1) := by
  have := bool_nat_lt a0
  have := bool_nat_lt a1
  exact word rfl (ecWord_lt _ _ _ (by omega) (by omega))
theorem accdr (e : ECtl) (fe : Fin 16) (acc0 keep : Bool) : Statement (.accdr e fe acc0 keep) := by
  have := fe.isLt
  have := bool_nat_lt acc0
  have := bool_nat_lt keep
  exact word rfl (ecWord_lt _ _ _ (by omega) (by omega))
theorem ftset (xa : Reg) (entry : Fin 16) : Statement (.ftset xa entry) := by
  have := xa.isLt
  have := entry.isLt
  exact word rfl (ecRaw_lt _ _ _ (by omega) (by omega))
theorem tolset (xa : Reg) (entry : Fin 8) : Statement (.tolset xa entry) := by
  have := xa.isLt
  have := entry.isLt
  exact word rfl (ecRaw_lt _ _ _ (by omega) (by omega))
theorem mxstat (xd : Reg) (sel : Fin 7) : Statement (.mxstat xd sel) := by
  have := xd.isLt
  have := sel.isLt
  exact word rfl (ecRaw_lt _ _ _ (by omega) (by omega))
theorem mxabn (array drain : Bool) : Statement (.mxabn array drain) := by
  have := bool_nat_lt array
  have := bool_nat_lt drain
  exact word rfl (ecRaw_lt _ _ _ (by omega) (by omega))
theorem cvt (e : ECtl) (dfmt : Fmt) (fe : Fin 16) (rnd : RMode) (sat bcol ch chrow tns inv : Bool) : Statement (.cvt e dfmt fe rnd sat bcol ch chrow tns inv) := by
  have := fmt_code_lt dfmt
  have := fe.isLt
  have := rmode_code_lt rnd
  have := bool_nat_lt sat
  have := bool_nat_lt bcol
  have := bool_nat_lt ch
  have := bool_nat_lt chrow
  have := bool_nat_lt tns
  have := bool_nat_lt inv
  exact word rfl (ecWord_lt _ _ _ (by omega) (by omega))
theorem qamax (e : ECtl) (fe : Fin 16) (zp init : Bool) : Statement (.qamax e fe zp init) := by
  have := fe.isLt
  have := bool_nat_lt zp
  have := bool_nat_lt init
  exact word rfl (ecWord_lt _ _ _ (by omega) (by omega))
theorem qscl (e : ECtl) (tfmt : Fmt) (m : Fin 8) (pow2 : Bool) : Statement (.qscl e tfmt m pow2) := by
  have := fmt_code_lt tfmt
  have := m.isLt
  have := bool_nat_lt pow2
  exact word rfl (ecWord_lt _ _ _ (by omega) (by omega))
theorem trn (e : ECtl) (keep : Bool) : Statement (.trn e keep) := by
  have := bool_nat_lt keep
  exact word rfl (ecWord_lt _ _ _ (by omega) (by omega))
theorem tbld (e : ECtl) (slot : Fin 4) : Statement (.tbld e slot) := by
  have := slot.isLt
  exact word rfl (ecWord_lt _ _ _ (by omega) (by omega))
theorem tbev (e : ECtl) (slot : Fin 4) (ifmt ofmt : Fmt) (rnd : RMode) (sat tile : Bool) : Statement (.tbev e slot ifmt ofmt rnd sat tile) := by
  have := slot.isLt
  have := fmt_code_lt ifmt
  have := fmt_code_lt ofmt
  have := rmode_code_lt rnd
  have := bool_nat_lt sat
  have := bool_nat_lt tile
  exact word rfl (ecWord_lt _ _ _ (by omega) (by omega))
theorem gsum (e : ECtl) (fmt : Fmt) (bcol : Bool) : Statement (.gsum e fmt bcol) := by
  have := fmt_code_lt fmt
  have := bool_nat_lt bcol
  exact word rfl (ecWord_lt _ _ _ (by omega) (by omega))
theorem gver (e : ECtl) : Statement (.gver e) := by
  exact word rfl (ecWord_lt _ _ _ (by omega) (by omega))
theorem cpl (e : ECtl) : Statement (.cpl e) := by
  exact word rfl (ecWord_lt _ _ _ (by omega) (by omega))
theorem cpc (e : ECtl) : Statement (.cpc e) := by
  exact word rfl (ecWord_lt _ _ _ (by omega) (by omega))
theorem cph (e : ECtl) : Statement (.cph e) := by
  exact word rfl (ecWord_lt _ _ _ (by omega) (by omega))
theorem cpv (e : ECtl) : Statement (.cpv e) := by
  exact word rfl (ecWord_lt _ _ _ (by omega) (by omega))
theorem cpabn (e : ECtl) (all : Bool) : Statement (.cpabn e all) := by
  have := bool_nat_lt all
  exact word rfl (ecWord_lt _ _ _ (by omega) (by omega))
theorem tsend (e : ECtl) : Statement (.tsend e) := by
  exact word rfl (ecWord_lt _ _ _ (by omega) (by omega))
theorem trecv (e : ECtl) : Statement (.trecv e) := by
  exact word rfl (ecWord_lt _ _ _ (by omega) (by omega))
theorem clred (e : ECtl) (ofmt : Fmt) (rnd : RMode) (sat : Bool) : Statement (.clred e ofmt rnd sat) := by
  have := fmt_code_lt ofmt
  have := rmode_code_lt rnd
  have := bool_nat_lt sat
  exact word rfl (ecWord_lt _ _ _ (by omega) (by omega))
theorem clgath (e : ECtl) : Statement (.clgath e) := by
  exact word rfl (ecWord_lt _ _ _ (by omega) (by omega))
theorem clbcst (e : ECtl) : Statement (.clbcst e) := by
  exact word rfl (ecWord_lt _ _ _ (by omega) (by omega))
theorem atom (e : ECtl) (op : AtomOp) (kind : AtomKind) (retry : Bool) : Statement (.atom e op kind retry) := by
  have : op.code < 16 := by cases op <;> decide
  have : kind.code < 16 := by cases kind <;> decide
  have := bool_nat_lt retry
  exact word rfl (ecWord_lt _ _ _ (by omega) (by omega))
theorem pbind (q : Fin 8) (sec : Fin 8) (lane : LaneRef) (stn : Fin 8) (xa : Reg) (wr : Bool) : Statement (.pbind q sec lane stn xa wr) := by
  have := q.isLt
  have := sec.isLt
  have := stn.isLt
  have := xa.isLt
  have := bool_nat_lt wr
  have := lane.num.isLt
  have := bool_nat_lt lane.ccw
  refine word rfl ?_
  simp only [lnWord]
  omega
theorem pwalk (q : Fin 8) (xa : Reg) (lvl : Fin 4) : Statement (.pwalk q xa lvl) := by
  have := q.isLt
  have := xa.isLt
  have := lvl.isLt
  exact word rfl (lnWord_lt _ _ _ _ _ _ _ _ (by omega) (by omega) (by omega))
theorem prst (q : Fin 8) : Statement (.prst q) := by
  have := q.isLt
  exact word rfl (lnWord_lt _ _ _ _ _ _ _ _ (by omega) (by omega) (by omega))
theorem ptag (q : Fin 8) (tag : BitVec 16) : Statement (.ptag q tag) := by
  have := q.isLt
  have := tag.isLt
  exact word rfl (lnWord_lt _ _ _ _ _ _ _ _ (by omega) (by omega) (by omega))
theorem pstamp (q : Fin 8) (tag : BitVec 16) : Statement (.pstamp q tag) := by
  have := q.isLt
  have := tag.isLt
  exact word rfl (lnWord_lt _ _ _ _ _ _ _ _ (by omega) (by omega) (by omega))
theorem lmov (src : Fin 8) (lane : LaneRef) (dst : Fin 8) (xa : Reg) : Statement (.lmov src lane dst xa) := by
  have := src.isLt
  have := dst.isLt
  have := xa.isLt
  exact word rfl (lnWord_lt _ _ _ _ _ _ _ _ (by omega) (by omega) (by omega))
theorem pstat (q : Fin 8) (xd : Reg) (sel : Fin 32) : Statement (.pstat q xd sel) := by
  have := q.isLt
  have := xd.isLt
  have := sel.isLt
  exact word rfl (lnWord_lt _ _ _ _ _ _ _ _ (by omega) (by omega) (by omega))
theorem pflush (q : Fin 8) : Statement (.pflush q) := by
  have := q.isLt
  exact word rfl (lnWord_lt _ _ _ _ _ _ _ _ (by omega) (by omega) (by omega))
theorem arithmeticCheckFault (u : ArcFault) : Statement (.arithmeticCheckFault u) := event rfl
theorem replayNotice (f : Nat) (q : Nat) : Statement (.replayNotice f q) := event rfl
theorem compareWord (w : Option CompareWord) : Statement (.compareWord w) := event rfl
theorem timestampBeatSend (p : Fin 18) : Statement (.timestampBeatSend p) := event rfl
theorem commandStart (u : EUnit) (idx : BitVec 24) : Statement (.commandStart u idx) := event rfl
theorem commandCompletion (u : EUnit) (idx : BitVec 24) : Statement (.commandCompletion u idx) := event rfl
theorem portPrefetchRead (q : Fin 8) : Statement (.portPrefetchRead q) := event rfl
theorem portPushLand (q : Fin 8) : Statement (.portPushLand q) := event rfl
theorem sectorFree (sec : Fin 8) : Statement (.sectorFree sec) := event rfl
theorem copyRowIssue (src : RowSrc) : Statement (.copyRowIssue src) := event rfl
theorem translationComplete (idx : BitVec 24) : Statement (.translationComplete idx) := event rfl
theorem hbmBankAccess (idx : BitVec 24) (k : Nat) : Statement (.hbmBankAccess idx k) := event rfl
theorem copyRowLand (src : RowSrc) (data : Row) (st : FarStatus) : Statement (.copyRowLand src data st) := event rfl
theorem putAcknowledgement (idx : BitVec 24) (k : Nat) (st : FarStatus) : Statement (.putAcknowledgement idx k st) := event rfl
theorem completionTimeout (idx : BitVec 24) : Statement (.completionTimeout idx) := event rfl
theorem atomRequest (r : AtomReq) : Statement (.atomRequest r) := event rfl
theorem atomResponse (idx : BitVec 24) (r : AtomEnd) : Statement (.atomResponse idx r) := event rfl
theorem atomTimeout (idx : BitVec 24) : Statement (.atomTimeout idx) := event rfl
theorem timedRowLand (r : TimedRow) : Statement (.timedRowLand r) := event rfl
theorem clredResult (win : Fin 16) : Statement (.clredResult win) := event rfl
theorem voteWindowEnd (side : Fin 4) : Statement (.voteWindowEnd side) := event rfl
theorem fenceGraceEnd (side : Fin 4) : Statement (.fenceGraceEnd side) := event rfl
theorem queueFetch (q : Fin 64) (hostPkt : Option (BitVec 1024)) (img : Option Image) : Statement (.queueFetch q hostPkt img) := event rfl
theorem cond (entry : Nat) : Statement (.cond entry) := event rfl
theorem loopNode (entry : Nat) : Statement (.loopNode entry) := event rfl
theorem loopNodeReread (entry : Nat) : Statement (.loopNodeReread entry) := event rfl
theorem switch (entry : Nat) : Statement (.switch entry) := event rfl
theorem signalWrite (entry : Nat) : Statement (.signalWrite entry) := event rfl
theorem signalMsix (entry : Nat) : Statement (.signalMsix entry) := event rfl
theorem fencePacket (entry : Nat) : Statement (.fencePacket entry) := event rfl
theorem readyReport (lid : BitVec 32) (cell : Peer) : Statement (.readyReport lid cell) := event rfl
theorem armingDeadline (lid : BitVec 32) : Statement (.armingDeadline lid) := event rfl
theorem armedStart (lid : BitVec 32) : Statement (.armedStart lid) := event rfl
theorem cellStart (lid : BitVec 32) : Statement (.cellStart lid) := event rfl
theorem haltReport (lid : BitVec 32) (cell : Peer) (status : BitVec 16) : Statement (.haltReport lid cell status) := event rfl
theorem packetCompletion (entry : Nat) : Statement (.packetCompletion entry) := event rfl
theorem watchdogLimit (lid : BitVec 32) : Statement (.watchdogLimit lid) := event rfl
theorem preemptionRequest (full : Bool) (atP : Option Nat) : Statement (.preemptionRequest full atP) := event rfl
theorem checkpointAck (lid : BitVec 32) (cell : Peer) : Statement (.checkpointAck lid cell) := event rfl
theorem fenceReport (px py : Nat) (cause : Fin 8) (f : Nat) : Statement (.fenceReport px py cause f) := event rfl
theorem resumeStart (p : Placement) : Statement (.resumeStart p) := event rfl
theorem atsCompletion (pasid : BitVec 20) (page : Nat) (r : AtsResult) : Statement (.atsCompletion pasid page r) := event rfl
theorem priGroupResponse (pasid : BitVec 20) (page : Nat) (ok : Bool) : Statement (.priGroupResponse pasid page ok) := event rfl
theorem replayAck (cell : Peer) : Statement (.replayAck cell) := event rfl
theorem timestampBeat (p : Fin 18) (stamp : Word) : Statement (.timestampBeat p stamp) := event rfl
theorem timedFlitRelease (p : Fin 18) (f : Flit) : Statement (.timedFlitRelease p f) := event rfl
theorem mbaperFlitArrival (p : Fin 18) (f : Flit) : Statement (.mbaperFlitArrival p f) := event rfl
theorem meshFlitArrival (side : Fin 4) (f : Flit) : Statement (.meshFlitArrival side f) := event rfl
theorem atsInvalidation (pasid : BitVec 20) (page : Nat) (pages : Nat) : Statement (.atsInvalidation pasid page pages) := event rfl
theorem fabricPathLost (idx : BitVec 24) : Statement (.fabricPathLost idx) := event rfl
theorem heartbeat (side : Fin 4) (msg : BitVec 256) : Statement (.heartbeat side msg) := event rfl
theorem accusation (side : Fin 4) (msg : BitVec 256) : Statement (.accusation side msg) := event rfl
theorem appealMessage (side : Fin 4) (msg : BitVec 256) : Statement (.appealMessage side msg) := event rfl
theorem readmissionVote (side : Fin 4) (msg : BitVec 256) : Statement (.readmissionVote side msg) := event rfl
theorem fenceNotice (side : Fin 4) (msg : BitVec 256) : Statement (.fenceNotice side msg) := event rfl
theorem liftNotice (side : Fin 4) (msg : BitVec 256) : Statement (.liftNotice side msg) := event rfl
theorem queueDoorbell (q : Fin 64) (tail : BitVec 32) : Statement (.queueDoorbell q tail) := event rfl
theorem launch (q : Fin 64) (p : LaunchPkt) (img : Image) : Statement (.launch q p img) := event rfl
theorem remoteLaunch (p : RemoteMsg) (img : Image) : Statement (.remoteLaunch p img) := event rfl
theorem eventHeadWrite (head : BitVec 32) : Statement (.eventHeadWrite head) := event rfl
theorem pageServiced (fn : Fin 9) (dva : Nat) (asid : BitVec 16) (refused : Bool) : Statement (.pageServiced fn dva asid refused) := event rfl
theorem invalidateDeviceTables (fn : Fin 9) (asid : BitVec 16) (dva : Nat) (len : Nat) : Statement (.invalidateDeviceTables fn asid dva len) := event rfl
theorem suspendLaunch (fn : Fin 9) (lid : BitVec 32) : Statement (.suspendLaunch fn lid) := event rfl
theorem abandonLaunch (fn : Fin 9) (lid : BitVec 32) : Statement (.abandonLaunch fn lid) := event rfl
theorem abandonCopy (fn : Fin 9) (px py : Nat) (idx : BitVec 24) : Statement (.abandonCopy fn px py idx) := event rfl
theorem enableQueue (fn : Fin 9) (q : Fin 64) : Statement (.enableQueue fn q) := event rfl
theorem resetQueue (fn : Fin 9) (q : Fin 64) : Statement (.resetQueue fn q) := event rfl
theorem stageFirmware (fn : Fin 9) (dva : Nat) (len : Nat) (version : BitVec 16) (prev : BitVec 16) : Statement (.stageFirmware fn dva len version prev) := event rfl
theorem activateFirmware (fn : Fin 9) : Statement (.activateFirmware fn) := event rfl
theorem clearServiceHold (fn : Fin 9) (px py : Nat) : Statement (.clearServiceHold fn px py) := event rfl
theorem vfBind (vf : Fin 9) (dies : BitVec 4) : Statement (.vfBind vf dies) := event rfl
theorem apertureAccess (write : Bool) (off : Nat) (data : Byte) : Statement (.apertureAccess write off data) := event rfl
theorem rdmaWrite (incoming : Bool) (addr : Nat) (data : List Byte) : Statement (.rdmaWrite incoming addr data) := event rfl
theorem rdmaRead (what : RdmaRead) (addr : Nat) (len : Nat) : Statement (.rdmaRead what addr len) := event rfl
theorem rdmaSend (incoming : Bool) (buf : RdmaBuf) : Statement (.rdmaSend incoming buf) := event rfl
theorem registerWrite (acc : RegAccess) (num : BitVec 16) (v : Word) : Statement (.registerWrite acc num v) := event rfl
theorem memoryBitError (table : Bool) (sec : Fin 8) (addr : Nat) (uncorrectable : Bool) : Statement (.memoryBitError table sec addr uncorrectable) := event rfl
theorem cycleCountMismatch : Statement .cycleCountMismatch := event rfl
theorem safePointStarvationFault : Statement .safePointStarvationFault := event rfl
theorem resultWriteback : Statement .resultWriteback := event rfl
theorem segmentStart : Statement .segmentStart := event rfl
theorem holdEnd : Statement .holdEnd := event rfl
theorem replayStart : Statement .replayStart := event rfl
theorem replayWaitTimeout : Statement .replayWaitTimeout := event rfl
theorem abscissaAutoStep : Statement .abscissaAutoStep := event rfl
theorem trimUpdate : Statement .trimUpdate := event rfl
theorem abscissaStep : Statement .abscissaStep := event rfl
theorem matrixStep : Statement .matrixStep := event rfl
theorem swap : Statement .swap := event rfl
theorem drain : Statement .drain := event rfl
theorem lmovRow : Statement .lmovRow := event rfl
theorem faultRecordRead : Statement .faultRecordRead := event rfl
theorem atsInvalidationComplete : Statement .atsInvalidationComplete := event rfl
theorem invalidationComplete : Statement .invalidationComplete := event rfl
theorem replayEntryExpiry : Statement .replayEntryExpiry := event rfl
theorem heartbeatSend : Statement .heartbeatSend := event rfl
theorem periodEnd : Statement .periodEnd := event rfl
theorem domainBoundary : Statement .domainBoundary := event rfl
theorem appealExpiry : Statement .appealExpiry := event rfl
theorem ifstComplete : Statement .ifstComplete := event rfl
theorem spareFlashWrite : Statement .spareFlashWrite := event rfl
theorem dispatch : Statement .dispatch := event rfl
theorem saveComplete : Statement .saveComplete := event rfl
theorem fullSaveComplete : Statement .fullSaveComplete := event rfl
theorem apexMismatch : Statement .apexMismatch := event rfl
theorem apexRestart : Statement .apexRestart := event rfl
theorem eventRecordWrite : Statement .eventRecordWrite := event rfl
theorem firmwareActivation : Statement .firmwareActivation := event rfl
theorem getMeasurements : Statement .getMeasurements := event rfl
theorem powerOn : Statement .powerOn := event rfl
theorem moduleReset : Statement .moduleReset := event rfl
theorem thermalTrip : Statement .thermalTrip := event rfl
theorem illegalCodeUnitFetch : Statement .illegalCodeUnitFetch := event rfl
theorem cellFallsSilent : Statement .cellFallsSilent := event rfl

end Fits

end Sys2Proof.Laws
end

