-- ==== Sys2Proof/Tests/Slice0.lean ====
section
/-! SUPPORT. The model's own tests: a state and operands that meet the hypotheses of each statement, the words of each
encoding, and single steps whose results the manual gives or that follow by hand from its rules. -/

namespace Sys2Proof.Tests

set_option exponentiation.threshold 500
set_option Elab.async false

open Sys2Proof.Machine

/-! ## Small states -/

/-- The machine at reset but in user mode. -/
def user : State := State.reset.onSeq fun q => { q with mode := .user }

/-- A state with register r holding v. -/
def withReg (s : State) (r : Reg) (v : Word) : State := s.onSeq fun q => { q with regs := q.regs.set r v }

/-- Operands a and b in x1 and x2. -/
def regs2 (a b : Word) : State := withReg (withReg user 1 a) 2 b

/-- A register write on its way. -/
def writing (d : Dest) : PendingWrite := { dest := d, due := 0, issued := 0, baddr := 0x7000, slot := 1 }

/-- A state with writes in flight. -/
def withWrites (s : State) (l : List Dest) : State :=
  { s.onSeq fun q => { q with writes := l.map writing } with now := 1 }

/-- A halted cell. -/
def halted : State := State.reset.onSeq fun q => { q with run := .halted }

/-- A cell whose running program holds every sector. -/
def holding (s : State) : State := s.onAnn fun a => { a with own := Vector.replicate 8 (.held false) }

/-- The local address that a load or store computes. -/
def addrOf (s : State) (xa : Reg) (imm : BitVec 46) : Nat := ((s.x xa).toNat + imm.toInt) % 2 ^ 64 |>.toNat

/-- A state with active loops, innermost first. -/
def withLoops (s : State) (l : List LoopLevel) : State := s.onSeq fun q => { q with loops := l }

/-- Loop n over the bundles 0x6FF0 to `stop`. -/
def level (n : Fin 4) (stop : BitVec 15) (trip : BitVec 25) : LoopLevel := { n := n, start := 0x6FF0, stop := stop, trip := trip }

/-- A state with one code unit at an address that starts a bundle. -/
def withCode (s : State) (a : Nat) (u : BitVec 16) : State := s.onSeq fun q => { q with code := [(a, { unit := u, start := true })] }

/-- A state with a transfer under way. -/
def withXfer (s : State) (left : Nat) (v : Option Word) : State :=
  s.onSeq fun q => { q with xfer := some { left := left, target := v } }

/-! ## Witnesses -/

theorem witness_EncodingRoundTrips : (Instr.bfx 1 2 0 63).wf = true ∧ (encode (.bfx 1 2 0 63)).isSome = true ∧
    decodeSlot .scalar 0x0B28440000000000 = .ok (.mul 5 1 2) := by decide +kernel

theorem witness_StepsKeepMemoryCanonical : State.reset.memWf = true ∧ ∃ t, step halted = .next t := ⟨by decide, _, rfl⟩

theorem witness_EveryStepGoes : (∀ w off b, Instr.nop ≠ .apertureAccess w off b) ∧ State.reset.noAperture :=
  ⟨fun _ _ _ h => (nomatch h), fun _ _ _ => ⟨fun _ h => (nomatch h), fun _ h => (nomatch h)⟩⟩

theorem witness_PlacedBundleIsFetched :
    user.seq.pc.toNat = 0x7000 ∧ State.reset.seq.pc.toNat + 25 ≤ (if State.reset.seq.mode = .user then 0x7000 else 0x8000) := by
  decide +kernel

theorem witness_PlacedBundleIsFetched_edge : let s := user.onSeq fun q => { q with pc := 0x6FE7 }
    s.seq.pc.toNat + 25 ≤ (if s.seq.mode = .user then 0x7000 else 0x8000) := by decide +kernel

theorem witness_IntegerArithmeticResults : State.reset.ready [1, 2] 31 ∧ (withWrites user [.x 3 1]).ready [1, 2] 0 := by
  unfold State.ready; decide +kernel

theorem witness_BitResults : State.reset.ready [1, 2, 3] 3 ∧ (0 : Fin 64).val + (63 : Fin 64).val < 64 := by
  unfold State.ready; decide +kernel

theorem witness_CompareAndCountResults : State.reset.ready [1, 2, 4] 3 := by unfold State.ready; decide +kernel

theorem witness_DivisionResults : (regs2 5 0).ready [1, 2] 3 ∧ (regs2 5 0).x 2 = 0 ∧
    (regs2 0x8000000000000000 0xFFFFFFFFFFFFFFFF).ready [1, 2] 3 ∧
    (regs2 0x8000000000000000 0xFFFFFFFFFFFFFFFF).x 1 = 0x8000000000000000#64 ∧
    (regs2 0x8000000000000000 0xFFFFFFFFFFFFFFFF).x 2 = 0xFFFFFFFFFFFFFFFF#64 ∧
    (regs2 0x8000000000000000 1).ready [1, 2] 3 ∧ (regs2 0x8000000000000000 1).x 2 ≠ 0 ∧
    ¬((regs2 0x8000000000000000 1).x 1 = 0x8000000000000000#64 ∧ (regs2 0x8000000000000000 1).x 2 = 0xFFFFFFFFFFFFFFFF#64) := by
  unfold State.ready; decide +kernel

/-- The low 32 bits of x1 and x2 in `regs2 a b`. -/
def low (s : State) (r : Reg) : Nat := (s.x r).toNat % 2 ^ 32

theorem witness_FloatArithmeticResults : (regs2 0 0).ready [1, 2, 4] 3 ∧
    (let s := regs2 0x7F800001 0; s.ready [1, 2] 3 ∧ 0x7F800000 < low s 1 % 2 ^ 31) ∧
    (let s := regs2 0 0xFFFFFFFF; s.ready [1, 2] 3 ∧ 0x7F800000 < low s 2 % 2 ^ 31) ∧
    (let s := regs2 0x7F800000 0xFF800000; s.ready [1, 2] 3 ∧ low s 1 % 2 ^ 31 = 0x7F800000 ∧ low s 2 % 2 ^ 31 = 0x7F800000 ∧
      (2 ^ 31 ≤ low s 1 ↔ ¬2 ^ 31 ≤ low s 2)) ∧
    (let s := regs2 0xFF800000 0xFF800000; s.ready [1, 2] 3 ∧ low s 1 % 2 ^ 31 = 0x7F800000 ∧ low s 2 % 2 ^ 31 = 0x7F800000 ∧
      (2 ^ 31 ≤ low s 1 ↔ 2 ^ 31 ≤ low s 2)) ∧
    (let s := regs2 0x7F800000 0x80000000; s.ready [1, 2] 3 ∧ low s 1 % 2 ^ 31 = 0x7F800000 ∧ low s 2 % 2 ^ 31 = 0) ∧
    (let s := regs2 0 0x80000000; s.ready [1, 2] 3 ∧ low s 1 % 2 ^ 31 = 0 ∧ low s 2 % 2 ^ 31 = 0) ∧
    (let s := regs2 0x80000001 0; s.ready [1, 2] 3 ∧ ¬0x7F800000 < low s 1 % 2 ^ 31 ∧ low s 1 % 2 ^ 31 ≠ 0x7F800000 ∧
      low s 1 % 2 ^ 31 ≠ 0 ∧ low s 2 % 2 ^ 31 = 0 ∧ 2 ^ 31 ≤ low s 1) := by
  unfold State.ready; repeat' (first | decide | constructor)

theorem witness_FloatComparison : (let s := regs2 0 0x7F800000; s.ready [1, 2] 3 ∧ ¬0x7F800000 < low s 1 % 2 ^ 31 ∧
      ¬0x7F800000 < low s 2 % 2 ^ 31 ∧ low s 1 = 0 ∧ low s 2 = 0x7F800000) ∧ (regs2 0 0x80000000).ready [1, 2] 3 ∧
    low (regs2 0 0x80000000) 2 = 0x80000000 := by unfold State.ready; decide +kernel

theorem witness_FloatComparison_order : f32Val 0 < f32Val 0x7F800000 ∧ f32Val 0 = f32Val 0x80000000 ∧
    f32Val 0xFF800000 < f32Val 1 := by
  unfold f32Val; norm_num

theorem witness_FclassSetsOneBit : State.reset.ready [1] 0 := by unfold State.ready; decide +kernel

theorem witness_LoadAndStoreResults :
    (let s := withReg State.reset 1 0x1FFFF8; s.ready [1] 3 ∧ s.ready [1, 3] 0 ∧ s.ann.mem.wf = true ∧
      s.mayAccess (addrOf s 1 0) 8 false ∧ s.mayAccess (addrOf s 1 0) 8 true ∧ s.mayAccess (addrOf s 1 4) 4 false ∧
      s.mayAccess (addrOf s 1 6) 2 true ∧ s.mayAccess (addrOf s 1 7) 1 false ∧ addrOf s 1 7 / 8 ∉ s.ann.poison ∧
      addrOf s 1 0 / 8 ∉ s.ann.flawed) ∧
    (let s := withReg (holding user) 1 0x1D8000; s.ready [1] 3 ∧ s.ready [1, 3] 0 ∧
      s.mayAccess (addrOf s 1 (BitVec.ofInt 46 (-8))) 8 false ∧ s.mayAccess (addrOf s 1 (BitVec.ofInt 46 (-1))) 1 true) := by
  unfold State.ready State.mayAccess; repeat' (first | decide | exact Or.inr (Or.inl rfl) | constructor)

theorem witness_AccessAndPendingTraps :
    (let s := withReg user 1 0x1FFFFF; s.ready [1, 3] 3 ∧ 0x1FFFFF < addrOf s 1 1 + (1 - 1) ∧ 0x1FFFFF < addrOf s 1 0 + (2 - 1) ∧
      addrOf s 1 0 + (1 - 1) ≤ 0x1FFFFF ∧ addrOf s 1 (BitVec.ofInt 46 (-7)) + (8 - 1) ≤ 0x1FFFFF ∧
      addrOf s 1 (BitVec.ofInt 46 (-9)) % 8 ≠ 0 ∧ addrOf s 1 (BitVec.ofInt 46 (-9)) + (8 - 1) ≤ 0x1FFFFF) ∧
    (let s := withReg user 1 0x1D8000; s.ready [1, 3] 3 ∧ addrOf s 1 0 + (8 - 1) ≤ 0x1FFFFF ∧ addrOf s 1 0 % 8 = 0 ∧
      s.seq.mode = .user ∧ 0x1D8000 ≤ addrOf s 1 0 ∧ addrOf s 1 (BitVec.ofInt 46 (-8)) < 0x1D8000 ∧
      s.holds (secOf (addrOf s 1 (BitVec.ofInt 46 (-8)))) = false) ∧
    (withWrites user [.x 1 0]).pendingRead (.x 1) = true := by
  unfold State.ready; decide +kernel

theorem witness_RegisterWritesLand : State.reset.ready [1, 2] 0 ∧
    ∀ d ∈ [Dest.x 1 5, .x 0 5, .mask 3 1 1, .lc 2 1, .sys 0x102 1],
      (withWrites user [d, .x 4 4]).nextWrite = some (writing d) ∧ (writing d).isPush = false := by
  unfold State.ready; decide +kernel

theorem witness_RegisterWritesLand_tile : (withWrites user [.tile 127 1]).nextWrite = some (writing (.tile 127 1)) := rfl

theorem witness_SystemRegisters :
    (let s := State.reset; s.ready [1] 3 ∧ s.pendingWrite (.sys 0x081) = false ∧ s.sysTrap 0x081 true false = none ∧
      s.sysTrap 0x081 false true = none ∧ s.sysTrap 0x081 true true = none ∧ s.sysValueTrap 0x081 (s.x 1) = none ∧
      s.sysValueTrap 0x081 (s.sysRead 0x081 ||| s.x 1) = none ∧ s.sysValueTrap 0x081 (s.sysRead 0x081 &&& ~~~s.x 1) = none) ∧
    State.reset.sysAccess 0xFFF = none ∧ State.reset.sysAccess 0 = some .ro ∧ user.sysAccess 0x01F = some .ur ∧
    State.reset.sysAccess 0x009 = some .urw ∧ user.sysAccess 0x040 = some .sr ∧ user.sysAccess 0x085 = some .s ∧
    user.ready [1] 3 ∧ user.seq.mode = .user ∧ State.reset.seq.mode ≠ .user := by
  unfold State.ready; decide +kernel

theorem witness_ControlTransfers :
    (let s := withLoops (regs2 7 7) [level 0 0x7003 2]; s.clearOfLoopEnd ∧ s.pendingRead (.x 1) = false ∧ s.pendingRead (.x 2) = false ∧
      s.pendingRead (.x 30) = false ∧ s.ready [1] 30) ∧ (regs2 7 7).x 1 = (regs2 7 7).x 2 ∧
    (let s := regs2 0x8000000000000000 7; s.clearOfLoopEnd ∧ s.x 1 ≠ s.x 2 ∧ (s.x 1).toInt < (s.x 2).toInt ∧
      ¬(s.x 2).toInt ≤ (s.x 1).toInt ∧ (s.x 2).toNat ≤ (s.x 1).toNat) ∧
    ((regs2 1 2).x 1).toNat < ((regs2 1 2).x 2).toNat := by
  unfold State.ready State.clearOfLoopEnd; decide +kernel

theorem witness_ControlTransfers_nearEnd :
    (let s := withLoops user [level 3 0x7000 1]; (level 3 0x7000 1).stop.toNat = s.seq.pc.toNat ∧ s.ready [1, 2, 30] 30) ∧
    (let s := withLoops user [level 3 0x7001 1]; (level 3 0x7001 1).stop.toNat = s.after s.seq.pc.toNat ∧ s.ready [1, 2, 30] 30) ∧
    (let s := withLoops user [level 3 0x7002 1]; (level 3 0x7002 1).stop.toNat = s.after (s.after s.seq.pc.toNat) ∧
      s.ready [1, 2, 30] 30) := by
  unfold State.ready; decide +kernel

theorem witness_DelayBundlesThenTarget :
    (∀ k, slotBits 0#384 k = 0) ∧ user.seq.loops = [] ∧ user.seq.tookTrap = none ∧ user.seq.effect = .none ∧ user.seq.xfer = none ∧
    (let s := withXfer user 2 (some 0x7FFF); s.seq.loops = [] ∧ s.seq.xfer = some ⟨2, some 0x7FFF⟩ ∧ 1 < (2 : Nat)) ∧
    (let s := withXfer user 1 (some 0x8000); s.seq.loops = [] ∧ s.seq.xfer = some ⟨1, some 0x8000⟩) ∧
    (withXfer user 1 none).seq.xfer = some ⟨1, none⟩ ∧ (0x7FFF : Word).toNat < 0x8000 ∧ 0x8000 ≤ (0x8000 : Word).toNat :=
  ⟨fun k => by simp only [slotBits, BitVec.toNat_ofNat, Nat.zero_mod, Nat.zero_div], by decide⟩

theorem witness_LoopsStartAndLeave :
    (let s := withCode (withReg user 1 0x2000000) 0x7001 1; (s.codeAt 0x7001).start = true ∧ s.pendingRead (.x 1) = false ∧
      s.pendingWrite (.lc 2) = false ∧ 33554431 < (s.x 1).toNat) ∧
    (let s := withLoops (withCode user 0x7001 1) (List.replicate 4 (level 0 0x7005 2)); s.seq.loops.length = 4) ∧
    (let s := withLoops (withCode user 0x7001 1) [level 2 0x7005 2]; ∃ l ∈ s.seq.loops, l.n = 2) ∧
    (let s := withCode (user.onSeq fun q => { q with suspended := true }) 0x7001 1; (s.codeAt 0x7001).start = true ∧ s.seq.suspended = true) ∧
    (let s := withCode user 0x7000 1; (s.codeAt 0x7000).start = true ∧ (0x7000 : BitVec 15).toNat < s.after s.seq.pc.toNat) ∧
    (let s := withLoops (withCode user 0x7002 1) [level 0 0x7001 2]; ∃ l ∈ s.seq.loops.head?, l.stop.toNat < (0x7002 : BitVec 15).toNat) := by
  decide +kernel

theorem witness_LoopsStartAndLeave_good :
    (let s := withLoops (withCode user 0x7001 1) [level 0 0x7001 2]; (s.codeAt 0x7001).start = true ∧ s.x 1 = 0 ∧ s.seq.loops.length ≠ 4 ∧
      ¬(∃ l ∈ s.seq.loops, l.n = 2) ∧ s.seq.suspended = false ∧ ¬(0x7001 : BitVec 15).toNat < s.after s.seq.pc.toNat ∧
      ¬(∃ l ∈ s.seq.loops.head?, l.stop.toNat < (0x7001 : BitVec 15).toNat)) ∧
    ((withReg user 1 33554431).x 1).toNat = 33554431 ∧ ¬33554431 < (0x1FFFFFF : BitVec 25).toNat := by
  decide +kernel

theorem witness_LoopsStartAndLeave_lexit :
    user.clearOfLoopEnd ∧ user.seq.loops = [] ∧ user.pendingRead (.x 1) = false ∧
    (let s := withLoops user [level 1 0x7003 2, level 0 0x7003 2]; s.clearOfLoopEnd ∧ (∃ m ∈ [level 0 0x7003 2].head?, m.stop = 0x7003)) ∧
    (let s := withLoops (withReg user 1 1) [level 1 0x7003 2, level 0 0x7004 2]; s.clearOfLoopEnd ∧ s.x 1 ≠ 0 ∧
      ¬(∃ m ∈ [level 0 0x7004 2].head?, m.stop = 0x7003)) ∧ user.x 1 = 0 := by
  unfold State.clearOfLoopEnd; decide +kernel

theorem witness_LoopEndAction : (level 1 0x7003 2).stop ≠ 0x7002 ∧ (level 1 0x7003 2).stop = 0x7003 ∧
    (user.seq.lc[(1 : Fin 4)]).toNat < (level 1 0x7003 2).trip.toNat ∧ (1 : BitVec 25).toNat < (level 1 0x7003 2).trip.toNat ∧
    (1 : BitVec 25).toNat = (level 1 0x7003 1).trip.toNat := by decide +kernel

/-- A trap record. -/
def trapRec : TrapRec := { cause := 0x0B, code := 0, baddr := 0x7000, slot := 1, detail := 3 }

theorem witness_TrapEntry : user.seq.mode = .user ∧ user.seq.writes = [] ∧ (∀ x ∈ user.seq.xfer, x.target = none) ∧
    (withXfer user 2 (some 5)).seq.xfer = some ⟨2, some 5⟩ ∧ (withXfer user 1 (some 5)).seq.writes = [] ∧
    (∀ x ∈ (withXfer user 1 none).seq.xfer, x.target = none) ∧
    (let s := withWrites user [.x 1 5, .x 31 6]; s.seq.mode = .user ∧ s.seq.writes = [writing (.x 1 5), writing (.x 31 6)] ∧
      (writing (.x 1 5)).bad = false) := by decide +kernel


/-! ### Traps, sequencing, semaphores, Abscissa, cell health -/

/-- A launch packet with nothing asked for. -/
def packet : LaunchPkt :=
  { stag := 0, flags := 0, mvec := 0, deadline := 0, wcet := 0, cplt := 0, imageDva := 0, w := 1, h := 1, ox := 0xFFFF, oy := 0xFFFF,
    mfirst := 0, mlog := 0, lflags := 0, mset := 0, mbox := Vector.replicate 16 0, ctx := 0, wdog := 0, save := 0, ckpt := 0 }

/-- A segment of 20 cycles whose signature is that of no bundle. -/
def segment : Segment :=
  { count := 20, slack := 2, timedHbm := false, phase := 0, sigs := [0], holds := [], ranges := [], masks := [], groups := [] }

/-- A program of launch 1 on the cell. -/
def program (timed : Bool) : Prog :=
  { lid := 1, timed := timed, ckpt := false, nsig := 1, segs := [segment, segment], start := 0, mfirst := 0, mcount := 1, px := 0,
    py := 0, armed := none }

/-- A user state that runs a program. -/
def running (timed : Bool) : State := { user with prog := some (program timed) }

/-- A state in its first segment. -/
def inSegment : State := (running true).onSeg fun g => { g with inSeg := true }

/-- The fields of an engine command that signals semaphore 3 once. -/
def ectl : ECtl := ⟨0, 0, 3, 1, 0, false⟩

/-- A command as captured. -/
def cmd (i : Instr) : Cmd :=
  { idx := 7, op := i, xs := Vector.replicate 4 0, wait := none, ssem := 3, sinc := 1, prio := false, issued := 0, baddr := 0x6000,
    pred := false, key := 0, ctr := 0, ft := 0, tau := 0, nest := Vector.replicate 10 0, mrow := 0, mcol := 0 }

/-- A queue with n commands. -/
def queued (n : Nat) (i : Instr) : Queues := { Queues.reset with normal := List.replicate n (cmd i) }

/-- A state with semaphore 255 as given. -/
def withSem (s : State) (m : Sem) : State := { s with sems := s.sems.set 255 m }

/-- A state with one side's record changed. -/
def withSide (s : State) (i : Fin 4) (f : SideRec → SideRec) : State :=
  s.onHl fun h => { h with sides := h.sides.set i (f h.sides[i]) }

theorem witness_DoubleTrapStops :
    State.reset.seq.mode = .supervisor ∧ State.reset.seq.writes = [] ∧
    (let s := withWrites State.reset [.x 31 7]; s.seq.mode = .supervisor ∧ s.seq.writes = [writing (.x 31 7)] ∧
      (writing (.x 31 7)).bad = false) ∧ halted.seq.run ≠ .stopped ∧ State.reset.apex.frozen = none ∧ State.reset.pred = none := by
  decide +kernel

theorem witness_TrapsRaisedAndReturned : user.seq.mode = .user ∧ State.reset.seq.mode = .supervisor ∧ user.seq.trapDue = none ∧
    (∃ u : State, u.seq.trapDue = some trapRec) ∧ (withWrites user [.x 1 0]).pendingRead (.x 1) = true ∧
    user.pendingRead (.x 1) = false ∧ spareBad 0x1041C2 = none ∧ spareBad 0x1061C2 = some 7 ∧ spareBad 0x200000 = some 0 ∧
    spareBad 0x8000000000104142 = some 63 :=
  ⟨by decide, by decide, by decide, ⟨user.onSeq fun q => { q with trapDue := some trapRec }, rfl⟩, by decide +kernel⟩

theorem witness_SequencingOperations_safe :
    user.ann.lmovs = [] ∧ (withWrites user [.x 1 1]).pendingAny = true ∧
    (user.onSh fun h => { h with cvsQ := queued 1 .nop }).sh.busy = true ∧
    ({ user with tm := { user.tm with q := queued 1 .nop } } : State).tm.busy = true ∧
    user.pendingAny = false ∧ user.sh.busy = false ∧ user.tm.busy = false ∧ user.mx.busy = false ∧ user.cp.busy = false := by
  decide +kernel

theorem witness_SequencingOperations_segend :
    (running true).timedImage = true ∧ (running true).seq.mode = .user ∧ (running true).segTable[0]? = some segment ∧
    inSegment.seg.inSeg = true ∧ inSegment.relCycle < (2 : BitVec 21).toNat - 1 ∧
    (1 : BitVec 21).toNat ≤ ({ inSegment with now := 1 } : State).relCycle ∧
    (let s : State := { inSegment with now := 1 }; s.relCycle + 1 = (2 : BitVec 21).toNat ∧ s.timedImage = true ∧ s.seq.mode = .user ∧
      s.segTable[1]? = some segment ∧ s.pendingAny = false ∧ s.ann.lmovs = [] ∧ s.sh.busy = false ∧ s.mx.busy = false ∧
      s.tm.busy = false ∧ s.timedBusy = false ∧ s.expectedSig segment = some s.signature ∧ s.ax.lkcfg.getLsbD 0 = false) ∧
    (let s := (running true).onSeq fun q => { q with crc := 0 }; s.seg.noSig = false ∧ s.seg.inSeg = false ∧
      s.expectedSig segment ≠ some s.signature) := by
  decide +kernel

theorem witness_SequencingOperations_halt :
    (user.timedImage = false ∧ user.seq.mode = .user ∧ 0x8000 ≤ (0x8000 : BitVec 16).toNat ∧ (0x7FFF : BitVec 16).toNat < 0x8000) ∧
    State.reset.seq.mode = .supervisor ∧ (inSegment.onSeg fun g => { g with ended := true }).seg.ended = true ∧ inSegment.seq.suspended = false ∧
    halted.seq.run = .halted := by decide +kernel

theorem witness_SemaphoresAndOrdering :
    (let s := withReg (withSem user { cnt := 5, err := true, status := 0x0203 }) 1 5; s.ready [1] 3 ∧ s.sems[(255 : Fin 256)].err = true) ∧
    (let s := withReg (withSem user { cnt := 5, err := false, status := 0 }) 1 5; s.ready [1] 3 ∧
      s.sems[(255 : Fin 256)].err = false ∧ (s.x 1).toNat ≤ s.sems[(255 : Fin 256)].cnt.toNat ∧
      s.sems[(255 : Fin 256)].cnt.toNat < (6 : Word).toNat ∧ s.sems[(255 : Fin 256)].cnt.toNat + (s.x 1).toNat % 2 ^ 36 < 2 ^ 36) ∧
    (let s := withReg (withSem user { cnt := 0xFFFFFFFFF, err := true, status := 1 }) 1 1;
      2 ^ 36 ≤ s.sems[(255 : Fin 256)].cnt.toNat + (s.x 1).toNat % 2 ^ 36 ∧ s.ready [1] 3) ∧
    (let s := withReg user 1 0xFFFFFFFFF; s.sems[(0 : Fin 256)].cnt.toNat + (s.x 1).toNat % 2 ^ 36 < 2 ^ 36) := by
  unfold State.ready; decide +kernel

/-- An increment of n on semaphore 255. -/
def incOf (n : Nat) : Inc := { sem := 255, n := n, keep := false, stn := 0, idx := 0 }

theorem witness_SemaphoresAndOrdering_hardware :
    (let s : State := { user with incs := [incOf (2 ^ 36 - 1)] }; s.incs = [incOf (2 ^ 36 - 1)] ∧ s.fails = [] ∧
      s.sems[(255 : Fin 256)].cnt.toNat + (2 ^ 36 - 1) < 2 ^ 36) ∧
    (let s : State := { withSem user { cnt := 0xFFFFFFFFF, err := false, status := 0 } with incs := [incOf 1] };
      2 ^ 36 ≤ s.sems[(255 : Fin 256)].cnt.toNat + 1) ∧
    (let s : State := { user with fails := [(255, 0x33, 0, 7)] }; s.incs = [] ∧ s.fails = [(255, 0x33, 0, 7)] ∧
      s.sems[(255 : Fin 256)].err = false) ∧
    (withSem user { cnt := 0, err := true, status := 1 }).sems[(255 : Fin 256)].err = true := by decide +kernel

theorem witness_SemaphoresAndOrdering_sectors :
    (let s := user.onAnn fun a => { a with own := (a.own.set 0 (.held false)).set 7 (.releasing false 0) };
      s.saved = none ∧ (0x81 : BitVec 8).getLsbD 7 = true ∧ s.ann.own[(0 : Fin 8)] = .held false ∧
      s.ann.own[(7 : Fin 8)] = .releasing false 0 ∧ s.ann.own[(1 : Fin 8)] = .free) ∧
    (user.onAnn fun a => { a with own := a.own.set 0 (.held true) }).ann.own[(0 : Fin 8)] = .held true ∧
    (let s := user.onAnn fun a => { a with own := a.own.set 7 .kept }; s.savedNamed 0x80 = some 7 ∧ s.savedNamed 0x7F = none) := by
  decide +kernel

/-- A user state in a timed segment that holds all sectors, with a range register for reads by st7 of rows 0 to 8 of sec0,
and x1 = 0x1000. -/
def ranged : State := withReg ((holding inSegment).onAnn fun a =>
  { a with ranges := a.ranges.set 15 (some ⟨false, 0, 0, 8, 0x80⟩) }) 1 0x1000

theorem witness_Accesses_ranges :
    (ranged.ready [1] 3 ∧ ranged.covers 0x11FF 15 ⟨false, 0, 0, 8, 0x80⟩ ∧ ranged.mayAccess (addrOf ranged 1 0x1FF) 1 false) ∧
    (∀ k r, ranged.covers (addrOf ranged 1 0x1F8) k r → ¬(r.write = true ∧ r.stmask.getLsbD 7 = true)) ∧
    (∀ k r, ¬ranged.covers (addrOf ranged 1 0x200) k r) := by
  have only : ∀ k : Fin 16, k ≠ 15 → ranged.ann.ranges[k] = none := by decide +kernel
  have last : ranged.ann.ranges[(15 : Fin 16)] = some ⟨false, 0, 0, 8, 0x80⟩ := by decide +kernel
  have own : ranged.covers 0x11FF 15 ⟨false, 0, 0, 8, 0x80⟩ := ⟨last, by decide +kernel⟩
  have sole : ∀ a k r, ranged.covers a k r → r = ⟨false, 0, 0, 8, 0x80⟩ := fun a k r h => by
    by_cases e : k = 15
    · subst e
      exact (Option.some.inj (last.symm.trans h.1)).symm
    · have q := (only k e).symm.trans h.1
      cases q
  have ad : addrOf ranged 1 0x1FF = 0x11FF ∧ rowOf (addrOf ranged 1 0x200) = 9 := by decide +kernel
  have ok : ranged.ready [1] 3 ∧ 0x11FF + 1 ≤ 0x200000 ∧ 0x11FF % 1 = 0 ∧ (ranged.seq.mode = .user → 0x11FF < 0x1D8000 ∧
      ranged.holds (secOf 0x11FF) = true) ∧ ranged.claimOk (secOf 0x11FF) (ranged.now + 1) false = true := by
    unfold State.ready; decide +kernel
  refine ⟨⟨ok.1, own, ?_⟩, ?_, ?_⟩
  · rw [ad.1]
    exact ⟨ok.2.1, ok.2.2.1, ok.2.2.2.1, ok.2.2.2.2, .inr (.inr ⟨15, _, own, rfl, by decide +kernel⟩)⟩
  · intro k r h
    rw [sole _ k r h]
    decide
  · intro k r h
    have e := sole _ k r h
    subst e
    exact absurd h.2.2.2 (by rw [ad.2]; decide)

/-- With two reads claimed, or a write, the port of sec0 has no free access of that kind in the next cycle. -/
theorem witness_Accesses_port : (let s := (((withReg (holding user) 1 8).claim 0 1 false .seq).claim 0 1 false .seq).claim 0 1 true .seq
      s.now = 0 ∧ (addrOf s 1 0 + (8 - 1) ≤ 0x1FFFFF ∧ addrOf s 1 0 % 8 = 0 ∧ addrOf s 1 0 < 0x1D8000 ∧ s.holds (secOf (addrOf s 1 0)) = true) ∧
      ∀ w : Bool, ¬s.claimOk (secOf (addrOf s 1 0)) (s.now + 1) w = true) := by decide +kernel

/-- A die that is not the reference, with one port heard. -/
def heardDie : State := State.reset.onAx fun a =>
  { a with ref := false, ports := a.ports.set 17 { hlat := 0x100000008, err := -20, heard := true } }

theorem witness_AbscissaCounter :
    State.reset.seq.mode = .supervisor ∧ State.reset.ready [1] 3 ∧ user.ready [1] 3 ∧ heardDie.ax.ref = false ∧ heardDie.ax.armed = 0 ∧
    heardDie.liveErrs ≠ [] ∧ (let s := heardDie.onAx fun a => { a with armed := 1, pend := some (-16) };
      0 < s.ax.armed ∧ s.hasKeeper = false ∧ s.liveErrs ≠ [] ∧ s.ax.ref = false ∧ s.ax.pend = some (-16)) ∧
    0 < (State.reset.onAx fun a => { a with hold := 1 }).ax.hold ∧ State.reset.ax.hold = 0 ∧
    heardDie.ax.ports[(17 : Fin 18)].up = true ∧
    (State.reset.onAx fun a => { a with ports := a.ports.set 0 { a.ports[0] with up := false } }).ax.ports[(0 : Fin 18)].up = false ∧
    State.reset.seq.run = .running := by
  unfold State.ready; decide +kernel

theorem witness_HealthInstructions :
    State.reset.seq.mode = .supervisor ∧ State.reset.ready [1] 3 ∧ State.reset.ready [] 3 ∧
    State.reset.hl.sides[(0 : Fin 4)].st = .absent ∧ (State.reset.hl.sides[(1 : Fin 4)].st ≠ .absent ∧
      State.reset.hl.sides[(1 : Fin 4)].miss < 4 ∧ State.reset.hl.sides[(1 : Fin 4)].win = none) ∧
    (fieldNat (0x1FFFFF : Word) 0 7 = 127 ∧ fieldNat (0x1FFFFF : Word) 7 7 = 127 ∧ fieldNat (0x1FFFFF : Word) 14 7 = 127 ∧
      fieldNat (0x1FFFFF : Word) 21 43 = 0) ∧
    (fieldNat (0x1041C2 : Word) 0 7 = 66 ∧ fieldNat (0x1041C2 : Word) 7 7 ≤ 66 ∧ fieldNat (0x1041C2 : Word) 14 7 ≤ 65 ∧
      fieldNat (0x1041C2 : Word) 0 7 ≠ fieldNat (0x1041C2 : Word) 7 7) ∧
    ¬(fieldNat (67 : Word) 0 7 ≤ 66 ∨ fieldNat (67 : Word) 0 7 = 127) := by
  unfold State.ready; decide +kernel

theorem witness_HealthInstructions_starts :
    (State.reset.hl.sides[(1 : Fin 4)].st = .healthy ∧ 2 ≤ State.reset.voteN 1) ∧
    (let s := withSide State.reset 1 fun r => { r with st := .fenced }; s.hl.sides[(1 : Fin 4)].st ≠ .healthy ∧
      s.hl.sides[(1 : Fin 4)].st ≠ .accused) ∧
    (let s := State.reset.onHl fun h => { h with fenced := true, tdone := true, tpass := true };
      s.hl.fenced = true ∧ s.hl.tdone = true ∧ s.hl.tpass = true ∧ s.hl.hold = false) ∧
    ¬(State.reset.hl.fenced = true ∧ State.reset.hl.tdone = true ∧ State.reset.hl.tpass = true ∧ State.reset.hl.hold = false) ∧
    ((State.reset.hl.fenced = true ∨ State.reset.prog = none) ∧ State.reset.hl.tend = none) ∧
    ¬(((State.reset.onHl fun h => { h with tend := some 5 }).hl.fenced = true ∨ State.reset.prog = none) ∧
      (State.reset.onHl fun h => { h with tend := some 5 }).hl.tend = none) ∧
    State.reset.hl.spareBusy = none ∧ (State.reset.onHl fun h => { h with spareBusy := some 0 }).hl.spareBusy ≠ none := by
  decide +kernel

/-! ### Vector and masks -/

/-- The control fields of a vector instruction in a format. -/
def vctl (f : Fmt) : VCtl := ⟨f, 0, false, .rne, false, 0⟩

/-- A bound read port of sector 0 with one row waiting. -/
def readPort : PortState :=
  { PortState.reset with
    bound := true, lane := ⟨false, 1⟩, stn := 1, rows := [(0, 5)], nread := 1 }

/-- A bound write port of sector 2. -/
def writePort : PortState :=
  { PortState.reset with
    bound := true, wr := true, sec := 2, lane := ⟨false, 2⟩, stn := 1 }

/-- Read port 0 and write port 1. -/
def withPorts : State := (holding user).onAnn fun a => { a with ports := (a.ports.set 0 readPort).set 1 writePort }

theorem witness_VectorReady : user.vecReady (vctl .fp32) (.tile 7 15) [.tile 0 0, .bcast, .lidx] [] 4 user ∧
    user.vecReady (vctl .fp32) (.tile 7 15) [.tile 0 0, .zero, .bcast] [1, 2] 14 user ∧
    (vctl .fp32).fmt.isFp = true ∧ (vctl .i32).fmt.isPlain = true ∧ (vctl .i8).fmt.isInt = true ∧ (vctl .i8).fmt ≠ .u8 := by
  refine ⟨⟨?_, ?_, ?_, ?_, rfl, ?_⟩, ⟨?_, ?_, ?_, ?_, rfl, ?_⟩, ?_⟩ <;> decide +kernel

theorem witness_VectorReady_ports : withPorts.vecReady (vctl .fp32) (.port 1) [.port 0] [1] 2 (withPorts.popSrc (.port 0)) ∧
    withPorts.vecReady (vctl .i32) (.port 1) [] [1, 2] 6 withPorts := by
  refine ⟨⟨?_, ?_, ?_, ?_, rfl, ?_⟩, ⟨?_, ?_, ?_, ?_, rfl, ?_⟩⟩ <;> decide +kernel

theorem witness_VectorIntegerResults_comparison : (3 : Fin 4).val < 32 / (vctl .i8).fmt.width ∧ dupPort [.port 0, .zero] = none ∧
    withPorts.pendingRead (.mask 0) = false ∧
    State.popAll (vctl .i8) [.port 0, .zero] withPorts = .ok (withPorts.popSrc (.port 0)) ∧
    withPorts.pendingWrite (.mask 3) = false :=
  ⟨by decide, by decide, by decide, rfl, by decide⟩

theorem witness_VectorMoveResults : (VOp.tile 7 15).isDest = true ∧ user.pendingRead (.mask 3) = false ∧
    user.dstFault (.tile 7 15) 2 = none ∧ (∃ at_ r rest, withPorts.ann.ports[(0 : Fin 8)].rows = (at_, r) :: rest) :=
  ⟨by decide, by decide, by decide, 0, 5, [], rfl⟩

theorem witness_VectorReductionResults : (Instr.vcvt (vctl .bf16) (.tile 7 15) (.tile 0 0) .fp32 true).wf = true ∧
    (Instr.vcvt (vctl .fp32) (.tile 7 15) (.tile 0 0) .i16 true).wf = true := by decide

theorem witness_MaskAndTileResults : user.seq.writes = [] := by decide

/-! ### Engine commands -/

/-- The matrix station with a running MXGO. -/
def arrayRun (i : Instr) : ArrayRun :=
  { cmd := cmd i, start := 0, iter := [], left := 1, t := 0, aAt := (0, 0), bAt := (1, 0), na := 0, nb := 0, a0 := 0, b0 := 0,
    bufA := [], bufB := [], on := true, fill := true, reload := false, vr := 63, vc := 63, due := [], ndrain := 0, bytes := 0, dfree := 0,
    seen := true, next := none, paused := false }

/-- A drain of a command. -/
def drainRun (i : Instr) (nested : Bool) : DrainRun :=
  { cmd := cmd i, nested := nested, d := 0, sec := 0, row := 0, ord := 0, vr := 0, vc := 0, tag := 0, ty := 0, tx := 0,
    acc := Acc.zero, out := [] }

/-- A user state whose matrix station is changed. -/
def withMx (f : Matrix → Matrix) : State := user.onMx f

/-- An MXGO that signals. -/
def mxgo : Instr := .mxgo ectl 0 false 0 false false

theorem witness_MatrixControls :
    user.pendingRead (.x 1) = false ∧ user.ready [] 3 ∧
    (let s := withMx fun m => { m with array := some (arrayRun mxgo), drain := some (drainRun mxgo true), q := queued 16 mxgo };
      s.mx.array.isSome = true ∧ s.mx.q.normal.length ≤ 16 ∧ s.mx.q.prio.length ≤ 16 ∧ (cmdUnits mxgo).1 = true ∧
      (cmd mxgo).sinc ≠ 0 ∧ (cmd mxgo).pred = false ∧ ∃ r ∈ s.mx.drain, r.nested = true) ∧
    (∃ r ∈ (withMx fun m => { m with drain := some (drainRun (.accdr ectl 0 false false) false) }).mx.drain, r.nested = false) ∧
    (withMx id).mx.drain.isSome = false ∧ (cmdUnits (.accdr ectl 0 false false)).2 = true := by
  unfold State.ready; decide +kernel

theorem witness_CommandsAreQueued :
    user.cmdReady ectl 4 ∧ (user.queues .array).normal.length < 16 ∧ (user.queues .cvs).normal.length < 16 ∧
    (let s := withMx fun m => { m with q := queued 15 mxgo }; (s.queues .array).normal.length < 16) ∧
    user.cmdReady { ectl with xa := 28, q := true } 4 ∧ (user.queues .tis).prio.length < 16 ∧
    fieldNat (user.x 0) 0 3 % 2 = (if true then 0 else 1) ∧ hasDrain user.mx.shadow = false ∧ user.pendingRead (.mask 0) = false ∧
    user.pendingRead (.lc 3) = false ∧ fieldNat user.mx.shadow[6] 0 3 % 2 = (if false then 1 else 0) ∧
    (let s := withMx fun m => { m with shadow := m.shadow.set 7 1 }; fieldNat s.mx.shadow[7] 0 3 % 2 = (if false then 0 else 1) ∧
      (s.queues .array).normal.length < 16 ∧ ectl.sinc ≠ 0) ∧ user.cp.ents.length < 512 := by
  unfold State.cmdReady; decide +kernel

/-- An entry of st5. -/
def copyEnt (i : Instr) (timed : Bool) (rows : Nat) : CopyEnt :=
  { cmd := cmd i, timed := timed, start := none, rows := rows, nissue := 0, trans := none, walking := false, nland := 0,
    fly := [], ctx := 0, pasid := 0, reqs := [], paused := false, held := false, park := none, wantsRec := none, places := [], data := [], bad := none, failed := none, t0 := 0, sent := none }

/-- A user state whose st5 is changed. -/
def withCp (f : Copy → Copy) : State := user.onCp f

theorem witness_CommandsTurnedAway :
    user.cmdReady ectl 4 ∧ ectl.sinc ≠ 0 ∧ 16 ≤ (withMx fun m => { m with q := queued 16 mxgo }).mx.q.normal.length ∧
    16 ≤ (user.onSh fun h => { h with tisQ := queued 16 mxgo, cvsQ := queued 16 mxgo, trsQ := queued 16 mxgo }).sh.cvsQ.normal.length ∧
    16 ≤ ({ user with tm := { user.tm with q := queued 16 mxgo } } : State).tm.q.normal.length ∧
    512 ≤ (withCp fun c => { c with ents := List.replicate 512 (copyEnt (.cpc ectl) false 1) }).cp.ents.length ∧
    ¬(fieldNat user.mx.shadow[6] 0 3 % 2 = (if false then 1 else 0) ∧ fieldNat user.mx.shadow[7] 0 3 % 2 = (if false then 0 else 1)) ∧
    user.pendingRead (.mask 0) = false ∧ user.pendingRead (.lc 3) = false ∧ user.cmdReady { ectl with sinc := 0 } 4 ∧
    hasDrain (user.mx.shadow.set 0 (BitVec.ofNat 64 (2 ^ 45 + 5 * 2 ^ 42))) = true ∧
    fieldNat (user.x 0) 0 3 % 2 ≠ (if false then 0 else 1) := by
  unfold State.cmdReady; decide +kernel

theorem witness_PortOperations_bind :
    (let s := holding user; s.pendingRead (.x 1) = false ∧ s.ann.ports[(7 : Fin 8)].bound = false ∧
      s.laneTrap (s.bindUse 3 ⟨true, 4⟩ 6 false) = none ∧ s.secFault 3 = none ∧
      s.prefetchFault (s.bindPort 3 ⟨true, 4⟩ 6 (s.x 1) false) = none ∧ s.laneTrap (s.bindUse 3 ⟨false, 1⟩ 6 true) = none) ∧
    withPorts.ann.ports[(0 : Fin 8)].bound = true ∧ laneReserved ⟨false, 0⟩ = true ∧ laneReserved ⟨true, 5⟩ = true ∧
    (withPorts.ann.ports[(0 : Fin 8)].k = 0 ∧ withPorts.ann.ports[(0 : Fin 8)].wr = false ∧
      (withPorts.unclaimReads 0 (withPorts.now + 1)).prefetchFault (setLevel (withPorts.x 1) 3 withPorts.ann.ports[(0 : Fin 8)]) = none) ∧
    (withPorts.ann.ports[(1 : Fin 8)].bound = true ∧ withPorts.ann.ports[(1 : Fin 8)].wr = true) ∧
    ((1 : Nat) ≠ 0 ∧ ({ PortState.reset with bound := true, k := 1 } : PortState).k ≠ 0) ∧
    (withPorts.unclaimReads 0 (withPorts.now + 1)).prefetchFault withPorts.ann.ports[(0 : Fin 8)] = none := by
  decide +kernel

theorem witness_PortOperations_lmov :
    (let s := withReg (holding user) 1 0x000001FF01FF; s.ready [1] 3 ∧ s.laneTrap (s.lmovUse 0 ⟨false, 1⟩ 7 1) = none ∧
      s.secFault 0 = none ∧ s.secFault 7 = none ∧ fieldNat (s.x 1) 32 9 + 1 = 1 ∧
      ∀ c ∈ lmovClaims s.now 0 7 511 511 1 14, s.claimFault c.2.1 c.2.2.1 c.1 c.2.2.2 7 = none) ∧
    (let p := withPorts.ann.ports[(0 : Fin 8)]; p.bound = true ∧ 1 ≤ p.esz ∧ p.esz ≤ 16 ∧ p.k < 2 ^ 52 ∧ p.rows.length < 32) ∧
    user.saved = none ∧ (let s := user.onAnn fun a => { a with unfenced := [⟨1, 0x1D7FFF, 5, none⟩] };
      s.oldBytes 0 7 191 ≠ [] ∧ ∀ c ∈ s.ann.unfenced, ∀ f ∈ c.fenced, f ≤ s.now) ∧
    (user.onAnn fun a => { a with ranges := a.ranges.set 15 (some ⟨true, 7, 0, 511, 0x80⟩) }).ann.ranges[(15 : Fin 16)] =
      some ⟨true, 7, 0, 511, 0x80⟩ := by
  unfold State.ready; decide +kernel

/-! ### Faults, segments, traffic -/

/-- Beyond the sixth slot a bundle has no bits. -/
theorem slotBits_past (b : Bundle) (j : Nat) (h : 6 ≤ j) : slotBits b j = 0 := by
  unfold slotBits
  rw [Nat.div_eq_of_lt (Nat.lt_of_lt_of_le b.isLt (Nat.pow_le_pow_right (by decide) (by omega)))]
  rfl

theorem witness_SequencerFaults :
    (user.seq.mode = .user ∧ user.seq.badTarget = none ∧ 0x7000 ≤ user.seq.pc.toNat) ∧
    (user.onSeq fun q => { q with badTarget := some 0x8000 }).seq.badTarget = some 0x8000 ∧
    (let s := user.onSeq fun q => { q with pc := 0x6FFF }; s.seq.pc.toNat < 0x7000 ∧ s.seq.arrived = true ∧ (s.codeAt 0x6FFF).start = false) ∧
    (let s := withCode (user.onSeq fun q => { q with pc := 0x6FFF }) 0x6FFF 0x800; s.seq.pc.toNat < 0x7000 ∧
      (s.codeAt 0x6FFF).start = true ∧ 0x800 ≤ (s.codeAt 0x6FFF).unit.toNat ∧ (s.codeAt 0x6FFF).unit.toNat ≠ 0xFFFF) ∧
    (let s := withCode (user.onSeq fun q => { q with pc := 0x6FE8 }) 0x6FE8 0xFFFF; s.seq.pc.toNat < 0x7000 ∧
      (s.codeAt 0x6FE8).start = true ∧ (s.codeAt 0x6FE8).unit.toNat = 0xFFFF ∧ 0x7000 < s.seq.pc.toNat + 25) := by
  decide +kernel

/-- Is a slot's word alone in a bundle? -/
theorem alone (b : Bundle) (k w : Nat) (hk : k < 6) (h : ∀ j < 6, slotBits b j = if j = k then w else 0) :
    ∀ j, slotBits b j = if j = k then w else 0 := fun j => by
  by_cases h6 : j < 6
  · exact h j h6
  · rw [slotBits_past b j (by omega), if_neg (by omega)]

theorem witness_SequencerFaults_delay :
    (withXfer user 2 (some 0x80)).seq.xfer = some ⟨2, some 0x80⟩ ∧ (withXfer user 1 none).seq.xfer = some ⟨1, none⟩ ∧
    slotBits 0x0120000000000140#384 0 / 2 ^ 56 = 1 ∧ slotBits 0x0D18000000000000#384 0 / 2 ^ 56 = 0x0D ∧
    slotBits 0x1000000000000000#384 0 / 2 ^ 56 = 0x10 ∧ slotBits 0x1400000000000000#384 0 / 2 ^ 56 = 0x14 :=
  ⟨rfl, rfl, by decide +kernel⟩

theorem witness_SequencerFaults_opcode :
    (∀ j, slotBits 0x0E00000000000000#384 j = if j = 0 then 0x0E00000000000000 else 0) ∧
    (∀ j, slotBits (0x2100000000000000#384 <<< 64) j = if j = 1 then 0x2100000000000000 else 0) ∧
    (∀ j, slotBits (0xFF00000000000000#384 <<< 192) j = if j = 3 then 0xFF00000000000000 else 0) ∧
    (∀ j, slotBits (0x0A00000000000000#384 <<< 256) j = if j = 4 then 0x0A00000000000000 else 0) ∧
    (∀ j, slotBits (0x0900000000000000#384 <<< 320) j = if j = 5 then 0x0900000000000000 else 0) ∧
    slotClass 0 = .ctl ∧ slotClass 1 = .scalar ∧ slotClass 3 = .vec ∧ slotClass 4 = .eng ∧ slotClass 5 = .lane :=
  ⟨alone _ 0 _ (by decide) (by decide +kernel), alone _ 1 _ (by decide) (by decide +kernel), alone _ 3 _ (by decide) (by decide +kernel),
    alone _ 4 _ (by decide) (by decide +kernel), alone _ 5 _ (by decide) (by decide +kernel), by decide⟩

/-- A running shaping command. -/
def shapeRun (i : Instr) (rows : List Row) : ShapeRun :=
  { cmd := cmd i, start := 0, i := 0, n := 1, nread := 0, nwrite := 0, period := 1, lag := 0, fmt := 0, rows := rows, scale := 0,
    found := [], out := [], amaxM := 0, amaxE := 0, sawNan := false, sawInf := false, statAt := none, slot := none }

theorem witness_HardwareFaults :
    (let s := user.onSeq fun q => { q with writes := [writing (.x 1 5)] }; s.seq.trapDue = none ∧ s.seq.writes = [writing (.x 1 5)] ∧
      (writing (.x 1 5)).slot = 1 ∧ (writing (.x 1 5)).due ≤ s.now ∧ (writing (.x 1 5)).bad = false) ∧
    user.now < ({ writing (.x 1 5) with due := 1 } : PendingWrite).due ∧
    (let s := user.onSh fun h => { h with tis := some (shapeRun .nop []), cvs := some (shapeRun .nop []) };
      s.sh.tis = some (shapeRun .nop []) ∧ s.sh.cvs = some (shapeRun .nop []) ∧ s.seq.writes = [] ∧ s.seq.trapDue = none) ∧
    (shapeRun .nop []).cmd.sinc ≠ 0 ∧ (shapeRun .nop []).cmd.pred = false ∧ 0x3FFFF / 8 ∉ user.ann.poison ∧
    user.phase = .pre ∧ ({ user with phase := .post } : State).phase = .post ∧ ((4 : Fin 8).val % 4, 511) ∉ user.sh.tblBad := by
  decide +kernel

/-- A state at a boundary. -/
def boundary (held : Bool) : State := inSegment.onSeq fun q => { q with run := .boundary 0 0 held }

/-- At a held boundary whose hold waits for semaphore 255 to reach 1. -/
def held (m : Sem) : State :=
  { withSem (boundary true) m with
    prog := some { program true with segs := [{ segment with holds := [(0, 255, 1)] }] } }

theorem witness_SegmentsAndReplay :
    (boundary false).seq.run = .boundary 0 0 false ∧ (boundary false).segTable[1]? = some segment ∧
    (held { cnt := 1, err := false, status := 0 }).seq.run = .boundary 0 0 true ∧
    (held { cnt := 1, err := false, status := 0 }).holdReady = true ∧ (held { cnt := 1, err := false, status := 0 }).holdError = none ∧
    (let s := (held { cnt := 1, err := false, status := 0 }).onSeq fun q => { q with run := .boundary 0 1 true }; ¬(1 : Nat) ≤ s.absc ∧
      (1 : Nat) ≤ (s.onAx fun a => { a with value := 1 }).absc) ∧
    (let s := ((held { cnt := 1, err := false, status := 0 }).onSeg fun g => { g with ready := some 0 }).onAx fun a => { a with value := 4000 };
      s.mayResume = true ∧ s.holdReady = true ∧ s.holdError = none) ∧ (held { cnt := 1, err := false, status := 0 }).segTable[1]? = none ∧
    (inSegment.seq.run = .running ∧ (inSegment.onSeg fun g => { g with closed := true }).seg.closed = true) ∧
    (held Sem.zero).holdReady = false ∧ (held { cnt := 0, err := true, status := 1 }).holdReady = true ∧
    (held { cnt := 0, err := true, status := 1 }).holdError = some 255 := by decide +kernel

/-- The shadow of the boundary of `inSegment`. -/
def shadow : Shadow :=
  { regs := user.seq.regs, lc := user.seq.lc, loops := [], maskRow := user.seq.maskRow, maskCol := user.seq.maskCol, srkey := 0,
    srkctr := 0, uhvec := 0, sems := user.sems, ft := user.mx.ft, tol := user.mx.tol, nestS := user.mx.shadow,
    nestA := user.mx.active, pc := 0x100, safect := 0, crc := 0xFFFFFFFF }

/-- A cell of a launch. -/
def peer (n : Nat) : Peer := ⟨n, 0, 0⟩

/-- Waiting for a replay with members still to acknowledge. -/
def replaying (w : List Peer) : State :=
  (inSegment.onSeg fun g => { g with shadow := some shadow, pending := some (5, 900, w) }).onSeq fun q => { q with run := .replayWait 900 }

theorem witness_SegmentsAndReplay_replay :
    (let s := inSegment.onSeg fun g => { g with shadow := some shadow, replays := 1 }; s.seg.inSeg = true ∧ s.staleNotice 0 = false ∧ s.seg.shadow.isSome = true ∧
      s.seg.pending = none ∧ s.seg.replays < 2 ∧ s.seg.kept = []) ∧
    (let s := inSegment.onSeg fun g => { g with shadow := some shadow, replays := 2 }; s.seg.inSeg = true ∧ s.seg.pending = none ∧
      2 ≤ s.seg.replays) ∧
    (replaying [peer 0, peer 1]).seg.pending = some (5, 900, [peer 0, peer 1]) ∧ (replaying [peer 0]).seq.run = .replayWait 900 ∧
    (inSegment.onSeg fun g => { g with origin := 5 }).staleNotice 4 = true ∧ (replaying [peer 0]).seg.waitBy ≤ (replaying [peer 0]).now ∧
    (let s := (replaying [peer 0]).onSeg fun g => { g with waitBy := 1 }; s.now < s.seg.waitBy) ∧
    inSegment.hl.fenced = false ∧ (∃ p ∈ [peer 0, peer 1], p ≠ peer 0) ∧ (replaying []).seg.pending = some (5, 900, []) ∧ (replaying [peer 0]).prog.isSome = true := by
  decide +kernel

/-- A compare word. -/
def word (n : BitVec 32) : CompareWord := ⟨0, 0, 20, n, 0⟩

theorem witness_SegmentsAndReplay_compare :
    (let s := inSegment.onSeg fun g => { g with cmpOwn := some (word 0) }; s.seg.cmpOwn = some (word 0) ∧ word 1 ≠ word 0 ∧
      s.seg.inSeg = true ∧ s.seg.pending = none ∧ s.noticeSent = false ∧ s.seg.replays < 2 ∧ s.seg.cmpTwin = none ∧
      s.seg.cmpBy ≤ s.now ∧ s.now < ({ s.seg with cmpBy := 1 } : SegState).cmpBy) ∧
    (inSegment.onSeg fun g => { g with cmpTwin := some (word 0) }).seg.cmpTwin.isSome = true := by decide +kernel

/-- How late a flit with a stamp is at port p of `inSegment`. -/
def late (stamp : BitVec 16) : Int :=
  (BitVec.ofNat 16 inSegment.absc - (stamp + BitVec.ofNat 16 (2 * fieldNat inSegment.ax.ports[(0 : Fin 18)].hlat 0 16))).toInt

theorem witness_TimedTraffic :
    late 63232 = 0 ∧ late 63248 = -16 ∧ late 63231 = 1 ∧ late 63249 = -17 ∧
    inSegment.portLive 0 = true ∧ (inSegment.onAx fun a => { a with ports := a.ports.set 17 { a.ports[17] with hlat := 0 } }).portLive 17 = false ∧
    (inSegment.hl.silent = false ∧ inSegment.hl.sides[(1 : Fin 4)].st = .healthy ∧ inSegment.seg.inSeg = true ∧
      inSegment.hl.sides[(1 : Fin 4)].mask.getLsbD (inSegment.absc % 64) = false ∧ 2 ≤ inSegment.voteN 1) ∧
    (withSide inSegment 1 fun r => { r with mask := 1 }).hl.sides[(1 : Fin 4)].mask.getLsbD (inSegment.absc % 64) = true ∧
    (let s := withSide inSegment 1 fun r => { r with st := .fenced }; s.hl.sides[(1 : Fin 4)].st = .fenced ∧
      s.hl.sides[(1 : Fin 4)].grace = none) ∧ inSegment.hl.sides[(0 : Fin 4)].st = .absent ∧ inSegment.ax.ports[(17 : Fin 18)].up = true ∧
    (inSegment.onAx fun a => { a with ports := a.ports.set 17 { a.ports[17] with up := false } }).ax.ports[(17 : Fin 18)].up = false := by
  decide +kernel

/-- Window 0 armed over rows 511 and 0 of sector 3, one row landed. -/
def window : LandWin :=
  { LandWin.reset with
    armed := true, cmd := some 7, sec := 3, row := 511, total := 2, count := 1, tag := 9 }

/-- Window 0 armed. -/
def armed : State :=
  { holding (running false) with
    tm := { user.tm with wins := user.tm.wins.set 0 window } }

/-- A row on its way to window w. -/
def timedRow (w : Fin 16) (row : Fin 512) (tag : BitVec 16) : TimedRow := ⟨1, 0, w, 3, row, 5, tag, true, false, false, none⟩

/-- A CLRED tile with a result row for row 0. -/
def recvRun : RecvRun :=
  { win := 0, sec := 3, row := 511, asec := 2, arow := 0, ofmt := .fp32, rnd := .rne, sat := false, tag := 0, rows := [], addend := [],
    lid := 1, issued := 0, a := 0, w := some 0, nadd := 0, after := 0, out := [(1, 5)], done := true }

theorem witness_TimedTraffic_rows :
    armed.seg.pending = none ∧ armed.winArmed 0 = true ∧ (timedRow 0 0 9).tag = armed.tm.wins[(0 : Fin 16)].tag ∧
    armed.tm.lost = [] ∧ armed.winArmed 1 = false ∧ (timedRow 0 0 8).tag ≠ armed.tm.wins[(0 : Fin 16)].tag ∧ window.placeOf 3 1 = none ∧ window.placeOf 3 0 = some 1 ∧
    window.placeOf 3 511 = some 0 ∧ armed.landTrap 1 0 0 3 0 true armed.now 5 = none ∧ armed.tm.wins[(0 : Fin 16)].guard = false ∧
    armed.tm.wins[(0 : Fin 16)].cmd = some 7 ∧ window.total ≤ window.count + 1 ∧ (replaying []).seg.pending ≠ none ∧
    ({ timedRow 0 0 9 with poisoned := true } : TimedRow).poisoned = true ∧
    (let s : State := { armed with tm := { armed.tm with recvs := [recvRun] } }; s.tm.recvs.length = 1 ∧ recvRun.win = 0 ∧
      recvRun.w = some 0 ∧ (0 : Nat) ≤ s.now ∧ s.now < 0 + tileRows recvRun.ofmt ∧ recvRun.done = true ∧ recvRun.out = [(1, 5)] ∧
      window.placeOf recvRun.sec ((recvRun.row + 1) % 512) = some 1) ∧ armed.tm.recvs = [] ∧
    (let s : State := { armed with tm := { armed.tm with lost := [(0, 17, timedRow 0 0 9)] } }; s.lostAt (timedRow 0 0 9) = some 17) := by
  decide +kernel

theorem witness_HardwareFaults_sums :
    (∃ d, (withMx fun m => { m with drain := some { drainRun (.accdr ectl 0 false false) false with out := [(17, 5)] } }).mx.drain = some d ∧
      d.nested = false ∧ d.out ≠ [] ∧ d.cmd.sinc ≠ 0 ∧ d.cmd.pred = false) ∧
    (let r : RecvRun := { recvRun with done := false }; let s : State := { armed with tm := { armed.tm with recvs := [r] } };
      s.tm.recvs = [r] ∧ r.done = false ∧ s.tm.wins[r.win].cmd = some 7) :=
  ⟨⟨_, rfl, rfl, by decide, by decide, rfl⟩, rfl, rfl, rfl⟩

/-- A row pushed to port 1. -/
def push : PushLand := { at_ := 0, q := 1, gen := 0, sec := 2, row := 511, data := 5, cols := 3 }

/-- An LMOV of one row, with `n` read. -/
def lmov (n : Nat) (start : Nat) : LmovRun :=
  { ssec := 0, srow := 511, dsec := 7, drow := 511, count := 1, start := start, hops := 3, nread := n, nwrit := 0,
    buf := List.replicate n 5 }

theorem witness_LaneRowsMove :
    (let p := ({ readPort with esz := 2 } : PortState); p.bound = true ∧ p.wr = false ∧ p.nread < p.total) ∧
    (user.onAnn fun a => { a with pushes := [push] }).ann.pushes.find? (fun v => v.q = 1 && v.at_ ≤ user.now) = some push ∧
    (let s : State := { user.onAnn fun a => { a with lmovs := [lmov 0 0] } with now := 1 }; s.ann.lmovs = [lmov 0 0] ∧
      (lmov 0 0).nread < (lmov 0 0).count ∧ (lmov 0 0).start + 1 + (lmov 0 0).nread ≤ s.now) ∧
    (let s : State := { user.onAnn fun a => { a with lmovs := [lmov 1 0] } with now := 4 }; (lmov 1 0).nread = (lmov 1 0).count ∧
      (lmov 1 0).nwrit < (lmov 1 0).nread ∧ (lmov 1 0).start + 1 + (lmov 1 0).nwrit + (lmov 1 0).hops ≤ s.now) ∧
    (user.onAnn fun a => { a with own := a.own.set 7 (.releasing false 5) }).releaseDone 7 = true ∧ user.releaseDone 7 = false := by
  decide +kernel

/-! ### Commands start, complete and move rows -/

/-- A state in cycle 9 with a command at the head of each station's queue. -/
def heads (c : Cmd) : State :=
  let q : Queues := { Queues.reset with normal := [c] }
  let s := (user.onMx fun m => { m with q := q }).onSh fun h => { h with tisQ := q, cvsQ := q, trsQ := q }
  { s with now := 9, tm := { s.tm with q := q } }

/-- A command that waits for semaphore 255 to reach a threshold. -/
def waiting (thr : Word) : Cmd := { cmd (.accz ectl true true) with wait := some (255, thr) }

/-- A command with a format entry of BF16 and its operands. -/
def formatted (i : Instr) (x0 x1 : Word) : Cmd :=
  { cmd i with ft := 0x0011, tau := 0x34800000, xs := (Vector.replicate 4 0 |>.set 0 x0).set 1 x1 }

theorem witness_CommandsStart_matrix :
    (heads (waiting 0x1000000000)).headNext .array = some (waiting 0x1000000000) ∧ (2 : Nat) ^ 36 ≤ (0x1000000000 : Word).toNat ∧
    (let s := withSem (heads (waiting 0xFFFFFFFFF)) { cnt := 0, err := true, status := 1 }; s.headNext .array = some (waiting 0xFFFFFFFFF) ∧
      (0xFFFFFFFFF : Word).toNat < 2 ^ 36 ∧ s.sems[(255 : Fin 256)].err = true) ∧ (waiting 0).sinc ≠ 0 ∧ (waiting 0).pred = false ∧
    (let c := cmd (.accz ectl true true); (heads c).headNext .array = some c ∧ (heads c).waitTest c = .ready) ∧
    (let c := formatted (.mxldb ectl 0 false) 1 0; (heads c).headNext .array = some c ∧ (heads c).waitTest c = .ready ∧
      ftCode (ftOf c.ft) false c.tau = 0) ∧
    (let c := formatted (.accdr ectl 0 false false) 1 0; (heads c).headNext .array = some c ∧ (heads c).waitTest c = .ready ∧
      ftCode (ftOf c.ft) true c.tau = 0 ∧ (heads c).mx.inj = 0) := by decide +kernel

/-- A cell of a timed program on a 1 by 1 shape. -/
def collective (s : State) : State := { s.onSys fun r => { r with lwh := 0x10001 } with prog := some (program true) }

theorem witness_CommandsStart_shaping :
    (let c := formatted (.trn ectl false) 0x00050004 0; (heads c).headNext .trs = some c ∧ (heads c).waitTest c = .ready ∧
      (heads c).startCode c = none) ∧
    (let c := formatted (.trn ectl false) 0 0; (heads c).headNext .trs = some c ∧ (heads c).startCode c = some 0x33) ∧
    (let c := formatted (.gver ectl) 3 0; (heads c).headNext .cvs = some c ∧ (heads c).startCode c = none) ∧
    (let c := formatted (.tbld ectl 3) 2 0; (heads c).headNext .tis = some c ∧ (heads c).startCode c = none) ∧
    (let c := formatted (.clbcst ectl) 6 6; (collective (heads c)).headNext .cls = some c ∧ (heads c).waitTest c = .ready ∧
      (collective (heads c)).collCode c = none ∧ (heads c).collCode c = some 0x33) := by decide +kernel

/-- A state with one entry in st5. -/
def withEnt (e : CopyEnt) : State := (holding user).onCp fun c => { c with ents := [e] }

/-- A CPL of `rows` rows. -/
def cpl (timed : Bool) (rows : Nat) : CopyEnt := copyEnt (.cpl ectl) timed rows

theorem witness_CommandsStart_copy :
    (let c := { cmd (.cpl ectl) with xs := (Vector.replicate 4 0).set 1 1 }; let e : CopyEnt := { cpl false 1 with cmd := c };
      (withEnt e).ent c.idx = some e ∧ e.cmd = c ∧ e.start = none ∧ e.held = false ∧ e.stoppable = true ∧ (withEnt e).cp.abns = [] ∧
      (withEnt e).waitTest c = .ready ∧ (withEnt e).copyBad c = false ∧ (withEnt e).peerFenced c = false ∧ c.isWindow = false) ∧
    (withEnt (cpl false 1)).copyBad (cpl false 1).cmd = true := by decide +kernel

theorem witness_CommandsComplete_matrix :
    (∃ r, (withMx fun m => { m with array := some (arrayRun mxgo) }).mx.array = some r ∧ r.cmd.op = mxgo ∧ r.next = none ∧ r.dfree ≤ user.now) ∧
    user.mx.drain = none ∧
    (∃ r, (withMx fun m => { m with array := some (arrayRun (.accz ectl true true)) }).mx.array = some r ∧ r.cmd.op = .accz ectl true true) ∧
    (∃ r, (withMx fun m => { m with array := some (arrayRun (.accdr ectl 0 true false)) }).mx.array = some r ∧
      r.cmd.op = .accdr ectl 0 true false) ∧
    (withMx fun m => { m with zero := some (cmd (.accz ectl false true)) }).mx.zero = some (cmd (.accz ectl false true)) ∧
    (∃ d, (withMx fun m => { m with drain := some (drainRun (.accdr ectl 0 false true) false) }).mx.drain = some d ∧
      d.cmd.op = .accdr ectl 0 false true) ∧ user.mx.zero = none :=
  ⟨⟨arrayRun mxgo, rfl, rfl, rfl, by decide⟩, rfl, ⟨_, rfl, rfl⟩, ⟨_, rfl, rfl⟩, rfl, ⟨_, rfl, rfl⟩, rfl⟩

/-- The header row of a BF16 tile of 64 by 64 elements with a tag. -/
def header (tag : Nat) : Row := BitVec.ofNat 4096 (1 + tag * 2 ^ 16 + 63 * 2 ^ 32 + 63 * 2 ^ 40)

/-- A table image of one zero segment: its check word. -/
def table : List Row := [BitVec.ofNat 4096 (4196804306 * 2 ^ 160), 0]

theorem witness_CommandsComplete_tiles :
    (let c := formatted (.mxldb ectl 0 false) 1 0x10009; hdrZero (header 9) = true ∧ (hdrOf (header 9)).code = c.fb.code ∧
      c.fb.isBlock = false ∧ tileMalformed c.fb (hdrOf (header 9)) = false ∧ c.xs[1].getLsbD 16 = true ∧
      (hdrOf (header 9)).tag = bitsOf c.xs[1] 0 16) ∧ (tableOf table).isSome = true := by decide +kernel

theorem witness_CommandsComplete_others :
    (user.onSh fun h => { h with trs := some (shapeRun (.trn ectl false) []) }).shapeOf .trs = some (shapeRun (.trn ectl false) []) ∧
    (∀ e k, (shapeRun (.trn ectl false) []).cmd.op ≠ .tbld e k) ∧ (shapeRun (.tbld ectl 3) table).cmd.op = .tbld ectl 3 ∧
    (withEnt (cpl false 1)).ent 7 = some (cpl false 1) ∧ (cpl false 1).stoppable = true ∧ (withEnt (cpl false 1)).cp.abns = [] ∧
    (withEnt (cpl false 1)).copyVerdict (cpl false 1) = none ∧
    ((withEnt (cpl false 1)).copyVerdict { cpl false 1 with bad := some 0 }).isSome = true ∧ (cpl false 1).cmd.sinc ≠ 0 ∧
    ({ user with tm := { user.tm with sent := [(cmd (.clbcst ectl), 3)] } } : State).tm.sent = [(cmd (.clbcst ectl), 3)] :=
  ⟨rfl, fun _ _ h => (nomatch h), rfl, by decide +kernel⟩

/-- An MXGO of two BF16 tiles whose headers are as given, in its last step. -/
def stepping (ha hb : Row) (x : Word) (seen : Bool) : State := withMx fun m => { m with
  array := some { arrayRun mxgo with
    cmd := { formatted mxgo x 0 with ft := 0x0011 }, bufA := [ha], bufB := [hb], nb := 18, seen := seen } }

theorem witness_MatrixSteps :
    ((user.onSeq fun q => { q with run := .preempted }).stepsHeld = true ∧ user.stepsHeld = false) ∧ (cmd mxgo).pred = false ∧ (arrayRun mxgo).on = true ∧
    stepHdrCode .bf16 .bf16 (header 0) (header 9) = 0 ∧ stepHdrCode .bf16 .bf16 (header 0) 0 ≠ 0 ∧
    (formatted mxgo 0x300090000 0).fa = .bf16 ∧ (formatted mxgo 0x300090000 0).fb = .bf16 ∧
    (let c := formatted mxgo 0x300090000 0; c.xs[0].getLsbD 32 = true ∧ (hdrOf (header 0)).tag = bitsOf c.xs[0] 0 16 ∧
      c.xs[0].getLsbD 33 = true ∧ (hdrOf (header 9)).tag = bitsOf c.xs[0] 16 16 ∧ (hdrOf (header 8)).tag ≠ bitsOf c.xs[0] 16 16) ∧
    (∃ r, (stepping (header 0) (header 9) 0x300090000 false).mx.array = some r ∧ r.seen = false ∧ r.on = true ∧ r.cmd.sinc ≠ 0) ∧
    (stepping 0 0 0 true).mx.bbuf = none :=
  ⟨by decide, rfl, rfl, by decide +kernel, by decide +kernel, by decide +kernel, by decide +kernel, by decide +kernel,
    ⟨_, rfl, rfl, rfl, by decide⟩, rfl⟩

/-- Swapping with a drain due. -/
def swapping (busy : Bool) : State := withMx fun m => { m with
  array := some { arrayRun mxgo with due := [true, false] }, dfree := if busy then 1 else 0 }

theorem witness_MatrixSwaps :
    (∃ r, (swapping true).mx.array = some r ∧ r.due = true :: [false]) ∧ (swapping true).drainHeld = true ∧ (swapping false).drainHeld = false ∧
    (∃ r, (withMx fun m => { m with array := some { arrayRun mxgo with next := some (drainRun mxgo true) } }).mx.array = some r ∧
      r.next = some (drainRun mxgo true)) ∧ user.mx.drain = none ∧ user.mx.zero = none ∧ user.mx.dfree ≤ user.now ∧ user.mx.inj = 0 :=
  ⟨⟨_, rfl, rfl⟩, by decide +kernel, by decide +kernel, ⟨_, rfl, rfl⟩, by decide⟩

/-- An accumulator's elements from a function of row and column. -/
def elements (f : Nat → Nat → BitVec 32) : Vector (Vector (BitVec 32) 65) 65 :=
  Vector.ofFn fun i => Vector.ofFn fun j => f i.val j.val

theorem elements_get (f : Nat → Nat → BitVec 32) (i j : Nat) (hi : i < 65) (hj : j < 65) : (elements f)[i][j] = f i j := by
  simp [elements]

theorem elRow_elements (f : Nat → Nat → BitVec 32) (m : Fin 65) :
    elRow (elements f) m = (List.range 64).map fun j => (f m.val j).toNat := by
  apply List.ext_getElem
  · simp [elRow, elements]
  · intro i h1 h2
    simp [elRow, elements]

theorem elCol_elements (f : Nat → Nat → BitVec 32) (n : Fin 65) (k : Nat) :
    elCol (elements f) n k = ((List.range 64).filter (· ≠ k)).map fun i => (f i n.val).toNat := by
  have h : ((elements f).toList.take 64).zipIdx = (List.range 64).map fun i => (Vector.ofFn fun j : Fin 65 => f i j.val, i) := by
    apply List.ext_getElem
    · simp [elements]
    · intro i h1 h2
      simp [elements]
  unfold elCol
  rw [h, List.filter_map, List.map_map]
  apply List.map_congr_left
  intro i _
  simp

theorem mapEl_elements (g : Nat → Nat → BitVec 32 → BitVec 32) (f : Nat → Nat → BitVec 32) :
    mapEl g (elements f) = elements fun i j => g i j (f i j) := by
  unfold mapEl
  simp [elements]

/-- The checks of one column or row: the sum of the data, the check word, and no magnitude. -/
def sumOk (l : List Nat) (p : Nat) : Bool := withinBound (sumF32 l) p (checkBound 0x34800000 0 0)

theorem colCheck_elements (f : Nat → Nat → BitVec 32) (n : Fin 64) :
    colCheck 0x34800000 Acc.zero (elements f) n =
      sumOk (((List.range 64).filter (· ≠ 64)).map fun i => (f i n.val).toNat) (f 64 n.val).toNat := by
  unfold colCheck sumOk
  simp only [elCol_elements, elements_get, Acc.zero, Fin.getElem_fin, Vector.getElem_replicate]
  rfl

theorem rowCheck_elements (f : Nat → Nat → BitVec 32) (m : Fin 64) :
    rowCheck 0x34800000 Acc.zero (elements f) m =
      sumOk ((List.range 64).map fun j => (f m.val j).toNat) (f m.val 64).toNat := by
  unfold rowCheck sumOk
  simp only [elRow_elements, elements_get, Acc.zero, Fin.getElem_fin, Vector.getElem_replicate]
  rfl

/-- Zero data with 1.0 as column 5's check word and the n-th of 0, 1.0 and 2.0 as row 3's. -/
def offBy (n : Fin 3) (i j : Nat) : BitVec 32 :=
  if i = 64 && j = 5 || n = 1 && i = 3 && j = 64 then 0x3F800000 else if n = 2 && i = 3 && j = 64 then 0x40000000 else 0

theorem zeros : sumOk (List.replicate 64 0) 0 = true ∧ sumOk (List.replicate 64 0) 0x3F800000 = false ∧
    ∀ n : Fin 3, n ≠ 0 → sumOk (List.replicate 64 0) (offBy n 3 64).toNat = false := by decide +kernel

theorem failing (k : Fin 3) :
    (List.finRange 64).filter (fun n => !colCheck 0x34800000 Acc.zero (elements (offBy k)) n) = [5] ∧
    (List.finRange 64).filter (fun m => !rowCheck 0x34800000 Acc.zero (elements (offBy k)) m) = if k = 0 then [] else [3] := by
  have hc : ∀ (k : Fin 3) (n : Fin 64), ((List.range 64).filter (· ≠ 64)).map (fun i => (offBy k i n.val).toNat) = List.replicate 64 0 ∧
      (offBy k 64 n.val).toNat = if n = 5 then 0x3F800000 else 0 := by decide +kernel
  have hr : ∀ (k : Fin 3) (m : Fin 64), (List.range 64).map (fun j => (offBy k m.val j).toNat) = List.replicate 64 0 ∧
      (offBy k m.val 64).toNat = if k ≠ 0 ∧ m = 3 then (offBy k 3 64).toNat else 0 := by decide +kernel
  have ec : (fun n => !colCheck 0x34800000 Acc.zero (elements (offBy k)) n) = fun n => decide (n = 5) := by
    funext n
    rw [colCheck_elements, (hc k n).1, (hc k n).2]
    by_cases h : n = 5
    · rw [if_pos h, zeros.2.1, decide_eq_true h]; rfl
    · rw [if_neg h, zeros.1, decide_eq_false h]; rfl
  have er : (fun m => !rowCheck 0x34800000 Acc.zero (elements (offBy k)) m) = fun m => decide (k ≠ 0 ∧ m = 3) := by
    funext m
    rw [rowCheck_elements, (hr k m).1, (hr k m).2]
    by_cases h : k ≠ 0 ∧ m = 3
    · rw [if_pos h, zeros.2.2 k h.1, decide_eq_true h]; rfl
    · rw [if_neg h, zeros.1, decide_eq_false h]; rfl
  rw [ec, er]
  clear ec er
  revert k
  decide +kernel

/-- How the checks' failed rows and columns decide. -/
theorem drainCheck_of (tau : BitVec 32) (acc : Acc) (el : Vector (Vector (BitVec 32) 65) 65) (rf cf : List (Fin 64))
    (hc : (List.finRange 64).filter (fun n => !colCheck tau acc el n) = cf)
    (hr : (List.finRange 64).filter (fun m => !rowCheck tau acc el m) = rf) :
    (rf = [] → cf = [] → drainCheck tau acc el = .pass el none) ∧ (∀ n, rf = [] → cf = [n] → drainCheck tau acc el = .fail [] [n]) ∧
    ∀ m n, rf = [m] → cf = [n] → colCheck tau acc (correctEl el m n) n = true → rowCheck tau acc (correctEl el m n) m = true →
      drainCheck tau acc el = .pass (correctEl el m n) (some (m, n)) := by
  unfold drainCheck failedRows failedCols
  rw [hc, hr]
  refine ⟨fun h1 h2 => ?_, fun n h1 h2 => ?_, fun m n h1 h2 h3 h4 => ?_⟩ <;> subst h1 <;> subst h2
  · rfl
  · rfl
  · simp [h3, h4]

/-- One failing row and one failing column whose row fails again once corrected. -/
theorem drainCheck_again (tau : BitVec 32) (acc : Acc) (el : Vector (Vector (BitVec 32) 65) 65) (m n : Fin 64)
    (hc : (List.finRange 64).filter (fun n => !colCheck tau acc el n) = [n])
    (hr : (List.finRange 64).filter (fun m => !rowCheck tau acc el m) = [m]) (h : rowCheck tau acc (correctEl el m n) m = false) :
    drainCheck tau acc el = .fail [m] [n] := by
  unfold drainCheck failedRows failedCols
  rw [hc, hr]
  simp [h]

theorem witness_MatrixDrains_fail : drainCheck 0x34800000 Acc.zero (elements (offBy 0)) = .fail [] [5] :=
  (drainCheck_of _ _ _ _ _ (failing 0).1 (failing 0).2).2.1 5 rfl rfl

theorem correctEl_elements (f : Nat → Nat → BitVec 32) (m n : Fin 64) :
    correctEl (elements f) m n = elements fun i j => if i = m.val && j = n.val then BitVec.ofNat 32 (fpSub f32 rne false
      (f 64 n.val).toNat (sumF32 (((List.range 64).filter (· ≠ m.val)).map fun i => (f i n.val).toNat))) else f i j := by
  unfold correctEl setEl correction
  simp only [elCol_elements, mapEl_elements, elements_get, Fin.getElem_fin]

theorem witness_MatrixDrains_corrected : ∃ el, drainCheck 0x34800000 Acc.zero (elements (offBy 1)) = .pass el (some (3, 5)) := by
  refine ⟨_, (drainCheck_of _ _ _ _ _ (failing 1).1 (failing 1).2).2.2 3 5 rfl rfl ?_ ?_⟩
  · rw [correctEl_elements, colCheck_elements]
    decide +kernel
  · rw [correctEl_elements, rowCheck_elements]
    decide +kernel

theorem witness_MatrixDrains_again : drainCheck 0x34800000 Acc.zero (elements (offBy 2)) = .fail [3] [5] := by
  refine drainCheck_again _ _ _ _ _ (failing 2).1 (failing 2).2 ?_
  rw [correctEl_elements, rowCheck_elements]
  decide +kernel

theorem witness_MatrixDrains_pass : drainCheck 0x34800000 Acc.zero (elements fun _ _ => 0) = .pass (elements fun _ _ => 0) none := by
  have zero : ((List.range 64).filter (· ≠ 64)).map (fun _ => (0 : BitVec 32).toNat) = List.replicate 64 0 ∧
      (List.range 64).map (fun _ => (0 : BitVec 32).toNat) = List.replicate 64 0 := by decide +kernel
  refine (drainCheck_of _ _ _ [] [] ?_ ?_).1 rfl rfl <;> rw [List.filter_eq_nil_iff] <;> intro n _
  · rw [colCheck_elements, zero.1]
    exact fun h => Bool.noConfusion (zeros.1.symm.trans ((Bool.not_eq_true' _).mp h))
  · rw [rowCheck_elements, zero.2]
    exact fun h => Bool.noConfusion (zeros.1.symm.trans ((Bool.not_eq_true' _).mp h))

theorem witness_MatrixDrains_single :
    ∀ k : Fin 3, k ≠ 0 → (failedRows 0x34800000 Acc.zero (elements (offBy k))).length = 1 ∧
      (failedCols 0x34800000 Acc.zero (elements (offBy k))).length = 1 := by
  intro k h
  unfold failedRows failedCols
  rw [(failing k).1, (failing k).2, if_neg h]
  exact ⟨rfl, rfl⟩

theorem witness_MatrixDrains_state :
    ∃ d s, (s : State).mx.drain = some d ∧ d.nested = false ∧ d.cmd.sinc ≠ 0 ∧ d.cmd.pred = false ∧ d.out = (17, 5) :: [] ∧
      (s : State).now < d.d + 78 ∧ d.d + 78 ≤ ({ s with now := 78 } : State).now :=
  ⟨{ drainRun (.accdr ectl 0 false false) false with out := [(17, 5)] }, withMx fun m => { m with
    drain := some { drainRun (.accdr ectl 0 false false) false with out := [(17, 5)] } }, rfl, rfl, by decide, rfl, rfl, by decide, by decide⟩

theorem witness_CopyRowsMove :
    (∀ b : Bool, (withEnt (cpl b 2)).ent (cpl b 2).cmd.idx = some (cpl b 2) ∧ (cpl b 2).cmd.op = .cpl ectl ∧ (cpl b 2).timed = b ∧
      (1 : Nat) < (cpl b 2).rows ∧ (withEnt (cpl b 2)).ann.unfenced = [] ∧
      (withEnt (cpl b 2)).accessCode (cpl b 2).cmd ((cpl b 2).cmd.srcPlace 1).1 ((cpl b 2).cmd.srcPlace 1).2 false = none) ∧
    (let s := withEnt { cpl false 2 with nland := 1 }; let d := (cpl false 2).cmd.dstPlace 1; farCode .ok = none ∧
      s.accessCode (cpl false 2).cmd d.1 d.2 true = none ∧ s.landsAfter d.1 (cpl false 2).cmd.prio (s.valueAt (cpl false 2).cmd.issued) = false ∧
      (cpl false 2).park = none ∧ s.laneFree d.1 = true ∧ s.claimOk d.1 s.now true = true ∧
      (cpl false 2).failed = none ∧ (cpl false 2).rows = 1 + 1 ∧ (cpl false 2).cmd.guards = false ∧ (0 : Nat) + 1 < (cpl false 2).rows) ∧
    ((withEnt (cpl false 2)).onCp fun c => { c with lanes := [(0, false), (0, true)] }).laneFree 0 = false := by decide +kernel

theorem witness_CopyRowsMove_far :
    (user.onHl fun h => { h with fenced := true }).hl.fenced = true ∧ user.hl.fenced = false ∧ (running false).peerHolds 1 0 3 = false ∧
    (let s := holding (running false); s.peerHolds 1 0 3 = true ∧ s.claimOk 3 s.now false = true ∧ s.rangeBreak true 3 511 5 = none ∧
      s.landsAfter 3 false 0 = false ∧ s.laneFree 3 = true ∧ s.claimOk 3 s.now true = true) := by decide +kernel

/-- A CPH with row 0 on its way to physical address 0x400. -/
def cph (put : Bool) : CopyEnt := { copyEnt (.cph ectl) false 2 with
  cmd := { cmd (.cph ectl) with xs := (Vector.replicate 4 0).set 0 (if put then 0x40000000 else 0) }, places := [(0, 0x400)], nissue := 1 }

/-- A cycle in which no bank is refreshed. -/
def quiet (e : CopyEnt) : State := (withEnt e).onAx fun a => { a with value := 14399 }

theorem witness_CopyRowsMove_banks :
    ((cph true).places.find? fun p => p.1 = 0) = some (0, 0x400) ∧ (cph true).cmd.isPut = true ∧ (cph false).cmd.isPut = false ∧
    (quiet (cph true)).bankHeld 0x400 = false ∧ (quiet (cph true)).inSlotMap 0x400 = false ∧ (withEnt (cph true)).bankHeld 0 = true ∧
    (quiet (cph false)).phyOf (2 ^ 38) = none ∧ (cph true).nland < (cph true).rows ∧ (cph true).failed = none ∧
    (cph true).nissue ≤ (cph true).nland + 1 ∧ ({ cph true with nland := 1 } : CopyEnt).rows = 1 + 1 ∧ (cph true).cmd.sinc ≠ 0 := by
  decide +kernel

theorem witness_CopyRowsMove_parked :
    let e : CopyEnt := { cph true with reqs := [(0, 0)], park := some 1 }
    (withEnt e).ent e.cmd.idx = some e ∧ e.timed = false ∧ e.park ≠ none ∧ e.failed = none := by decide +kernel

theorem witness_CopyRowsMove_timeout :
    (∃ q ∈ ({ cph true with reqs := [(0, 0)] } : CopyEnt).reqs,
      q.2 + Config.pcieTimeout ≤ ({ withEnt (cph true) with now := Config.pcieTimeout } : State).now) ∧
    (∀ q ∈ (cph true).reqs, user.now < q.2 + Config.pcieTimeout) :=
  ⟨⟨(0, 0), by simp, by simp⟩, fun _ h => (nomatch h)⟩

/-! ### Translations, atoms, cell health -/

/-- Without cached steps a walk begins at the root, whatever the map unit chooses. -/
theorem walkStart_plain (s : State) (ctx : Word) (a : Nat) (h : s.cp.walks = []) : s.walkStart ctx a = (0, ctxRoot ctx) := by
  unfold State.walkStart
  rw [h]
  split <;> rfl

/-- Rows of another die's stacks that are not known bad read well. -/
theorem walkReads_well (s : State) (l : List Nat) (hb : s.cp.hbmBad = []) (hp : ∀ a ∈ l, s.phyOf (a / 512 * 512) = none) :
    (l.foldl State.walkRead (false, s)).1 = false := by
  induction l generalizing s with
  | nil => rfl
  | cons a l ih =>
    have h : (s.takeBank a).readHbm (a / 512 * 512) = ((s.cp.hbm.row (a / 512 * 512), false), s.takeBank a) := by
      have e : (s.takeBank a).phyOf (a / 512 * 512) = none := hp a (by simp)
      have n : (s.takeBank a).cp.hbmBad = [] := hb
      unfold State.readHbm
      rw [e, n]
      rfl
    rw [List.foldl_cons, State.walkRead, h]
    exact ih (s.takeBank a) hb fun x hx => hp x (List.mem_cons_of_mem a hx)

/-- What a walk finds that starts at the root and reads no bad row. -/
theorem walkPage_plain (s : State) (ctx : Word) (a : Nat) (wr : Bool) (h : s.cp.walks = []) (hb : s.cp.hbmBad = [])
    (hp : ∀ x ∈ ((0, ctxRoot ctx) :: (walkFrom s.cp.hbm a wr 3 0 (ctxRoot ctx)).2).map (fun p => walkAddr a p.1 p.2),
      s.phyOf (x / 512 * 512) = none) :
    ∃ w, s.walkPage ctx a wr = ((walkFrom s.cp.hbm a wr 3 0 (ctxRoot ctx)).1, w) := by
  have r : s.walkEnd ctx a wr = walkFrom s.cp.hbm a wr 3 0 (ctxRoot ctx) := by unfold State.walkEnd; rw [walkStart_plain s ctx a h]
  have q : s.walkReads ctx a wr = ((0, ctxRoot ctx) :: (walkFrom s.cp.hbm a wr 3 0 (ctxRoot ctx)).2).map fun p => walkAddr a p.1 p.2 := by
    unfold State.walkReads
    rw [walkStart_plain s ctx a h, r]
  have v := walkReads_well { s with freeCtr := s.freeCtr + 1 } (s.walkReads ctx a wr) hb (by rw [q]; exact hp)
  unfold State.walkPage
  simp only [v, r, Bool.false_eq_true, if_false]
  generalize (walkFrom s.cp.hbm a wr 3 0 (ctxRoot ctx)) = o
  obtain ⟨e, l⟩ := o
  cases e <;> exact ⟨_, rfl⟩

/-- Device tables at 0x10000 and 0x20000 that map addresses 0 to 2^29 - 1 to physical 2^29, with an entry that `flags` governs. -/
def tables (flags : Byte) : Memory := [(0x10000, 1), (0x10002, 2), (0x20000, flags), (0x20003, 0x20)]

/-- A CPH whose row 0 waits for its translation, from upper-half address 0 if asked. -/
def walking (put upper : Bool) : CopyEnt := { copyEnt (.cph ectl) false 2 with
  walking := true, cmd := { cmd (.cph ectl) with
    xs := (Vector.replicate 4 0 |>.set 0 (if put then 0x40000000 else 0)).set 1 (if upper then 0x40000000000000 else 0) } }

/-- The context whose level-0 table lies at 0x10000, under an entry's flags, on a cell of die 1 in a cycle without refresh. -/
def mapped (e : CopyEnt) (flags : Byte) : State := ((withEnt e).onCp fun c => { c with hbm := tables flags, ctx := 0x10000 }).onSys fun r =>
  { r with pxy := 31 }

theorem witness_TranslationsAndPages :
    (mapped (walking false false) 0x0F).ent 7 = some (walking false false) ∧ (walking false false).walking = true ∧
    (walking false false).paused = false ∧ (walking false false).nissue < (walking false false).rows ∧
    (walkFrom (mapped (walking false false) 0x0F).cp.hbm 0 false 3 0 0x10000).1 = .page 0 (2 ^ 29) (2 ^ 29) true true none ∧
    (walkFrom (mapped (walking true false) 0x07).cp.hbm 0 true 3 0 0x10000).1 = .record 2 ∧
    (walkFrom (mapped (walking true false) 0x00).cp.hbm 0 true 3 0 0x10000).1 = .record 1 ∧
    (walkFrom [(0x10000, 3)] 0 true 3 0 0x10000).1 = .table false ∧
    ctxRoot ((mapped (walking true false) 0).ctxOf (walking true false)) = 0x10000 ∧
    (mapped (walking true false) 0).cp.walks = [] ∧ (mapped (walking true false) 0).cp.faultq.length < 4096 ∧
    (walking true false).nissue ≤ (walking true false).nland ∧ (walking true false).failed = none ∧ (walking true false).park = none ∧
    (walking true false).cmd.sinc ≠ 0 ∧ (walking true false).cmd.pred = false ∧ (walking true false).cmd.writes = true ∧
    (walking true false).cmd.dva 0 = 0 := by
  decide +kernel

theorem witness_TranslationsAndPages_walk : ∃ w, (mapped (walking false false) 0x0F).walkPage 0x10000 0 false =
    (.page 0 (2 ^ 29) (2 ^ 29) true true none, w) := by
  have h : (walkFrom (mapped (walking false false) 0x0F).cp.hbm 0 false 3 0 (ctxRoot 0x10000)).1 =
      .page 0 (2 ^ 29) (2 ^ 29) true true none := by decide +kernel
  rw [← h]
  exact walkPage_plain _ 0x10000 0 false rfl rfl (by decide +kernel)

/-- The walk waits while a bank that it reads is in refresh, or else goes on. -/
theorem witness_TranslationsAndPages_banks :
    ((mapped (walking false false) 0x0F).onAx fun a => { a with value := 1800 }).walkHeld 0x10000 0 false = true ∧
    ((mapped (walking false false) 0x0F).onAx fun a => { a with value := 14399 }).walkHeld 0x10000 0 false = false := by
  constructor <;> (unfold State.walkHeld State.walkReads State.walkEnd; rw [walkStart_plain _ _ _ rfl]; decide +kernel)

/-- A fault record. -/
def faultRec : FaultRec :=
  { kind := 1, flags := 0, cell := 0, cmd := 7, addr := 0, oi := 0, ij := 0, left := 2, asid := 0, pasid := 0 }

/-- A CPH paused on its page. -/
def paused (upper : Bool) : CopyEnt := { walking false upper with walking := false, paused := true }

theorem witness_TranslationsAndPages_pages :
    (let s := (withEnt (walking false true)).onCp fun c => { c with atsWait := [(7, 0, 0)] }; s.cp.atsWait = [(7, 0, 0)] ∧
      hostPage ((walking false true).cmd.dva 0) = 0 ∧ s.seq.writes = []) ∧
    (let s := (withEnt (paused false)).onCp fun c => { c with faultq := [faultRec] }; s.cp.faultq = faultRec :: [] ∧ faultRec.kind ≠ 5 ∧
      (∀ x ∈ s.cp.ents, x.wantsRec = none) ∧ s.apex.services = [] ∧ s.apex.frozen = none ∧ s.apex.boot = .up ∧ s.apex.busy = false ∧
      s.cp.ents = [paused false] ∧ (paused false).paused = true ∧ (paused false).wantsRec = none ∧ (paused false).cmd.dva 0 < 2 ^ 54 ∧
      (paused false).cmd.dva 0 / 65536 = 0xFFFF / 65536 ∧ ctxAsid (s.ctxOf (paused false)) = 0) ∧
    (State.reset.onApex fun a => { a with services := [(faultRec.page, faultRec.asid, faultRec.cell, 70000)] }).apex.services =
      [(faultRec.page, faultRec.asid, faultRec.cell, 70000)] ∧
    (2 : Nat) ^ 54 ≤ (paused true).cmd.dva 0 ∧ hostPage ((paused true).cmd.dva 0) = 4095 % 2 ^ 54 / 4096 ∧
    (withEnt (paused true)).hostPasid (paused true) = 0 ∧ (withEnt (paused true)).apex.priWait = [] := by
  decide +kernel

/-- An invalidation that waits for row 1 of command 7. -/
def inval (host : Bool) : Inval := { host := host, asid := 0, base := 0, len := 65536, waits := [(7, 1)] }

theorem witness_InvalidationsAndHostAccess :
    (∀ h : Bool, (user.onCp fun c => { c with invals := [inval h] }).cp.invals = [inval h] ∧ (inval h).host = h ∧
      (user.onCp fun c => { c with invals := [inval h] }).invalDone (inval h) = true ∧ (withEnt { cph true with fly := [1] }).invalDone (inval h) = false) ∧
    State.reset.apex.boot = .up ∧ State.reset.apex.busy = false ∧
    ((2 : Nat) ^ 32 - 1 < 2 ^ 32 ∧ State.reset.apex.apbase.toNat + (2 ^ 32 - 1) < Config.hbmBytes) ∧
    ¬((2 : Nat) ^ 32 < 2 ^ 32 ∧ State.reset.apex.apbase.toNat + 2 ^ 32 < Config.hbmBytes) ∧
    2 ^ 39 - 2 + ([1, 2] : List Byte).length ≤ Config.hbmBytes ∧
    ((8 : Fin 9) ≠ 0 ∧ State.reset.apex.queues[(63 : Fin 64)].vf ≠ (8 : Fin 9).val) ∧
    (State.reset.onApex fun a => { a with boot := .verify }).apex.boot ≠ .up := by decide +kernel

/-- A request of another cell's ATOM. -/
def atomReq (kind : AtomKind) (retry : Bool) (t0 : Nat) : AtomReq :=
  { src := peer 3, idx := 9, lid := 1, issued := 0, seq := 4, t0 := t0, retry := retry, op := .add, kind := kind, sec := 3, row := 511, word := 63,
    addr := 0x400, sem := 255, v := 5, cmp := 0 }

/-- The entry that a request has left. -/
def replayEnt : ReplayEnt := { lid := 1, src := peer 3, seq := 4, t0 := 0, result := 6 }

/-- Is there an entry for a request? -/
def foundIn (s : State) (r : AtomReq) : Option ReplayEnt :=
  ((s.atomTab r).expire s.absc).ents.find? fun e => e.lid = r.lid && e.src = r.src && e.seq = r.seq

theorem witness_AtomsActOnce :
    (let s := user.onCp fun c => { c with cellTab := { c.cellTab with ents := [replayEnt] } }; foundIn s (atomReq .cell true 0) = some replayEnt) ∧
    (foundIn user (atomReq .cell true 0) = none ∧ (atomReq .cell true 0).t0 ≤ (user.atomTab (atomReq .cell true 0)).floorOf 1 (peer 3)) ∧
    (atomReq .cell true 1).t0 + 2 ^ 22 ≤ (user.onAx fun a => { a with value := 4194305 }).absc ∧
    (let s := holding (running false); let r := atomReq .cell false 0; foundIn s r = none ∧ r.retry = false ∧ s.hl.fenced = false ∧
      s.lid = r.lid ∧ s.phase = .pre ∧ ({ s with phase := .post } : State).phase = .post ∧ s.peerHolds r.lid r.issued r.sec = true ∧ s.rangeBreak true r.sec r.row.val 5 = none ∧ s.claimOk r.sec s.now false = true ∧
      s.claimOk r.sec s.now true = true ∧ (rowAddr r.sec r.row.val + 8 * r.word.val) / 8 ∉ s.ann.poison ∧ ∀ i ∈ s.incs, i.sem ≠ r.sem) ∧
    (let s := quiet (cph true); let r := atomReq .hbm false 0; foundIn s r = none ∧ s.bankHeld r.addr = false ∧ s.inSlotMap r.addr = false ∧
      r.addr / 512 ∉ s.cp.hbmBad) ∧
    (user.onHl fun h => { h with fenced := true }).hl.fenced = true ∧ (atomReq .sem false 0).kind ≠ .hbm ∧
    (holding (running false)).asked (atomReq .cell false 0) = false ∧
    (holding (running false)).asked { atomReq .cell false 0 with src := (running false).self } = true := by decide +kernel

/-- An ATOM that was sent in cycle 5. -/
def atomEnt : CopyEnt := { copyEnt (.atom ectl .add .cell false) false 1 with sent := some 5, places := [(0, 77)] }

theorem witness_AtomsActOnce_requester :
    (let s := withEnt atomEnt; let c := atomEnt.cmd; s.ent 7 = some atomEnt ∧ c.op = .atom ectl .add .cell false ∧ atomEnt.sent = some 5 ∧
      atomEnt.places = [(0, 77)] ∧ c.sinc ≠ 0 ∧ c.pred = false ∧ s.cmdHolds c c.resSec = true ∧ s.rangeBreak true c.resSec c.resRow 5 = none ∧
      s.claimOk c.resSec s.now true = true ∧ s.now < 5 + 2 ^ 21 ∧ s.ent 8 = none) ∧
    user.cmdHolds atomEnt.cmd atomEnt.cmd.resSec = false ∧ 5 + 2 ^ 21 ≤ ({ user with now := 2097157 } : State).now := by decide +kernel

/-- A message from the cell (1, 0) to the cell (0, 0), which takes it on side E. -/
def message (kind count body : Nat) : BitVec 256 := (State.reset.onSys fun r => { r with pxy := 1 }).message 3 kind count body

theorem witness_PerimeterMessages :
    State.reset.hl.fenced = false ∧ State.reset.hl.silent = false ∧ State.reset.hl.sides[(1 : Fin 4)].st = .healthy ∧ 2 ≤ State.reset.voteN 1 ∧
    State.reset.hl.sides[(1 : Fin 4)].nhb ≠ 1 ∧ State.reset.hl.sides[(1 : Fin 4)].nmsg ≠ 16 ∧
    (∀ k ∈ [1, 2, 3, 4, 5, 6], State.reset.msgValid 1 0 k = false) ∧
    State.reset.msgValid 1 (message 1 0 0) 1 = true ∧ msgField (message 1 0 0) 24 32 = State.reset.absc / 4096 % 2 ^ 32 ∧
    (withSide State.reset 1 fun r => { r with nhb := 1 }).hl.sides[(1 : Fin 4)].nhb = 1 ∧
    (State.reset.onHl fun h => { h with silent := true }).hl.silent = true := by decide +kernel

/-- Messages from the cell (1, 0) after sixteen others of its period: about another cell and about itself. -/
theorem witness_PerimeterMessages_rate :
    (let s := withSide State.reset 1 fun r => { r with nmsg := 16 }
     s.hl.silent = false ∧ s.hl.sides[(1 : Fin 4)].st = .healthy ∧ 2 ≤ s.voteN 1 ∧ s.hl.sides[(1 : Fin 4)].nmsg = 16 ∧ s.suspect 1 = (1, 0) ∧
       (let m := message 2 0 (voteBody (0, 1) 1 1 5); s.msgValid 1 m 2 = true ∧ (msgField m 96 5, msgField m 101 5) ≠ s.suspect 1) ∧
       (let m := message 2 0 (voteBody (1, 0) 1 1 5); s.msgValid 1 m 2 = true ∧ (msgField m 96 5, msgField m 101 5) = s.suspect 1) ∧
       s.msgValid 1 (message 3 0 0) 3 = true ∧ s.msgValid 1 (message 4 0 (voteBody (0, 1) 1 1 0)) 4 = true ∧
       (let m := message 5 0 32; s.msgValid 1 m 5 = true ∧ (msgField m 96 5, msgField m 101 5) ≠ s.suspect 1) ∧
       (let m := message 5 0 1; s.msgValid 1 m 5 = true ∧ (msgField m 96 5, msgField m 101 5) = s.suspect 1) ∧
       s.msgValid 1 (message 6 0 0) 6 = true) ∧
    (withSide State.reset 1 fun r => { r with nmsg := 15 }).hl.sides[(1 : Fin 4)].nmsg ≠ 16 ∧
    (withSide State.reset 1 fun r => { r with nmsg := 17 }).hl.sides[(1 : Fin 4)].nmsg ≠ 16 := by decide +kernel

theorem witness_PerimeterMessages_notices :
    State.reset.msgValid 1 (message 5 0 0) 5 = true ∧ (msgField (message 5 0 0) 96 5, msgField (message 5 0 0) 101 5) = State.reset.phys ∧
    State.reset.msgValid 1 (message 5 0 32) 5 = true ∧ (msgField (message 5 0 32) 96 5, msgField (message 5 0 32) 101 5) = (0, 1) ∧
    sideTo State.reset.phys (0, 1) = some 2 ∧ State.reset.hl.sides[(2 : Fin 4)].st = .healthy ∧
    (∀ st ∈ [SideSt.suspect, .accused, .readmitted, .fenced, .appealing, .absent],
      (withSide State.reset 2 fun r => { r with st := st }).hl.sides[(2 : Fin 4)].st = st) ∧
    (let m := message 5 0 33; State.reset.msgValid 1 m 5 = true ∧ (msgField m 96 5, msgField m 101 5) = (1, 1) ∧
      sideTo State.reset.phys (1, 1) = none ∧ meshDist State.reset.phys (1, 1) ≤ 2) ∧
    State.reset.msgValid 1 (message 6 0 0) 6 = true ∧ State.reset.msgValid 1 (message 6 0 32) 6 = true ∧
    (State.reset.onHl fun h => { h with fenced := true }).hl.fenced = true := by decide +kernel

/-- A ring message about the cell (0, 1) by its E neighbour. -/
def ring (kind cause : Nat) : BitVec 256 := message kind 0 (voteBody (0, 1) 1 1 cause)

/-- Side S with an open window. -/
def voting (st : SideSt) (own : Bool) : State := withSide State.reset 2 fun r => { r with st := st, own := own, win := some 16383 }

theorem witness_PerimeterVotes :
    State.reset.msgValid 1 (ring 2 5) 2 = true ∧ sideTo State.reset.phys (ringParts (ring 2 5)).1 = some 2 ∧
    ringVoter (ring 2 5) = some (1, 1) ∧ ((1, 1) : Nat × Nat) ≠ State.reset.phys ∧ (1, 1) ∉ State.reset.hl.fmap ∧
    State.reset.hl.sides[(2 : Fin 4)].st = .healthy ∧ 2 ≤ State.reset.voteN 2 / 2 + 1 ∧
    ((∃ e ∈ (voting .suspect true).hl.sides[(2 : Fin 4)].win, (voting .suspect true).now ≤ e) ∧ (1, 1) ∉ (voting .suspect true).hl.sides[(2 : Fin 4)].voters ∧
      (voting .suspect true).voteN 2 / 2 + 1 ≤
        (voting .suspect true).hl.sides[(2 : Fin 4)].voters.length + (if (voting .suspect true).hl.sides[(2 : Fin 4)].own then 1 else 0) + 1) ∧
    (voting .accused false).hl.sides[(2 : Fin 4)].voters.length + (if (voting .accused false).hl.sides[(2 : Fin 4)].own then 1 else 0) + 1 <
      (voting .accused false).voteN 2 / 2 + 1 ∧
    (let s : State := { voting .suspect true with now := 16384 }; ¬(∃ e ∈ s.hl.sides[(2 : Fin 4)].win, s.now ≤ e) ∧
      s.hl.sides[(2 : Fin 4)].voters.length + (if s.hl.sides[(2 : Fin 4)].own then 1 else 0) < s.voteN 2 / 2 + 1) ∧
    (voting .fenced false).hl.sides[(2 : Fin 4)].st = .fenced := by decide +kernel

theorem witness_PerimeterVotes_appeal :
    (let s := withSide State.reset 1 fun r => { r with st := .fenced }; s.msgValid 1 (message 3 0 0) 3 = true ∧
      s.hl.sides[(1 : Fin 4)].st = .fenced ∧ msgField (message 3 0 0) 96 32 = fieldNat s.hl.pmifsig 0 32 ∧ s.refuses 1 = false ∧
      2 ≤ s.voteN 1 / 2 + 1 ∧ s.msgValid 1 (message 3 0 1) 3 = true ∧ msgField (message 3 0 1) 96 32 ≠ fieldNat s.hl.pmifsig 0 32) ∧
    (voting .appealing true).msgValid 1 (ring 4 0) 4 = true ∧ sideTo State.reset.phys (ringParts (ring 4 0)).1 = some 2 ∧
    (voting .appealing true).hl.sides[(2 : Fin 4)].st = .appealing ∧ (voting .appealing true).hl.sides[(2 : Fin 4)].late ≠ some 0 ∧
    (withSide (voting .appealing true) 2 fun r => { r with late := some 0 }).hl.sides[(2 : Fin 4)].late = some 0 := by decide +kernel

theorem witness_PerimeterVotes_clock :
    (State.reset.phys.1 < 32 ∧ State.reset.phys.2 < 24 ∧ State.reset.hl.hbFrom ≤ State.reset.absc / 4096) ∧
    (let s := (State.reset.onHl fun h => { h with hbFrom := 2 }).onAx fun a => { a with value := 8191 }; s.absc / 4096 < s.hl.hbFrom) ∧
    (withSide State.reset 2 fun r => { r with st := .readmitted }).hl.sides[(2 : Fin 4)].st = .readmitted ∧
    (let s := withSide (State.reset.onAx fun a => { a with value := 8192 }) 1 fun r => { r with heard := true }; 8192 ≤ s.absc ∧
      s.hl.sides[(1 : Fin 4)].st ≠ .absent ∧ s.hl.sides[(1 : Fin 4)].heard = true ∧ s.hl.sides[(2 : Fin 4)].heard = false ∧
      s.hl.sides[(2 : Fin 4)].miss < 2 ∧ ∀ k : Fin 4, s.hl.sides[k].quiet = false) ∧
    (withSide State.reset 2 fun r => { r with miss := 2 }).hl.sides[(2 : Fin 4)].miss = 2 ∧
    (let s := withSide State.reset 1 fun r => { r with quiet := true }; s.hl.sides[(1 : Fin 4)].quiet = true ∧
      (∀ k : Fin 4, k ≠ 1 → s.hl.sides[k].quiet = false) ∧ s.hl.sides[(1 : Fin 4)].st = .healthy ∧ 2 ≤ s.voteN 1) ∧
    (voting .suspect true).now ≤ 16383 ∧
    (let s : State := { voting .suspect true with now := 16384 }; s.hl.sides[(2 : Fin 4)].win = some 16383 ∧ 16383 < s.now ∧
      s.hl.sides[(2 : Fin 4)].miss ≠ 3 ∧ s.hl.sides[(2 : Fin 4)].again = false) ∧
    (let s := State.reset.onHl fun h => { h with fenced := true, lifted := true, apl := some 0 }; s.hl.fenced = true ∧ s.hl.lifted = true ∧
      s.hl.apl = some 0 ∧ (0 : Nat) ≤ s.now) ∧ State.reset.hl.lifted = false := by decide +kernel

theorem witness_SelfTestAndSpareFlash :
    (let s := State.reset.onHl fun h => { h with tend := some 0, spareBusy := some 0x1041C2 }; s.hl.tend = some 0 ∧ (0 : Nat) ≤ s.now ∧
      s.hl.spareBusy = some 0x1041C2) ∧
    (let s := State.reset.onHl fun h => { h with tend := some 1 }; s.hl.tend = some 1 ∧ s.now < 1 ∧ s.hl.spareBusy = none) := by decide +kernel

/-! ### Queues, packets, launches, contexts -/

/-- A state whose queue 63 is changed. -/
def withQueue (f : QueueDesc → QueueDesc) : State := State.reset.onQueue 63 f

/-- Queue 63 active, with the packet at DVA 0 in mapped HBM. -/
def activeQueue : State :=
  (withQueue fun d => { d with st := .active, root := 1, tail := 1 }).onCp fun c => { c with hbm := tables 0x0F }

theorem witness_QueuesAndNodes_queues :
    State.reset.apex.boot = .up ∧ State.reset.apex.frozen = none ∧ State.reset.apex.queues[(63 : Fin 64)].st = .disabled ∧
    (let d := activeQueue.apex.queues[(63 : Fin 64)]; d.st = .active ∧ ((16 : BitVec 32) - d.head).toNat ≤ 2 ^ d.lgsz ∧
      2 ^ d.lgsz < ((17 : BitVec 32) - d.head).toNat ∧ d.head ≠ d.tail ∧ activeQueue.chainNode 63 = none ∧
      activeQueue.queuePlace d d.nextDva false = .at_ (.hbm (2 ^ 29))) ∧
    (let s := activeQueue.onCp fun c => { c with hbm := [] }; s.queuePlace s.apex.queues[(63 : Fin 64)] 0 false = .fault 1) ∧
    (let s := withQueue fun d => { d with st := .active }; s.apex.queues[(63 : Fin 64)].head = s.apex.queues[(63 : Fin 64)].tail) ∧
    State.reset.apex.busy = false ∧
    (let d := State.reset.apex.queues[(63 : Fin 64)]; d.dies &&& ~~~(State.reset.apex.partition d.vf) = 0 ∧
      (d.tail - d.head).toNat ≤ 2 ^ d.lgsz ∧ d.vf ≠ (8 : Fin 9).val) ∧
    (let s := withQueue fun d => { d with vf := 8 }; s.apex.queues[(63 : Fin 64)].vf = (8 : Fin 9).val ∧
      s.apex.queues[(63 : Fin 64)].dies &&& ~~~(s.apex.partition s.apex.queues[(63 : Fin 64)].vf) ≠ 0) ∧
    (withQueue fun d => { d with st := .error }).apex.queues[(63 : Fin 64)].st = .error := by decide +kernel

/-- A heap entry of queue 63. -/
def entry (b : PktBody) (st : EntSt) : HeapEnt :=
  { id := 4, q := 63, flags := 2, mvec := 3, stag := 0, deadline := 0, wcet := 0, cplt := 64, body := b, st := st, node := none,
    depth := 8, chain := none, runs := 0, lid := 0, done := none }

/-- That entry in the heap, with words 0 at DVA 0, 1 at DVA 8 and 1 at DVA 24. -/
def withEntry (e : HeapEnt) : State := (activeQueue.onApex fun a => { a with heap := [e] }).onCp fun c =>
  { c with hbm := tables 0x0F ++ [(2 ^ 29 + 8, 1), (2 ^ 29 + 24, 1)] }

theorem witness_QueuesAndNodes_nodes :
    (let s := withEntry (entry (.cond 8 128 256 1 1) .waiting); s.apex.frozen = none ∧
      s.heapEnt 4 = some (entry (.cond 8 128 256 1 1) .waiting) ∧ (entry (.fence 0) .waiting).done = none ∧ (entry (.fence 0) .waiting).depth ≤ 8 ∧
      s.queueWord s.apex.queues[(63 : Fin 64)] 8 = some 1 ∧ s.queueWord s.apex.queues[(63 : Fin 64)] 0 = some 0 ∧
      s.queueWord s.apex.queues[(63 : Fin 64)] (2 ^ 29) = none ∧ s.queueWord s.apex.queues[(63 : Fin 64)] 24 = some 1 ∧
      (0 : Nat) < 1 ∧ 16 + 16 * 0 + 8 = 24 ∧ (0 : Nat) % 128 = 0) ∧
    (let e : HeapEnt := { entry (.loop 8 128 1 1) .running with chain := some (256, 0), runs := 1 }; (withEntry e).heapEnt 4 = some e ∧
      (withEntry e).apex.chainDone e = true ∧ 1 ≤ e.runs ∧ e.runs < 2) := by decide +kernel

theorem witness_PacketsEnd :
    (let e := entry (.signal 0 8 5 3) .waiting; let s := withEntry e; let d := s.apex.queues[(63 : Fin 64)]; s.heapEnt 4 = some e ∧
      e.body = .signal 0 8 5 3 ∧ s.queuePlace d 8 true = .at_ (.hbm (2 ^ 29 + 8)) ∧ s.queuePlace d (2 ^ 54) true = .violation ∧
      (entry (.signal 1 0 0 3) .waiting).body = .signal 1 0 0 3) ∧
    (let e := entry (.fence 0) .waiting; (withEntry e).apex.fenceDone e 0 = true ∧
      ((withEntry e).onApex fun a => { a with heap := [{ e with id := 3 }, e] }).apex.fenceDone e 0 = false) ∧
    (let e : HeapEnt := { entry (.fence 0) .waiting with done := some (0, 0, 0) }; (withEntry e).heapEnt 4 = some e ∧
      (withEntry e).queuePlace (withEntry e).apex.queues[(63 : Fin 64)] e.cplt true = .at_ (.hbm (2 ^ 29 + 64)) ∧ e.cplt ≠ 0 ∧
      (withEntry e).apex.busy = false ∧ e.flags.getLsbD 1 = true) ∧
    (let s := State.reset.pushEvent 1 0 0 0 0; s.apex.events.length = 1 ∧ (s.apex.evtail - s.apex.evhead).toNat < 2 ^ s.apex.evlg) ∧
    (let s := (State.reset.pushEvent 1 0 0 0 0).onApex fun a => { a with evtail := 16 }; 2 ^ s.apex.evlg ≤ (s.apex.evtail - s.apex.evhead).toNat) := by
  decide +kernel

/-- A shape of n cells in a row that run a bundle of NOPs, in one segment if timed. -/
def shapeOf (n : Nat) (timed : Bool) : ShapeRec :=
  let at_ := if timed then 128 else 0
  { head := { dictn := 1, segs := if timed then 1 else 0, dict := 128, cells := 176, segtab := at_, timetab := at_, zero := 0 },
    w := n, h := 1, nsig := 1, dict := [0], cells := List.replicate n { off := 176 + 8 * n, len := 1, code := [0], entry := 0 },
    segs := if timed then [segment] else [], slots := [], energy := [], dies := [] }

/-- An image of that shape. -/
def imageOf (n : Nat) (timed : Bool) : Image :=
  { head := ⟨0x4D494D51, 1, if timed then 1 else 0, 1, 256 + 8 * n, 64, 0, 256, 256, 0⟩,
    fileSize := 256 + 8 * n, timed := timed, ckpt := false, checked := true, wcet := 0, shapes := [shapeOf n timed], maps := [], cong := [],
    sectors := [], init := [], tiles := [], mailbox := [], windows := [] }

/-- An image of one cell. -/
def image (timed : Bool) : Image := imageOf 1 timed

/-- A packet for the cell (0, 0). -/
def here : LaunchPkt := { packet with ox := 0, oy := 0 }

/-- Queue 63 of the machine at reset. -/
def queue : QueueDesc := State.reset.apex.queues[(63 : Fin 64)]

theorem witness_LaunchesAreAdmitted :
    State.reset.apex.fwWait = false ∧ State.reset.apex.frozen = none ∧ State.reset.apex.heap = [] ∧
    State.reset.refusal false queue { here with w := 33 } (image false) = some 0x0102 ∧
    State.reset.refusal false queue here (image false) = none ∧ State.reset.admits queue here (image false) = true ∧
    State.reset.refusal false queue { here with deadline := 1 } (image false) = none ∧
    State.reset.admits queue { here with deadline := 1 } (image false) = false ∧
    State.reset.refusal true State.reset.apex.queues[(0 : Fin 64)] here (image false) = none ∧
    State.reset.admits State.reset.apex.queues[(0 : Fin 64)] here (image false) = true := by decide +kernel

/-- The entry of an admitted packet. -/
def admitted : HeapEnt := entry (.launch here (some (image false))) .admitted

theorem witness_LaunchesAreAdmitted_dispatch :
    (let s := State.reset.onApex fun a => { a with heap := [admitted] }; s.apex.heap = [admitted] ∧ admitted.done = none ∧
      admitted.st = .admitted ∧ here.ctx = 0 ∧ admitted.q = 63 ∧ here.mlog = 0 ∧ (image false).timed = false ∧
      (originsOf queue here).find? (s.mayStand here (image false)) = some (0, 0) ∧ s.holders here (0, 0) = [] ∧
      pickShape (image false) s.apex.fences (0, 0) here = some (0, (0, 0)) ∧
      s.pinWindows queue (image false) ((0, 0), here.w, here.h) = some [] ∧ s.overCap s.apex.nextLid (image false) 0 = false) := by decide +kernel

/-- A packet for n modules' cells (0, 0), with n a power of two. -/
def wide (lg : Nat) : LaunchPkt := { here with mlog := lg }

theorem witness_LaunchesAreAdmitted_remote :
    (let s := State.reset.onApex fun a => { a with pair := some (0, 1) }
     s.refusal false queue here (image true) = none ∧ s.admits queue here (image true) = true ∧ s.mates here true = 1 ∧
       s.mates here false = 0) ∧
    (let q0 := State.reset.apex.queues[(0 : Fin 64)]; let far := { here with cplt := 0, flags := 0 }
     State.reset.refusal true q0 { far with w := 33 } (image false) = some 0x0102 ∧
       State.reset.refusal true q0 far (image false) = none ∧ State.reset.admits q0 far (image false) = true ∧
       State.reset.refusal true q0 { far with deadline := 1 } (image false) = none ∧
       State.reset.admits q0 { far with deadline := 1 } (image false) = false) ∧
    (let e := entry (.launch (wide 2) (some (image false))) .asking; e.done = none ∧ e.st = .asking ∧ e.remote = false ∧
      ({ e with agreed := 1 } : HeapEnt).agreed + 1 < State.reset.mates (wide 2) false ∧
      State.reset.mates (wide 2) false ≤ ({ e with agreed := 2 } : HeapEnt).agreed + 1 ∧ ({ e with remote := true } : HeapEnt).remote = true) := by
  decide +kernel

/-- Launch 1 on the cell (0, 0). -/
def launch (timed : Bool) (st : LaunchSt) : LaunchRec :=
  { lid := 1, entry := 4, q := 63, pkt := { here with lflags := 6, save := 0x10000, wdog := 5 }, img := image timed, shape := 0, rx := 0, ry := 0, px := 0,
    py := 0, st := st, ready := [], halts := [], t0 := 0, began := 0, ran := 0, wdogged := false, bank := 0, committed := none,
    acked := [], lastCk := none, suspend := false, handle := 0, ver := 1, wins := [], ctx := none, openCk := none, heldCk := none }

/-- A state with that launch, its packet's entry, and its program on the cell. -/
def launched (l : LaunchRec) : State :=
  let s := (holding (running l.img.timed)).onSeq fun q => { q with run := .idle }
  s.onApex fun a => { a with launches := [l], heap := [entry (.launch l.pkt (some l.img)) .running] }

theorem witness_LaunchesRunAndEnd :
    (let l : LaunchRec := { launch false .restoring with back := true }; let s := launched l; s.launchOf 1 = some l ∧
      s.pred = none ∧ l.st = .restoring ∧ l.back = true ∧ l.img.timed = false ∧ l.farCells ≤ l.ready.length ∧
      ({ l with back := false } : LaunchRec).back = false) ∧
    (let l : LaunchRec := { launch true .resuming with t0 := 4096 }; l.arming = true ∧ l.t0 ≤ (launched l).absc + 4096 ∧
      l.ready.length < l.ncells) ∧ (launch false .resuming).arming = false ∧
    (let l := launch true .armed; let s := launched l; s.apex.frozen = none ∧ s.launchOf 1 = some l ∧ s.pred = none ∧ l.img.timed = true ∧
      l.ready.length < l.ncells ∧ l.t0 ≤ s.absc + 4096 ∧ s.absc = l.t0 ∧ s.runsHere l = true ∧ s.hl.fenced = false ∧ s.seq.run = .idle ∧
      s.segTable[0]? = some segment) ∧
    (let l : LaunchRec := { launch true .armed with ready := [peer 0] }; l.ncells ≤ l.ready.length) ∧
    (let l : LaunchRec := { launch true .armed with t0 := 5000 }; (launched l).absc + 4096 < l.t0 ∧ (launched l).launchOf 1 = some l) ∧
    (let s := (launched (launch true .armed)).onHl fun h => { h with fenced := true }; s.hl.fenced = true) ∧
    (let l := launch false .loading; let s := launched l; s.runsHere l = true ∧ s.seq.run = .idle ∧ s.lid = 1 ∧ s.prog.isSome = true ∧
      s.self = peer 0 ∧ ({ s with prog := none } : State).runsHere l = false) ∧
    (let l := launch false .running; let s := launched l; peer 1 ≠ s.self ∧ (0x7FFF : BitVec 16).toNat < 0x8000 ∧
      l.ncells ≤ l.halts.length + 1 ∧ l.wdogged = false ∧ s.cyclesRun l < l.pkt.wdog ∧
      l.pkt.wdog ≤ (s.onAx fun a => { a with value := 5 }).cyclesRun l ∧ l.pkt.lflags.getLsbD 2 = true ∧
      ({ l.pkt with lflags := 0 } : LaunchPkt).lflags.getLsbD 2 = false) ∧
    (let l : LaunchRec := { launch false .running with img := imageOf 2 false }; l.halts.length + 1 < l.ncells) ∧
    0x8000 ≤ (0xFFFE : BitVec 16).toNat := by decide +kernel

/-- A context of launch 1 that a full save has taken. -/
def context : SavedCtx :=
  { prog := program false, shape := 0, cp := none, full := true, seq := user.seq, sys := user.sys, sems := user.sems,
    ports := user.ann.ports, own := user.ann.own, mx := user.mx, ents := [], abns := [], unknown := [], slots := user.sh.slots,
    seg := SegState.reset, rel := 0, at_ := 0, region := (63, 0x10000, 1), spare := 0x1FFFFF, tblBad := [] }

theorem witness_ContextsMove :
    (let s := launched (launch false .running); s.apex.frozen = none ∧ s.prog = some (program false) ∧ State.reset.prog = none) ∧
    (let s : State := { (running false).onSeq fun q => { q with run := .preempted } with preq := some { full := true, atP := none } };
     s.seq.run = .preempted ∧ s.prog = some (program false) ∧ s.preq = some { full := true, atP := none }) ∧ context.full = true ∧
    ((launched (launch false .running)).launchOf context.prog.lid).isSome = true ∧
    (let c : SavedCtx := { context with own := context.own.set 7 (.held false) };
     (State.reset.saveSectors c).isNone = true) ∧
    (activeQueue.saveSectors context).isSome = true ∧
    (let l := launch false .running; peer 0 ∉ l.acked ∧ l.ncells ≤ l.acked.length + 1) ∧
    (let l := launch false .resuming; (launched l).launchOf 1 = some l ∧ l.st = .resuming ∧ context.seg.inSeg = false ∧
      ({ l with ctx := some context } : LaunchRec).startOf ≤ (launched l).absc) := by
  decide +kernel

theorem witness_ContextsMove_resume :
    (let l : LaunchRec := { launch false .resuming with ctx := some context }; let s : State := { launched l with saved := some context }
     s.launchOf 1 = some l ∧ l.lid = 1 ∧ l.st = .resuming ∧ l.ctx = some context ∧ s.runsHere l = true ∧ s.seq.run = .idle ∧
       s.saved = some context ∧ context.prog.lid = 1 ∧ l.startOf ≤ s.absc ∧ l.img.timed = false) ∧
    (let l : LaunchRec := { launch true .resuming with ctx := some context, t0 := 5 }
     let s := (launched l).onAx fun a => { a with value := BitVec.ofNat 64 l.startOf }
     l.startOf = s.absc ∧ s.hl.fenced = false ∧ s.seq.run = .idle ∧ s.runsHere l = true) ∧
    (let l : LaunchRec := { launch false .restoring with ctx := some context }; let c := { context with sys := { context.sys with lwh := 0x10001 } }
     let s : State := { launched { l with ctx := some c } with prog := none, saved := some c }
     s.prog = none ∧ s.saved = some c ∧ c.shape.toNat = l.shape ∧ l.cellAt c.cell = s.phys ∧ s.hl.fenced = false ∧ s.mx.works = false ∧
       l.back = false ∧ l.farCells ≤ l.ready.length) := by decide +kernel

/-- Bytes beyond a window do not count in it. -/
theorem readNat_append (m l : Memory) (a n : Nat) (h : ∀ c ∈ l, a + n ≤ c.1) : Memory.readNat (m ++ l) a n = Memory.readNat m a n := by
  unfold Memory.readNat
  rw [List.foldr_append]
  congr 1
  induction l with
  | nil => rfl
  | cons c l ih =>
    have : ¬c.1 < a + n := by have := h c (by simp); omega
    simp only [List.foldr_cons, this, decide_false, Bool.and_false, Bool.false_eq_true, if_false]
    exact ih fun x hx => h x (by simp [hx])

/-- The pages of `context`'s slot that its save area reaches: place and length. -/
def areaPages : List (Nat × Nat) := [(1998848, 32768), (2031616, 65536), (2097152, 65536)]

/-- HBM holds `tables 0x0F` below 2^29. -/
def Low (s : State) : Prop := ∃ l : Memory, s.cp.hbm = tables 0x0F ++ l ∧ ∀ c ∈ l, 2 ^ 29 ≤ c.1

/-- The pages of the save area that the context's region holds are mapped there, and writing one keeps the tables. -/
theorem low_page (s : State) (h : Low s) (p : Nat × Nat) (hp : p ∈ areaPages) (a : Nat) (d : QueueDesc)
    (hd : d.root = 1) :
    ∃ b, s.queuePlace d p.1 true = .at_ (.hbm b) ∧ Low (s.onCp fun c => { c with hbm := s.ann.mem.paste a p.2 c.hbm b }) := by
  obtain ⟨l, hl, hk⟩ := h
  have low : ∀ a, a + 8 ≤ 2 ^ 29 → Memory.readNat (tables 0x0F ++ l) a 8 = Memory.readNat (tables 0x0F) a 8 := fun a ha =>
    readNat_append _ _ _ _ fun c hc => Nat.le_trans ha (hk c hc)
  have d3 : ∀ p ∈ areaPages, walkAddr p.1 0 0x10000 = 0x10000 ∧ walkAddr p.1 1 0x20000 = 0x20000 ∧
      walkStep (tables 0x0F) p.1 true 0 0x10000 = .inr 0x20000 ∧
      walkStep (tables 0x0F) p.1 true 1 0x20000 = .inl (.page 0 (2 ^ 29) (2 ^ 29) true true none) ∧ p.1 < 2 ^ 54 ∧
      pagePlace 0 (2 ^ 29) none p.1 = some (.hbm (2 ^ 29 + p.1)) ∧
      (tables 0x0F).filter (fun c => c.1 < 2 ^ 29 + p.1) = tables 0x0F ∧
      (tables 0x0F).filter (fun c => 2 ^ 29 + p.1 + p.2 ≤ c.1) = [] := by decide
  obtain ⟨e0, e1, t0, t1, lt, pl, f, g⟩ := d3 p hp
  have w : (walkFrom (tables 0x0F ++ l) p.1 true 3 0 0x10000).1 = .page 0 (2 ^ 29) (2 ^ 29) true true none := by
    have s0 : walkStep (tables 0x0F ++ l) p.1 true 0 0x10000 = .inr 0x20000 := by
      rw [← t0]
      unfold walkStep
      rw [e0, low _ (by decide)]
    have s1 : walkStep (tables 0x0F ++ l) p.1 true 1 0x20000 = .inl (.page 0 (2 ^ 29) (2 ^ 29) true true none) := by
      rw [← t1]
      unfold walkStep
      rw [e1, low _ (by decide)]
    simp only [walkFrom, s0, s1]
  have q : s.queuePlace d p.1 true = .at_ (.hbm (2 ^ 29 + p.1)) := by
    unfold State.queuePlace
    have rt : d.root.toNat * 2 ^ 16 = 0x10000 := by rw [hd]; decide
    rw [if_neg (Nat.not_le.mpr lt), if_neg (by rw [hd]; decide), hl, rt, w]
    simp only [pl]
  refine ⟨_, q, l.filter (fun c => c.1 < 2 ^ 29 + p.1) ++ ((s.ann.mem.filter fun c => a ≤ c.1 && c.1 < a + p.2).map
    (fun c => (c.1 - a + (2 ^ 29 + p.1), c.2)) ++ l.filter fun c => 2 ^ 29 + p.1 + p.2 ≤ c.1), ?_, ?_⟩
  · simp only [State.onCp, hl, Memory.paste, List.filter_append, f, g, List.nil_append, List.append_assoc]
  · intro c hc
    simp only [List.mem_append, List.mem_filter, List.mem_map] at hc
    rcases hc with ⟨h, -⟩ | ⟨x, -, rfl⟩ | ⟨h, -⟩
    · exact hk c h
    · simp only; omega
    · exact hk c h

/-- Pages of the area written one after another. -/
theorem low_pages (d : QueueDesc) (hd : d.root = 1) (dva a : Nat) (l : List (Nat × Nat)) : ∀ s : State, Low s → (∀ p ∈ l, p ∈ areaPages) →
    ∃ w, l.foldl (fun o p => o.bind fun t => match t.queuePlace d p.1 true with
      | .at_ (.hbm b) => some (t.onCp fun c => { c with hbm := t.ann.mem.paste (a + (p.1 - dva)) p.2 c.hbm b })
      | _ => none) (some s) = some w := by
  induction l with
  | nil => exact fun s _ _ => ⟨s, rfl⟩
  | cons p l ih =>
    intro s h hp
    obtain ⟨b, q, h'⟩ := low_page s h p (hp p (by simp)) (a + (p.1 - dva)) d hd
    rw [List.foldl_cons, Option.bind_some, q]
    exact ih _ h' fun x hx => hp x (by simp [hx])

theorem witness_ContextsMove_area : ∃ w, (activeQueue.writeArea context).saveSectors context = some w := by
  have e : pagesOf 40 (context.slotDva Config.saveBase) areaBytes = areaPages ∧ context.runs = [(Config.saveBase, areaBytes)] := by
    decide +kernel
  have h0 : Low (activeQueue.writeArea context) := ⟨[], by decide +kernel, by simp⟩
  unfold State.saveSectors
  rw [e.2]
  simp only [List.foldl_cons, List.foldl_nil, Option.bind_some]
  unfold State.saveBytes
  rw [e.1]
  exact low_pages _ (by decide +kernel) _ _ _ _ h0 fun _ h => h

theorem witness_ContextsMove_saves :
    (let s : State := { (running false).onSeq fun q => { q with run := .preempted } with preq := some { full := true, atP := none } }
     s.ckptOpen = false ∧ s.saved = none ∧ s.saving = none ∧ ({ s with ckptOpen := true } : State).ckptOpen = true ∧
       ({ s with saved := some context } : State).saved = some context) ∧
    (let s := State.reset.writeArea context; (s.saveSectors context).isNone = true) ∧ State.reset.pred = none := by decide +kernel

theorem witness_ApexCommands :
    (let l := launch false .running; let s := launched l; (s.apex.boot = .up ∧ s.apex.busy = false) ∧ s.launchOf 1 = some l ∧
      s.apex.queues[l.q].vf ≠ (8 : Fin 9).val ∧ l.mayFull = true ∧ l.st = .running ∧ l.lid = 1 ∧ s.pred = none ∧
      (s.heapEnt l.entry).isSome = true ∧ ({ l with pkt := here } : LaunchRec).mayFull = false ∧ s.apex.launches = [l] ∧
      (0, 0) ∉ s.apex.fences ∧ l.st ≠ .suspended ∧ l.holdsCell (0, 0) = true ∧ l.img.ckpt = false ∧ l.holdsCell (31, 23) = false) ∧
    (let s := withEnt (cpl false 1); ((0, 0) : Nat × Nat) = s.phys ∧ s.ent (cpl false 1).cmd.idx = some (cpl false 1) ∧
      (cpl false 1).stoppable = true ∧ (cpl false 1).nissue ≤ (cpl false 1).nland ∧ (cpl false 1).failed = none ∧ (cpl false 1).park = none ∧
      ((31, 23) : Nat × Nat) ≠ s.phys) ∧
    (let s := State.reset.onApex fun a => { a with fences := [(0, 0)], frozen := some 3 }; (0, 0) ∈ s.apex.fences ∧
      s.apex.frozen = some 3 ∧ s.apex.frozen.isSome = true ∧ s.apex.heap = [] ∧ ∀ x ∈ s.apex.launches, x.ahead s.absc = false) ∧
    (let l : LaunchRec := { launch false .running with pkt := wide 1 }; let s := launched l; (64 / 32 - 1, 64 % 32, 0) = (1, 0, 0) ∧
      (1, 0, 0) ∉ s.apex.farFences ∧ l.draws = true ∧ l.onModule 1 = true ∧ l.onModule 2 = false ∧ l.holdsCell (0, 0) = true ∧ l.img.ckpt = false ∧
      s.apex.launches = [l] ∧ s.pred = none) ∧
    (State.reset.onApex fun a => { a with farFences := [(1, 0, 0)] }).apex.farFences = [(1, 0, 0)] := by decide +kernel

theorem witness_SequencerAndLaunchFormsComplete :
    (user.pendingAny = false ∧ user.ann.lmovs = [] ∧ user.sh.busy = false ∧ user.tm.busy = false ∧ user.mx.busy = false ∧ user.cp.busy = false) ∧
    (let s : State := { inSegment with now := 1 }; s.timedImage = true ∧ s.seq.mode = .user ∧ s.segTable[1]? = some segment ∧
      s.seg.inSeg = true ∧ s.relCycle + 1 = (2 : BitVec 21).toNat ∧ s.pendingAny = false ∧ s.ann.lmovs = [] ∧ s.sh.busy = false ∧
      s.mx.busy = false ∧ s.tm.busy = false ∧ s.timedBusy = false ∧ s.expectedSig segment = some s.signature) ∧
    (user.timedImage = false ∧ (0x7FFF : BitVec 16).toNat < 0x8000 ∧ user.seq.writes = []) ∧
    (let l := launch true .armed; let s := launched l; s.apex.frozen = none ∧ s.launchOf 1 = some l ∧ l.t0 ≤ s.absc + 4096 ∧
      l.ready.length < l.ncells ∧ s.absc = l.t0 ∧ s.runsHere l = true ∧ s.hl.fenced = false ∧ s.seq.run = .idle ∧
      ({ s with prog := none } : State).runsHere l = false) ∧
    (let l := launch false .loading; let s := launched l; l.st = .loading ∧ s.runsHere l = true ∧ s.seq.run = .idle) ∧
    (let l := launch false .running; let s := (launched l).onAx fun a => { a with value := 5 }; peer 1 ≠ s.self ∧
      l.ncells ≤ l.halts.length + 1 ∧ l.wdogged = false ∧ l.pkt.wdog ≤ s.cyclesRun l ∧ l.st = .running) ∧
    (let l : LaunchRec := { launch false .running with img := imageOf 2 false }; l.halts.length + 1 < l.ncells ∧ peer 0 ∉ l.acked ∧
      l.acked.length + 1 < l.ncells) := by decide +kernel

theorem witness_SequencerAndLaunchFormsComplete_places :
    (let s := State.reset.onApex fun a => { a with heap := [admitted] }; s.apex.frozen = none ∧ s.apex.fwWait = false ∧
      s.apex.heap = [admitted] ∧ admitted.done = none ∧ admitted.st = .admitted ∧ admitted.body = .launch here (some (image false)) ∧
      here.ctx = 0 ∧ here.mlog = 0 ∧ (image false).timed = false ∧
      (originsOf queue here).find? (s.mayStand here (image false)) = some (0, 0) ∧ s.holders here (0, 0) = [] ∧
      pickShape (image false) s.apex.fences (0, 0) here = some (0, (0, 0)) ∧
      s.pinWindows queue (image false) ((0, 0), here.w, here.h) = some [] ∧ s.overCap s.apex.nextLid (image false) 0 = false) ∧
    (let s : State := { (running false).onSeq fun q => { q with run := .preempted } with preq := some { full := true, atP := none } };
      s.seq.run = .preempted ∧ s.prog = some (program false) ∧ s.preq = some { full := true, atP := none }) ∧
    (let l := launch false .running; let s : State := { launched l with saved := some context };
      s.launchOf context.prog.lid = some l ∧ context.full = true) ∧
    (let l : LaunchRec := { launch false .resuming with ctx := some context }; l.startOf ≤ (launched l).absc ∧ l.st = .resuming ∧
      context.seg.inSeg = false) ∧
    (let s := State.reset.onHl fun h => { h with tend := some 0, spareBusy := some 0x1041C2 }; s.hl.tend = some 0 ∧ (0 : Nat) ≤ s.now ∧
      s.hl.spareBusy = some 0x1041C2) := by decide +kernel

/-- A firmware image. -/
def firmware (version prev : BitVec 16) : Firmware := { id := 1, version := version, prev := prev }

theorem witness_ModuleManagement :
    (State.reset.apex.boot = .up ∧ State.reset.apex.busy = false) ∧
    (let s := State.reset.onApex fun a => { a with fwStage := some (firmware 2 1), fwWait := true }; s.apex.fwStage = some (firmware 2 1) ∧
      s.unrestorable (firmware 2 1) = [] ∧ s.apex.fwWait = true ∧ (∀ l ∈ s.apex.launches, l.active = false) ∧ s.apex.heap = []) ∧
    (let s := launched (launch false .suspended); s.unrestorable (firmware 3 2) ≠ []) ∧
    (∃ l ∈ (launched (launch false .running)).apex.launches, l.active = true) ∧
    (State.reset.onApex fun a => { a with boot := .dead }).apex.boot = .dead ∧
    ((8 : Fin 9) ≠ 0 ∧ (12 : BitVec 4) ∈ ([0, 1, 2, 4, 8, 3, 12, 15] : List (BitVec 4)) ∧
      ∀ v : Fin 9, v ≠ 8 → State.reset.apex.vfs[v] &&& 12 = 0) ∧
    (5 : BitVec 4) ∉ ([0, 1, 2, 4, 8, 3, 12, 15] : List (BitVec 4)) ∧
    (let s := State.reset.onApex fun a => { a with vfs := a.vfs.set 1 8 }; ∃ v : Fin 9, v ≠ 8 ∧ s.apex.vfs[v] &&& 12 ≠ 0) := by
  decide +kernel

/-! ## Well-formedness refuses what the encoding does not admit -/

/-- A vector control word of a format, with x0. -/
def fmtOnly (f : Fmt) : VCtl := ⟨f, 0, false, .rne, false, 0⟩

theorem test_wf_refuses_control : ∀ i ∈ [Instr.bfx 1 2 63 1, .bfi 1 2 1 63, .loop 0 1 1 5, .segend 0 0, .segend 0 0x100001, .srel 0, .sacq 0],
    i.wf = false := by decide

theorem test_wf_refuses_vector : ∀ i ∈ [Instr.vadd (fmtOnly .i32) (.tile 0 0) .zero .zero, .vadd (fmtOnly .fp32) .zero .zero .zero,
    .vadd (fmtOnly .bf16) (.tile 0 0) .lidx .zero, .vadd { fmtOnly .fp32 with xs := 1 } (.tile 0 0) .zero .zero,
    .vmin { fmtOnly .fp32 with sat := true } (.tile 0 0) .zero .zero, .vabs { fmtOnly .fp32 with rnd := .rtz } (.tile 0 0) .zero,
    .viadd (fmtOnly .fp32) (.tile 0 0) .zero .zero, .viadd { fmtOnly .i32 with rnd := .rtz } (.tile 0 0) .zero .zero,
    .vand (fmtOnly .e4m3) (.tile 0 0) .zero .zero, .vsra (fmtOnly .u8) (.tile 0 0) .zero .zero, .vceq (fmtOnly .fp32) 0 .zero .zero 1,
    .vceq (fmtOnly .bf16) 0 .zero .zero 2, .viclt (fmtOnly .u8) 0 .zero .zero 0, .vmov (fmtOnly .bf16) (.tile 0 0) .zero,
    .vperm (fmtOnly .bf16) (.tile 0 0) .zero .zero, .viota (fmtOnly .fp32) (.tile 0 0),
    .vradd { fmtOnly .fp32 with rnd := .srk } (.tile 0 0) .zero, .vrint { fmtOnly .fp32 with sat := true } (.tile 0 0) .zero,
    .vrng { fmtOnly .fp32 with xs := 1 } (.tile 0 0), .vcvt (fmtOnly .fp32) (.tile 0 0) .zero .fp32 false,
    .vcvt (fmtOnly .fp32) (.tile 0 0) .zero .i8 false, .vcvt (fmtOnly .fp32) (.tile 0 0) .zero .i32 true, .mpop .zero 0,
    .tzero 0 1 true 0 false], i.wf = false := by decide

theorem test_wf_refuses_engine : ∀ i ∈ [Instr.mxgo { ectl with xa := 29 } 0 false 0 false false, .mxgo { ectl with wsem := 1 } 0 false 0 false false,
    .mxgo { ectl with sinc := 0 } 0 false 0 false false, .mxldb { ectl with xa := 31 } 0 false, .accz ectl false false,
    .accz { ectl with xa := 1 } true false, .accdr { ectl with sinc := 0, ssem := 0 } 0 false false, .mxabn false false,
    .cvt ectl .bf16 0 .rne false true false false false false, .cvt ectl .dx8 0 .rne false false false false false true,
    .qscl ectl .fp32 0 false, .tbev ectl 0 .i8 .fp32 .rne false true, .tbev ectl 0 .fp32 .bf16 .rne false false, .gsum ectl .bf16 true,
    .clred ectl .i8 .rne false, .clred ectl .fp32 .srk false, .atom ectl .cas .sem false], i.wf = false := by decide

theorem test_wf_refuses_lane : ∀ i ∈ [Instr.pbind 0 0 ⟨false, 6⟩ 1 0 false, .pbind 0 0 ⟨false, 1⟩ 0 0 false, .pbind 0 0 ⟨false, 1⟩ 5 0 false,
    .pbind 0 0 ⟨false, 1⟩ 7 0 false, .lmov 0 ⟨false, 6⟩ 1 0, .lmov 3 ⟨false, 1⟩ 3 0, .pstat 0 1 6, .pstat 0 1 15, .pstat 1 1 4],
    i.wf = false := by decide

/-! ## Words written out from the encodings of R68 to R75 and the chapters' tables -/

theorem test_decode_nop : ∀ c ∈ [SlotClass.ctl, .scalar, .vec, .eng, .lane], decodeSlot c 0 = .ok .nop := by decide

theorem test_decode_ctl_1 : ∀ p ∈ ([
    (0x0120000000000140, .beq 4 0 320), (0x0228800000000141, .bne 5 2 321), (0x0331000000000142, .blt 6 4 322), (0x0439800000000143, .bge 7 6 323),
    (0x0542000000000144, .bltu 8 8 324), (0x064A800000000145, .bgeu 9 10 325), (0x0700000000000080, .jmp 0x80), (0x0860000000000000, .jmpx 12),
    (0x0900000000007FFF, .call 0x7FFF), (0x0A60000000000000, .callx 12), (0x0B00000000000000, .ret), (0x0C81FFFFFF000045, .loop 2 0 33554431 0x45),
    (0x0CCC000000000046, .loop 3 6 0 0x46), (0x0D18000000000000, .lexit 3), (0x1080050000000000, .safe (some 5)), (0x1000000000000000, .safe none)] :
    List (Nat × Instr)), decodeSlot .ctl p.1 = .ok p.2 := by decide

theorem test_decode_ctl_2 : ∀ p ∈ ([
    (0x1100030000003200, .segend 3 12800), (0x1200000000000017, .halt 0x17), (0x1300420000000007, .trap 0x42 7), (0x1400000000000000, .eret),
    (0x1808A90000000000, .swait 8 21 .rect), (0x1909180000000000, .ssig 9 3), (0x1AC8018800000000, .srd 17 200 true),
    (0x1BFFF80000000000, .sset 255 31), (0x1C07000000000000, .sclre 7), (0x1D00000000000001, .fence .rect), (0x1E00000000000006, .srel 6),
    (0x1F00000000000081, .sacq 0x81), (0x3020000000000000, .axrd 4 0), (0x3101800000000000, .axslew 6), (0x3201C00000000000, .axskip 7),
    (0x3328000000000001, .hbrd 5 1)] :
    List (Nat × Instr)), decodeSlot .ctl p.1 = .ok p.2 := by decide

theorem test_decode_ctl_3 : ∀ p ∈ ([
    (0x3400000000000003, .accuse 3), (0x3548000000000000, .appeal 9), (0x3650000000000000, .ifst 10), (0x3730000000000002, .spmrd 6 2),
    (0x3802400000000000, .spmwr 9), (0x3958000000000000, .spare 11), (0x3A00000000000000, .selfoff)] :
    List (Nat × Instr)), decodeSlot .ctl p.1 = .ok p.2 := by decide

theorem test_decode_scalar_1 : ∀ p ∈ ([
    (0x01187C0000000000, .add 3 1 30), (0x02218A0000000000, .sub 4 6 5), (0x032AD80000000000, .and 5 11 12), (0x0434260000000000, .or 6 16 19),
    (0x053D740000000000, .xor 7 21 26), (0x0646820000000000, .andn 8 26 1), (0x074FD00000000000, .shl 9 31 8), (0x08511E0000000000, .shr 10 4 15),
    (0x095A6C0000000000, .sra 11 9 22), (0x0A63BA0000000000, .rotl 12 14 29), (0x0B6CC80000000000, .mul 13 19 4),
    (0x0C76160000000000, .mulh 14 24 11), (0x0D7F640000000000, .mulhu 15 29 18), (0x0E80B20000000000, .div 16 2 25),
    (0x0F89C00000000000, .divu 17 7 0), (0x10930E0000000000, .rem 18 12 7)] :
    List (Nat × Instr)), decodeSlot .scalar p.1 = .ok p.2 := by decide

theorem test_decode_scalar_2 : ∀ p ∈ ([
    (0x119C5C0000000000, .remu 19 17 14), (0x12A5AA0000000000, .min 20 22 21), (0x13AEF80000000000, .max 21 27 28),
    (0x14B0060000000000, .minu 22 0 3), (0x15B9540000000000, .maxu 23 5 10), (0x16C2A20000000000, .slt 24 10 17),
    (0x17CBF00000000000, .sltu 25 15 24), (0x18D53E0000000000, .seq 26 20 31), (0x19DE4C0000000000, .sne 27 25 6),
    (0x1A3A12A000000000, .sel 7 8 9 10), (0x1BA2C00000000000, .clz 20 11), (0x1CAB000000000000, .ctz 21 12), (0x1DB3400000000000, .popc 22 13),
    (0x1E19000000000405, .bfx 3 4 5 16), (0x1FF840000000003F, .bfi 31 1 63 0), (0x20298E00C0000000, .addx 5 6 7 3)] :
    List (Nat × Instr)), decodeSlot .scalar p.1 = .ok p.2 := by decide

theorem test_decode_scalar_3 : ∀ p ∈ ([
    (0x28227FFFFFFFFFF8, .addi 4 9 (BitVec.ofInt 46 (-8))), (0x292A0000000000FF, .andi 5 8 (BitVec.ofInt 46 (255))),
    (0x2A31FFFFFFFFFFFF, .ori 6 7 (BitVec.ofInt 46 (-1))), (0x2B399FFFFFFFFFFF, .xori 7 6 (BitVec.ofInt 46 (35184372088831))),
    (0x2C6340000000003D, .shli 12 13 61), (0x2D6340000000003C, .shri 12 13 60), (0x2E6340000000003B, .srai 12 13 59),
    (0x2F73FFFFFFFFFFFD, .muli 14 15 (BitVec.ofInt 46 (-3))), (0x3073E00000000000, .slti 14 15 (BitVec.ofInt 46 (-35184372088832))),
    (0x3173C0000000004D, .sltiu 14 15 (BitVec.ofInt 46 (77))), (0x3228056789ABCDEF, .movi 5 0x056789ABCDEF), (0x332940000000048D, .movhi 5 5 0x48D),
    (0x3880000000000000, .ldb 16 0 (BitVec.ofInt 46 (0))), (0x39887FFFFFFFFFF8, .ldbu 17 1 (BitVec.ofInt 46 (-8))),
    (0x3A90BFFFFFFFFFF0, .ldh 18 2 (BitVec.ofInt 46 (-16))), (0x3B98FFFFFFFFFFE8, .ldhu 19 3 (BitVec.ofInt 46 (-24)))] :
    List (Nat × Instr)), decodeSlot .scalar p.1 = .ok p.2 := by decide

theorem test_decode_scalar_4 : ∀ p ∈ ([
    (0x3CA13FFFFFFFFFE0, .ldw 20 4 (BitVec.ofInt 46 (-32))), (0x3DA97FFFFFFFFFD8, .ldwu 21 5 (BitVec.ofInt 46 (-40))),
    (0x3EB1BFFFFFFFFFD0, .ldd 22 6 (BitVec.ofInt 46 (-48))), (0x3FB9FFFFFFFFFFC8, .stb 23 7 (BitVec.ofInt 46 (-56))),
    (0x40C23FFFFFFFFFC0, .sth 24 8 (BitVec.ofInt 46 (-64))), (0x41CA7FFFFFFFFFB8, .stw 25 9 (BitVec.ofInt 46 (-72))),
    (0x42D2BFFFFFFFFFB0, .std 26 10 (BitVec.ofInt 46 (-80))), (0x4808860040000000, .fadd 1 2 3 .rtz), (0x4908860080000000, .fsub 1 2 3 .rdn),
    (0x4A088600C0000000, .fmul 1 2 3 .rup), (0x4B08864100000000, .ffma 1 2 3 4 .srk), (0x4C298E0080000000, .fdiv 5 6 7 .rdn),
    (0x4D298000C0000000, .fsqrt 5 6 .rup), (0x4E42540000000000, .fmin 8 9 10), (0x4F42560000000000, .fmax 8 9 11), (0x5042580000000000, .feq 8 9 12)] :
    List (Nat × Instr)), decodeSlot .scalar p.1 = .ok p.2 := by decide

theorem test_decode_scalar_5 : ∀ p ∈ ([
    (0x51425A0000000000, .flt 8 9 13), (0x52425C0000000000, .fle 8 9 14), (0x5342400240000000, .fcvtws 8 9 .rtz true),
    (0x5442400080000000, .fcvtsw 8 9 .rdn), (0x5542400000000000, .fclass 8 9), (0x5830000000000010, .sysrd 6 0x010),
    (0x5901000000000E51, .syswr 4 0xE51), (0x5A3A000000000080, .sysset 7 8 0x080), (0x5B3A000000000081, .sysclr 7 8 0x081)] :
    List (Nat × Instr)), decodeSlot .scalar p.1 = .ok p.2 := by decide

theorem test_decode_vec_1 : ∀ p ∈ ([
    (0x0101000120000000, .vadd ⟨.fp32, 0, false, .rne, false, 0⟩ (.tile 2 0) (.tile 0 0) (.port 1)),
    (0x0211A440AC00C600, .vsub ⟨.bf16, 2, true, .rtz, true, 0⟩ (.tile 3 4) .zero (.tile 5 6)),
    (0x03010082000000D0, .vmul ⟨.fp32, 0, false, .rne, false, 13⟩ (.tile 2 0) (.tile 2 0) .bcast),
    (0x0412BAC024570E00, .vfma ⟨.bf16, 0, false, .rup, true, 0⟩ (.tile 5 7) (.port 3) (.tile 1 2) (.tile 5 7)),
    (0x0524804A01107060, .vfms ⟨.fp16, 3, false, .srk, false, 6⟩ (.port 1) (.tile 1 2) .bcast .zero),
    (0x06000C80FE000000, .vmin ⟨.fp32, 0, false, .rne, false, 0⟩ (.tile 0 1) .lidx (.tile 7 15)),
    (0x0720888866002000, .vmax ⟨.fp16, 1, false, .rne, false, 0⟩ (.tile 1 1) (.tile 2 2) (.tile 3 3)),
    (0x0812299C00000000, .vabs ⟨.bf16, 0, false, .rne, false, 0⟩ (.tile 4 5) (.tile 6 7)),
    (0x090782000000E000, .vneg ⟨.fp32, 3, true, .rne, false, 0⟩ (.port 7) (.port 0)),
    (0x0A0090D0AC000A00, .vdiv ⟨.fp32, 0, false, .rdn, true, 0⟩ (.tile 1 2) (.tile 3 4) (.tile 5 6)),
    (0x0B0090D000000C00, .vsqrt ⟨.fp32, 0, false, .rup, false, 0⟩ (.tile 1 2) (.tile 3 4)),
    (0x0C1090D000001200, .vrcp ⟨.bf16, 0, false, .srk, true, 0⟩ (.tile 1 2) (.tile 3 4)),
    (0x0D2090D000000400, .vrsq ⟨.fp16, 0, false, .rtz, false, 0⟩ (.tile 1 2) (.tile 3 4)),
    (0x1030848040000200, .viadd ⟨.i32, 0, false, .rne, true, 0⟩ (.tile 1 0) .lidx (.tile 2 0)),
    (0x1140808060000000, .visub ⟨.i16, 0, false, .rne, false, 0⟩ (.tile 1 0) (.tile 2 0) (.tile 3 0)),
    (0x12508082000001F0, .vimul ⟨.i8, 0, false, .rne, false, 31⟩ (.tile 1 0) (.tile 2 0) .bcast)] :
    List (Nat × Instr)), decodeSlot .vec p.1 = .ok p.2 := by decide

theorem test_decode_vec_2 : ∀ p ∈ ([
    (0x1360808060000000, .vimin ⟨.u8, 0, false, .rne, false, 0⟩ (.tile 1 0) (.tile 2 0) (.tile 3 0)),
    (0x1430808060000000, .vimax ⟨.i32, 0, false, .rne, false, 0⟩ (.tile 1 0) (.tile 2 0) (.tile 3 0)),
    (0x1500808060000000, .vand ⟨.fp32, 0, false, .rne, false, 0⟩ (.tile 1 0) (.tile 2 0) (.tile 3 0)),
    (0x1660808060000000, .vor ⟨.u8, 0, false, .rne, false, 0⟩ (.tile 1 0) (.tile 2 0) (.tile 3 0)),
    (0x1740808060000000, .vxor ⟨.i16, 0, false, .rne, false, 0⟩ (.tile 1 0) (.tile 2 0) (.tile 3 0)),
    (0x1830808060000000, .vshl ⟨.i32, 0, false, .rne, false, 0⟩ (.tile 1 0) (.tile 2 0) (.tile 3 0)),
    (0x1960808060000000, .vshr ⟨.u8, 0, false, .rne, false, 0⟩ (.tile 1 0) (.tile 2 0) (.tile 3 0)),
    (0x1A50808060000000, .vsra ⟨.i8, 0, false, .rne, false, 0⟩ (.tile 1 0) (.tile 2 0) (.tile 3 0)),
    (0x1B40808060490200, .vimad ⟨.i16, 0, false, .rne, true, 0⟩ (.tile 1 0) (.tile 2 0) (.tile 3 0) (.tile 4 9)),
    (0x2010008120006001, .vceq ⟨.bf16, 3, false, .rne, false, 0⟩ 0 (.tile 2 0) (.port 1) 1),
    (0x211080852000C001, .vcne ⟨.bf16, 2, true, .rne, false, 0⟩ 1 (.tile 2 1) (.port 1) 1),
    (0x2211008920002001, .vclt ⟨.bf16, 1, false, .rne, false, 0⟩ 2 (.tile 2 2) (.port 1) 1),
    (0x2311808D20008001, .vcle ⟨.bf16, 0, true, .rne, false, 0⟩ 3 (.tile 2 3) (.port 1) 1),
    (0x2410009120006001, .vcun ⟨.bf16, 3, false, .rne, false, 0⟩ 0 (.tile 2 4) (.port 1) 1),
    (0x255080952000C003, .viclt ⟨.i8, 2, true, .rne, false, 0⟩ 1 (.tile 2 5) (.port 1) 3),
    (0x2651009920002003, .vicltu ⟨.i8, 1, false, .rne, false, 0⟩ 2 (.tile 2 6) (.port 1) 3)] :
    List (Nat × Instr)), decodeSlot .vec p.1 = .ok p.2 := by decide

theorem test_decode_vec_3 : ∀ p ∈ ([
    (0x2751809D20008003, .viceq ⟨.i8, 0, true, .rne, false, 0⟩ 3 (.tile 2 7) (.port 1) 3),
    (0x2801044000002000, .vsel ⟨.fp32, 1, false, .rne, false, 0⟩ (.tile 2 0) .zero (.tile 0 0)),
    (0x290090D000000000, .vmov ⟨.fp32, 0, false, .rne, false, 0⟩ (.tile 1 2) (.tile 3 4)),
    (0x2A5090D200000090, .vlane ⟨.i8, 0, false, .rne, false, 9⟩ (.tile 1 2) (.tile 3 4)),
    (0x2B3090D0AC000000, .vperm ⟨.i32, 0, false, .rne, false, 0⟩ (.tile 1 2) (.tile 3 4) (.tile 5 6)),
    (0x2C2090D2000000A0, .vrot ⟨.fp16, 0, false, .rne, false, 10⟩ (.tile 1 2) (.tile 3 4)),
    (0x2D309400000000B0, .viota ⟨.i32, 0, false, .rne, false, 11⟩ (.tile 1 2)),
    (0x301090D000000E00, .vradd ⟨.bf16, 0, false, .rup, true, 0⟩ (.tile 1 2) (.tile 3 4)),
    (0x316090D000000000, .vrmax ⟨.u8, 0, false, .rne, false, 0⟩ (.tile 1 2) (.tile 3 4)),
    (0x320090D000000000, .vrmin ⟨.fp32, 0, false, .rne, false, 0⟩ (.tile 1 2) (.tile 3 4)),
    (0x332090D000000000, .vamax ⟨.fp16, 0, false, .rne, false, 0⟩ (.tile 1 2) (.tile 3 4)),
    (0x385090D000000A0C, .vcvt ⟨.i8, 0, false, .rdn, true, 0⟩ (.tile 1 2) (.tile 3 4) .i16 true),
    (0x391090D000000400, .vrint ⟨.bf16, 0, false, .rtz, false, 0⟩ (.tile 1 2) (.tile 3 4)),
    (0x3A009400000000C0, .vrng ⟨.fp32, 0, false, .rne, false, 12⟩ (.tile 1 2)), (0x4000800000000001, .mset 1 true), (0x4101804040000000, .mand 3 1 2)] :
    List (Nat × Instr)), decodeSlot .vec p.1 = .ok p.2 := by decide

theorem test_decode_vec_4 : ∀ p ∈ ([
    (0x4200004060000000, .mor 0 1 3), (0x4301004000000000, .mnot 2 1), (0x443280C000000000, .mpop (.tile 5 0) 3), (0x4500840000000040, .mrow 1 4),
    (0x4601040000000070, .mcol 2 7), (0x480348000000C000, .tzero 6 9 false 2 true), (0x4803000000000001, .tzero 6 0 true 0 false),
    (0x4901810000002000, .tcpy 3 4 1 false)] :
    List (Nat × Instr)), decodeSlot .vec p.1 = .ok p.2 := by decide

theorem test_decode_eng_1 : ∀ p ∈ ([
    (0x0100000014000009, .mxcfg 5 9), (0x02000010C0000001, .mxgo ⟨0, 0, 2, 1, 16, false⟩ 1 false 0 false false),
    (0x02000009100001D3, .mxgo ⟨0, 0, 1, 2, 4, false⟩ 3 true 2 true true), (0x0300000070000017, .mxldb ⟨0, 0, 0, 0, 28, false⟩ 7 true),
    (0x0403200000000002, .accz ⟨3, 4, 0, 0, 0, false⟩ false true), (0x0500004FF2000032, .accdr ⟨0, 0, 9, 15, 28, true⟩ 2 true true),
    (0x060000001C00000F, .ftset 7 15), (0x0700000020000005, .tolset 8 5), (0x08000000000000CD, .mxstat 13 6), (0x0900000000000003, .mxabn true true),
    (0x100000003000D937, .cvt ⟨0, 0, 0, 0, 12, false⟩ .e4m3 3 .rtz true true false true true false),
    (0x1100000030000024, .qamax ⟨0, 0, 0, 0, 12, false⟩ 4 false true), (0x12000000300000E5, .qscl ⟨0, 0, 0, 0, 12, false⟩ .i8 6 true),
    (0x1300000030000001, .trn ⟨0, 0, 0, 0, 12, false⟩ true), (0x1400000030000002, .tbld ⟨0, 0, 0, 0, 12, false⟩ 2),
    (0x1500000030003085, .tbev ⟨0, 0, 0, 0, 12, false⟩ 1 .bf16 .fp16 .srk true false)] :
    List (Nat × Instr)), decodeSlot .eng p.1 = .ok p.2 := by decide

theorem test_decode_eng_2 : ∀ p ∈ ([
    (0x1600000030000018, .gsum ⟨0, 0, 0, 0, 12, false⟩ .e5m2 true), (0x1700000030000000, .gver ⟨0, 0, 0, 0, 12, false⟩),
    (0x2000000022000000, .cpl ⟨0, 0, 0, 0, 8, true⟩), (0x21000008A0000000, .cpc ⟨0, 0, 1, 1, 8, false⟩),
    (0x2203202FA0000000, .cph ⟨3, 4, 5, 15, 8, false⟩), (0x2300000020000000, .cpv ⟨0, 0, 0, 0, 8, false⟩),
    (0x24000048B0000001, .cpabn ⟨0, 0, 9, 1, 12, false⟩ true), (0x28000018A0000000, .tsend ⟨0, 0, 3, 1, 8, false⟩),
    (0x2900002FB0000000, .trecv ⟨0, 0, 5, 15, 12, false⟩), (0x2A000020D0000001, .clred ⟨0, 0, 4, 1, 20, false⟩ .bf16 .rne false),
    (0x2B00000050000000, .clgath ⟨0, 0, 0, 0, 20, false⟩), (0x2C00000050000000, .clbcst ⟨0, 0, 0, 0, 20, false⟩),
    (0x3001A010B0000020, .atom ⟨1, 20, 2, 1, 12, false⟩ .add .sem false), (0x3006283FB0000048, .atom ⟨6, 5, 7, 15, 12, false⟩ .cas .cell true)] :
    List (Nat × Instr)), decodeSlot .eng p.1 = .ok p.2 := by decide

theorem test_decode_lane_1 : ∀ p ∈ ([
    (0x012D49C000000000, .pbind 1 3 ⟨true, 2⟩ 1 7 false), (0x01D4924000040000, .pbind 6 5 ⟨false, 1⟩ 2 9 true), (0x0220020000000000, .pwalk 1 8 0),
    (0x03E0000000000000, .prst 7), (0x04400005F7780000, .ptag 2 0xBEEF), (0x0560000400080000, .pstamp 3 0x8001),
    (0x060A72C000000000, .lmov 2 ⟨true, 4⟩ 6 11), (0x078004C000180000, .pstat 4 19 3), (0x08A0000000000000, .pflush 5)] :
    List (Nat × Instr)), decodeSlot .lane p.1 = .ok p.2 := by decide

/-- Reserved bits and unlisted opcodes are not let through (R69, R75). -/
theorem test_decode_refuses : (decodeSlot .scalar 0x0128440000000001).toOption = none ∧ (decodeSlot .scalar 0x2100000000000000).toOption = none ∧
    (decodeSlot .ctl 0x0E00000000000000).toOption = none ∧ (decodeSlot .eng 0x0A00000000000000).toOption = none ∧
    (decodeSlot .lane 1).toOption = none := by decide

/-! ## One step -/

/-- Of a next state, does p hold? -/
def nextHas (o : Out) (p : State → Bool) : Bool :=
  match o with
  | .next t => p t
  | _ => false

/-- The values on their way to scalar registers. -/
def given (t : State) : List (Reg × Word) := t.seq.writes.filterMap fun w => match w.dest with
  | .x r v => some (r, v)
  | _ => none

/-- A bundle whose slot 1 holds ADD x5, x1, x2. -/
def addBundle : Bundle := 0x0128440000000000#384 <<< 64

/-- That bundle stands at pc, with 7 and -2 in x1 and x2. -/
def placed : State := (withReg (withReg State.reset 1 7) 2 0xFFFFFFFFFFFFFFFE).placeBundle addBundle

theorem test_step_add_wraps : nextHas (step placed) (fun t => given t = [(5, 5)]) = true := by decide +kernel

theorem witness_StepRunsBundle_issue : placed.atIssue addBundle := by
  refine ⟨?_, ?_, ?_, ?_, ?_, ?_, ?_, ?_, ?_, ?_, ?_, ?_, ?_, rfl⟩ <;> decide

theorem witness_StepRunsBundle : (∀ j, j ≠ 1 → j < 6 → slotBits addBundle j = 0) ∧
    decodeBundleSlot addBundle 1 = .ok (.add 5 1 2) ∧ placed.ctlTraps addBundle = [] ∧ ∃ t, exec (.add 5 1 2) placed = .next t := by
  refine ⟨fun j h1 h6 => ?_, by decide +kernel, by decide +kernel, ⟨_, rfl⟩⟩
  have h : ∀ j < 6, j ≠ 1 → slotBits addBundle j = 0 := by decide +kernel
  exact h j h6 h1

theorem test_withFetchWord_jmp : (State.reset.withFetchWord 64 0x0700000000000080).fetch = .ok 0x0700000000000080#384 := by rfl

theorem test_decodeTableWord_jmp : decodeTableWord 64 0x0700000000000080 = some (.jmp 0x80) := by decide +kernel

/-- R98's example of BFX; R96's overflow; R103's conversion of 2^32; SUB below zero. -/
theorem test_scalar_results :
    nextHas (exec (.bfx 3 9 8 3) (withReg user 9 0xBCD)) (fun t => given t = [(3, 0xB)]) = true ∧
    nextHas (exec (.div 3 1 2) (regs2 0x8000000000000000 0xFFFFFFFFFFFFFFFF)) (fun t => given t = [(3, 0x8000000000000000)]) = true ∧
    nextHas (exec (.fcvtws 4 1 .rne false) (regs2 0x4F800000 0)) (fun t => given t = [(4, 0xFFFFFFFF80000000)]) = true ∧
    nextHas (exec (.fcvtws 4 1 .rne true) (regs2 0x4F800000 0)) (fun t => given t = [(4, 0x7FFFFFFF)]) = true ∧
    nextHas (exec (.sub 4 1 2) (regs2 0 1)) (fun t => given t = [(4, 0xFFFFFFFFFFFFFFFF)]) = true := by decide +kernel

/-- FP32: 1 + 1, 3 / 2, 1 < -1, and the class of the smallest subnormal (R35, R103, R104). -/
theorem test_float_results :
    nextHas (exec (.fadd 4 1 2 .rne) (regs2 0x3F800000 0x3F800000)) (fun t => given t = [(4, 0x40000000)]) = true ∧
    nextHas (exec (.fdiv 4 1 2 .rne) (regs2 0x40400000 0x40000000)) (fun t => given t = [(4, 0x3FC00000)]) = true ∧
    nextHas (exec (.flt 4 1 2) (regs2 0x3F800000 0xBF800000)) (fun t => given t = [(4, 0)]) = true ∧
    nextHas (exec (.fclass 4 1) (regs2 1 0)) (fun t => given t = [(4, 0x20)]) = true := by decide +kernel

/-- R166's vectors, and the FP32 draw of the last. -/
theorem test_qk64 : qk64 0 1 = 0x01032110 ∧ qk64 1 0 = 0x02335623 ∧ qk64 0x0123456789ABCDEF 0 = 0xD52B8F47 ∧
    f32.round rne false { s := false, m := 0xD52B8F47 / 256, e := -24 } = 0x3F552B8F := by decide +kernel

/-- R45's example: 0x3F804000 narrowed to BF16 with a draw below and at 0x40000000. -/
theorem test_stochastic_rounding :
    convertElem .fp32 .bf16 { mode := .srk, rv := 0x3FFFFFFF } false 0x3F804000 = 0x3F81 ∧
    convertElem .fp32 .bf16 { mode := .srk, rv := 0x40000000 } false 0x3F804000 = 0x3F80 := by decide +kernel

/-- The example after R120, cycles 4 to 7: the inner level of trip 2 loops back once and completes, the outer loops back. -/
theorem test_loop_example :
    let inner : LoopLevel := { n := 1, start := 4, stop := 4, trip := 2 }
    let outer : LoopLevel := { n := 0, start := 3, stop := 5, trip := 3 }
    let zero : Vector (BitVec 25) 4 := Vector.replicate 4 0
    loopEnd 4 [inner, outer] zero = ([inner, outer], zero.set 1 1, some 4) ∧
    loopEnd 4 [inner, outer] (zero.set 1 1) = ([outer], zero.set 1 2, none) ∧
    loopEnd 5 [outer] zero = ([outer], zero.set 0 1, some 3) := by decide +kernel

/-- The example after R145: an SWAIT on sem5 in error in the first delay bundle. -/
theorem test_trap_example :
    let s := withXfer ({ user with sems := user.sems.set 5 { cnt := 0, err := true, status := 0x0229 } }.onSeq fun q =>
      { q with pc := 0x0101 }) 2 (some 0x80)
    nextHas (exec (.swait 5 0 .cell) s) (fun t => t.sys.tcause == 0x000000800000040D && t.sys.tepc == 0x0101 &&
      t.sys.tinfo == 0x0000022905000101 && t.seq.pc == 0x7000 && t.seq.issueAt == 3 && t.seq.mode == .supervisor) = true := by
  decide +kernel

/-- The lane example of the annulus chapter: q1 from sec3 to st1 on ccw2 crosses segments 5, 4 and 3. -/
theorem test_lane_example :
    let use := user.bindUse 3 ⟨true, 2⟩ 1 false
    let s := user.onAnn fun a => { a with lanes := [use] }
    use.segs = 0x0038 ∧ (s.laneTrap (user.bindUse 2 ⟨true, 2⟩ 1 false)).isSome = true ∧
      s.laneTrap (user.bindUse 2 ⟨true, 3⟩ 1 false) = none := by decide +kernel

/-- Row 192 of a stack is bank 3 of pseudo-channel 0 (R278); the stack is bits 38 to 36. -/
theorem test_hbm_place : bankOf (192 * 512) = 3 ∧ pchOf (192 * 512) = 0 ∧ stackOf (192 * 512 + 5 * 2 ^ 36) = 5 := by decide

/-- A store's bytes are little-endian, and a byte load of the top one extends its sign (R34, R100). -/
theorem test_store_then_load :
    let s := (holding (withReg user 1 0x100)).onAnn fun a => { a with mem := Memory.write [] 0x100 (bytesOf 8 0x8877665544332211) }
    s.ann.mem.get 0x107 = 0x88 ∧ nextHas (exec (.ldb 4 1 7) s) (fun t => given t = [(4, 0xFFFFFFFFFFFFFF88)]) = true ∧
      nextHas (exec (.ldwu 4 1 4) s) (fun t => given t = [(4, 0x88776655)]) = true := by decide +kernel

/-- SSIG at the top of the counter saturates with the error bit (R308); SRD reads it in bit 36 (R314). -/
theorem test_semaphore_saturates :
    nextHas (exec (.ssig 255 1) (withReg (withSem user { cnt := 0xFFFFFFFFF, err := false, status := 0 }) 1 1)) (fun t =>
      t.sems[(255 : Fin 256)].cnt == 0xFFFFFFFFF && t.sems[(255 : Fin 256)].err && t.sems[(0 : Fin 256)] == Sem.zero) = true ∧
    nextHas (exec (.srd 4 255 false) (withSem user { cnt := 3, err := true, status := 0 })) (fun t => given t = [(4, 0x1000000003)]) = true := by
  decide +kernel

end Sys2Proof.Tests
end

section
/-! PROOF. Local loads and stores: the address, the checks of an access in order, and what a load gives and a store leaves
(R99 to R101, R192, R194). -/

namespace Sys2Proof.Machine

/-! ## The address and the bytes -/

/-- The address that a load or store computes: register plus signed immediate, modulo 2^64 (R100). -/
theorem add_sext46_toNat (x : Word) (imm : BitVec 46) :
    (x + sext46 imm).toNat = (((x.toNat : Int) + imm.toInt) % 2 ^ 64).toNat := by
  have he : (sext46 imm).toInt = imm.toInt := BitVec.toInt_signExtend_of_le (by decide)
  rw [← he, BitVec.toInt_eq_toNat_cond, BitVec.toNat_add]
  split <;> omega

/-- Every byte of `bytesOf` is the number's own. -/
theorem bytesOf_getElem? {n k : Nat} (v : Nat) (h : k < n) : (bytesOf n v)[k]? = some (byteOf v k) := by
  simp [bytesOf, h]

@[simp] theorem bytesOf_length (n v : Nat) : (bytesOf n v).length = n := by simp [bytesOf]

/-- Byte k of the low `8 n` bits of a number is byte k of the number. -/
theorem byteOf_congr {u v n k : Nat} (h : u % 256 ^ n = v % 256 ^ n) (hk : k < n) : byteOf u k = byteOf v k := by
  have hd : 256 ^ n = 256 ^ k * (256 * 256 ^ (n - k - 1)) := by
    rw [← Nat.pow_succ', ← Nat.pow_add]; congr 1; omega
  have key : ∀ w, w / 256 ^ k % 256 = w % 256 ^ n / 256 ^ k % 256 := fun w => by
    rw [hd, Nat.mod_mul_right_div_self, Nat.mod_mul_right_mod]
  apply BitVec.eq_of_toNat_eq
  simp only [byteOf, BitVec.toNat_ofNat]
  exact (key u).trans (h ▸ (key v).symm)

/-- The signed reading of the low `w` bits, as a double, is their sign extension (R42). -/
theorem ofInt_sintOf (w v : Nat) (h : 0 < w) : BitVec.ofInt 64 (sintOf w v) = (BitVec.ofNat w v).signExtend 64 := by
  obtain ⟨w, rfl⟩ : ∃ m, w = m + 1 := ⟨w - 1, by omega⟩
  have hs : sintOf (w + 1) v = (BitVec.ofNat (w + 1) v).toInt := by
    simp only [sintOf, BitVec.toInt_eq_toNat_cond, BitVec.toNat_ofNat, Nat.add_sub_cancel, Nat.pow_succ']
    split <;> split <;> omega
  rw [hs, BitVec.signExtend]

/-- The low bits of a sign extension are the bits extended. -/
theorem signExtend_toNat_mod {w : Nat} (x : BitVec w) (h : w ≤ 64) : (x.signExtend 64).toNat % 2 ^ w = x.toNat := by
  have hx : (x.signExtend 64).setWidth w = x := by
    apply BitVec.eq_of_getLsbD_eq
    intro i hi
    rw [BitVec.getLsbD_setWidth, BitVec.getLsbD_signExtend, if_pos hi]
    simp only [hi, show i < 64 by omega, decide_true, Bool.true_and]
  simpa using congrArg BitVec.toNat hx

/-- The double that a load of `n` bytes makes of their number (R100). -/
def loadedWord (signed : Bool) (n v : Nat) : Word :=
  if signed then BitVec.ofInt 64 (sintOf (8 * n) v) else BitVec.ofNat 64 v

theorem loadedWord_toNat_mod (signed : Bool) {n v : Nat} (h0 : 0 < n) (h8 : n ≤ 8) :
    (loadedWord signed n v).toNat % 256 ^ n = v % 256 ^ n := by
  have hp : 256 ^ n = 2 ^ (8 * n) := by rw [Nat.pow_mul]
  rw [hp]
  cases signed with
  | true =>
    rw [loadedWord, if_pos rfl, ofInt_sintOf _ _ (by omega), signExtend_toNat_mod _ (by omega), BitVec.toNat_ofNat]
  | false =>
    rw [loadedWord, if_neg (by decide), BitVec.toNat_ofNat, Nat.mod_mod_of_dvd _ (Nat.pow_dvd_pow 2 (by omega))]

/-- The low bytes of a loaded double are the bytes loaded. -/
theorem loadedWord_byte (signed : Bool) {n v k : Nat} (h8 : n ≤ 8) (hk : k < n) :
    byteOf (loadedWord signed n v).toNat k = byteOf v k :=
  byteOf_congr (loadedWord_toNat_mod signed (by omega) h8) hk

/-- A load with sign repeats the top bit loaded. -/
theorem loadedWord_sign {n v j : Nat} (h0 : 0 < n) (h8 : n ≤ 8) (hj : 8 * n ≤ j) (hj' : j < 64) :
    (loadedWord true n v).getLsbD j = (loadedWord true n v).getLsbD (8 * n - 1) := by
  rw [loadedWord, if_pos rfl, ofInt_sintOf _ _ (by omega), BitVec.getLsbD_signExtend, BitVec.getLsbD_signExtend,
    if_neg (by omega), if_pos (by omega), BitVec.msb_eq_getLsbD_last]
  simp [hj', show 8 * n - 1 < 64 by omega]

/-- A load without sign has no more than the bytes loaded. -/
theorem loadedWord_lt {n v : Nat} (hv : v < 256 ^ n) : (loadedWord false n v).toNat < 2 ^ (8 * n) := by
  rw [loadedWord, if_neg (by decide), BitVec.toNat_ofNat, Nat.pow_mul]
  exact (Nat.mod_le ..).trans_lt hv

/-- Memory with the stores of the bundle's earlier slots in place stays canonical (R101). -/
theorem storesInPlace_wf {m : Memory} (l : List PendingStore) (h : m.wf = true) :
    (l.foldl (fun m w => m.write w.addr w.bytes) m).wf = true := by
  induction l generalizing m with
  | nil => exact h
  | cons w l ih => exact ih (Memory.write_wf _ _ h)

/-- A store that lands writes its bytes and touches no other (R101). -/
theorem landStore_get (u : State) (w : PendingStore) (b : Nat) :
    (u.landStore w).ann.mem.get b =
      if w.addr ≤ b ∧ b < w.addr + w.bytes.length then (w.bytes[b - w.addr]?).getD Config.unwritten else u.ann.mem.get b :=
  Memory.get_write ..

@[simp] theorem landStore_seq (u : State) (w : PendingStore) : (u.landStore w).seq = u.seq := rfl
@[simp] theorem landStore_cp (u : State) (w : PendingStore) : (u.landStore w).cp = u.cp := rfl

/-! ## Checks of an access -/

/-- Does a range register cover the row of a local address? -/
def coversRow (a : Nat) (o : Option RangeReg) : Bool :=
  match o with
  | some r => r.sec = secOf a && r.first.val ≤ rowOf a && rowOf a ≤ r.last.val
  | none => false

/-- Does a range register let an access of a kind by st7 pass to the row of a local address? -/
def admitsRow (a : Nat) (w : Bool) (o : Option RangeReg) : Bool :=
  match o with
  | some r => (r.sec = secOf a && r.first.val ≤ rowOf a && rowOf a ≤ r.last.val) && r.write == w && r.stmask.getLsbD 7
  | none => false

theorem coversRow_iff (s : State) (a : Nat) (k : Fin 16) : coversRow a s.ann.ranges[k] = true ↔ ∃ r, s.covers a k r := by
  unfold State.covers
  cases s.ann.ranges[k] <;> simp [coversRow, and_assoc]

theorem admitsRow_iff (s : State) (a : Nat) (w : Bool) (k : Fin 16) : admitsRow a w s.ann.ranges[k] = true ↔
    ∃ r, s.covers a k r ∧ r.write = w ∧ r.stmask.getLsbD 7 = true := by
  unfold State.covers
  cases s.ann.ranges[k] <;> simp [admitsRow, and_assoc]

/-- The check of the range registers through these two readings of a register (R192). -/
theorem rangeBreak_eq (s : State) (w : Bool) (a : Nat) : s.rangeBreak w (secOf a) (rowOf a) 7 =
    if !s.seg.inSeg then none
    else if s.ann.ranges.toList.any (admitsRow a w) then none
    else some ((s.ann.ranges.toList.findIdx? (coversRow a)).getD 0xFF) := rfl

theorem any_ranges_iff (s : State) (p : Option RangeReg → Bool) :
    s.ann.ranges.toList.any p = true ↔ ∃ k : Fin 16, p s.ann.ranges[k] = true := by
  simp only [List.any_eq_true, Vector.mem_toList_iff, Vector.mem_iff_getElem]
  constructor
  · rintro ⟨_, ⟨i, hi, rfl⟩, h⟩
    exact ⟨⟨i, hi⟩, h⟩
  · rintro ⟨k, h⟩
    exact ⟨_, ⟨k.val, k.isLt, rfl⟩, h⟩

/-- Outside a segment, and where a register admits the access, nothing is broken. -/
theorem rangeBreak_none {s : State} {w : Bool} {a : Nat}
    (h : s.seg.inSeg = false ∨ ∃ k r, s.covers a k r ∧ r.write = w ∧ r.stmask.getLsbD 7 = true) :
    s.rangeBreak w (secOf a) (rowOf a) 7 = none := by
  rw [rangeBreak_eq]
  rcases h with h | ⟨k, hk⟩
  · simp [h]
  · have : s.ann.ranges.toList.any (admitsRow a w) = true := (any_ranges_iff ..).2 ⟨k, (admitsRow_iff ..).2 hk⟩
    simp [this]

/-- In a segment an access that no register admits breaks the lowest register that covers its row, else 0xFF (R192). -/
theorem rangeBreak_barred {s : State} {w : Bool} {a : Nat} (hs : s.seg.inSeg = true)
    (h : ∀ k r, s.covers a k r → ¬(r.write = w ∧ r.stmask.getLsbD 7 = true)) : s.rangeBreak w (secOf a) (rowOf a) 7 =
      some ((s.ann.ranges.toList.findIdx? (coversRow a)).getD 0xFF) := by
  have : ¬s.ann.ranges.toList.any (admitsRow a w) = true := fun ha => by
    obtain ⟨k, hk⟩ := (any_ranges_iff ..).1 ha
    obtain ⟨r, hc, hr⟩ := (admitsRow_iff ..).1 hk
    exact h k r hc hr
  simp [rangeBreak_eq, hs, this]

/-- The lowest register that covers the row. -/
theorem findIdx?_coversRow {s : State} {a : Nat} {k : Fin 16} {r : RangeReg} (h : s.covers a k r)
    (hlow : ∀ j q, j < k → ¬s.covers a j q) : s.ann.ranges.toList.findIdx? (coversRow a) = some k.val := by
  rw [List.findIdx?_eq_some_iff_getElem]
  refine ⟨by simp, (coversRow_iff s a k).2 ⟨r, h⟩, fun j hj hc => ?_⟩
  obtain ⟨q, hq⟩ := (coversRow_iff s a ⟨j, by omega⟩).1 hc
  exact hlow _ q hj hq

/-- No register covers the row. -/
theorem findIdx?_coversRow_none {s : State} {a : Nat} (h : ∀ k r, ¬s.covers a k r) :
    s.ann.ranges.toList.findIdx? (coversRow a) = none := by
  rw [List.findIdx?_eq_none_iff]
  intro o ho
  obtain ⟨i, hi, rfl⟩ := Vector.mem_iff_getElem.1 (Vector.mem_toList_iff.1 ho)
  refine Bool.eq_false_iff.2 fun hc => ?_
  obtain ⟨r, hr⟩ := (coversRow_iff s a ⟨i, hi⟩).1 hc
  exact h _ r hr

/-! ## The access as a whole -/

section
variable {s : State} {op a n : Nat} {w : Bool}

/-- In the local space, aligned, and for user code outside the save area and in a sector that it holds (R100, R194). -/
def State.accessFine (s : State) (a n : Nat) : Prop :=
  a + (n - 1) ≤ 0x1FFFFF ∧ a % n = 0 ∧ (s.seq.mode = .user → a < 0x1D8000 ∧ s.holds (secOf a) = true)

/-- Past the checks of the address, the claim of the sector decides. -/
theorem localTrap_fine (h : s.accessFine a n) : s.localTrap op a n w = s.claimFault (secOf a) (rowOf a) (s.now + 1) w 7 := by
  obtain ⟨hsp, hal, hu⟩ := h
  have h1 : ¬0x1FFFFF - (n - 1) < a := by omega
  cases hm : s.seq.mode with
  | supervisor => simp [State.localTrap, trapIf, h1, hal, hm]
  | user =>
    obtain ⟨hlt, hh⟩ := hu hm
    simp [State.localTrap, trapIf, h1, hal, hm, hh, Config.saveBase, Nat.not_le.2 hlt]

theorem localTrap_space (h : 0x1FFFFF < a + (n - 1)) (hn : n ≤ 8) : s.localTrap op a n w = some (localFault a) := by
  simp [State.localTrap, trapIf, show 0x1FFFFF - (n - 1) < a by omega]

theorem localTrap_align (h : a + (n - 1) ≤ 0x1FFFFF) (ha : a % n ≠ 0) :
    s.localTrap op a n w = some { cls := 5, cause := 0x0B, code := 0, detail := BitVec.ofNat 40 a } := by
  simp [State.localTrap, trapIf, show ¬0x1FFFFF - (n - 1) < a by omega, ha]

theorem localTrap_saveArea (h : a + (n - 1) ≤ 0x1FFFFF) (ha : a % n = 0) (hm : s.seq.mode = .user) (hs : 0x1D8000 ≤ a) :
    s.localTrap op a n w = some (privTrap op) := by
  simp [State.localTrap, trapIf, show ¬0x1FFFFF - (n - 1) < a by omega, ha, hm, Config.saveBase, hs]

theorem localTrap_unheld (h : a + (n - 1) ≤ 0x1FFFFF) (ha : a % n = 0) (hm : s.seq.mode = .user) (hs : a < 0x1D8000)
    (hh : s.holds (secOf a) = false) : s.localTrap op a n w = some (localFault a) := by
  simp [State.localTrap, trapIf, show ¬0x1FFFFF - (n - 1) < a by omega, ha, hm, Config.saveBase, Nat.not_le.2 hs, hh]

/-- An access that may be made raises nothing. -/
theorem localTrap_none (h : s.mayAccess a n w) (h0 : 0 < n) (hn : n ≤ 8) : s.localTrap op a n w = none := by
  obtain ⟨hsp, hal, hu, hfree, hr⟩ := h
  rw [localTrap_fine ⟨by omega, hal, hu⟩]
  rcases hr with hm | hr
  · simp [State.claimFault, hfree, hm]
  · simp [State.claimFault, hfree, rangeBreak_none hr]

end

/-! ## Loads and stores -/

/-- A word without error counts nothing (R175). -/
theorem countLoad_sound {s : State} {a : Nat} (hp : a / 8 ∉ s.ann.poison) (hf : a / 8 ∉ s.ann.flawed) : s.countLoad a = s := by
  have none_hit : ∀ l : List Nat, a / 8 ∉ l → l.filter (fun k => a / 8 ≤ k && k < a / 8 + 1) = [] := fun l h => by
    rw [List.filter_eq_nil_iff]
    intro k hk hc
    have : k = a / 8 := by simp at hc; omega
    exact h (this ▸ hk)
  have bump0 : ∀ c : BitVec 32, bump32 0 c = c := fun c => by
    apply BitVec.eq_of_toNat_eq
    have := c.isLt
    simp only [bump32, BitVec.toNat_ofNat]
    omega
  have hc : s.countEcc (a / 8) 1 = s := by
    simp only [State.countEcc, none_hit _ hp, none_hit _ hf, List.length_nil, bump0, State.onAnn]
  unfold State.countLoad
  split
  · rfl
  · exact hc

/-- A load that may be made of a word without error puts its value in flight and claims its sector's read, and no more. -/
theorem loadOp_inFlight {s : State} {op n : Nat} {signed : Bool} {xd xa : Reg} {imm : BitVec 46} (hr : s.ready [xa] xd)
    (h0 : 0 < n) (hn : n ≤ 8) {a : Nat} (ha : (s.x xa + sext46 imm).toNat = a) (hm : s.mayAccess a n false)
    (hp : a / 8 ∉ s.ann.poison) (hf : a / 8 ∉ s.ann.flawed) :
    InFlight (s.claim (secOf a) (s.now + 1) false .seq) (.x xd (loadedWord signed n (s.localBytes a n))) 4
      (loadOp op n signed xd xa imm s) := by
  have hrd := ready_rd hr (List.mem_singleton_self xa)
  have hload : s.loadNat a n = s.localBytes a n := by simp [State.loadNat, hp]
  unfold loadOp
  rw [ha, guarded_pass (by simp [hrd, ready_wr hr, valueTrap, localTrap_none hm h0 hn])]
  simp only [hload, countLoad_sound hp hf]
  exact putX_inFlight ..

/-- A load of `n` bytes by its one meaning (R100): what O14 says of each of the seven. -/
theorem load_completes {i : Instr} {op n : Nat} {signed : Bool} {xd xa : Reg} {imm : BitVec 46} {s : State}
    (hi : exec i s = .next (loadOp op n signed xd xa imm s)) (hr : s.ready [xa] xd) (hwf : s.ann.mem.wf = true) (h0 : 0 < n)
    (hn : n ≤ 8) {a : Nat} (ha : (s.x xa + sext46 imm).toNat = a) (hm : s.mayAccess a n false) (hp : a / 8 ∉ s.ann.poison)
    (hf : a / 8 ∉ s.ann.flawed) :
    ∃ v : Word, (∀ k < n, byteOf v.toNat k = (s.seq.stores.foldl (fun m w => m.write w.addr w.bytes) s.ann.mem).get (a + k)) ∧
      (if signed then ∀ j, 8 * n ≤ j → j < 64 → v.getLsbD j = v.getLsbD (8 * n - 1) else v.toNat < 2 ^ (8 * n)) ∧
      Completes i s (InFlight (s.claim (secOf a) (s.now + 1) false .seq) (.x xd v) 4) := by
  have hw := storesInPlace_wf s.seq.stores hwf
  refine ⟨loadedWord signed n (s.localBytes a n), fun k hk => ?_, ?_, _, hi, loadOp_inFlight hr h0 hn ha hm hp hf⟩
  · exact (loadedWord_byte signed hn hk).trans (Memory.readNat_byte hw a n k hk)
  · cases signed with
    | true => exact fun j hj hj' => loadedWord_sign h0 hn hj hj'
    | false => exact loadedWord_lt (Memory.readNat_lt hw a n)

/-- The store that the slot in hand puts on its way (R101). -/
def State.storeOf (s : State) (a n : Nat) (v : Word) : PendingStore :=
  { addr := a, bytes := bytesOf n v.toNat, due := s.now + 1, baddr := s.seq.pc, slot := s.seq.slot }

/-- A store that may be made is on its way, its landing planned and its sector's write claimed, and no more. -/
theorem storeOp_effect {s : State} {op n : Nat} {xd xa : Reg} {imm : BitVec 46} (hr : s.ready [xa, xd] 0)
    (h0 : 0 < n) (hn : n ≤ 8) {a : Nat} (ha : (s.x xa + sext46 imm).toNat = a) (hm : s.mayAccess a n true) :
    storeOp op n xd xa imm s = ((s.claim (secOf a) (s.now + 1) true .seq).plan (s.now + 1) rankStore
      (.micro .storeLand)).onSeq fun q => { q with stores := q.stores ++ [s.storeOf a n (s.x xd)] } := by
  have hra : s.rdX xa = none := ready_rd hr (by simp)
  have hrd : s.rdX xd = none := ready_rd hr (by simp)
  unfold storeOp
  rw [ha, guarded_pass (by simp [hra, hrd, valueTrap, localTrap_none hm h0 hn])]
  rfl

/-- A store of `n` bytes by its one meaning (R100, R101): what O14 says of each of the four. -/
theorem store_completes {i : Instr} {op n : Nat} {xd xa : Reg} {imm : BitVec 46} {s : State}
    (hi : exec i s = .next (storeOp op n xd xa imm s)) (hr : s.ready [xa, xd] 0) (h0 : 0 < n) (hn : n ≤ 8) {a : Nat}
    (ha : (s.x xa + sext46 imm).toNat = a) (hm : s.mayAccess a n true) :
    ∃ w : PendingStore, w.addr = a ∧ w.due = s.now + 1 ∧ w.bytes.length = n ∧
      (∀ k < n, w.bytes[k]? = some (byteOf (s.x xd).toNat k)) ∧
      Completes i s (fun t => t = ((s.claim (secOf a) (s.now + 1) true .seq).plan (s.now + 1) rankStore
        (.micro .storeLand)).onSeq fun q => { q with stores := q.stores ++ [w] }) ∧
      ∀ u : State, (∀ k < n, (u.landStore w).ann.mem.get (a + k) = byteOf (s.x xd).toNat k) ∧
        (∀ b, b < a ∨ a + n ≤ b → (u.landStore w).ann.mem.get b = u.ann.mem.get b) ∧
        (u.landStore w).seq = u.seq ∧ (u.landStore w).cp = u.cp := by
  refine ⟨s.storeOf a n (s.x xd), rfl, rfl, bytesOf_length .., fun k hk => bytesOf_getElem? _ hk,
    ⟨_, hi, storeOp_effect hr h0 hn ha hm⟩, fun u => ⟨fun k hk => ?_, fun b hb => ?_, rfl, rfl⟩⟩
  · rw [landStore_get, if_pos (by simp [State.storeOf, hk])]
    simp only [State.storeOf, Nat.add_sub_cancel_left, bytesOf_getElem? _ hk, Option.getD_some]
  · have : ¬(a ≤ b ∧ b < a + n) := by omega
    simp [landStore_get, State.storeOf, this]

/-- Settles O14: each load and store is `loadOp` or `storeOp` at its own width, whose one law it takes. -/
theorem loadAndStoreResults : Obligations.LoadAndStoreResults := by
  unfold Obligations.LoadAndStoreResults
  refine ⟨fun xd xa imm s hr hwf => ?_, fun xd xa imm s hr => ?_⟩ <;> intro a
  · have ha : (s.x xa + sext46 imm).toNat = a := add_sext46_toNat ..
    intro m ok
    have key : ∀ {i : Instr} {op n : Nat} {signed : Bool}, exec i s = .next (loadOp op n signed xd xa imm s) → 0 < n → n ≤ 8 →
        ok i n signed := fun hi h0 hn hm hp hf => load_completes hi hr hwf h0 hn ha hm hp hf
    exact ⟨key rfl (by decide) (by decide), key rfl (by decide) (by decide), key rfl (by decide) (by decide),
      key rfl (by decide) (by decide), key rfl (by decide) (by decide), key rfl (by decide) (by decide),
      key rfl (by decide) (by decide)⟩
  · have ha : (s.x xa + sext46 imm).toNat = a := add_sext46_toNat ..
    intro ok
    have key : ∀ {i : Instr} {op n : Nat}, exec i s = .next (storeOp op n xd xa imm s) → 0 < n → n ≤ 8 → ok i n :=
      fun hi h0 hn hm => store_completes hi hr h0 hn ha hm
    exact ⟨key rfl (by decide) (by decide), key rfl (by decide) (by decide), key rfl (by decide) (by decide),
      key rfl (by decide) (by decide)⟩

/-! ## Traps of an access and of a pending source -/

/-- The trap that comes out of a slot's checks is one of theirs. -/
theorem firstTrap_mem {l : List (Option TrapReq)} {u : TrapReq} (h : firstTrap l = some u) : some u ∈ l := by
  induction l with
  | nil => simp [firstTrap] at h
  | cons o l ih =>
    cases o with
    | none => exact List.mem_cons_of_mem _ (ih h)
    | some t =>
      cases hl : firstTrap l with
      | none => simp [firstTrap, hl] at h; simp [h]
      | some v =>
        simp only [firstTrap, hl] at h
        split at h
        · exact List.mem_cons_of_mem _ (ih (hl.trans h))
        · simp [← h]

/-- A check that fires wins over those after it of no lower class (R76). -/
theorem firstTrap_head {t : TrapReq} {l : List (Option TrapReq)} (h : ∀ u, some u ∈ l → t.cls ≤ u.cls) :
    firstTrap (some t :: l) = some t := by
  cases hl : firstTrap l with
  | none => simp [firstTrap, hl]
  | some u => simp [firstTrap, hl, Nat.not_lt.2 (h u (firstTrap_mem hl))]

theorem rdX_some {s : State} {r : Reg} (h : s.pendingRead (.x r) = true) : s.rdX r = some (schedFault 0 r.val) := by
  simp [State.rdX, State.readFault, h, Key.fault]

theorem rdX_cls {s : State} {r : Reg} {u : TrapReq} (h : s.rdX r = some u) : u.cls = 5 := by
  simp only [State.rdX, State.readFault, Option.ite_none_right_eq_some, Option.some.injEq] at h
  rw [← h.2]; rfl

theorem wrX_cls {s : State} {r : Reg} {u : TrapReq} (h : s.wrX r = some u) : u.cls = 5 := by
  simp only [State.wrX, State.writeFault, Option.ite_none_right_eq_some, Option.some.injEq] at h
  rw [← h.2]; rfl

theorem nearEnd_cls {s : State} {u : TrapReq} (h : s.nearEnd = some u) : u.cls = 5 := by
  unfold State.nearEnd trapIf at h
  split at h
  · cases h
  · simp only [Option.ite_none_right_eq_some, Option.some.injEq] at h
    rw [← h.2]; rfl

/-- A slot that reads a pending register first takes its schedule fault, where its other checks are of no lower class (R77). -/
theorem pendingFirst_trap {s : State} {xa : Reg} {l : List (Option TrapReq)} {f : State → State}
    (h : s.pendingRead (.x xa) = true) (hl : ∀ u, some u ∈ l → u.cls = 5) :
    s.guarded (s.rdX xa :: l) f = s.takeTrap (schedFault 0 xa.val) := by
  rw [rdX_some h, guarded_trap (firstTrap_head fun u hu => (hl u hu).ge)]

/-- A failing check of a load with readable registers is taken. -/
theorem loadOp_trap {s : State} {op n : Nat} {signed : Bool} {xd xa : Reg} {imm : BitVec 46} {t : TrapReq}
    (hr : s.ready [xa, xd] xd) (ht : s.localTrap op (s.x xa + sext46 imm).toNat n false = some t) :
    loadOp op n signed xd xa imm s = s.takeTrap t := by
  dsimp only [loadOp]
  exact guarded_trap (by rw [ht]; simp [ready_rd hr (List.mem_cons_self ..), ready_wr hr, valueTrap, firstTrap])

/-- A failing check of a store with readable registers is taken. -/
theorem storeOp_trap {s : State} {op n : Nat} {xd xa : Reg} {imm : BitVec 46} {t : TrapReq}
    (hr : s.ready [xa, xd] xd) (ht : s.localTrap op (s.x xa + sext46 imm).toNat n true = some t) :
    storeOp op n xd xa imm s = s.takeTrap t := by
  have hra : s.rdX xa = none := ready_rd hr (by simp)
  have hrd : s.rdX xd = none := ready_rd hr (by simp)
  dsimp only [storeOp]
  exact guarded_trap (by rw [ht]; simp [hra, hrd, valueTrap, firstTrap])

/-- A load whose address register is pending. -/
theorem loadOp_pending {s : State} {op n : Nat} {signed : Bool} {xd xa : Reg} {imm : BitVec 46}
    (h : s.pendingRead (.x xa) = true) : loadOp op n signed xd xa imm s = s.takeTrap (schedFault 0 xa.val) := by
  dsimp only [loadOp]
  exact pendingFirst_trap h fun u hu => by
    simp only [valueTrap, rdX_some h, List.mem_cons, List.not_mem_nil, or_false] at hu
    rcases hu with hu | hu
    · exact wrX_cls hu.symm
    · simp [firstTrap] at hu

/-- A store whose address register is pending. -/
theorem storeOp_pending {s : State} {op n : Nat} {xd xa : Reg} {imm : BitVec 46} (h : s.pendingRead (.x xa) = true) :
    storeOp op n xd xa imm s = s.takeTrap (schedFault 0 xa.val) := by
  dsimp only [storeOp]
  exact pendingFirst_trap h fun u hu => by
    simp only [valueTrap, rdX_some h, List.mem_cons, List.not_mem_nil, or_false] at hu
    rcases hu with hu | hu
    · exact rdX_cls hu.symm
    · simp [firstTrap] at hu

/-- A result of two registers whose first is pending. -/
theorem twoSource_pending {s : State} {xa xb xd : Reg} {f : State → State} (h : s.pendingRead (.x xa) = true) :
    s.guarded [s.rdX xa, s.rdX xb, s.wrX xd] f = s.takeTrap (schedFault 0 xa.val) :=
  pendingFirst_trap h fun u hu => by
    simp only [List.mem_cons, List.not_mem_nil, or_false] at hu
    exact hu.elim (fun e => rdX_cls e.symm) fun e => wrX_cls e.symm

/-- A branch whose first source is pending. -/
theorem branchOp_pending {s : State} {xa xb : Reg} {c : Word → Word → Bool} {t : BitVec 15} (h : s.pendingRead (.x xa) = true) :
    branchOp c xa xb t s = s.takeTrap (schedFault 0 xa.val) :=
  pendingFirst_trap h fun u hu => by
    simp only [List.mem_cons, List.not_mem_nil, or_false] at hu
    exact hu.elim (fun e => rdX_cls e.symm) fun e => nearEnd_cls e.symm

section
variable {s : State} {op a n : Nat} {w : Bool}

/-- No free port of the sector (R18, R173). -/
theorem localTrap_noPort (h : s.accessFine a n) (hc : ¬s.claimOk (secOf a) (s.now + 1) w = true) :
    s.localTrap op a n w = some (sectorFault (secOf a)) := by
  rw [localTrap_fine h]
  simp [State.claimFault, hc]

/-- An access of user code that no range register admits (R192). -/
theorem localTrap_barred (h : s.accessFine a n) (hc : s.claimOk (secOf a) (s.now + 1) w = true) (hm : s.seq.mode = .user)
    (hs : s.seg.inSeg = true) (hb : ∀ k r, s.covers a k r → ¬(r.write = w ∧ r.stmask.getLsbD 7 = true)) :
    s.localTrap op a n w = some (overlapFault ((s.ann.ranges.toList.findIdx? (coversRow a)).getD 0xFF)) := by
  rw [localTrap_fine h]
  simp [State.claimFault, hc, hm, rangeBreak_barred hs hb]

end

/-- Settles O15: each load and store takes the trap of `localTrap`, whose cases are the checks in R100's order. -/
theorem accessAndPendingTraps : Obligations.AccessAndPendingTraps := by
  unfold Obligations.AccessAndPendingTraps
  refine ⟨fun xd xa imm s hr => ?_, fun xd xa xb imm t s hp i hi => ?_⟩
  · intro a order
    have ha : (s.x xa + sext46 imm).toNat = a := add_sext46_toNat ..
    have key : ∀ {i : Instr} {op n : Nat} {w : Bool}, (∀ t, s.localTrap op a n w = some t → Traps i s t) → n ≤ 8 →
        order i op n w := fun hi hn =>
      ⟨fun h => hi _ (localTrap_space h hn), fun h h' => hi _ (localTrap_align h h'),
        fun h h' hm hs => hi _ (localTrap_saveArea h h' hm hs), fun h h' hm hs hh => hi _ (localTrap_unheld h h' hm hs hh),
        fun h hc => hi _ (localTrap_noPort h hc), fun h hc ⟨hm, hs, hb⟩ =>
          ⟨fun k r hk hlow => hi _ (by rw [localTrap_barred h hc hm hs hb, findIdx?_coversRow hk hlow]; rfl),
            fun hno => hi _ (by rw [localTrap_barred h hc hm hs hb, findIdx?_coversRow_none hno]; rfl)⟩⟩
    have load : ∀ {i : Instr} {op n : Nat} {signed : Bool}, exec i s = .next (loadOp op n signed xd xa imm s) → n ≤ 8 →
        order i op n false := fun hi => key fun t ht => hi.trans (congrArg _ (loadOp_trap hr (ha ▸ ht)))
    have store : ∀ {i : Instr} {op n : Nat}, exec i s = .next (storeOp op n xd xa imm s) → n ≤ 8 →
        order i op n true := fun hi => key fun t ht => hi.trans (congrArg _ (storeOp_trap hr (ha ▸ ht)))
    exact ⟨load rfl (by decide), load rfl (by decide), load rfl (by decide), load rfl (by decide), load rfl (by decide),
      load rfl (by decide), load rfl (by decide), store rfl (by decide), store rfl (by decide), store rfl (by decide),
      store rfl (by decide)⟩
  · simp only [List.mem_cons, List.not_mem_nil, or_false] at hi
    rcases hi with rfl | rfl | rfl | rfl | rfl | rfl
    · exact congrArg _ (twoSource_pending hp)
    · exact congrArg _ (twoSource_pending hp)
    · exact congrArg _ (twoSource_pending hp)
    · exact congrArg _ (loadOp_pending hp)
    · exact congrArg _ (storeOp_pending hp)
    · exact congrArg _ (branchOp_pending hp)

end Sys2Proof.Machine
end

section
/-! PROOF. The Abscissa unit: what its instructions send, its beats and steps, and the counter in the next cycle (R20, R123,
R343 to R353, R450). -/

namespace Sys2Proof.Machine

/-! ## Clamped values -/

theorem clampInt_eq (lo hi v : Int) (h : lo ≤ hi) : clampInt lo hi v = min (max v lo) hi := by
  unfold clampInt
  split
  · omega
  · split <;> omega

/-- The signed reading of the low `w` bits of a double (R42). -/
theorem sintOf_setWidth (w : Nat) (x : Word) (h : 0 < w) : sintOf w x.toNat = (x.setWidth w).toInt := by
  obtain ⟨w, rfl⟩ : ∃ m, w = m + 1 := ⟨w - 1, by omega⟩
  simp only [sintOf, BitVec.toInt_eq_toNat_cond, BitVec.toNat_setWidth, Nat.add_sub_cancel, Nat.pow_succ']
  split <;> split <;> omega

theorem clampWord_toNat (c : Int) (b : Bool) :
    (clampWord c b).toNat = (BitVec.ofInt 32 c).toNat + if b then 2 ^ 32 else 0 := by
  have := (BitVec.ofInt 32 c).isLt
  rw [clampWord, BitVec.toNat_ofNat, Nat.mod_eq_of_lt (by split <;> omega)]

/-- The low half of a clamped value is the value. -/
theorem clampWord_low (c : Int) (b : Bool) : (clampWord c b).setWidth 32 = BitVec.ofInt 32 c := by
  apply BitVec.eq_of_toNat_eq
  have := (BitVec.ofInt 32 c).isLt
  rw [BitVec.toNat_setWidth, clampWord_toNat]
  split <;> omega

/-- Bit 32 of a clamped value says that it was clamped. -/
theorem clampWord_bit (c : Int) (b : Bool) : (clampWord c b).getLsbD 32 = b := by
  have := (BitVec.ofInt 32 c).isLt
  rw [BitVec.getLsbD, clampWord_toNat, Nat.testBit_eq_decide_div_mod_eq]
  cases b <;> simp <;> omega

/-- AXSLEW's word at its register (R351). -/
theorem sysLand_trim (u : State) (c : Int) (b : Bool) : (u.sysLand 0x301 (clampWord c b)).ax =
    { u.ax with trim := BitVec.ofInt 32 c, clamp := u.ax.clamp || b } := by
  show { u.ax with trim := (clampWord c b).setWidth 32, clamp := u.ax.clamp || (clampWord c b).getLsbD 32 } = _
  rw [clampWord_low, clampWord_bit]

/-- AXSKIP's word at its register (R349). -/
theorem sysLand_pend (u : State) (c : Int) (b : Bool) (hlo : -16 ≤ c) (hhi : c ≤ 16) :
    (u.sysLand 0x302 (clampWord c b)).ax = { u.ax with pend := some c, clamp := u.ax.clamp || b } := by
  show { u.ax with pend := some (sintOf 32 (clampWord c b).toNat), clamp := u.ax.clamp || (clampWord c b).getLsbD 32 } = _
  rw [sintOf_setWidth _ _ (by decide), clampWord_low, clampWord_bit, BitVec.toInt_ofInt,
    Int.bmod_eq_of_le (by omega) (by omega)]

/-! ## The instructions -/

/-- An instruction whose checks are silent completes with its effect. -/
theorem completes_of_guarded {i : Instr} {s : State} {l : List (Option TrapReq)} {f : State → State} {p : State → Prop}
    (hi : exec i s = .next (s.guarded l f)) (hl : ∀ x ∈ l, x = none) (hp : p (f s)) : Completes i s p :=
  ⟨f s, hi.trans (congrArg _ (guarded_pass hl)), hp⟩

/-- AXRD where its mode allows it puts its word in flight (R348). -/
theorem axrd_gives {s : State} {l : List Reg} {xd : Reg} {form : Fin 3} (hr : s.ready l xd)
    (hm : form ≠ 2 ∨ s.seq.mode = .supervisor) : Gives (.axrd xd form) s (.x xd (s.axWord form)) 2 := by
  have hp : trapIf (form = 2 && s.seq.mode == .user) (privTrap 0x30) = none := by
    rcases hm with h | h <;> simp [trapIf, h]
  exact completes_of_guarded rfl (by simp [hp, ready_wr hr]) (putX_inFlight ..)

/-- AXSLEW in supervisor mode sends the clamped trim (R351). -/
theorem axslew_gives {s : State} {xa xd : Reg} (hr : s.ready [xa] xd) (hm : s.seq.mode = .supervisor) :
    let v := sintOf 32 (s.x xa).toNat
    let c := clampInt (-50000) 50000 v
    Gives (.axslew xa) s (.sys 0x301 (clampWord c (decide (c ≠ v)))) 1 :=
  completes_of_guarded rfl (by simp [trapIf, hm, ready_rd hr (List.mem_singleton_self xa)]) (enqueue_inFlight ..)

/-- AXSKIP in supervisor mode sends the clamped step (R349). -/
theorem axskip_gives {s : State} {xa xd : Reg} (hr : s.ready [xa] xd) (hm : s.seq.mode = .supervisor) :
    let v := (s.x xa).toInt
    let c := clampInt (-16) 16 v
    Gives (.axskip xa) s (.sys 0x302 (clampWord c (decide (c ≠ v)))) 1 :=
  completes_of_guarded rfl (by simp [trapIf, hm, ready_rd hr (List.mem_singleton_self xa)]) (enqueue_inFlight ..)

/-- The launch's start as AXRD takes it. -/
theorem axWord_one (s : State) : s.axWord 1 = s.ax.value - (s.prog.map (·.start)).getD 0 := by
  unfold State.axWord
  cases s.prog <;> rfl

theorem axWord_zero (s : State) :
    s.axWord 0 = s.ax.value - if s.timedImage then s.seg.origin else (s.prog.map (·.start)).getD 0 := by
  unfold State.axWord
  cases s.prog <;> cases s.timedImage <;> rfl

/-! ## Beats, steps and trims -/

/-- The median of a beat heard is taken beside the port's own error: nothing else is touched (R343, R353). -/
theorem timestampBeat_completes {s : State} {p : Fin 18} {stamp : Word} (h : s.ax.ports[p].up = true) :
    Completes (.timestampBeat p stamp) s fun t => t.seq = s.seq ∧ t.ann = s.ann ∧ t.ax.value = s.ax.value ∧
      t.ax.ports = s.ax.ports.set p { s.ax.ports[p] with
        err := (stamp + BitVec.ofNat 64 (fieldNat s.ax.ports[p].hlat 0 16) - s.ax.value).toInt, heard := true } := by
  have hH : s.portH p = fieldNat s.ax.ports[p].hlat 0 16 := by simp [State.portH]
  refine ⟨_, if_neg (by simpa using h), rfl, rfl, rfl, ?_⟩
  rw [← hH]
  rfl

/-- A step of the counter by n: counts to come, or cycles for which it holds its value (R349). -/
theorem stepAbscissa_ax (s : State) (n : Int) : if 0 ≤ n
    then (s.stepAbscissa n).ax.jump = s.ax.jump + n.toNat ∧ (s.stepAbscissa n).ax.hold = s.ax.hold
    else (s.stepAbscissa n).ax.hold = s.ax.hold + (-n).toNat ∧ (s.stepAbscissa n).ax.jump = s.ax.jump := by
  by_cases h : 0 ≤ n
  · simp only [State.stepAbscissa, State.onAx_ax, h, if_true, and_true, Nat.add_left_cancel_iff]
    omega
  · simp only [State.stepAbscissa, State.onAx_ax, h, if_false, and_true, Nat.add_left_cancel_iff]
    omega

/-- A step leaves the counter's value, its trim and the pending step. -/
theorem stepAbscissa_keeps (s : State) (n : Int) : (s.stepAbscissa n).ax.value = s.ax.value ∧
    (s.stepAbscissa n).ax.trim = s.ax.trim ∧ (s.stepAbscissa n).ax.pend = s.ax.pend := by
  unfold State.stepAbscissa State.onAx
  split <;> exact ⟨rfl, rfl, rfl⟩

/-- Off the reference die a pending step is used up, and applied with one timed launch armed (R349, R350). -/
theorem execAbscissaStep_eq {s : State} {n : Int} (hp : s.ax.pend = some n) (hr : s.ax.ref = false) :
    execAbscissaStep s = .next (if s.ax.armed = 1 then (s.onAx fun a => { a with pend := none }).stepAbscissa n
      else s.onAx fun a => { a with pend := none }) := by
  simp [execAbscissaStep, hp, hr]

/-- The trim that cancels an error stays within 50,000 (R351). -/
theorem cancelTrim_range (e : Int) : -50000 ≤ cancelTrim e ∧ cancelTrim e ≤ 50000 := by
  rw [cancelTrim, clampInt_eq _ _ _ (by decide)]
  omega

/-- The trim at its register reads as it was meant. -/
theorem cancelTrim_toInt (e : Int) : (BitVec.ofInt 32 (cancelTrim e)).toInt = cancelTrim e := by
  have h := cancelTrim_range e
  rw [BitVec.toInt_ofInt, Int.bmod_eq_of_le (by omega) (by omega)]

/-- Off the reference die, with no timed image armed and a live error, the counter steps by the median (R345). -/
theorem execAbscissaAutoStep_eq {s : State} (hr : s.ax.ref = false) (ha : s.ax.armed = 0) (he : s.liveErrs ≠ []) :
    execAbscissaAutoStep s =
      .next { s.stepAbscissa (min (max s.medianErr (-16)) 16) with freeCtr := s.freeCtr + 1 } := by
  rw [← clampInt_eq _ _ _ (by decide)]
  exact congrArg Host.Outcome.next (if_neg (by simp [hr, ha, he]))

/-- Off the reference die, with a timed image armed, no keeper launch and a live error, the unit trims (R350). -/
theorem execTrimUpdate_eq {s : State} (hr : s.ax.ref = false) (ha : 0 < s.ax.armed) (hk : s.hasKeeper = false)
    (he : s.liveErrs ≠ []) : execTrimUpdate s =
      .next { s.onAx fun a => { a with trim := BitVec.ofInt 32 (cancelTrim s.medianErr) } with freeCtr := s.freeCtr + 1 } :=
  congrArg Host.Outcome.next (if_neg (by simp [hr, hk, he, Nat.ne_of_gt ha]))

/-! ## The next cycle -/

/-- The second state is the first with other acts planned. -/
def OnlyPlans (s t : State) : Prop := ∃ l, t = { s with agenda := l }

theorem OnlyPlans.refl (s : State) : OnlyPlans s s := ⟨s.agenda, rfl⟩

theorem OnlyPlans.plan {s t : State} (h : OnlyPlans s t) (c r : Nat) (a : Act) : OnlyPlans s (t.plan c r a) := by
  obtain ⟨l, rfl⟩ := h
  exact ⟨_, rfl⟩

theorem OnlyPlans.ite {s t u : State} {c : Prop} [Decidable c] (ht : OnlyPlans s t) (hu : OnlyPlans s u) :
    OnlyPlans s (if c then t else u) := by
  split <;> assumption

theorem OnlyPlans.foldl {α : Type} {s t : State} {f : State → α → State} (l : List α)
    (hf : ∀ u a, OnlyPlans s u → OnlyPlans s (f u a)) (h : OnlyPlans s t) : OnlyPlans s (l.foldl f t) := by
  induction l generalizing t with
  | nil => exact h
  | cons a l ih => exact ih (hf t a h)

/-- The periods of the counter only plan their events. -/
theorem periodic_onlyPlans (s : State) (v : Nat) : OnlyPlans s (s.periodic v) := by
  have at_ : ∀ (c : Bool) (r : Nat) (a : Act) (u : State), OnlyPlans s u →
      OnlyPlans s (if c then u.plan s.now r a else u) := fun _ _ _ _ h => (h.plan ..).ite h
  exact at_ _ _ _ _ <| OnlyPlans.foldl _ (fun u p h => at_ _ _ _ _ h) <| at_ _ _ _ _ <| at_ _ _ _ _ <| at_ _ _ _ _ <|
    at_ _ _ _ _ <| OnlyPlans.refl s

/-- The next cycle with the clock and the counter gone on, before its events are planned. -/
def State.nextCycle (s : State) : State := { s with now := s.now + 1, phase := .pre, ax := s.ax.tick }

/-- The next cycle, field by field: the clock, the counter, SAFECT, claims and lanes go on; beside them only the agenda
differs. -/
theorem tick_eq (s : State) : ∃ l cl la, s.tick = { s.nextCycle with
    sys := { s.sys with safect := if s.nextCycle.idleHold then 0 else s.sys.safect + 1 },
    ann := { s.ann with claims := cl, lanes := la }, agenda := l } := by
  have hrel : ∀ t u : State, OnlyPlans t u → OnlyPlans t
      (((List.finRange 8).filter s.releaseDone).foldl (fun u k => u.plan (s.now + 1) rankWriteback (.ev (.sectorFree k))) u) :=
    fun _ _ h => OnlyPlans.foldl _ (fun _ _ h => h.plan ..) h
  obtain ⟨l, hl⟩ := hrel _ _ (OnlyPlans.refl s.nextCycle)
  unfold State.nextCycle at hl
  unfold State.tick
  dsimp only
  rw [hl]
  exact (periodic_onlyPlans _ _).imp fun _ h => ⟨_, _, h⟩

/-- A negative step holds the counter (R349). -/
theorem tick_holds {a : Abscissa} (h : 0 < a.hold) : a.tick.value = a.value ∧ a.tick.hold = a.hold - 1 := by
  simp [Abscissa.tick, h]

/-- Else it counts one, and a positive step's counts with it (R349). -/
theorem tick_counts {a : Abscissa} (h : a.hold = 0) :
    a.tick.value = a.value + 1 + BitVec.ofNat 64 a.jump ∧ a.tick.jump = 0 := by
  simp [Abscissa.tick, h]

/-- Outside a held boundary SAFECT counts (R123, R363). -/
theorem not_idleHold {s : State} (h : ∀ v r, s.seq.run ≠ .boundary v r true) : s.idleHold = false := by
  unfold State.idleHold
  split
  · exact absurd ‹_› (h _ _)
  · rfl

/-- Settles O27: the instructions' words and the events' effects, then the next cycle field by field. -/
theorem abscissaCounter : Obligations.AbscissaCounter := by
  unfold Obligations.AbscissaCounter
  refine ⟨fun xd xa s hr => ?_, fun p stamp n s => ?_, fun s => ?_⟩
  · intro start v trim n
    refine ⟨axWord_zero s ▸ axrd_gives hr (.inl (by decide)), axWord_one s ▸ axrd_gives hr (.inl (by decide)), fun hm => ?_⟩
    have ht : clampInt (-50000) 50000 (sintOf 32 v.toNat) = trim := by
      rw [sintOf_setWidth _ _ (by decide), clampInt_eq _ _ _ (by decide)]
    have hn : clampInt (-16) 16 v.toInt = n := clampInt_eq _ _ _ (by decide)
    refine ⟨axrd_gives (form := 2) hr (.inr hm), ⟨_, axslew_gives hr hm, fun u => ?_⟩, _, axskip_gives hr hm, fun u => ?_⟩
    · rw [sysLand_trim, ← sintOf_setWidth _ _ (by decide)]
      simp only [v, trim] at ht ⊢
      rw [ht]
    · rw [hn, sysLand_pend _ _ _ (by omega) (by omega)]
  · intro quiet steps
    refine ⟨fun h => ⟨_, congrArg Host.Outcome.next (if_pos h), rfl⟩,
      fun h => ⟨⟨_, congrArg Host.Outcome.next (if_neg (by simpa using h)), rfl⟩, _, if_pos (by simpa using h), rfl⟩,
      fun h => ?_, fun href harm herr => ?_, fun harm => ⟨_, congrArg Host.Outcome.next (if_pos (by simp [harm])), rfl⟩,
      fun href harm hk herr => ?_, fun hp href => ?_⟩
    · obtain ⟨t, ht, hseq, hann, hval, hports⟩ := timestampBeat_completes (stamp := stamp) h
      refine ⟨t, ht, ⟨hseq, hann, hval⟩, ?_⟩
      rw [hports]
      exact ⟨by simp, by simp, by simp, fun r hr => by simp [Fin.val_ne_of_ne hr.symm]⟩
    · obtain ⟨hv, htrim, -⟩ := stepAbscissa_keeps s (min (max s.medianErr (-16)) 16)
      exact ⟨_, execAbscissaAutoStep_eq href harm herr, ⟨rfl, rfl, hv⟩, stepAbscissa_ax .., htrim⟩
    · have hc := cancelTrim_range s.medianErr
      rw [← cancelTrim_toInt] at hc
      exact ⟨_, execTrimUpdate_eq href harm hk herr, ⟨rfl, rfl, rfl⟩, hc.1, hc.2, rfl, rfl⟩
    · refine ⟨_, execAbscissaStep_eq hp href, ?_⟩
      by_cases h1 : s.ax.armed = 1
      · rw [if_pos h1]
        dsimp only
        rw [if_pos h1]
        obtain ⟨hv, -, hpend⟩ := stepAbscissa_keeps (s.onAx fun a => { a with pend := none }) n
        exact ⟨⟨rfl, rfl, hv⟩, hpend, stepAbscissa_ax (s.onAx fun a => { a with pend := none }) n⟩
      · rw [if_neg h1]
        dsimp only
        rw [if_neg h1]
        exact ⟨⟨rfl, rfl, rfl⟩, rfl, rfl, rfl⟩
  · obtain ⟨l, cl, la, ht⟩ := tick_eq s
    rw [ht]
    exact ⟨rfl, rfl, tick_holds, tick_counts,
      fun h => if_neg (Bool.eq_false_iff.1 (not_idleHold (s := s.nextCycle) h)), rfl, rfl, rfl⟩

end Sys2Proof.Machine
end

section
/-! PROOF. Commands that a full queue or table turns away, and the traps of a command at issue (R19, R200, R211, R214, R231,
R261). -/

namespace Sys2Proof.Machine

/-! ## Checks at issue -/

/-- A command whose registers are readable raises no schedule fault (R72, R77). -/
theorem cmdFault_none {s : State} {e : ECtl} {n m : Nat} (h : s.cmdReady e n) (hm : m ≤ n) : s.cmdFault e m = none := by
  obtain ⟨hx, hw, hr⟩ := h
  refine firstTrap_none.2 fun o ho => ?_
  rcases List.mem_cons.1 ho with rfl | ho
  · exact rdX_none hw
  · obtain ⟨k, hk, rfl⟩ := List.mem_map.1 ho
    have hk := List.mem_range.1 hk
    rw [dif_pos (by omega)]
    exact rdX_none (hr _ (Nat.le_add_right ..) (Nat.add_lt_add_left (by omega) _))

theorem trapIf_pos {c : Bool} (t : TrapReq) (h : c = true) : trapIf c t = some t := if_pos h

theorem trapIf_neg {c : Bool} (t : TrapReq) (h : c = false) : trapIf c t = none := by simp [trapIf, h]

theorem keyFault_cls (k : Key) : k.fault.cls = 5 := by cases k <;> rfl

theorem readFault_cls {s : State} {k : Key} {u : TrapReq} (h : s.readFault k = some u) : u.cls = 5 := by
  simp only [State.readFault, Option.ite_none_right_eq_some, Option.some.injEq] at h
  rw [← h.2, keyFault_cls]

/-! ## Commands turned away -/

/-- What a failed command's table slot leaves. -/
theorem spoilTable_frame (s : State) (c : Cmd) : (s.spoilTable c).fails = s.fails ∧ (s.spoilTable c).seq = s.seq ∧
    (s.spoilTable c).ann = s.ann ∧ (s.spoilTable c).mx = s.mx ∧ (s.spoilTable c).cp = s.cp := by
  unfold State.spoilTable
  split <;> exact ⟨rfl, rfl, rfl, rfl, rfl⟩

/-- What the count of a station's commands leaves. -/
theorem countCmd_frame (s : State) (u : EUnit) : (s.countCmd u).fails = s.fails ∧ (s.countCmd u).seq = s.seq ∧
    (s.countCmd u).ann = s.ann ∧ (s.countCmd u).mx.q.normal = s.mx.q.normal ∧ (s.countCmd u).mx.q.prio = s.mx.q.prio ∧
    (s.countCmd u).cp.ents = s.cp.ents := by
  cases u <;> exact ⟨rfl, rfl, rfl, rfl, rfl, rfl⟩

/-- A command that signals fails on its semaphore, and no more. -/
theorem failCmd_signalling (s : State) {c : Cmd} (hs : c.sinc ≠ 0) (hp : c.pred = false) (code detail : BitVec 8) :
    s.failCmd c code detail = { s with fails := s.fails ++ [(c.ssem, code, detail, c.idx.setWidth 16)] } := by
  simp [State.failCmd, hs, hp]

/-- The command has failed with code 0x28 on its semaphore; sequencer, sectors, st0's queues and the copy table are as they
were (R200, R261). -/
def TurnedAway (s : State) (c : Cmd) (stn : BitVec 8) (t : State) : Prop :=
  t.fails = s.fails ++ [(c.ssem, 0x28#8, stn, c.idx.setWidth 16)] ∧ t.seq = s.seq ∧ t.ann = s.ann ∧
    t.mx.q.normal = s.mx.q.normal ∧ t.mx.q.prio = s.mx.q.prio ∧ t.cp.ents = s.cp.ents

/-- A command that is counted and fails where it stands is turned away. -/
theorem plainFail_turnedAway (s : State) {u : EUnit} {c : Cmd} (hs : c.sinc ≠ 0) (hp : c.pred = false) :
    TurnedAway s c (BitVec.ofNat 8 (stationOf u)) ((s.countCmd u).plainFail u c 0x28) := by
  obtain ⟨hfails, hseq, hann, hn, hpr, hents⟩ := countCmd_frame s u
  obtain ⟨hfails', hseq', hann', hmx', hcp'⟩ := spoilTable_frame (s.countCmd u) c
  unfold State.plainFail State.cmdFails
  rw [if_neg hs, failCmd_signalling _ hs hp]
  exact ⟨by rw [hfails', hfails], hseq'.trans hseq, hann'.trans hann, by rw [hmx', hn], by rw [hmx', hpr], by rw [hcp', hents]⟩

/-- A full queue turns a command away (R200, R231). -/
theorem enqueueCmd_full {s : State} {u : EUnit} {c : Cmd} (hs : c.sinc ≠ 0) (hp : c.pred = false)
    (h : 16 ≤ (if c.prio then (s.queues u).prio else (s.queues u).normal).length) :
    TurnedAway s c (BitVec.ofNat 8 (stationOf u)) (s.enqueueCmd u c) := by
  have : s.enqueueCmd u c = (s.countCmd u).plainFail u c 0x28 := if_pos h
  exact this ▸ plainFail_turnedAway s hs hp

/-! ## The traps of MXGO and MXLDB -/

/-- Bases of which one stands in the wrong group fail the bank rule (R19, R214). -/
theorem banks_wrong {ga : Bool} {a b : Nat} (h : ¬(a % 2 = (if ga then 1 else 0) ∧ b % 2 = (if ga then 0 else 1))) :
    (!(inBank ga a && inBank (!ga) b)) = true := by
  cases ga <;> simpa [inBank, imp_iff_not_or] using h

/-- B's base in the wrong group fails it (R19, R218). -/
theorem bank_wrong {ga : Bool} {b : Nat} (h : b % 2 ≠ (if ga then 0 else 1)) : (!inBank (!ga) b) = true := by
  cases ga <;> simpa [inBank] using h

section
variable {s : State} {e : ECtl} {fe : Fin 16} {lcn : Fin 4} {fmode ga zacc : Bool}

/-- A readable MXGO whose bases break the bank rule traps with A's sector (R137, R214). -/
theorem mxgo_bankTrap (hr : s.cmdReady e 4) (hs : e.sinc ≠ 0)
    (hmask : s.pendingRead (.mask (Fin.ofNat 4 (fieldNat s.mx.shadow[9] 0 2))) = false) (hlc : s.pendingRead (.lc lcn) = false)
    (hb : (!(inBank ga (fieldNat s.mx.shadow[6] 0 3) && inBank (!ga) (fieldNat s.mx.shadow[7] 0 3))) = true) :
    Traps (.mxgo e fe fmode lcn ga zacc) s (bankFault (fieldNat s.mx.shadow[6] 0 3)) := by
  have hdrain : trapIf (e.sinc = 0 && hasDrain s.mx.shadow) (reservedTrap 31) = none := trapIf_neg _ (by simp [hs])
  have hlc' : (if fmode then s.readFault (.lc lcn) else none) = none := by simp [readFault_none hlc]
  refine congrArg _ (guarded_trap ?_)
  simp only [hdrain, readFault_none hmask, hlc', cmdFault_none hr le_rfl, trapIf_pos _ hb, firstTrap]

/-- An MXGO that captures a drain role and signals nothing takes the reserved-field trap before any other (R211). -/
theorem mxgo_silentDrain (hr : s.cmdReady e 4) (hs : e.sinc = 0) (hd : hasDrain s.mx.shadow = true) :
    Traps (.mxgo e fe fmode lcn ga zacc) s (reservedTrap 31) := by
  have hdrain : trapIf (e.sinc = 0 && hasDrain s.mx.shadow) (reservedTrap 31) = some (reservedTrap 31) :=
    trapIf_pos _ (by simp [hs, hd])
  refine congrArg _ (guarded_trap ?_)
  rw [hdrain, cmdFault_none hr le_rfl]
  refine firstTrap_head fun u hu => ?_
  have hcls : u.cls = 5 := by
    simp only [List.mem_cons, List.not_mem_nil, or_false, reduceCtorEq, false_or] at hu
    rcases hu with hu | hu | hu
    · exact readFault_cls hu.symm
    · cases fmode with
      | true => exact readFault_cls hu.symm
      | false => cases hu
    · simp only [trapIf, Option.some_eq_ite_none_right, Option.some.injEq] at hu
      rw [hu.2]; rfl
  exact hcls ▸ (by decide : (reservedTrap 31).cls ≤ 5)

/-- A readable MXLDB whose base breaks the bank rule traps with its sector (R137, R214). -/
theorem mxldb_bankTrap (hr : s.cmdReady e 4) (hb : (!inBank (!ga) (fieldNat (s.x e.xa) 0 3)) = true) :
    Traps (.mxldb e fe ga) s (bankFault (fieldNat (s.x e.xa) 0 3)) := by
  refine congrArg _ (guarded_trap ?_)
  simp only [cmdFault_none hr (show 2 ≤ 4 by decide), trapIf_pos _ hb, firstTrap]

end

/-- Settles O36: each station's command reaches `enqueueCmd`, or the copy table, which turn it away; the checks of MXGO and
MXLDB take the first trap. -/
theorem commandsTurnedAway : Obligations.CommandsTurnedAway := by
  unfold Obligations.CommandsTurnedAway
  refine ⟨fun e slot s hr hs => ?_, fun e fe lcn fmode ga zacc s hr => ?_⟩
  · intro full fails
    have hc : ∀ x ∈ [s.cmdFault e 4], x = none := by simp [cmdFault_none hr le_rfl]
    refine ⟨fun h => ?_, fun h => ?_, fun h => ?_, fun h => ?_, fun h => ?_, fun h => ?_⟩
    · exact completes_of_guarded rfl hc (enqueueCmd_full (u := .array) hs rfl h)
    · exact completes_of_guarded rfl hc (enqueueCmd_full (u := .tis) hs rfl h)
    · exact completes_of_guarded rfl hc (enqueueCmd_full (u := .cvs) hs rfl h)
    · exact completes_of_guarded rfl hc (enqueueCmd_full (u := .trs) hs rfl h)
    · exact completes_of_guarded rfl hc (enqueueCmd_full (u := .cls) hs rfl h)
    · refine completes_of_guarded rfl hc ?_
      rw [if_pos h]
      exact plainFail_turnedAway s (u := .cps) hs rfl
  · intro mk a b ok l trap
    exact ⟨fun hok hs hmask hlc => mxgo_bankTrap hr hs hmask hlc (banks_wrong hok), fun hs hd => mxgo_silentDrain hr hs hd,
      fun hl => mxldb_bankTrap hr (bank_wrong hl)⟩

end Sys2Proof.Machine
end

section
/-! PROOF. The compare word of a lockstep pair before its deadline (R368). -/

namespace Sys2Proof.Machine

/-- Before the deadline of the running compare the check of a missing word does nothing: the own word stays noted (R368). -/
theorem compareWord_early {s : State} {o : CompareWord} (ho : s.seg.cmpOwn = some o) (hb : s.now < s.seg.cmpBy) :
    exec (.compareWord none) s = .next s := by
  show execCompareWord none s = _
  simp [execCompareWord, ho, hb]

/-- A cell at reset that has noted its own word in cycle 0 and hears its twin's by cycle 3,072. -/
def comparing : State :=
  State.reset.onSeg fun g => { g with cmpOwn := some ⟨0, 0, 0, 0, 0⟩, cmpBy := 3072 }

/-- Refutes O40: in `comparing` a COMPARE_WORD of no word comes before its deadline, and the own word stays noted, where the
statement's last clause but one asks that it is forgotten. -/
theorem not_segmentsAndReplay : ¬ Obligations.SegmentsAndReplay := by
  unfold Obligations.SegmentsAndReplay
  rintro ⟨-, -, h⟩
  obtain ⟨-, -, hearly, -⟩ := h ⟨0, 0, 0, 0, 0⟩ ⟨0, 0, 0, 0, 0⟩ comparing rfl
  obtain ⟨t, hnext, hforgot⟩ := hearly (by decide)
  rw [compareWord_early rfl (by decide)] at hnext
  have hst : comparing = t := Host.Outcome.next.inj hnext
  have hown : t.seg.cmpOwn = none := by rw [hforgot]
  rw [← hst] at hown
  cases hown

end Sys2Proof.Machine
end

section
/-! PROOF. A LAUNCH packet enters the heap and is refused, admitted or put to the launch's other modules (R407, R414, R416,
R420). -/

namespace Sys2Proof.Machine

/-! ## What the Apex's operations leave -/

theorem OnlyPlans.planOnce {s t : State} (h : OnlyPlans s t) (c r : Nat) (a : Act) : OnlyPlans s (t.planOnce c r a) :=
  h.ite (h.plan ..)

/-- What a change of the agenda alone leaves. -/
theorem OnlyPlans.frame {s t : State} (h : OnlyPlans s t) : SameCore s t ∧ t.apex = s.apex ∧ t.out = s.out ∧ t.prog = s.prog := by
  obtain ⟨l, rfl⟩ := h
  exact ⟨⟨rfl, rfl, rfl, rfl⟩, rfl, rfl, rfl⟩

/-- With no node of the heap running, the Apex only plans what it looks for. -/
theorem look_onlyPlans {s : State} (h : ∀ e ∈ s.apex.heap, e.st ≠ .running) : OnlyPlans s s.look := by
  have hend : s.endNodes = s := by
    have : (s.apex.heap.filter fun e => e.done.isNone && e.st == .running && s.apex.chainDone e) = [] :=
      List.filter_eq_nil_iff.2 fun e he => by simp [h e he]
    simp [State.endNodes, this]
  unfold State.look
  dsimp only
  rw [hend]
  refine (OnlyPlans.foldl _ (fun u e hu => ?_) (OnlyPlans.refl s)).planOnce ..
  split
  · exact hu.planOnce ..
  · exact hu

theorem look_single {s : State} {x : HeapEnt} (h : s.apex.heap = [x]) (hx : x.st ≠ .running) : OnlyPlans s s.look :=
  look_onlyPlans fun e he => by rw [h, List.mem_singleton] at he; exact he ▸ hx

/-- The one entry of a heap changed. -/
theorem onHeap_single {s : State} {x : HeapEnt} (h : s.apex.heap = [x]) (f : HeapEnt → HeapEnt) :
    (s.onHeap x.id f).apex.heap = [f x] := by
  simp [State.onHeap, State.onApex, h]

/-- The one entry of a heap ended. -/
theorem finishEntry_single {s : State} {x : HeapEnt} (h : s.apex.heap = [x]) (hd : x.done = none) (st cs : BitVec 16) (w : Word) :
    (s.finishEntry x.id st cs w).apex.heap = [{ x with done := some (st, cs, w) }] := by
  simp [State.finishEntry, State.onApex, h, hd]

theorem heapEnt_single {s : State} {x : HeapEnt} (h : s.apex.heap = [x]) : s.heapEnt x.id = some x := by
  simp [State.heapEnt, h]

/-- An image's windows depend on the translations and on the channels in training alone (R281, R458). -/
theorem windowsOf_congr {s t : State} (hq : ∀ d a w, s.queuePlace d a w = t.queuePlace d a w)
    (ht : ∀ a, s.training a = t.training a) {d : QueueDesc} {g : Image} : s.windowsOf d g = t.windowsOf d g := by
  have hq : s.queuePlace = t.queuePlace := funext fun d => funext fun a => funext (hq d a)
  have hb : s.windowBase = t.windowBase := by
    funext d w
    unfold State.windowBase
    rw [hq, funext ht]
  unfold State.windowsOf
  rw [hb]

/-! ## The tests of a packet -/

/-- The state in which a refused packet ends: a loader's refusal notes the first error of the image (R92). -/
def State.noteRefusal (s : State) (g : Image) (code : Nat) : State :=
  if code = 0x0103 then s.onApex fun a => { a with loadErr := imageErr g } else s

/-- The note of a refused image leaves the rest. -/
theorem noteRefusal_frame (u : State) (g : Image) (code : Nat) : SameCore u (u.noteRefusal g code) ∧
    (u.noteRefusal g code).apex.launches = u.apex.launches ∧ (u.noteRefusal g code).apex.heap = u.apex.heap := by
  unfold State.noteRefusal
  split <;> exact ⟨⟨rfl, rfl, rfl, rfl⟩, rfl, rfl⟩

section
variable {s : State} {x : HeapEnt} {p : LaunchPkt} {g : Image}
  (hx : s.heapEnt x.id = some x) (hd : x.done = none) (hs : x.st = .waiting) (hb : x.body = .launch p (some g))
  (hw : s.apex.fwWait = false)
include hx hd hs hb hw

/-- A packet that a check refuses (R414). -/
theorem judge_refused {code : Nat} (hr : s.refusal x.remote s.apex.queues[x.q] p g = some code) :
    s.judge x.id = (s.noteRefusal g code).refuse x p.stag (BitVec.ofNat 16 code) := by
  unfold State.judge
  simp only [hx, hd, hs, hb, hw, hr, Bool.false_eq_true, if_false]
  rfl

/-- A packet that the admission test refuses (R416). -/
theorem judge_notAdmitted (hr : s.refusal x.remote s.apex.queues[x.q] p g = none)
    (ha : s.admits s.apex.queues[x.q] p g = false) : s.judge x.id = s.refuse x p.stag 0x0100 := by
  unfold State.judge
  simp only [hx, hd, hs, hb, hw, hr, ha, Bool.false_eq_true, if_false]

/-- A packet that is let in (R420). -/
theorem judge_letIn (hr : s.refusal x.remote s.apex.queues[x.q] p g = none)
    (ha : s.admits s.apex.queues[x.q] p g = true) : s.judge x.id = s.letIn x p g := by
  unfold State.judge
  simp only [hx, hd, hs, hb, hw, hr, ha, Bool.false_eq_true, if_false, if_true]

end

/-! ## A packet in an empty heap -/

/-- The entry of a packet with its image, as it enters (R416). -/
def newEntry (id : Nat) (q : Fin 64) (p : LaunchPkt) (g : Image) (remote : Bool) : HeapEnt :=
  { launchEntry q p with id := id, remote := remote, body := .launch p (some g) }

/-- The empty heap with one packet entered. -/
def State.entered (s : State) (q : Fin 64) (p : LaunchPkt) (g : Image) (remote : Bool) : State :=
  s.onApex fun a => { a with heap := [newEntry s.apex.nextId q p g remote], nextId := s.apex.nextId + 1 }

section
variable {s : State} {q : Fin 64} {p : LaunchPkt} {g : Image} {remote : Bool}

/-- A packet of no node enters the empty heap alone (R416). -/
theorem enterHeap_empty {e : HeapEnt} (h : s.apex.heap = []) (hn : e.node = none) (hd : e.done = none) :
    s.enterHeap e = s.onApex fun a => { a with heap := [{ e with id := s.apex.nextId }], nextId := s.apex.nextId + 1 } := by
  have hopen : s.apex.open_.length = 0 := by simp [Apex.open_, h]
  simp [State.enterHeap, hopen, hn, hd, State.onApex, h]

/-- A packet that no entry waits for enters the empty heap and is tested. -/
theorem launchIn_empty (h : s.apex.heap = []) :
    s.launchIn q p g remote = (s.entered q p g remote).judge s.apex.nextId := by
  have hin : (s.enterHeap { launchEntry q p with remote := remote }).setImage s.apex.nextId p g = s.entered q p g remote := by
    rw [enterHeap_empty h rfl rfl]
    simp [State.setImage, State.onHeap, State.onApex, State.entered, newEntry, launchEntry]
  unfold State.launchIn
  rw [h, ← hin]
  rfl

theorem entered_heap : (s.entered q p g remote).apex.heap = [newEntry s.apex.nextId q p g remote] := rfl

@[simp] theorem entered_launches : (s.entered q p g remote).apex.launches = s.apex.launches := rfl
@[simp] theorem entered_dmap : (s.entered q p g remote).apex.dmap = s.apex.dmap := rfl
@[simp] theorem entered_sys : (s.entered q p g remote).sys = s.sys := rfl
@[simp] theorem entered_absc : (s.entered q p g remote).absc = s.absc := rfl
@[simp] theorem entered_phy : (s.entered q p g remote).phy = s.phy := rfl
@[simp] theorem entered_phyOf (a : Nat) : (s.entered q p g remote).phyOf a = s.phyOf a := rfl

@[simp] theorem entered_queuePlace (d : QueueDesc) (a : Nat) (w : Bool) :
    (s.entered q p g remote).queuePlace d a w = s.queuePlace d a w := rfl

@[simp] theorem entered_residentFor (g' : Image) (l : LaunchRec) :
    (s.entered q p g remote).residentFor g' l = s.residentFor g' l := rfl

@[simp] theorem entered_windowsOf (d : QueueDesc) (g' : Image) :
    (s.entered q p g remote).windowsOf d g' = s.windowsOf d g' :=
  windowsOf_congr entered_queuePlace fun a => by simp only [State.training, entered_phyOf, entered_phy]

/-- The checks of a packet do not depend on the heap (R407, R414). -/
theorem refusal_entered (d : QueueDesc) : (s.entered q p g remote).refusal remote d p g = s.refusal remote d p g := by
  simp only [State.refusal, entered_launches, entered_dmap, entered_sys, entered_windowsOf]
  rfl

/-- The tests of a packet do not count the packet itself (R416). -/
theorem admits_entered (h : s.apex.heap = []) (d : QueueDesc) : (s.entered q p g remote).admits d p g = s.admits d p g := by
  have h0 : ∀ r, s.admittedOn r = [] := fun r => by simp [State.admittedOn, h]
  have h1 : ∀ r, (s.entered q p g remote).admittedOn r = [] := fun r => by
    simp [State.admittedOn, entered_heap, newEntry, launchEntry]
  have hb : ∀ r, (s.entered q p g remote).boundOf p g r = s.boundOf p g r := fun r => by
    simp only [State.boundOf, entered_launches, entered_residentFor]
  simp only [State.admits, h0, h1, hb, entered_absc]

/-- What is said of an entry that has just entered an empty heap, with the launches and the cell as they were. -/
def Enters (s : State) (q : Fin 64) (p : LaunchPkt) (g : Image) (f : HeapEnt → Prop) (h : State → Prop) (t : State) : Prop :=
  SameCore s t ∧ h t ∧ t.apex.launches = s.apex.launches ∧
    ∃ x, t.apex.heap = [x] ∧ x.id = s.apex.nextId ∧ x.q = q ∧ x.body = .launch p (some g) ∧ f x

/-- A refused packet's entry ends with its status, and another module that asked hears of it (R414, R420). -/
theorem refuse_enters {u : State} {status : BitVec 16} (hc : SameCore s u) (hl : u.apex.launches = s.apex.launches)
    (hh : u.apex.heap = [newEntry s.apex.nextId q p g remote]) :
    Enters s q p g (fun x => x.done = some (status, 0, 0))
      (fun t => remote = true → .remote (.verdict p.stag false) ∈ t.out)
      (u.refuse (newEntry s.apex.nextId q p g remote) p.stag status) := by
  have hfin := finishEntry_single hh rfl status 0 0
  cases remote with
  | false => exact ⟨hc, nofun, hl, _, hfin, rfl, rfl, rfl, rfl⟩
  | true => exact ⟨hc, fun _ => List.mem_append_right _ (List.mem_singleton_self _), hl, _, hfin, rfl, rfl, rfl, rfl⟩

/-- A packet that another module put here is let in by an answer (R420). -/
theorem letIn_remote : Enters s q p g (fun x => x.done = none ∧ x.st = .asking ∧ x.remote = true)
    (fun t => .remote (.verdict p.stag true) ∈ t.out)
    ((s.entered q p g true).letIn (newEntry s.apex.nextId q p g true) p g) :=
  ⟨⟨rfl, rfl, rfl, rfl⟩, List.mem_append_right _ (List.mem_singleton_self _), rfl, _,
    onHeap_single entered_heap _, rfl, rfl, rfl, rfl, rfl, rfl⟩

/-- A launch with parts on other modules is put to them (R420). -/
theorem letIn_asking (hm : s.mates p g.timed ≠ 0) : Enters s q p g (fun x => x.done = none ∧ x.st = .asking ∧ x.agreed = 0)
    (fun t => .remote (.test p) ∈ t.out) ((s.entered q p g false).letIn (newEntry s.apex.nextId q p g false) p g) := by
  have hm' : (s.entered q p g false).mates p g.timed ≠ 0 := hm
  have hin : (s.entered q p g false).letIn (newEntry s.apex.nextId q p g false) p g =
      ((s.entered q p g false).onHeap s.apex.nextId fun e => { e with st := .asking, agreed := 0 }).emit (.remote (.test p)) :=
    if_pos hm'
  rw [hin]
  exact ⟨⟨rfl, rfl, rfl, rfl⟩, List.mem_append_right _ (List.mem_singleton_self _), rfl, _,
    onHeap_single entered_heap _, rfl, rfl, rfl, rfl, rfl, rfl⟩

/-- A launch of this module alone is admitted (R416). -/
theorem letIn_admitted (hm : s.mates p g.timed = 0) : Enters s q p g (fun x => x.done = none ∧ x.st = .admitted)
    (fun _ => True) ((s.entered q p g false).letIn (newEntry s.apex.nextId q p g false) p g) := by
  have hm' : ¬(s.entered q p g false).mates p g.timed ≠ 0 := not_not_intro hm
  have hin : (s.entered q p g false).letIn (newEntry s.apex.nextId q p g false) p g =
      ((s.entered q p g false).onHeap s.apex.nextId fun e => { e with st := .admitted }).look := if_neg hm'
  have hheap := onHeap_single (entered_heap (s := s) (q := q) (p := p) (g := g) (remote := false)) fun e => { e with st := .admitted }
  obtain ⟨hc, ha, -, -⟩ := (look_single hheap nofun).frame
  rw [hin]
  exact ⟨hc, trivial, (congrArg Apex.launches ha).trans rfl, _, (congrArg Apex.heap ha).trans hheap, rfl, rfl, rfl, rfl, rfl⟩

section
variable (h : s.apex.heap = []) (hw : s.apex.fwWait = false)
include h hw

/-- A packet that a check refuses ends with that check's status (R414). -/
theorem launchIn_refused {code : Nat} (hr : s.refusal remote s.apex.queues[q] p g = some code) :
    Enters s q p g (fun x => x.done = some (BitVec.ofNat 16 code, 0, 0))
      (fun t => remote = true → .remote (.verdict p.stag false) ∈ t.out) (s.launchIn q p g remote) := by
  have hj := judge_refused (heapEnt_single (entered_heap (s := s) (q := q) (p := p) (g := g) (remote := remote))) rfl rfl rfl
    hw ((refusal_entered _).trans hr)
  obtain ⟨hc, hl, hh⟩ := noteRefusal_frame (s.entered q p g remote) g code
  rw [launchIn_empty h]
  exact hj ▸ refuse_enters ⟨hc.1, hc.2.1, hc.2.2.1, hc.2.2.2⟩ hl hh

/-- A packet that the admission test refuses ends with 0x0100 (R416). -/
theorem launchIn_notAdmitted (hr : s.refusal remote s.apex.queues[q] p g = none)
    (ha : s.admits s.apex.queues[q] p g = false) : Enters s q p g (fun x => x.done = some (0x0100, 0, 0))
      (fun t => remote = true → .remote (.verdict p.stag false) ∈ t.out) (s.launchIn q p g remote) := by
  have hj := judge_notAdmitted (heapEnt_single (entered_heap (s := s) (q := q) (p := p) (g := g) (remote := remote))) rfl rfl
    rfl hw ((refusal_entered _).trans hr) ((admits_entered h _).trans ha)
  rw [launchIn_empty h]
  exact hj ▸ refuse_enters ⟨rfl, rfl, rfl, rfl⟩ rfl rfl

/-- A packet that both let pass is let in (R420). -/
theorem launchIn_letIn (hr : s.refusal remote s.apex.queues[q] p g = none) (ha : s.admits s.apex.queues[q] p g = true) :
    s.launchIn q p g remote = (s.entered q p g remote).letIn (newEntry s.apex.nextId q p g remote) p g :=
  (launchIn_empty h).trans <| judge_letIn (heapEnt_single entered_heap) rfl rfl rfl hw ((refusal_entered _).trans hr)
    ((admits_entered h _).trans ha)

end

/-- Nothing is dispatched from an empty heap. -/
theorem dispatch_empty (h : s.apex.heap = []) (hw : s.apex.fwWait = false) (hf : s.apex.frozen = none) :
    exec .dispatch s = .next s := by
  show execDispatch s = _
  simp [execDispatch, State.thawed, hf, hw, h]

end

end Sys2Proof.Machine
end

section
/-! PROOF. An admitted launch is dispatched: it is placed on its rectangle, its cells are loaded and their start planned (R417 to
R419). -/

namespace Sys2Proof.Machine

/-! ## A cell is loaded -/

/-- Beside the sectors, lanes and ports only the agenda differs. -/
def OnlySectors (s t : State) : Prop := ∃ a l, t = { s with ann := a, agenda := l }

theorem OnlySectors.refl (s : State) : OnlySectors s s := ⟨s.ann, s.agenda, rfl⟩

theorem OnlySectors.trans {s t u : State} (h : OnlySectors s t) (g : OnlySectors t u) : OnlySectors s u := by
  obtain ⟨a, l, rfl⟩ := h
  obtain ⟨b, m, rfl⟩ := g
  exact ⟨b, m, rfl⟩

theorem OnlySectors.foldl {α : Type} {f : State → α → State} (hf : ∀ u a, OnlySectors u (f u a)) (l : List α) (s : State) :
    OnlySectors s (l.foldl f s) := by
  induction l generalizing s with
  | nil => exact .refl s
  | cons a l ih => exact (hf s a).trans (ih _)

theorem writeRow_onlySectors (s : State) (sec : Fin 8) (row : Nat) (r : Row) : OnlySectors s (s.writeRow sec row r) := ⟨_, _, rfl⟩

theorem unbind_onlySectors (s : State) (q : Fin 8) : OnlySectors s (s.unbind q) := by
  unfold State.unbind
  dsimp only
  split <;> exact ⟨_, _, rfl⟩

theorem resetPorts_onlySectors (s : State) : OnlySectors s s.resetPorts :=
  OnlySectors.foldl (fun u q => by
    unfold State.resetPort
    split
    · exact unbind_onlySectors u q
    · exact .refl u) _ _

theorem loadSectorsOf_onlySectors (s : State) (g : Image) (cell : Nat) : OnlySectors s (s.loadSectorsOf g cell) :=
  (OnlySectors.foldl (fun _ _ => writeRow_onlySectors ..) _ s).trans <|
    OnlySectors.foldl (fun _ _ => OnlySectors.foldl (fun _ _ => writeRow_onlySectors ..) _ _) _ _

theorem OnlySectors.apex {s t : State} (h : OnlySectors s t) : t.apex = s.apex := by
  obtain ⟨a, l, rfl⟩ := h
  rfl

/-- What is said of a cell with a fresh program of a launch, before its first bundle (R108, R418). -/
structure FreshCell (lid : BitVec 32) (t : State) : Prop where
  idle : t.seq.run = .idle
  user : t.seq.mode = .user
  tvec : t.sys.tvec = 0x7000
  regs : ∀ r : Reg, t.seq.regs[r] = 0
  sems : ∀ n : Fin 256, t.sems[n] = Sem.zero
  prog : ∃ pr, t.prog = some pr ∧ pr.lid = lid

section
variable {lid : BitVec 32} {s t : State}

/-- Only the sequencer, the trap vector, the semaphores and the program tell a fresh cell. -/
theorem FreshCell.congr (h : FreshCell lid s) (hseq : t.seq = s.seq) (hvec : t.sys.tvec = s.sys.tvec)
    (hsems : t.sems = s.sems) (hprog : t.prog = s.prog) : FreshCell lid t :=
  ⟨hseq ▸ h.idle, hseq ▸ h.user, hvec.trans h.tvec, hseq ▸ h.regs, hsems ▸ h.sems, hprog ▸ h.prog⟩

theorem FreshCell.of_onlySectors (h : FreshCell lid s) (hst : OnlySectors s t) : FreshCell lid t := by
  obtain ⟨a, l, rfl⟩ := hst
  exact h.congr rfl rfl rfl rfl

theorem FreshCell.onHl (h : FreshCell lid s) (f : Health → Health) : FreshCell lid (s.onHl f) := h.congr rfl rfl rfl rfl

theorem FreshCell.onAnn (h : FreshCell lid s) (f : Annulus → Annulus) : FreshCell lid (s.onAnn f) := h.congr rfl rfl rfl rfl

theorem FreshCell.mbox (h : FreshCell lid s) (m : Vector Word 16) : FreshCell lid (s.onSys fun r => { r with mbox := m }) :=
  h.congr rfl rfl rfl rfl

end

/-- The state of a first bundle is fresh (R108). -/
theorem freshProgram_fresh {s : State} {pr : Prog} (h : s.prog = some pr) (entry : BitVec 15) :
    FreshCell pr.lid (s.freshProgram entry) := by
  obtain ⟨a, l, hp⟩ := resetPorts_onlySectors s
  unfold State.freshProgram
  rw [hp]
  exact ⟨rfl, rfl, rfl, fun r => by simp [State.onSeq, State.onSys, State.onSh, State.onAnn, Seq.reset], fun n => by simp, pr, h, rfl⟩

@[simp] theorem freshProgram_apex (s : State) (entry : BitVec 15) : (s.freshProgram entry).apex = s.apex := by
  obtain ⟨a, l, hp⟩ := resetPorts_onlySectors s
  unfold State.freshProgram
  rw [hp]
  rfl

theorem launchRegs_apex (s : State) (l : LaunchRec) : (s.launchRegs l).apex = s.apex := by
  unfold State.launchRegs
  exact State.onSys_apex ..

/-- The note of a loaded program leaves the Apex. -/
theorem withProg_apex (s : State) (pr : Option Prog) (b : Bool) : ({ s with prog := pr, firmware := b } : State).apex = s.apex := rfl

@[simp] theorem loadProgram_apex (s : State) (l : LaunchRec) : (s.loadProgram l).apex = s.apex := by
  unfold State.loadProgram
  exact (withProg_apex ..).trans <| (State.onCp_apex ..).trans <| (State.onSeq_apex ..).trans (launchRegs_apex s l)

@[simp] theorem loadSectorsOf_apex (s : State) (g : Image) (cell : Nat) : (s.loadSectorsOf g cell).apex = s.apex :=
  (loadSectorsOf_onlySectors ..).apex

@[simp] theorem becomePred_apex (s : State) (lid : BitVec 32) (st : BitVec 16) : (s.becomePred lid st).apex = s.apex := by
  simp only [State.becomePred, State.onAnn_apex, State.onTm_apex, State.onCp_apex, State.onSh_apex, State.onMx_apex]

/-- A loaded cell is fresh (R418). -/
theorem loadCell_fresh (s : State) (l : LaunchRec) : FreshCell l.lid (s.loadCell l) := by
  have hload : ∀ (u : State) c, FreshCell l.lid ((u.loadProgram l).freshProgram c) := fun u c =>
    freshProgram_fresh (pr := l.prog _) rfl c
  unfold State.loadCell
  dsimp only
  exact ((((hload ..).mbox _).onAnn _).of_onlySectors (loadSectorsOf_onlySectors ..)).onHl _

/-- A load is no matter of the Apex. -/
@[simp] theorem loadCell_apex (s : State) (l : LaunchRec) : (s.loadCell l).apex = s.apex := by
  unfold State.loadCell
  dsimp only
  simp only [State.onHl_apex, loadSectorsOf_apex, State.onAnn_apex, State.onSys_apex, freshProgram_apex, loadProgram_apex]
  split
  · exact becomePred_apex ..
  · rfl

/-! ## A launch is placed -/

/-- The record of a launch that has just been placed (R418). -/
def placed (e : HeapEnt) (p : LaunchPkt) (g : Image) (lid : BitVec 32) (o xy : Nat × Nat) (k : Nat) (wins : List Window) :
    LaunchRec :=
  { lid := lid, entry := e.id, q := e.q, pkt := p, img := g, shape := k, rx := o.1, ry := o.2, px := xy.1, py := xy.2,
    st := .loading, ready := [], halts := [], t0 := 0, began := 0, ran := 0, wdogged := false, bank := 0, committed := none,
    acked := [], lastCk := none, suspend := false, handle := 0, ver := 0, wins := wins, ctx := none, openCk := none, heldCk := none }

/-- The Apex's account of a placed launch: a number, a record, and its packet's entry running (R418). -/
def State.accounted (s : State) (e : HeapEnt) (l : LaunchRec) : State :=
  (s.onApex fun a => { a with nextLid := a.nextLid + 1, launches := a.launches ++ [l] }).onHeap e.id fun e =>
    { e with st := .running, lid := l.lid }

/-- The launch's cell, if it is one, is loaded. -/
def State.loadedFor (s t : State) (l : LaunchRec) : State := if l.holdsCell s.phys then t.loadCell l else t

section
variable {s : State} {e : HeapEnt} {p : LaunchPkt} {g : Image} {o xy : Nat × Nat} {k : Nat} {wins : List Window}

/-- A launch of this module alone is told to no other (R420). -/
theorem tell_alone (hml : p.mlog = 0) (ht : g.timed = false) (u : State) (lid : BitVec 32) (t0 : Nat) :
    u.tell e p g lid o t0 = u := by
  simp [State.tell, State.mates, hml, ht]

/-- An untimed launch of this module alone that finds its shape, its windows and the power is placed, and its start planned
(R418). -/
theorem place_untimed (htold : e.told = none) (hml : p.mlog = 0) (ht : g.timed = false)
    (hs : pickShape g (s.fencesFor p) o p = some (k, xy)) (hw : s.pinWindows s.apex.queues[e.q] g (o, p.w, p.h) = some wins)
    (hc : s.overCap s.apex.nextLid g k = false) : ∃ n c, s.place e p g o =
      State.plan (s.now + 1 + n) rankRead (.ev (.cellStart s.apex.nextLid))
        { s.loadedFor (s.accounted e (placed e p g s.apex.nextLid o xy k wins)) (placed e p g s.apex.nextLid o xy k wins) with
          freeCtr := c } := by
  unfold State.place
  simp only [hs, hw, hc, htold, Option.map_none, Option.getD_none, Bool.false_eq_true, if_false, tell_alone hml ht, ht, hml, ne_eq,
    not_true_eq_false]
  exact ⟨_, _, rfl⟩

/-- The only packet of a heap is held by no barrier (R412). -/
theorem alone_notBarred (h : s.apex.heap = [e]) : s.apex.barred e = false := by
  simp [Apex.barred, Apex.firstInQueue, h]

/-- An admitted packet without a context whose rectangle is free is placed there (R417). -/
theorem tryEntry_admitted (hh : s.apex.heap = [e]) (hd : e.done = none) (hst : e.st = .admitted)
    (hb : e.body = .launch p (some g)) (hctx : p.ctx = 0)
    (hf : (originsOf s.apex.queues[e.q] p).find? (s.mayStand p g) = some o) (hho : s.holders p o = []) :
    s.tryEntry e = some (s.place e p g o) := by
  unfold State.tryEntry
  simp only [hb, hd, hst, alone_notBarred hh, hctx, hf, hho, State.dispatchAt, Option.isSome_none, Bool.or_self,
    Bool.false_eq_true, if_false, if_true, List.any_nil, Bool.false_and]

/-- With one packet that can be dispatched, DISPATCH dispatches it and looks again (R417). -/
theorem dispatch_alone {t : State} (hh : s.apex.heap = [e]) (hw : s.apex.fwWait = false) (hf : s.apex.frozen = none)
    (ht : s.tryEntry e = some t) :
    exec .dispatch s = .next (({ t with freeCtr := t.freeCtr + 1 } : State).plan s.now rankEnd (.ev .dispatch)) := by
  show execDispatch s = _
  simp [execDispatch, State.thawed, hf, hw, hh, insertHeap, ht]

/-- The record of a placed launch stands last, its packet's entry runs, and the next launch gets the next number. -/
theorem accounted_apex (l : LaunchRec) (hh : s.apex.heap = [e]) : (s.accounted e l).apex.nextLid = s.apex.nextLid + 1 ∧
    (s.accounted e l).apex.heap = [{ e with st := .running, lid := l.lid }] ∧
    (s.accounted e l).apex.launches = s.apex.launches ++ [l] :=
  ⟨rfl, onHeap_single (by exact hh) _, rfl⟩

@[simp] theorem loadedFor_apex (t : State) (l : LaunchRec) : (s.loadedFor t l).apex = t.apex := by
  unfold State.loadedFor
  split
  · exact loadCell_apex ..
  · rfl

theorem loadedFor_fresh (t : State) {l : LaunchRec} (h : l.holdsCell s.phys = true) : FreshCell l.lid (s.loadedFor t l) := by
  rw [State.loadedFor, if_pos h]
  exact loadCell_fresh ..

theorem loadedFor_elsewhere (t : State) {l : LaunchRec} (h : l.holdsCell s.phys = false) : s.loadedFor t l = t := by
  simp [State.loadedFor, h]

/-- What DISPATCH leaves of a launch that is placed: the Apex's account, the start on the agenda, and the cell loaded if it is one
of the launch's (R417, R418). -/
theorem dispatch_places {l : LaunchRec} (hl : l = placed e p g s.apex.nextLid o xy k wins) (hh : s.apex.heap = [e])
    (hfw : s.apex.fwWait = false) (hfz : s.apex.frozen = none)
    (htry : s.tryEntry e = some (s.place e p g o)) (htold : e.told = none) (hml : p.mlog = 0) (ht : g.timed = false)
    (hs : pickShape g (s.fencesFor p) o p = some (k, xy)) (hw : s.pinWindows s.apex.queues[e.q] g (o, p.w, p.h) = some wins)
    (hc : s.overCap s.apex.nextLid g k = false) : Completes .dispatch s fun t => t.apex = (s.accounted e l).apex ∧
      (∃ cyc, s.now < cyc ∧ t.planned cyc rankRead (.ev (.cellStart s.apex.nextLid))) ∧
      (l.holdsCell s.phys = true → FreshCell l.lid t) ∧ (l.holdsCell s.phys = false → SameCore s t ∧ t.prog = s.prog) := by
  obtain ⟨n, c, hplace⟩ := place_untimed htold hml ht hs hw hc
  have hapex := loadedFor_apex (s := s) (s.accounted e l) l
  have hfresh : l.holdsCell s.phys = true → FreshCell l.lid (s.loadedFor (s.accounted e l) l) := loadedFor_fresh _
  have hcore : l.holdsCell s.phys = false → SameCore s (s.loadedFor (s.accounted e l) l) ∧
      (s.loadedFor (s.accounted e l) l).prog = s.prog := fun h => by
    rw [loadedFor_elsewhere _ h]
    exact ⟨⟨rfl, rfl, rfl, rfl⟩, rfl⟩
  rw [← hl] at hplace
  generalize s.loadedFor (s.accounted e l) l = u at hplace hapex hfresh hcore
  refine ⟨_, dispatch_alone hh hfw hfz (htry.trans (congrArg some hplace)), hapex, ⟨s.now + 1 + n, by omega, ?_⟩,
    fun h => (hfresh h).congr rfl rfl rfl rfl, hcore⟩
  exact plan_keeps (plan_planned ..)

end

end Sys2Proof.Machine
end

section
/-! PROOF. What the Apexes of a launch's modules tell each other (R25, R420), and with it the admission of launches. -/

namespace Sys2Proof.Machine

/-! ## Entries and records found again -/

/-- What stands under a key is found again after a change of what stands there that keeps the keys. -/
theorem find?_map_key {α β : Type} [DecidableEq β] {key : α → β} {k : β} {g : α → α} (hg : ∀ x, key (g x) = key x) (l : List α) :
    (l.map g).find? (fun x => decide (key x = k)) = (l.find? fun x => decide (key x = k)).map g := by
  rw [List.find?_map]
  congr 2
  funext x
  simp [hg]

/-- An entry that ends has its record due (R413). -/
theorem finishEntry_done (s : State) (id : Nat) (st cs : BitVec 16) (h : Word) :
    EntryDone s id st cs h (s.finishEntry id st cs h) := fun e he hd => by
  have hid : e.id = id := by simpa using List.find?_some he
  have hfind : s.apex.heap.find? (fun x => decide (x.id = id)) = some e := he
  show ((s.apex.heap.map fun x => if x.id = id && x.done.isNone then { x with done := some (st, cs, h) } else x).find?
    fun x => decide (x.id = id)) = _
  rw [find?_map_key (fun x => by split <;> rfl), hfind]
  simp [hid, hd]

/-- Only the heap tells whether an entry's record is due. -/
theorem entryDone_congr {s s' t t' : State} {id : Nat} {st cs : BitVec 16} {h : Word} (hd : EntryDone s id st cs h t)
    (hs : s'.apex.heap = s.apex.heap) (ht : t'.apex.heap = t.apex.heap) : EntryDone s' id st cs h t' := by
  unfold EntryDone State.heapEnt at *
  rwa [hs, ht]

/-- A launch's record after a change of it. -/
theorem launchOf_onLaunch {s : State} {lid : BitVec 32} {l : LaunchRec} {f : LaunchRec → LaunchRec} (h : s.launchOf lid = some l)
    (hf : ∀ m, (f m).lid = m.lid) : (s.onLaunch lid f).launchOf lid = some (f l) := by
  have hid : l.lid = lid := by simpa using List.find?_some h
  have hfind : s.apex.launches.find? (fun m => decide (m.lid = lid)) = some l := h
  show ((s.apex.launches.map fun m => if m.lid = lid then f m else m).find? fun m => decide (m.lid = lid)) = _
  rw [find?_map_key (fun m => by split <;> simp [hf]), hfind]
  simp [hid]

/-! ## The messages of a packet -/

section
variable {s : State} {e : HeapEnt} {p : LaunchPkt} {g : Image} (hh : s.apex.heap = [e]) (hd : e.done = none) (hst : e.st = .asking)
include hh hd hst

/-- The entry that waits for the other modules is the one that their messages name. -/
theorem sharedEnt_single {r : Bool} (hr : e.remote = r) : s.sharedEnt r e.stag = some e := by
  simp [State.sharedEnt, hh, hd, hst, hr]

/-- One module that refuses a launch drops it (R420). -/
theorem takeVerdict_no (hr : e.remote = false) (hb : e.body = .launch p (some g)) :
    s.takeVerdict e.stag false = (s.finishEntry e.id 0x0100 0 0).emit (.remote (.drop e.stag)) := by
  simp [State.takeVerdict, sharedEnt_single hh hd hst hr, hb]

/-- While modules are missing, an admission is counted (R420). -/
theorem takeVerdict_one (hr : e.remote = false) (hb : e.body = .launch p (some g)) (hm : e.agreed + 1 < s.mates p g.timed) :
    s.takeVerdict e.stag true = s.onHeap e.id fun e => { e with agreed := e.agreed + 1 } := by
  simp [State.takeVerdict, sharedEnt_single hh hd hst hr, hb, hm]

/-- The last admission admits the launch (R420). -/
theorem takeVerdict_last (hr : e.remote = false) (hb : e.body = .launch p (some g)) (hm : s.mates p g.timed ≤ e.agreed + 1) :
    s.takeVerdict e.stag true = (s.onHeap e.id fun e => { e with st := .admitted, agreed := e.agreed + 1 }).look := by
  simp [State.takeVerdict, sharedEnt_single hh hd hst hr, hb, Nat.not_lt.2 hm]

/-- The first module's word gives the rectangle and the start (R25, R420). -/
theorem takePlace_told (hr : e.remote = true) (lid : BitVec 32) (x y t0 : Nat) : s.takePlace e.stag lid x y t0 =
    (s.onHeap e.id fun e => { e with st := .admitted, told := some (lid, t0), body := e.body.moved x y }).look := by
  simp [State.takePlace, sharedEnt_single hh hd hst hr]

end

/-- A changed entry of one packet that does not run is looked at, and nothing else happens. -/
theorem onHeap_look {s : State} {e : HeapEnt} {f : HeapEnt → HeapEnt} (hh : s.apex.heap = [e]) (hf : (f e).st ≠ .running) :
    SameCore s (s.onHeap e.id f).look ∧ (s.onHeap e.id f).look.apex.heap = [f e] := by
  have hheap := onHeap_single hh f
  obtain ⟨hc, ha, -, -⟩ := (look_single hheap hf).frame
  exact ⟨hc, (congrArg Apex.heap ha).trans hheap⟩

/-! ## The end on another module -/

@[simp] theorem freeKept_apex (s : State) (x : SavedCtx) : (s.freeKept x).apex = s.apex := rfl

@[simp] theorem abandon_apex (s : State) (f : Cmd → Bool) (w : Bool) : (s.abandon f w).apex = s.apex := rfl

@[simp] theorem stopLanes_apex (s : State) : s.stopLanes.apex = s.apex := by
  obtain ⟨a, l, hp⟩ := resetPorts_onlySectors s
  unfold State.stopLanes
  rw [hp]
  rfl

@[simp] theorem discard_apex (s : State) (lid : BitVec 32) : (s.discard lid).apex = s.apex := by
  have hkept : ∀ (l : List SavedCtx) (u : State), (l.foldl (fun t x => t.freeKept x) u).apex = u.apex := fun l => by
    induction l with
    | nil => exact fun _ => rfl
    | cons x l ih => exact fun u => (ih _).trans (freeKept_apex u x)
  unfold State.discard
  dsimp only [State.prune]
  split <;> split <;> exact hkept _ s

/-- The end of a program is no matter of the Apex. -/
@[simp] theorem endProgram_apex (s : State) (lid : BitVec 32) : (s.endProgram lid).apex = s.apex := by
  unfold State.endProgram
  dsimp only
  split
  · exact discard_apex ..
  · split
    · exact discard_apex ..
    · simp only [State.onSeq_apex, State.onSys_apex, State.freeSectors, State.onAnn_apex, stopLanes_apex, abandon_apex,
        discard_apex]

/-- The Apex lets go of one launch's record, and keeps its heap. -/
theorem dropLaunch_apex (s : State) (l : LaunchRec) : (s.dropLaunch l).apex.heap = s.apex.heap ∧
    (s.dropLaunch l).apex.launches = s.apex.launches.filter fun m => m.lid ≠ l.lid := by
  unfold State.dropLaunch
  dsimp only
  split <;> exact ⟨rfl, rfl⟩

/-- A launch that ends on this module is let go, with its packet's record due (R414). -/
theorem endHere_ended {s : State} {l : LaunchRec} {st : BitVec 16} (h : s.launchOf l.lid = some l) (hp : s.pred = none)
    (hst : st ≠ 0x020D) : LaunchEnded s l st (firstStatus l.halts) (s.endHere l.lid st 0) := by
  have hpred : s.endPred l.lid = s := by simp [State.endPred, hp]
  have hfind : s.apex.launches.find? (fun m => decide (m.lid = l.lid)) = some l := h
  have hend : s.endHere l.lid st 0 = (((s.endProgram l.lid).dropLaunch l).finishEntry l.entry st (firstStatus l.halts) 0).plan
      s.now rankEnd (.ev .dispatch) := by
    unfold State.endHere
    simp only [hpred, hfind, hst, if_false]
  obtain ⟨hheap, hlaunches⟩ := dropLaunch_apex (s.endProgram l.lid) l
  rw [endProgram_apex] at hheap hlaunches
  rw [hend]
  generalize (s.endProgram l.lid).dropLaunch l = u at hheap hlaunches
  have hl : ((u.finishEntry l.entry st (firstStatus l.halts) 0).plan s.now rankEnd (.ev .dispatch)).apex.launches =
    s.apex.launches.filter fun m => m.lid ≠ l.lid := hlaunches
  refine ⟨fun m hm => ?_, fun m hm hne => ?_, entryDone_congr (finishEntry_done u _ _ _ _) hheap.symm rfl⟩
  · rw [hl] at hm
    simpa using (List.mem_filter.1 hm).2
  · rw [hl]
    exact List.mem_filter.2 ⟨hm, by simpa using hne⟩

/-! ## A resume and a pre-emption together -/

/-- The cell, the clock, the counter and the Apex are the same. -/
def SameClock (s t : State) : Prop := SameCore s t ∧ t.apex = s.apex ∧ t.now = s.now ∧ t.ax.value = s.ax.value

theorem SameClock.trans {s t u : State} (h : SameClock s t) (g : SameClock t u) : SameClock s u := by
  obtain ⟨⟨a, b, c, d⟩, e, f, i⟩ := h
  obtain ⟨⟨a', b', c', d'⟩, e', f', i'⟩ := g
  exact ⟨⟨a'.trans a, b'.trans b, c'.trans c, d'.trans d⟩, e'.trans e, f'.trans f, i'.trans i⟩

theorem armDie_sameClock (s : State) (l : LaunchRec) : SameClock s (s.armDie l) := by
  unfold State.armDie
  dsimp only
  split <;> split <;> exact ⟨⟨rfl, rfl, rfl, rfl⟩, rfl, rfl, rfl⟩

theorem fillSlots_sameClock (s : State) (l : LaunchRec) (k start : Nat) : SameClock s (s.fillSlots l k start) :=
  ⟨⟨rfl, rfl, rfl, rfl⟩, rfl, rfl, rfl⟩

theorem planFor_sameClock (s : State) (v r : Nat) (a : Act) : SameClock s (s.planFor v r a) :=
  ⟨⟨rfl, rfl, rfl, rfl⟩, rfl, rfl, rfl⟩

/-- A counter value's event stands on the agenda for its first look. -/
theorem planFor_planned (s : State) (v r : Nat) (a : Act) : (s.planFor v r a).planned (s.now + lookAhead (v - s.absc)) r a :=
  plan_planned ..

/-- The dies, the bank cycles and the start of a launch that is resumed (R435). -/
def State.rearmed (t1 : Nat) (l : LaunchRec) (s : State) : State :=
  let t := s.armDie l
  match l.ctx with
  | some c => (t.fillSlots l c.seg.idx t1).planFor (t1 + c.rel + c.gap) rankRead (.ev (.resumeStart l.placement))
  | none => t.planFor t1 rankRead (.ev (.resumeStart l.placement))

theorem rearmed_sameClock (t1 : Nat) (l : LaunchRec) (s : State) : SameClock s (s.rearmed t1 l) := by
  unfold State.rearmed
  dsimp only
  split
  · exact ((armDie_sameClock s l).trans (fillSlots_sameClock ..)).trans (planFor_sameClock ..)
  · exact (armDie_sameClock s l).trans (planFor_sameClock ..)

/-- A resume puts the launch's record and its deadline in place, and leaves the cell (R435). -/
theorem armResume_arms (t1 : Nat) (l : LaunchRec) (s : State) : SameCore s (s.armResume t1 l) ∧
    (s.armResume t1 l).apex = (s.onLaunch l.lid fun l => { l with st := .resuming, t0 := t1, ready := [] }).apex ∧
    (s.armResume t1 l).planned (s.now + lookAhead (t1 - 4096 - s.absc)) rankEnd (.ev (.armingDeadline l.lid)) := by
  obtain ⟨⟨hseq, hann, hsems, hsys⟩, hapex, hnow, hval⟩ :=
    rearmed_sameClock t1 l (s.onLaunch l.lid fun l => { l with st := .resuming, t0 := t1, ready := [] })
  have heq : s.armResume t1 l =
      let f := (((s.onLaunch l.lid fun l => { l with st := .resuming, t0 := t1, ready := [] }).rearmed t1 l).planFor (t1 - 4096)
        rankEnd (.ev (.armingDeadline l.lid))).fresh
      if s.runsHere l then f.2.plan (s.now + 1 + Config.freeDelay f.1) rankEnd (.ev (.readyReport l.lid s.self)) else f.2 := rfl
  rw [heq]
  generalize (s.onLaunch l.lid fun l => { l with st := .resuming, t0 := t1, ready := [] }).rearmed t1 l = u at *
  have hplan := planFor_planned u (t1 - 4096) rankEnd (.ev (.armingDeadline l.lid))
  rw [show u.now = s.now from hnow, show u.absc = s.absc from congrArg BitVec.toNat hval] at hplan
  dsimp only
  split
  · exact ⟨⟨hseq, hann, hsems, hsys⟩, hapex, plan_keeps hplan⟩
  · exact ⟨⟨hseq, hann, hsems, hsys⟩, hapex, hplan⟩

/-- A pre-emption puts the launch's record and the request in place, and leaves the cell (R422). -/
theorem requestHere_requests (full : Bool) (atP : Option Nat) (l : LaunchRec) (s : State) : SameCore s (s.requestHere full atP l) ∧
    (s.requestHere full atP l).apex = (s.onLaunch l.lid fun l => { l with st := .saving, full := full, ctx := none }).apex ∧
    .request l.lid full atP ∈ (s.requestHere full atP l).out := by
  unfold State.requestHere SameCore
  dsimp only
  split <;> simp [State.onLaunch]

/-- The record of a launch is found in the Apex alone. -/
theorem launchOf_congr {s t : State} (h : t.apex = s.apex) (lid : BitVec 32) : t.launchOf lid = s.launchOf lid := by
  rw [State.launchOf, h, State.launchOf]

/-! ## The obligation -/

/-- Settles O55: the tests of a packet do not see its own entry, a lone packet on a free rectangle is placed, and each message finds
the one entry or record that it names. -/
theorem launchesAreAdmitted : Obligations.LaunchesAreAdmitted := by
  intro q p g code k o xy e wins s hfw hfz d enters tells still q0 far
  refine ⟨fun hh => ⟨fun hr => ?_, fun hr ha => ?_, fun hr ha hm => ?_, fun hr ha hm => ?_, fun hr => ?_, fun hr ha => ?_,
    fun hr ha => ?_, ⟨s, dispatch_empty hh hfw hfz, rfl⟩⟩, ?_, ?_⟩
  · obtain ⟨hc, -, hl⟩ := launchIn_refused hh hfw hr
    exact ⟨_, rfl, hc, trivial, hl⟩
  · obtain ⟨hc, -, hl⟩ := launchIn_notAdmitted hh hfw hr ha
    exact ⟨_, rfl, hc, trivial, hl⟩
  · exact ⟨_, congrArg Host.Outcome.next (launchIn_letIn hh hfw hr ha), letIn_admitted hm⟩
  · exact ⟨_, congrArg Host.Outcome.next (launchIn_letIn hh hfw hr ha), letIn_asking hm⟩
  · obtain ⟨hc, ho, hl⟩ := launchIn_refused hh hfw hr
    exact ⟨_, rfl, hc, ho rfl, hl⟩
  · obtain ⟨hc, ho, hl⟩ := launchIn_notAdmitted hh hfw hr ha
    exact ⟨_, rfl, hc, ho rfl, hl⟩
  · exact ⟨_, congrArg Host.Outcome.next (launchIn_letIn hh hfw hr ha), letIn_remote⟩
  · intro hh hd hst hb hctx hq hml ht htold hf hho hs hw hc
    subst hq
    obtain ⟨t, hex, hap, hstart, hfresh, helse⟩ :=
      dispatch_places rfl hh hfw hfz (tryEntry_admitted hh hd hst hb hctx hf hho) htold hml ht hs hw hc
    obtain ⟨hn, hheap, hl⟩ := accounted_apex (placed e p g s.apex.nextLid o xy k wins) hh
    rw [← hap] at hn hheap hl
    refine ⟨t, hex, hn, hheap, hstart, _, hl, rfl, rfl, rfl, rfl, rfl, rfl, rfl, rfl, fun h => ?_, helse⟩
    obtain ⟨hi, hu, hv, hr, hsm, hp⟩ := hfresh h
    exact ⟨hi, hu, hv, hr, hsm, hp⟩
  · intro img x y t0 full atP l hh hears asked
    refine ⟨fun ⟨hd, hst, hb⟩ hr => ⟨?_, fun hm => ?_, fun hm => ?_⟩, fun ⟨hd, hst, hb⟩ hr => ⟨?_, ?_⟩,
      fun hl hp => ⟨fun st hst => ?_, fun hst hback => ?_, fun hst => ?_⟩⟩
    · exact ⟨_, congrArg Host.Outcome.next (takeVerdict_no hh hd hst hr hb), ⟨rfl, rfl, rfl, rfl⟩, finishEntry_done _ _ _ _ _,
        List.mem_append_right _ (List.mem_singleton_self _)⟩
    · exact ⟨_, congrArg Host.Outcome.next (takeVerdict_one hh hd hst hr hb hm), ⟨rfl, rfl, rfl, rfl⟩, onHeap_single hh _⟩
    · exact ⟨_, congrArg Host.Outcome.next (takeVerdict_last hh hd hst hr hb hm), onHeap_look hh nofun⟩
    · obtain ⟨hc, hheap⟩ := onHeap_look (f := fun e => { e with st := .admitted, told := some (l.lid, t0), body := e.body.moved x y })
        hh nofun
      refine ⟨_, congrArg Host.Outcome.next (takePlace_told hh hd hst hr l.lid x y t0), hc, ?_⟩
      exact hheap.trans (by rw [hb]; rfl)
    · refine ⟨s.finishEntry e.id 0x0100 0 0, ?_, ⟨rfl, rfl, rfl, rfl⟩, finishEntry_done _ _ _ _ _⟩
      show execRemoteLaunch (.drop e.stag) img s = _
      simp [execRemoteLaunch, sharedEnt_single hh hd hst hr]
    · refine ⟨s.endHere l.lid st 0, ?_, endHere_ended hl hp hst⟩
      show execRemoteLaunch (.ended l.lid st) img s = _
      simp [execRemoteLaunch, State.takeEnded, hl]
    · obtain ⟨hc, ha, hpl⟩ := armResume_arms t0 l s
      refine ⟨s.armResume t0 l, ?_, hc, _, (launchOf_congr ha _).trans (launchOf_onLaunch hl fun _ => rfl), rfl, rfl, hpl⟩
      show execRemoteLaunch (.arm l.lid t0) img s = _
      simp [execRemoteLaunch, hl, hst, hback]
    · obtain ⟨hc, ha, ho⟩ := requestHere_requests full atP l s
      refine ⟨s.requestHere full atP l, ?_, hc, ho, (launchOf_congr ha _).trans (launchOf_onLaunch hl fun _ => rfl)⟩
      show execRemoteLaunch (.preempt l.lid full atP) img s = _
      simp [execRemoteLaunch, hl, hst]

end Sys2Proof.Machine
end

section
/-! PROOF. Scalar FP32: the classes of a code, the results fixed without rounding, and the order of codes as the order of their
values (R35, R38, R94, R102, R103). -/

namespace Sys2Proof.Machine

/-! ## The classes of an FP32 code -/

theorem lo32_lt (v : Word) : lo32 v < 2 ^ 32 := Nat.mod_lt _ (by decide)

section
variable {c : Nat}

theorem f32_mag (c : Nat) : f32.mag c = c % 2 ^ 31 := rfl

theorem f32_isNaN (c : Nat) : f32.isNaN c = decide (0x7F800000 < c % 2 ^ 31) := rfl

theorem f32_isInf (c : Nat) : f32.isInf c = decide (c % 2 ^ 31 = 0x7F800000) := by
  rw [Bool.eq_iff_iff, decide_eq_true_eq, FFormat.isInf, beq_iff_eq, f32_mag, eq_comm]
  exact Option.some_inj

theorem f32_isZero (c : Nat) : f32.isZero c = decide (c % 2 ^ 31 = 0) := rfl

theorem f32_sign (h : c < 2 ^ 32) : f32.sign c = decide (2 ^ 31 ≤ c) := by
  rw [Bool.eq_iff_iff, decide_eq_true_eq, FFormat.sign, beq_iff_eq]
  show c / 2 ^ 31 % 2 = 1 ↔ _
  omega

/-- The signs of two codes differ when one of them alone has bit 31 set. -/
theorem f32_sign_bne {a b : Nat} (ha : a < 2 ^ 32) (hb : b < 2 ^ 32) :
    (f32.sign a != f32.sign b) = !decide (2 ^ 31 ≤ a ↔ 2 ^ 31 ≤ b) := by
  simp only [f32_sign ha, f32_sign hb, bne, Bool.beq_eq_decide_eq, decide_eq_decide]

/-- A code with its sign inverted stays a code, of the same magnitude and the other sign. -/
theorem fpFlip_f32 (h : c < 2 ^ 32) :
    fpFlip f32 c < 2 ^ 32 ∧ fpFlip f32 c % 2 ^ 31 = c % 2 ^ 31 ∧ (2 ^ 31 ≤ fpFlip f32 c ↔ ¬2 ^ 31 ≤ c) := by
  have hm : c % 2 ^ 31 < 2 ^ 31 := Nat.mod_lt _ (by decide)
  have hc : fpFlip f32 c = if 2 ^ 31 ≤ c then c % 2 ^ 31 else 2 ^ 31 + c % 2 ^ 31 := by
    simp only [fpFlip, f32_sign h, f32_mag, FFormat.code, Bool.not_eq_true', decide_eq_false_iff_not, ite_not]
    rfl
  rw [hc]
  split <;> omega

end

/-! ## Results fixed without rounding (R38, R103) -/

section
variable {F : FFormat} {r : Rnd} {sat : Bool} {a b v : Nat}

theorem firstNaN_pair (F : FFormat) (a b : Nat) : firstNaN F [a, b] =
    if F.isNaN a then some (F.quiet a) else if F.isNaN b then some (F.quiet b) else none := by
  cases ha : F.isNaN a <;> cases hb : F.isNaN b <;> simp [firstNaN, List.find?, ha, hb]

theorem firstNaN_single (F : FFormat) (a : Nat) : firstNaN F [a] = if F.isNaN a then some (F.quiet a) else none := by
  cases ha : F.isNaN a <;> simp [firstNaN, List.find?, ha]

/-- A NaN operand makes the result of every two-operand function the first NaN, quieted. -/
theorem fp_firstNaN (h : firstNaN F [a, b] = some v) : fpAdd F r sat a b = v ∧ fpSub F r sat a b = v ∧
    fpMul F r sat a b = v ∧ fpDiv F r sat a b = v ∧ fpMin F a b = v ∧ fpMax F a b = v := by
  simp only [fpAdd, fpSub, fpMul, fpDiv, fpMin, fpMax, h, and_self]

end

section
variable {r : Rnd} {a b : Nat}

theorem isNaN_of_isInf (h : a % 2 ^ 31 = 0x7F800000) : f32.isNaN a = false := by rw [f32_isNaN, h]; rfl

theorem isNaN_of_isZero (h : a % 2 ^ 31 = 0) : f32.isNaN a = false := by rw [f32_isNaN, h]; rfl

theorem firstNaN_none (ha : f32.isNaN a = false) (hb : f32.isNaN b = false) : firstNaN f32 [a, b] = none := by
  simp [firstNaN_pair, ha, hb]

/-- The first NaN of two FP32 operands, quieted. -/
theorem firstNaN_f32 (h : 0x7F800000 < a % 2 ^ 31 ∨ 0x7F800000 < b % 2 ^ 31) :
    firstNaN f32 [a, b] = some (if 0x7F800000 < a % 2 ^ 31 then f32.quiet a else f32.quiet b) := by
  simp only [firstNaN_pair, f32_isNaN, decide_eq_true_eq]
  by_cases ha : 0x7F800000 < a % 2 ^ 31
  · rw [if_pos ha, if_pos ha]
  · rw [if_neg ha, if_neg ha, if_pos (h.resolve_left ha)]

/-- Infinities of opposite signs have no sum. -/
theorem fpAdd_inf_opposite (hla : a < 2 ^ 32) (hlb : b < 2 ^ 32) (ha : a % 2 ^ 31 = 0x7F800000) (hb : b % 2 ^ 31 = 0x7F800000)
    (hs : 2 ^ 31 ≤ a ↔ ¬2 ^ 31 ≤ b) : fpAdd f32 r false a b = 0x7FC00000 := by
  have hd : (f32.sign a != f32.sign b) = true := by
    rw [f32_sign_bne hla hlb, decide_eq_false (by tauto), Bool.not_false]
  simp only [fpAdd, firstNaN_none (isNaN_of_isInf ha) (isNaN_of_isInf hb), f32_isInf, ha, hb, hd]
  rfl

/-- Infinities of one sign have no difference. -/
theorem fpSub_inf_same (hla : a < 2 ^ 32) (hlb : b < 2 ^ 32) (ha : a % 2 ^ 31 = 0x7F800000) (hb : b % 2 ^ 31 = 0x7F800000)
    (hs : 2 ^ 31 ≤ a ↔ 2 ^ 31 ≤ b) : fpSub f32 r false a b = 0x7FC00000 := by
  obtain ⟨hl, hm, hn⟩ := fpFlip_f32 hlb
  simp only [fpSub, firstNaN_none (isNaN_of_isInf ha) (isNaN_of_isInf hb)]
  exact fpAdd_inf_opposite hla hl ha (hm.trans hb) (hs.trans (by rw [hn, not_not]))

/-- An infinity times a zero is invalid. -/
theorem fpMul_inf_zero (h : a % 2 ^ 31 = 0x7F800000 ∧ b % 2 ^ 31 = 0 ∨ a % 2 ^ 31 = 0 ∧ b % 2 ^ 31 = 0x7F800000) :
    fpMul f32 r false a b = 0x7FC00000 := by
  rcases h with ⟨ha, hb⟩ | ⟨ha, hb⟩
  · simp only [fpMul, firstNaN_none (isNaN_of_isInf ha) (isNaN_of_isZero hb), f32_isInf, f32_isZero, ha, hb]
    rfl
  · simp only [fpMul, firstNaN_none (isNaN_of_isZero ha) (isNaN_of_isInf hb), f32_isInf, f32_isZero, ha, hb]
    rfl

/-- Two infinities, and two zeros, have no quotient. -/
theorem fpDiv_invalid (h : a % 2 ^ 31 = 0x7F800000 ∧ b % 2 ^ 31 = 0x7F800000 ∨ a % 2 ^ 31 = 0 ∧ b % 2 ^ 31 = 0) :
    fpDiv f32 r false a b = 0x7FC00000 := by
  rcases h with ⟨ha, hb⟩ | ⟨ha, hb⟩
  · simp only [fpDiv, firstNaN_none (isNaN_of_isInf ha) (isNaN_of_isInf hb), f32_isInf, ha, hb]
    rfl
  · simp only [fpDiv, firstNaN_none (isNaN_of_isZero ha) (isNaN_of_isZero hb), f32_isInf, f32_isZero, ha, hb]
    rfl

/-- A finite non-zero value over a zero is an infinity of the quotient's sign. -/
theorem fpDiv_by_zero (hla : a < 2 ^ 32) (hlb : b < 2 ^ 32) (hn : ¬0x7F800000 < a % 2 ^ 31) (hi : ¬a % 2 ^ 31 = 0x7F800000)
    (hz : ¬a % 2 ^ 31 = 0) (hb : b % 2 ^ 31 = 0) :
    fpDiv f32 r false a b = if 2 ^ 31 ≤ a ↔ 2 ^ 31 ≤ b then 0x7F800000 else 0xFF800000 := by
  have hna : f32.isNaN a = false := decide_eq_false hn
  simp only [fpDiv, firstNaN_none hna (isNaN_of_isZero hb), f32_isInf, f32_isZero, hi, hz, hb, f32_sign_bne hla hlb]
  by_cases h : 2 ^ 31 ≤ a ↔ 2 ^ 31 ≤ b <;> simp only [h] <;> rfl

theorem fpSqrt_nan (h : 0x7F800000 < a % 2 ^ 31) : fpSqrt f32 r false a = f32.quiet a := by
  have hn : f32.isNaN a = true := decide_eq_true h
  simp [fpSqrt, firstNaN_single, hn]

/-- The root of a zero is that zero. -/
theorem fpSqrt_zero (h : a % 2 ^ 31 = 0) : fpSqrt f32 r false a = a := by
  simp only [fpSqrt, firstNaN_single, isNaN_of_isZero h, f32_isZero, h]
  rfl

/-- A negative value has no root. -/
theorem fpSqrt_negative (hla : a < 2 ^ 32) (hs : 2 ^ 31 ≤ a) (hn : ¬0x7F800000 < a % 2 ^ 31) (hz : ¬a % 2 ^ 31 = 0) :
    fpSqrt f32 r false a = 0x7FC00000 := by
  have hna : f32.isNaN a = false := decide_eq_false hn
  simp only [fpSqrt, firstNaN_single, hna, f32_isZero, hz, f32_sign hla, hs]
  rfl

end

/-! ## The order of codes is the order of their values (R35, R103) -/

/-- The value of a magnitude code, in units of 2^-150. -/
def f32Units (m : Nat) : Nat := if m / 2 ^ 23 = 0 then 2 * (m % 2 ^ 23) else (2 ^ 23 + m % 2 ^ 23) * 2 ^ (m / 2 ^ 23)

/-- A magnitude code of a higher number has a higher value: within a binade, and from its end to the next one's start. -/
theorem f32Units_strictMono : StrictMono f32Units := by
  refine strictMono_nat_of_lt_succ fun m => ?_
  have hm := Nat.div_add_mod m (2 ^ 23)
  have hr : m % 2 ^ 23 < 2 ^ 23 := Nat.mod_lt _ (by decide)
  generalize hq : m / 2 ^ 23 = q at hm
  generalize m % 2 ^ 23 = f at hm hr
  have hp : 0 < 2 ^ q := Nat.two_pow_pos q
  by_cases hf : f + 1 < 2 ^ 23
  · have h1 : (m + 1) / 2 ^ 23 = q := by omega
    have h2 : (m + 1) % 2 ^ 23 = f + 1 := by omega
    have h3 : m % 2 ^ 23 = f := by omega
    simp only [f32Units, hq, h1, h2, h3]
    split
    · omega
    · exact Nat.mul_lt_mul_of_pos_right (by omega) hp
  · have h1 : (m + 1) / 2 ^ 23 = q + 1 := by omega
    have h2 : (m + 1) % 2 ^ 23 = 0 := by omega
    have h3 : m % 2 ^ 23 = 2 ^ 23 - 1 := by omega
    simp only [f32Units, hq, h1, h2, h3, Nat.pow_succ 2 q, Nat.add_one_ne_zero, if_false, Nat.add_zero]
    split
    · next h0 => subst h0; decide
    · omega

/-- The magnitude of a code with its sign: both zeros are 0. -/
def signedMag (c : Nat) : Int := if 2 ^ 31 ≤ c then -((c % 2 ^ 31 : Nat) : Int) else ((c % 2 ^ 31 : Nat) : Int)

/-- The value of a signed magnitude, in units of 2^-150. -/
def signedUnits (z : Int) : Int := z.sign * f32Units z.natAbs

theorem signedUnits_natCast (n : Nat) : signedUnits n = f32Units n := by
  cases n with
  | zero => rfl
  | succ n => rw [signedUnits, Int.sign_eq_one_of_pos (by omega), one_mul, Int.natAbs_natCast]

theorem signedUnits_neg (z : Int) : signedUnits (-z) = -signedUnits z := by
  rw [signedUnits, signedUnits, Int.sign_neg, Int.natAbs_neg, neg_mul]

theorem signedUnits_strictMono : StrictMono signedUnits := by
  refine strictMono_of_odd_strictMonoOn_nonneg signedUnits_neg fun x hx y hy hxy => ?_
  lift x to Nat using hx
  lift y to Nat using hy
  rw [signedUnits_natCast, signedUnits_natCast]
  exact_mod_cast f32Units_strictMono (Int.ofNat_lt.1 hxy)

theorem f32Val_eq (c : Nat) : f32Val c = (signedUnits (signedMag c) : ℚ) / 2 ^ 150 := by
  have hq : c / 2 ^ 23 % 256 = c % 2 ^ 31 / 2 ^ 23 := by omega
  have hf : c % 2 ^ 23 = c % 2 ^ 31 % 2 ^ 23 := by omega
  have hu : f32Val c = (if 2 ^ 31 ≤ c then -1 else 1) * (f32Units (c % 2 ^ 31) : ℚ) / 2 ^ 150 := by
    rw [f32Val, hq, hf]
    rfl
  rw [hu, signedMag]
  split
  · rw [signedUnits_neg, signedUnits_natCast, Int.cast_neg, Int.cast_natCast, neg_one_mul]
  · rw [signedUnits_natCast, Int.cast_natCast, one_mul]

theorem f32Val_lt_iff {a b : Nat} : f32Val a < f32Val b ↔ signedMag a < signedMag b := by
  rw [f32Val_eq, f32Val_eq, div_lt_div_iff_of_pos_right (by positivity), Int.cast_lt, signedUnits_strictMono.lt_iff_lt]

theorem f32Val_eq_iff {a b : Nat} : f32Val a = f32Val b ↔ signedMag a = signedMag b := by
  rw [f32Val_eq, f32Val_eq, div_left_inj' (by positivity), Int.cast_inj, signedUnits_strictMono.injective.eq_iff]

/-- The order key of a code is its signed magnitude, with -0 and the negative codes one lower (R103). -/
theorem f32_key {c : Nat} (h : c < 2 ^ 32) : f32.key c = if 2 ^ 31 ≤ c then signedMag c - 1 else signedMag c := by
  simp only [FFormat.key, f32_sign h, decide_eq_true_eq, f32_mag, signedMag]
  split <;> rfl

section
variable {a b : Nat} (ha : a < 2 ^ 32) (hb : b < 2 ^ 32)
include ha hb

theorem fpEq_f32_iff : fpEq f32 a b = true ↔
    (¬0x7F800000 < a % 2 ^ 31 ∧ ¬0x7F800000 < b % 2 ^ 31) ∧ f32Val a = f32Val b := by
  simp only [fpEq, f32_isNaN, f32_isZero, f32_key ha, f32_key hb, f32Val_eq_iff, signedMag, Bool.and_eq_true,
    Bool.or_eq_true, Bool.not_eq_true', decide_eq_false_iff_not, decide_eq_true_eq, beq_iff_eq]
  refine and_congr_right fun _ => ?_
  split <;> split <;> omega

theorem fpLt_f32_iff : fpLt f32 a b = true ↔
    (¬0x7F800000 < a % 2 ^ 31 ∧ ¬0x7F800000 < b % 2 ^ 31) ∧ f32Val a < f32Val b := by
  simp only [fpLt, f32_isNaN, f32_isZero, f32_key ha, f32_key hb, f32Val_lt_iff, signedMag, Bool.and_eq_true,
    Bool.not_eq_true', Bool.and_eq_false_imp, decide_eq_false_iff_not, decide_eq_true_eq, and_assoc]
  refine and_congr_right fun _ => and_congr_right fun _ => ?_
  split <;> split <;> omega

theorem fpLe_f32_iff : fpLe f32 a b = true ↔
    (¬0x7F800000 < a % 2 ^ 31 ∧ ¬0x7F800000 < b % 2 ^ 31) ∧ f32Val a ≤ f32Val b := by
  rw [fpLe, Bool.or_eq_true, fpLt_f32_iff ha hb, fpEq_f32_iff ha hb, ← and_or_left, le_iff_lt_or_eq]

/-- FMIN and FMAX of two values that are not NaNs, of which the first is the lower one. -/
theorem fpMinMax_lt (hn : ¬0x7F800000 < a % 2 ^ 31 ∧ ¬0x7F800000 < b % 2 ^ 31) (h : f32Val a < f32Val b) :
    (fpMin f32 a b = a ∧ fpMax f32 a b = b) ∧ fpMin f32 b a = a ∧ fpMax f32 b a = b := by
  have hna : f32.isNaN a = false := decide_eq_false hn.1
  have hnb : f32.isNaN b = false := decide_eq_false hn.2
  have hk : f32.key a < f32.key b := by
    rw [f32Val_lt_iff] at h
    rw [f32_key ha, f32_key hb]
    simp only [signedMag] at h ⊢
    split <;> split <;> omega
  simp only [fpMin, fpMax, firstNaN_none hna hnb, firstNaN_none hnb hna, if_pos hk, if_neg hk.asymm, and_self]

/-- FMIN and FMAX of two codes of one value: a zero of either sign has -0 for its lower code (R103). -/
theorem fpMinMax_eq (hn : ¬0x7F800000 < a % 2 ^ 31 ∧ ¬0x7F800000 < b % 2 ^ 31) (h : f32Val a = f32Val b) :
    fpMin f32 a b = max a b ∧ fpMax f32 a b = min a b := by
  have hna : f32.isNaN a = false := decide_eq_false hn.1
  have hnb : f32.isNaN b = false := decide_eq_false hn.2
  rw [f32Val_eq_iff] at h
  have hk : (f32.key b < f32.key a ↔ a < b) ∧ (f32.key a < f32.key b ↔ b < a) := by
    rw [f32_key ha, f32_key hb]
    simp only [signedMag] at h ⊢
    split <;> split <;> omega
  simp only [fpMin, fpMax, firstNaN_none hna hnb, hk.1, hk.2]
  split <;> split <;> omega

end

/-! ## The instructions (R94, R102, R103) -/

section
variable {i : Instr} {s : State} {l : List Reg} {xd xa xb : Reg} {lat : Nat} {residue : Bool} {v : Word}

/-- An FP32 operation of two readable registers gives its value of their low halves. -/
theorem fpOp2_gives {f : Nat → Nat → Word} (hi : exec i s = .next (fpOp2 lat residue f xd xa xb s)) (hr : s.ready l xd)
    (hv : f (lo32 (s.x xa)) (lo32 (s.x xb)) = v) (ha : xa ∈ l := by simp) (hb : xb ∈ l := by simp) : Gives i s (.x xd v) lat :=
  completes_of_guarded hi (by simp [ready_rd hr ha, ready_rd hr hb, ready_wr hr]) (hv ▸ putX_inFlight ..)

/-- An FP32 operation of one readable register gives its value of the low half. -/
theorem fpOp1_gives {f : Nat → Word} (hi : exec i s = .next (fpOp1 lat residue f xd xa s)) (hr : s.ready l xd)
    (hv : f (lo32 (s.x xa)) = v) (ha : xa ∈ l := by simp) : Gives i s (.x xd v) lat :=
  completes_of_guarded hi (by simp [ready_rd hr ha, ready_wr hr]) (hv ▸ putX_inFlight ..)

end

/-- The signed reading of 32 bits, as a double, reads as itself (R103). -/
theorem ofInt_sintOf_toInt (n : Nat) : (BitVec.ofInt 64 (sintOf 32 n)).toInt = sintOf 32 n := by
  have h : -2 ^ 31 ≤ sintOf 32 n ∧ sintOf 32 n < 2 ^ 31 := by
    have := Nat.mod_lt n (show 0 < 2 ^ 32 by decide)
    simp only [sintOf]
    split <;> omega
  rw [BitVec.toInt_ofInt, Int.bmod_eq_of_le (by omega) (by omega)]

/-- The signed reading of the low half of a double. -/
theorem sintOf_lo32 (x : Word) : sintOf 32 (lo32 x) = (x.setWidth 32).toInt := by
  rw [← sintOf_setWidth 32 x (by decide), sintOf, lo32, Nat.mod_mod, sintOf]

theorem boolWord_eq_ite {b : Bool} {p : Prop} [Decidable p] (h : b = true ↔ p) : boolWord b = if p then 1 else 0 := by
  simp only [boolWord, h]

/-- Settles O12: the operations by their one law; the special operands and the comparisons by the lemmas on codes above. -/
theorem floatArithmeticResults : Obligations.FloatArithmeticResults := by
  unfold Obligations.FloatArithmeticResults
  refine ⟨fun xd xa xb xc rnd sat s hr => ?_, fun xd xa xb rnd s hr => ?_, fun xd xa xb s hr => ?_⟩
  · have hffma : ∀ x ∈ [s.rdX xa, s.rdX xb, s.rdX xc, s.wrX xd], x = none := by
      simp [ready_rd hr (r := xa), ready_rd hr (r := xb), ready_rd hr (r := xc), ready_wr hr]
    exact ⟨fpOp2_gives rfl hr rfl, fpOp2_gives rfl hr rfl, fpOp2_gives rfl hr rfl,
      completes_of_guarded rfl hffma (putX_inFlight ..), fpOp2_gives rfl hr rfl, fpOp1_gives rfl hr rfl,
      fpOp1_gives rfl hr (by rw [sintOf_lo32]; rfl), _, fpOp1_gives rfl hr rfl, ofInt_sintOf_toInt _⟩
  · intro a b nan inf zero neg quieted dflt
    have hla : a < 2 ^ 32 := lo32_lt _
    have hlb : b < 2 ^ 32 := lo32_lt _
    refine ⟨fun h => ?_, fun h => fpOp1_gives rfl hr (congrArg fpWord (fpSqrt_nan h)),
      fun ⟨ha, hb, hs⟩ => fpOp2_gives rfl hr (congrArg fpWord (fpAdd_inf_opposite hla hlb ha hb hs)),
      fun ⟨ha, hb, hs⟩ => fpOp2_gives rfl hr (congrArg fpWord (fpSub_inf_same hla hlb ha hb hs)),
      fun h => fpOp2_gives rfl hr (congrArg fpWord (fpMul_inf_zero h)),
      fun h => fpOp2_gives rfl hr (congrArg fpWord (fpDiv_invalid h)),
      fun ⟨hn, hi, hz, hb⟩ => fpOp2_gives rfl hr
        ((congrArg fpWord (fpDiv_by_zero hla hlb hn hi hz hb)).trans (apply_ite ..)),
      fun h => fpOp1_gives rfl hr (congrArg fpWord (fpSqrt_zero h)),
      fun ⟨hs, hn, hz⟩ => fpOp1_gives rfl hr (congrArg fpWord (fpSqrt_negative hla hs hn hz))⟩
    obtain ⟨hadd, hsub, hmul, hdiv, hmin, hmax⟩ := fp_firstNaN (r := s.rndAt rnd 0) (sat := false) (firstNaN_f32 h)
    have word : ∀ {n}, n = (if nan a then f32.quiet a else f32.quiet b) →
        fpWord n = if nan a then quieted a else quieted b := fun h => (congrArg fpWord h).trans (apply_ite ..)
    exact ⟨fpOp2_gives rfl hr (word hadd), fpOp2_gives rfl hr (word hsub), fpOp2_gives rfl hr (word hmul),
      fpOp2_gives rfl hr (word hdiv), fpOp2_gives rfl hr (word hmin), fpOp2_gives rfl hr (word hmax)⟩
  · intro a b nan p
    have hla : a < 2 ^ 32 := lo32_lt _
    have hlb : b < 2 ^ 32 := lo32_lt _
    refine ⟨fpOp2_gives rfl hr (boolWord_eq_ite (fpEq_f32_iff hla hlb)),
      fpOp2_gives rfl hr (boolWord_eq_ite (fpLt_f32_iff hla hlb)),
      fpOp2_gives rfl hr (boolWord_eq_ite (fpLe_f32_iff hla hlb)), fun hp h => ?_, fun hp h => ?_, fun hp h => ?_⟩
    · obtain ⟨⟨hmin, hmax⟩, -⟩ := fpMinMax_lt hla hlb hp h
      exact ⟨fpOp2_gives rfl hr (congrArg fpWord hmin), fpOp2_gives rfl hr (congrArg fpWord hmax)⟩
    · obtain ⟨-, hmin, hmax⟩ := fpMinMax_lt hlb hla hp.symm h
      exact ⟨fpOp2_gives rfl hr (congrArg fpWord hmin), fpOp2_gives rfl hr (congrArg fpWord hmax)⟩
    · obtain ⟨hmin, hmax⟩ := fpMinMax_eq hla hlb hp h
      exact ⟨fpOp2_gives rfl hr (congrArg fpWord hmin), fpOp2_gives rfl hr (congrArg fpWord hmax)⟩

end Sys2Proof.Machine
end

section
/-! PROOF. Rows and vector instructions: elements and positions of a row, the positions that masks leave active, and what a
vector instruction whose checks are silent gives (R148, R150 to R152). -/

namespace Sys2Proof.Machine

/-! ## Elements of a row (R148) -/

/-- A field within the width of a vector is the number's own. -/
theorem toNat_ofNat_field {m k w : Nat} (n : Nat) (h : k + w ≤ m) :
    (BitVec.ofNat m n).toNat >>> k % 2 ^ w = n >>> k % 2 ^ w := by
  apply Nat.eq_of_testBit_eq
  intro i
  simp only [BitVec.toNat_ofNat, Nat.testBit_mod_two_pow, Nat.testBit_shiftRight]
  by_cases hi : i < w
  · simp [hi, show k + i < m by omega]
  · simp [hi]

/-- An element packed is the element found. -/
theorem packElems_elem (w : Nat) (l : List Nat) (e : Nat) : packElems w l >>> (w * e) % 2 ^ w = (l[e]?).getD 0 % 2 ^ w := by
  induction l generalizing e with
  | nil => simp [packElems]
  | cons x l ih =>
    have hx : x % 2 ^ w < 2 ^ w := Nat.mod_lt _ (Nat.two_pow_pos w)
    have hc : packElems w (x :: l) = 2 ^ w * packElems w l + x % 2 ^ w := by
      rw [Nat.mul_comm, ← Nat.shiftLeft_eq]; rfl
    cases e with
    | zero => simp [hc]
    | succ e =>
      have hd : packElems w (x :: l) >>> w = packElems w l := by
        rw [hc, Nat.shiftRight_eq_div_pow, Nat.mul_add_div (Nat.two_pow_pos w), Nat.div_eq_of_lt hx, Nat.add_zero]
      rw [Nat.mul_succ, Nat.add_comm, Nat.shiftRight_add, hd, ih, List.getElem?_cons_succ]

section
variable {w e : Nat}

theorem elem_lt (w : Nat) (r : Row) (e : Nat) : elem w r e < 2 ^ w := Nat.mod_lt _ (Nat.two_pow_pos w)

theorem elem_testBit (r : Row) {i : Nat} (h : i < w) : (elem w r e).testBit i = r.getLsbD (w * e + i) := by
  rw [elem, Nat.testBit_mod_two_pow, decide_eq_true h, Bool.true_and, Nat.testBit_shiftRight, BitVec.getLsbD]

theorem elem_rowOfElems (l : List Nat) (h : e < 4096 / w) : elem w (rowOfElems w l) e = (l[e]?).getD 0 % 2 ^ w := by
  have hle : w * e + w ≤ 4096 := by
    rw [← Nat.mul_succ]
    exact (Nat.mul_le_mul_left w h).trans (Nat.mul_div_le ..)
  rw [elem, rowOfElems, toNat_ofNat_field _ hle, packElems_elem]

theorem elem_rowMap (f : Nat → Nat) (h : e < 4096 / w) : elem w (rowMap w f) e = f e % 2 ^ w := by
  rw [rowMap, elem_rowOfElems _ h, List.getElem?_map, List.getElem?_range h, Option.map_some, Option.getD_some]

theorem elem_rowFill (x : Nat) (h : e < 4096 / w) : elem w (rowFill w x) e = x % 2 ^ w := by
  rw [rowFill, elem_rowOfElems _ h, List.getElem?_replicate_of_lt h, Option.getD_some]

end

/-! ## Positions (R148, R152) -/

/-- Every bit of position j of the spread mask is the mask's bit j. -/
theorem spread_getLsbD (cols : BitVec 128) {i j : Nat} (hj : j < 128) (hi : i < 32) :
    (spread cols).getLsbD (32 * j + i) = cols.getLsbD j := by
  have he : elem 32 (spread cols) j = if cols.getLsbD j then 2 ^ 32 - 1 else 0 := by
    rw [spread, elem_rowOfElems _ (by omega), List.getElem?_map, List.getElem?_range hj, Option.map_some, Option.getD_some]
    split <;> rfl
  rw [← elem_testBit _ hi, he]
  cases cols.getLsbD j
  · exact Nat.zero_testBit i
  · simpa [hi] using Nat.testBit_two_pow_sub_one 32 i

theorem position_getLsbD (r : Row) (j : Nat) {i : Nat} (hi : i < 32) : (position r j).getLsbD i = r.getLsbD (32 * j + i) := by
  rw [position, BitVec.getLsbD_extractLsb', decide_eq_true hi, Bool.true_and]

/-- A blended row has the new row's positions where the mask is set and the old row's elsewhere. -/
theorem position_blend (cols : BitVec 128) (new old : Row) {j : Nat} (hj : j < 128) :
    position (blend cols new old) j = if cols.getLsbD j then position new j else position old j := by
  unfold blend
  split
  · next h => rw [h, BitVec.getLsbD_allOnes, decide_eq_true hj, if_pos rfl]
  · apply BitVec.eq_of_getLsbD_eq
    intro i hi
    have hb : 32 * j + i < 4096 := by omega
    rw [apply_ite (BitVec.getLsbD · i)]
    simp only [position_getLsbD _ _ hi, BitVec.getLsbD_or, BitVec.getLsbD_and, BitVec.getLsbD_not, spread_getLsbD cols hj hi]
    cases cols.getLsbD j <;> simp [hb]

theorem cols_getLsbD (s : State) (mp : Fin 4) (cpl : Bool) {j : Nat} (hj : j < 128) :
    (s.cols mp cpl).getLsbD j = (s.seq.maskCol[mp].getLsbD j != cpl) := by
  cases cpl <;> simp [State.cols, hj]

/-- The positions that the masks leave active for a destination. -/
theorem activeCols_getLsbD (s : State) (c : VCtl) (od : VOp) {j : Nat} (hj : j < 128) :
    (s.activeCols c.mp c.cpl od).getLsbD j = s.active c od j := by
  cases od with
  | tile k row =>
    simp only [State.activeCols, State.active]
    cases s.seq.maskRow[c.mp].getLsbD row.val <;> simp [cols_getLsbD s c.mp c.cpl hj]
  | _ => simp [State.activeCols, State.active, cols_getLsbD s c.mp c.cpl hj]

/-- The positions written where the row mask alone gates. -/
theorem openCols_getLsbD (s : State) (c : VCtl) (od : VOp) {j : Nat} (hj : j < 128) :
    (s.openCols c.mp od).getLsbD j = s.rowOn c od := by
  have hall : (BitVec.allOnes 128).getLsbD j = true := by rw [BitVec.getLsbD_allOnes, decide_eq_true hj]
  cases od with
  | tile k row =>
    simp only [State.openCols, State.rowOn]
    cases s.seq.maskRow[c.mp].getLsbD row.val
    · exact BitVec.getLsbD_zero
    · exact hall
  | _ => exact hall

/-! ## A vector instruction whose checks are silent (R151, R152) -/

section
variable {i : Instr} {s u : State} {c : VCtl} {od : VOp} {srcs : List VOp} {regs : List Reg} {lat : Nat}
  {more : List (Option TrapReq)} {cols : BitVec 128} {act : Nat → Bool} {r : Row}

/-- The row put in flight is the row that reaches the destination. -/
theorem putRow_given (u : State) (r : Row) (hd : od.isDest = true) (hc : ∀ j < 128, cols.getLsbD j = act j) :
    RowGiven u od lat act r (u.putRow od cols r lat) := by
  cases od with
  | tile k row => exact ⟨_, enqueue_inFlight .., fun j hj => by rw [position_blend _ _ _ hj, hc j hj]⟩
  | port q => exact ⟨cols, _, enqueue_inFlight .., hc, rfl⟩
  | _ => simp [VOp.isDest] at hd

/-- With silent checks a vector instruction gives its row at its positions. -/
theorem vecRow_given (h : s.vecReady c od srcs regs lat u) (hm : ∀ x ∈ more, x = none)
    (hc : ∀ j < 128, cols.getLsbD j = act j) : RowGiven u od lat act r (vecRow lat c od srcs more cols r s) := by
  obtain ⟨hd, hdup, hmask, -, hpop, hdst⟩ := h
  have hchecks : ∀ x ∈ [dupFault (od :: srcs), s.readFault (.mask c.mp)] ++ more, x = none := by
    simpa [dupFault, hdup, readFault_none hmask] using hm
  rw [vecRow, vecDo, guarded_pass hchecks]
  simp only [hpop]
  rw [guarded_pass (by simp [hdst])]
  exact putRow_given u r hd hc

/-- A vector instruction without checks of its own gives the elements of its row. -/
theorem elementwise_of_vecRow {w : Nat} {p : Nat → Nat → Prop} (hi : exec i s = .next (vecRow lat c od srcs [] cols r s))
    (hc : ∀ j < 128, cols.getLsbD j = act j) (hp : ∀ e < 4096 / w, p e (elem w r e)) :
    Elementwise i s c od srcs regs lat act w p := fun _ hu =>
  ⟨r, hp, _, hi, vecRow_given hu (by simp) hc⟩

end

end Sys2Proof.Machine
end

section
/-! PROOF. The vector reductions and VCVT: what a tree of nodes that pick one of their operands comes to, the integer formats'
order, and the pairing of a conversion's elements (R59, R160 to R162). -/

namespace Sys2Proof.Machine

/-! ## The pairwise tree (R59) -/

theorem pairLevel_length (op : Nat → Nat → Nat) : ∀ l, (pairLevel op l).length = (l.length + 1) / 2
  | [] => by simp [pairLevel]
  | [_] => by simp [pairLevel]
  | a :: b :: l => by
    simp only [pairLevel, List.length_cons, pairLevel_length op l]
    omega

/-- One level halves a power of two of leaves. -/
theorem pairLevel_length_pow {op : Nat → Nat → Nat} {l : List Nat} {n : Nat} (h : l.length = 2 ^ (n + 1)) :
    (pairLevel op l).length = 2 ^ n := by
  rw [pairLevel_length, h, Nat.pow_succ]
  omega

/-- `n` levels over `2 ^ n` leaves leave one value. -/
theorem pairTree_length {op : Nat → Nat → Nat} {n : Nat} {l : List Nat} (h : l.length = 2 ^ n) :
    (pairTree op n l).length = 1 := by
  induction n generalizing l with
  | zero => exact h
  | succ n ih => exact ih (pairLevel_length_pow h)

/-- A node answers one of its operands, and one of the greatest key. -/
def Picks (key : Nat → Int) (op : Nat → Nat → Nat) : Prop :=
  ∀ a b, (op a b = a ∨ op a b = b) ∧ key a ≤ key (op a b) ∧ key b ≤ key (op a b)

/-- The value is one of the list, and one of the greatest key. -/
def Greatest (key : Nat → Int) (l : List Nat) (v : Nat) : Prop := v ∈ l ∧ ∀ x ∈ l, key x ≤ key v

section
variable {key : Nat → Int} {op : Nat → Nat → Nat} (hop : Picks key op)
include hop

/-- Nodes folded in order answer a greatest value. -/
theorem foldl_greatest (x : Nat) (l : List Nat) : Greatest key (x :: l) (l.foldl op x) := by
  induction l generalizing x with
  | nil => exact ⟨List.mem_singleton_self x, fun y hy => by rw [List.mem_singleton.1 hy]; rfl⟩
  | cons y l ih =>
    obtain ⟨hsel, hx, hy⟩ := hop x y
    obtain ⟨hmem, hge⟩ := ih (op x y)
    have hnode := hge (op x y) List.mem_cons_self
    refine ⟨?_, fun z hz => ?_⟩
    · rw [List.foldl_cons]
      rcases List.mem_cons.1 hmem with h | h
      · rw [h]
        rcases hsel with h' | h' <;> simp [h']
      · exact List.mem_cons_of_mem _ (List.mem_cons_of_mem _ h)
    · simp only [List.mem_cons] at hz
      rcases hz with rfl | rfl | hz
      · exact hx.trans hnode
      · exact hy.trans hnode
      · exact hge z (List.mem_cons_of_mem _ hz)

/-- One level keeps to the list's values and loses no greatest one. -/
theorem pairLevel_picks (l : List Nat) :
    (∀ v ∈ pairLevel op l, v ∈ l) ∧ ∀ x ∈ l, ∃ v ∈ pairLevel op l, key x ≤ key v := by
  induction l using pairLevel.induct with
  | case1 a b l ih =>
    obtain ⟨hsel, ha, hb⟩ := hop a b
    obtain ⟨hsub, hge⟩ := ih
    simp only [pairLevel, List.mem_cons]
    refine ⟨fun v hv => ?_, fun x hx => ?_⟩
    · rcases hv with rfl | hv
      · exact hsel.imp_right Or.inl
      · exact .inr (.inr (hsub v hv))
    · rcases hx with rfl | rfl | hx
      · exact ⟨_, .inl rfl, ha⟩
      · exact ⟨_, .inl rfl, hb⟩
      · exact (hge x hx).imp fun v hv => ⟨.inr hv.1, hv.2⟩
  | case2 l h =>
    have : pairLevel op l = l := by rw [pairLevel]; exact h
    rw [this]
    exact ⟨fun _ h => h, fun x hx => ⟨x, hx, le_rfl⟩⟩

/-- A full tree of picking nodes answers a greatest leaf. -/
theorem pairTree_greatest {n : Nat} {l : List Nat} (h : l.length = 2 ^ n) : ∃ v, pairTree op n l = [v] ∧ Greatest key l v := by
  induction n generalizing l with
  | zero =>
    obtain ⟨v, rfl⟩ := List.length_eq_one_iff.1 h
    exact ⟨v, rfl, foldl_greatest hop v []⟩
  | succ n ih =>
    obtain ⟨hsub, hge⟩ := pairLevel_picks hop l
    obtain ⟨v, hv, hmem, hmax⟩ := ih (pairLevel_length_pow h)
    refine ⟨v, hv, hsub v hmem, fun x hx => ?_⟩
    obtain ⟨y, hy, hxy⟩ := hge x hx
    exact hxy.trans (hmax y hy)

/-! ## A reduction by picking nodes (R161) -/

/-- The elements of one position combined. -/
theorem nodeLeaf_greatest {w : Nat} (hw : 0 < 32 / w) (leaf : Nat → Nat) (a : Row) (j : Nat) :
    Greatest key ((List.range (32 / w)).map fun k => leaf (elem w a (j * (32 / w) + k))) (nodeLeaf w op leaf a j) := by
  unfold nodeLeaf
  split
  · next h => exact absurd (List.range_eq_nil.1 (List.map_eq_nil_iff.1 h)) hw.ne'
  · next x l h => exact h ▸ foldl_greatest hop x l

end

/-- Is element e at a position that the mask leaves in? -/
def Counted (w : Nat) (cols : BitVec 128) (e : Nat) : Prop := e < 4096 / w ∧ cols.getLsbD (e / (32 / w)) = true

/-- The value is a leaf of the greatest key among the elements counted; the identity when none is counted. -/
def GreatestLeaf (key : Nat → Int) (w : Nat) (leaf : Nat → Nat) (ident : Nat) (cols : BitVec 128) (a : Row) (v : Nat) : Prop :=
  (∀ e, Counted w cols e → key (leaf (elem w a e)) ≤ key v) ∧
    ((∃ e, Counted w cols e ∧ leaf (elem w a e) = v) ∨ (∀ e, ¬Counted w cols e) ∧ v = ident)

theorem plain_width {f : Fmt} (h : f.isPlain = true) : f.width = 8 ∨ f.width = 16 ∨ f.width = 32 := by
  revert h
  cases f <;> decide

/-- A width of 8, 16 or 32 divides a position. -/
theorem width_positions {w : Nat} (h : w = 8 ∨ w = 16 ∨ w = 32) : 0 < 32 / w ∧ 4096 / w = 128 * (32 / w) := by
  rcases h with rfl | rfl | rfl <;> decide

/-- An element is the one of its index within its position. -/
theorem counted_split {w : Nat} (h : w = 8 ∨ w = 16 ∨ w = 32) {cols : BitVec 128} {e : Nat} :
    Counted w cols e ↔ ∃ j < 128, ∃ k < 32 / w, cols.getLsbD j = true ∧ e = j * (32 / w) + k := by
  obtain ⟨hp, hn⟩ := width_positions h
  constructor
  · rintro ⟨he, hc⟩
    have hj : e / (32 / w) < 128 := (Nat.div_lt_iff_lt_mul hp).2 (hn ▸ he)
    exact ⟨_, hj, e % (32 / w), Nat.mod_lt _ hp, hc, (Nat.div_add_mod' ..).symm⟩
  · rintro ⟨j, hj, k, hk, hc, rfl⟩
    have hd : (j * (32 / w) + k) / (32 / w) = j := by
      rw [Nat.mul_comm, Nat.mul_add_div hp, Nat.div_eq_of_lt hk, Nat.add_zero]
    refine ⟨?_, hd.symm ▸ hc⟩
    rw [hn, ← Nat.div_lt_iff_lt_mul hp, hd]
    exact hj

/-- A reduction by picking nodes gives a greatest leaf, where no other leaf ties with the identity. -/
theorem reduceRow_greatest {key : Nat → Int} {op : Nat → Nat → Nat} (hop : Picks key op) {w : Nat}
    (hw : w = 8 ∨ w = 16 ∨ w = 32) {leaf : Nat → Nat} {ident : Nat} (cols : BitVec 128) (a : Row)
    (hid : ∀ e, key (leaf (elem w a e)) ≤ key ident → leaf (elem w a e) = ident) :
    GreatestLeaf key w leaf ident cols a (reduceRow w op leaf ident cols a) := by
  obtain ⟨v, hv, hmem, hmax⟩ := pairTree_greatest hop (n := 7)
    (l := (List.range 128).map fun j => if cols.getLsbD j then nodeLeaf w op leaf a j else ident) (by simp)
  have hr : reduceRow w op leaf ident cols a = v := by simp only [reduceRow, hv]
  have hnode := fun j => nodeLeaf_greatest hop (width_positions hw).1 leaf a j
  have hbound : ∀ e, Counted w cols e → key (leaf (elem w a e)) ≤ key v := fun e he => by
    obtain ⟨j, hj, k, hk, hc, rfl⟩ := (counted_split hw).1 he
    have hleaf := (hnode j).2 _ (List.mem_map_of_mem (List.mem_range.2 hk))
    have htop := hmax _ (List.mem_map_of_mem (List.mem_range.2 hj))
    rw [if_pos hc] at htop
    exact hleaf.trans htop
  rw [hr]
  refine ⟨hbound, ?_⟩
  obtain ⟨j, hj, rfl⟩ := List.mem_map.1 hmem
  by_cases hc : cols.getLsbD j = true
  · obtain ⟨k, hk, hv⟩ := List.mem_map.1 (hnode j).1
    have he := (counted_split hw).2 ⟨j, List.mem_range.1 hj, k, List.mem_range.1 hk, hc, rfl⟩
    exact .inl ⟨_, he, hv.trans (if_pos hc).symm⟩
  · rw [if_neg hc] at hbound ⊢
    by_cases hex : ∃ e, Counted w cols e
    · obtain ⟨e, he⟩ := hex
      exact .inl ⟨e, he, hid e (hbound e he)⟩
    · exact .inr ⟨not_exists.1 hex, rfl⟩

/-! ## The order of the integer formats (R42) -/

section
variable {f : Fmt} {m n : Nat}

theorem sintOf_of_lt {w : Nat} (h : n < 2 ^ w) : sintOf w n = if n < 2 ^ (w - 1) then (n : Int) else (n : Int) - 2 ^ w := by
  rw [sintOf, Nat.mod_eq_of_lt h, Nat.cast_pow, Nat.cast_ofNat]

/-- The value of an integer code: its two's-complement reading, or itself in UINT8. -/
theorem intValue_of_lt (hi : f.isInt = true) (hn : n < 2 ^ f.width) :
    intValue f n = if f = .u8 ∨ n < 2 ^ (f.width - 1) then (n : Int) else (n : Int) - 2 ^ f.width :=
  match f, hi with
  | .i32, _ | .i16, _ | .i8, _ => (sintOf_of_lt hn).trans (by simp)
  | .u8, _ => by rw [if_pos (.inl rfl)]; exact congrArg _ (Nat.mod_eq_of_lt hn)

/-- Two codes of one value are one code. -/
theorem intValue_injOn (hi : f.isInt = true) (hm : m < 2 ^ f.width) (hn : n < 2 ^ f.width)
    (h : intValue f m = intValue f n) : m = n := by
  have hm' : (m : Int) < 2 ^ f.width := by exact_mod_cast hm
  have hn' : (n : Int) < 2 ^ f.width := by exact_mod_cast hn
  rw [intValue_of_lt hi hm, intValue_of_lt hi hn] at h
  split at h <;> split at h <;> omega

/-- The codes of a format's extremes (R42). -/
theorem intExtreme_value (hi : f.isInt = true) :
    intValue f (wrapInt f.width (intRange f).1) = (if f = .u8 then 0 else -(2 ^ (f.width - 1))) ∧
      intValue f (wrapInt f.width (intRange f).2) = if f = .u8 then 255 else 2 ^ (f.width - 1) - 1 :=
  match f, hi with
  | .i32, _ | .i16, _ | .i8, _ | .u8, _ => by decide

/-- Every value of an integer format lies between its extremes. -/
theorem intValue_range (hi : f.isInt = true) (hn : n < 2 ^ f.width) :
    intValue f (wrapInt f.width (intRange f).1) ≤ intValue f n ∧
      intValue f n ≤ intValue f (wrapInt f.width (intRange f).2) := by
  rw [(intExtreme_value hi).1, (intExtreme_value hi).2, intValue_of_lt hi hn]
  match f, hi with
  | .i32, _ | .i16, _ | .i8, _ | .u8, _ =>
    simp only [Fmt.width, reduceCtorEq, false_or, true_or, if_true, if_false] at hn ⊢
    omega

end

/-! ## The nodes of VRMAX, VRMIN and VAMAX (R161) -/

/-- The larger by key, the first of two equals. -/
theorem picks_larger (key : Nat → Int) : Picks key fun a b => if key a < key b then b else a := fun a b => by
  dsimp only
  split <;> simp <;> omega

/-- The smaller by key is the larger by the key's negation. -/
theorem picks_smaller (key : Nat → Int) : Picks (fun n => -key n) fun a b => if key b < key a then b else a := fun a b => by
  dsimp only
  split <;> simp <;> omega

section
variable {c : VCtl}

theorem isFp_of_isInt {f : Fmt} (h : f.isInt = true) : f.isFp = false :=
  match f, h with
  | .i32, _ | .i16, _ | .i8, _ | .u8, _ => rfl

theorem floatFormat_w {f : Fmt} (h : f.isFp = true) : (floatFormat f).w = f.width :=
  match f, h with
  | .fp32, _ | .bf16, _ | .fp16, _ => rfl

theorem maxNode_int (h : c.fmt.isInt = true) : maxNode c = fun a b => if vval c a < vval c b then b else a := by
  funext a b
  rw [maxNode, isFp_of_isInt h]
  rfl

theorem minNode_int (h : c.fmt.isInt = true) : minNode c = fun a b => if vval c b < vval c a then b else a := by
  funext a b
  rw [minNode, isFp_of_isInt h]
  rfl

theorem extreme_int (h : c.fmt.isInt = true) (least : Bool) :
    extreme c least = wrapInt c.fmt.width (if least then (intRange c.fmt).1 else (intRange c.fmt).2) := by
  rw [extreme, isFp_of_isInt h]
  rfl

theorem wrapInt_lt (w : Nat) (v : Int) : wrapInt w v < 2 ^ w := by
  have := Int.emod_lt_of_pos v (show (0 : Int) < (2 ^ w : Nat) by exact_mod_cast Nat.two_pow_pos w)
  have := Int.emod_nonneg v (show ((2 ^ w : Nat) : Int) ≠ 0 by exact_mod_cast (Nat.two_pow_pos w).ne')
  unfold wrapInt
  omega

theorem maxNode_fp (h : c.fmt.isFp = true) : maxNode c = fpMax (floatFormat c.fmt) := by
  funext a b
  rw [maxNode, if_pos h, vfp]

theorem minNode_fp (h : c.fmt.isFp = true) : minNode c = fpMin (floatFormat c.fmt) := by
  funext a b
  rw [minNode, if_pos h, vfp]

theorem extreme_fp (h : c.fmt.isFp = true) (least : Bool) : extreme c least = (floatFormat c.fmt).infinity least := by
  rw [extreme, if_pos h, vfp]

variable (cols : BitVec 128) (a : Row)

/-- A greatest leaf of codes of a format is a code of the format. -/
theorem GreatestLeaf.lt {key : Nat → Int} {w ident v : Nat} {cols : BitVec 128} {a : Row}
    (h : GreatestLeaf key w id ident cols a v) (hid : ident < 2 ^ w) : v < 2 ^ w := by
  rcases h.2 with ⟨e, -, rfl⟩ | ⟨-, rfl⟩
  · exact elem_lt ..
  · exact hid

/-- VRMAX of an integer format gives a greatest element; no other code ties with the least value of the format. -/
theorem reduceMax_greatest (hi : c.fmt.isInt = true) : GreatestLeaf (vval c) c.fmt.width id (extreme c true) cols a
    (reduceRow c.fmt.width (maxNode c) id (extreme c true) cols a) := by
  have hw := plain_width (f := c.fmt) (by simp [Fmt.isPlain, hi])
  rw [maxNode_int hi, extreme_int hi]
  refine reduceRow_greatest (picks_larger (vval c)) hw cols a fun e he => ?_
  exact intValue_injOn hi (elem_lt ..) (wrapInt_lt ..) (he.antisymm (intValue_range hi (elem_lt ..)).1)

/-- VRMIN of an integer format gives a least element; no other code ties with the greatest value of the format. -/
theorem reduceMin_greatest (hi : c.fmt.isInt = true) : GreatestLeaf (fun n => -vval c n) c.fmt.width id (extreme c false) cols a
    (reduceRow c.fmt.width (minNode c) id (extreme c false) cols a) := by
  have hw := plain_width (f := c.fmt) (by simp [Fmt.isPlain, hi])
  rw [minNode_int hi, extreme_int hi]
  refine reduceRow_greatest (picks_smaller (vval c)) hw cols a fun e he => ?_
  exact intValue_injOn hi (elem_lt ..) (wrapInt_lt ..)
    ((intValue_range hi (elem_lt ..)).2.antisymm (Int.neg_le_neg_iff.1 he))

/-- The magnitude that VAMAX takes of an element, a NaN as +0. -/
def amaxLeaf (F : FFormat) (x : Nat) : Nat := if F.isNaN x then 0 else F.mag x

theorem amaxLeaf_nan {F : FFormat} {x : Nat} (h : F.isNaN x = true) : amaxLeaf F x = 0 := if_pos h

theorem amaxLeaf_number {f : Fmt} {x : Nat} (hf : f.isFp = true) (h : (floatFormat f).isNaN x = false) :
    amaxLeaf (floatFormat f) x = x % 2 ^ (f.width - 1) := by
  rw [amaxLeaf, h, ← floatFormat_w hf]
  rfl

theorem amaxLeaf_lt {f : Fmt} (hf : f.isFp = true) (x : Nat) : amaxLeaf (floatFormat f) x < 2 ^ f.width := by
  cases h : (floatFormat f).isNaN x with
  | true => exact amaxLeaf_nan h ▸ Nat.two_pow_pos _
  | false =>
    rw [amaxLeaf_number hf h]
    exact (Nat.mod_lt _ (Nat.two_pow_pos _)).trans_le (Nat.pow_le_pow_right (by decide) (Nat.sub_le ..))

/-- What VAMAX puts into every element. -/
def vamaxRow (c : VCtl) (cols : BitVec 128) (a : Row) : Nat :=
  reduceRow c.fmt.width (fun a b => if a < b then b else a) (amaxLeaf (floatFormat c.fmt)) 0 cols a

/-- VAMAX gives a greatest magnitude of the elements that are numbers, or +0. -/
theorem vamax_greatest (hf : c.fmt.isFp = true) :
    GreatestLeaf (fun n => (n : Int)) c.fmt.width (amaxLeaf (floatFormat c.fmt)) 0 cols a (vamaxRow c cols a) := by
  have hw := plain_width (f := c.fmt) (by simp [Fmt.isPlain, hf])
  have hop : Picks (fun n => (n : Int)) fun a b => if a < b then b else a := by
    simpa only [Int.ofNat_lt] using picks_larger fun n => (n : Int)
  exact reduceRow_greatest hop hw cols a fun e he => by omega

/-- The sum of a row is the one value that the tree leaves. -/
theorem raddRow_eq (c : VCtl) (r : Rnd) (cols : BitVec 128) (a : Row) : some (raddRow c r cols a) =
    (pairTree (fpAdd f32 r c.sat) 7 ((List.range 128).map fun j =>
      if cols.getLsbD j then raddLeaf c r a j else 0x80000000)).head? := by
  obtain ⟨v, hv⟩ := List.length_eq_one_iff.1 (pairTree_length (op := fpAdd f32 r c.sat) (n := 7)
    (l := (List.range 128).map fun j => if cols.getLsbD j then raddLeaf c r a j else 0x80000000) (by simp))
  simp only [raddRow, hv, List.head?_cons]

/-- The leaf of a position: its FP32 element, or the sum of its two elements widened (R160). -/
theorem raddLeaf_eq (hf : c.fmt.isFp = true) (r : Rnd) (j : Nat) : raddLeaf c r a j =
    if c.fmt.width = 32 then elem 32 a j
    else fpAdd f32 r c.sat (toF32 c.fmt (elem 16 a (2 * j))) (toF32 c.fmt (elem 16 a (2 * j + 1))) := by
  unfold raddLeaf
  generalize c.fmt = f at *
  match f, hf with
  | .fp32, _ | .bf16, _ | .fp16, _ => rfl

end

/-- A result that fills a row, with the row mask alone to gate it (R160, R161). -/
theorem elementwise_of_fill {i : Instr} {s : State} {c : VCtl} {od oa : VOp} {lat w v : Nat} {p : Nat → Prop}
    (hi : exec i s = .next (vecRow lat c od [oa] [] (s.openCols c.mp od) (rowFill w v) s)) (hp : p (v % 2 ^ w)) :
    Elementwise i s c od [oa] [] lat (fun _ => s.rowOn c od) w fun _ v => p v :=
  elementwise_of_vecRow hi (fun _ hj => openCols_getLsbD s c od hj) fun _ he => (elem_rowFill v he).symm ▸ hp

/-! ## The pairing of VCVT (R162) -/

/-- A conversion writes every position, or the half that its part names where the result is narrower. -/
theorem cvtHalf_getLsbD (ws wd : Nat) (part : Bool) {j : Nat} (hj : j < 128) :
    (cvtHalf ws wd part).getLsbD j = (decide (wd ≥ ws) || (decide (64 ≤ j) == part)) := by
  unfold cvtHalf
  by_cases h : wd < ws
  · rw [if_pos h, decide_eq_false (show ¬wd ≥ ws by omega), Bool.false_or]
    have hlow : decide (64 ≤ j) = !decide (j < 64) := by rw [← decide_not, decide_eq_decide, Nat.not_lt]
    have htop : decide (j - 64 < 64) = true := decide_eq_true (by omega)
    cases part with
    | false =>
      rw [if_neg Bool.false_ne_true, BitVec.getLsbD_append, BitVec.getLsbD_allOnes, BitVec.getLsbD_zero, hlow]
      by_cases hj' : j < 64 <;> simp [hj']
    | true =>
      rw [if_pos rfl, BitVec.getLsbD_append, BitVec.getLsbD_allOnes, BitVec.getLsbD_zero, hlow, htop]
      by_cases hj' : j < 64 <;> simp [hj']
  · rw [if_neg h, decide_eq_true (show wd ≥ ws by omega), Bool.true_or, BitVec.getLsbD_allOnes, decide_eq_true hj]

/-- Every element of the wide side is converted with the one of the narrow side that it pairs with. -/
theorem cvtRow_elem (s : State) (c : VCtl) (src : Fmt) (part : Bool) (a : Row) (hs : src.isPlain = true)
    (hd : c.fmt.isPlain = true) {e : Nat} (he : e < 4096 / max src.width c.fmt.width) :
    let ws := src.width
    let wd := c.fmt.width
    let off := if part then 4096 / max ws wd else 0
    let ed := if wd < ws then e + off else e
    elem wd (cvtRow s c src part a) ed =
      convertElem src c.fmt (s.rndAt c.rnd ed) c.sat (elem ws a (if ws < wd then e + off else e)) % 2 ^ wd := by
  intro ws wd off ed
  have hw : ws = 8 ∨ ws = 16 ∨ ws = 32 := plain_width hs
  have hw' : wd = 8 ∨ wd = 16 ∨ wd = 32 := plain_width hd
  have hoff : off = 0 ∨ off = 4096 / max ws wd := by simp only [off]; split <;> simp
  have hn : 4096 / max ws wd * (if wd < ws then 2 else 1) ≤ 4096 / wd := by
    rcases hw with h | h | h <;> rcases hw' with h' | h' | h' <;> rw [h, h'] <;> decide
  have he' : e < 4096 / max ws wd := he
  have hback : (if wd < ws then ed - off else ed) = e := by
    simp only [ed]
    split <;> omega
  have hin : ed = e + if wd < ws then off else 0 := by
    simp only [ed]
    split <;> omega
  have hed : ed < 4096 / wd := by
    split at hin <;> split at hn <;> omega
  rw [cvtRow, elem_rowMap _ hed]
  dsimp only
  rw [hback, if_neg]
  intro h
  rw [Bool.or_eq_true] at h
  rcases h with h | h
  · exact (of_decide_eq_true h).ne hin
  · exact (of_decide_eq_true h).not_gt he

/-- VCVT is between two formats without blocks. -/
theorem vcvt_plain {c : VCtl} {od oa : VOp} {src : Fmt} {part : Bool} (h : (Instr.vcvt c od oa src part).wf = true) :
    src.isPlain = true ∧ c.fmt.isPlain = true := by
  simp only [Instr.wf, vcvtOk, Bool.and_eq_true, and_assoc] at h
  obtain ⟨hd, hs, -⟩ := h
  exact ⟨hs, hd⟩

/-- Settles O32: each reduction fills the row with the value of its tree, which for picking nodes is a greatest leaf; VCVT's
row and positions by `cvtRow_elem` and `cvtHalf_getLsbD`. -/
theorem vectorReductionResults : Obligations.VectorReductionResults := by
  unfold Obligations.VectorReductionResults
  refine ⟨fun c od oa s _ => ?_, fun c od oa src part s u hwf hu => ?_⟩
  · intro w a R cols V leaf counted fill
    have hV : c.fmt.isInt = true → ∀ n < 2 ^ w, vval c n = V n := fun hi n hn => intValue_of_lt hi hn
    refine ⟨fun hf => elementwise_of_fill rfl ?_, fun hi => elementwise_of_fill rfl ?_, fun hi => elementwise_of_fill rfl ?_,
      fun hf => elementwise_of_fill rfl ?_, fun hf => elementwise_of_fill rfl ?_,
      fun hf => elementwise_of_fill (v := vamaxRow c cols a) rfl ?_⟩
    · have hl : leaf = fun j => if cols.getLsbD j then raddLeaf c R a j else 0x80000000 :=
        funext fun j => by rw [raddLeaf_eq a hf]
      rw [hl, ← raddRow_eq, Option.map_some]
    · have h := reduceMax_greatest cols a hi
      have hlt := h.lt (extreme_int hi true ▸ wrapInt_lt ..)
      obtain ⟨hge, hmem⟩ := h
      rw [Nat.mod_eq_of_lt hlt]
      refine ⟨fun e he => ?_, hmem.imp id fun ⟨hno, hv⟩ => ⟨hno, ?_⟩⟩
      · rw [← hV hi _ (elem_lt ..), ← hV hi _ hlt]
        exact hge e he
      · rw [← hV hi _ hlt, hv, extreme_int hi]
        exact (intExtreme_value hi).1
    · have h := reduceMin_greatest cols a hi
      have hlt := h.lt (extreme_int hi false ▸ wrapInt_lt ..)
      obtain ⟨hge, hmem⟩ := h
      rw [Nat.mod_eq_of_lt hlt]
      refine ⟨fun e he => ?_, hmem.imp id fun ⟨hno, hv⟩ => ⟨hno, ?_⟩⟩
      · rw [← hV hi _ (elem_lt ..), ← hV hi _ hlt]
        exact Int.neg_le_neg_iff.1 (hge e he)
      · rw [← hV hi _ hlt, hv, extreme_int hi]
        exact (intExtreme_value hi).2
    · rw [maxNode_fp hf, extreme_fp hf]
    · rw [minNode_fp hf, extreme_fp hf]
    · obtain ⟨hge, hmem⟩ := vamax_greatest cols a hf
      have hlt : vamaxRow c cols a < 2 ^ w := by
        rcases hmem with ⟨e, -, hv⟩ | ⟨-, hv⟩
        · exact hv ▸ amaxLeaf_lt hf _
        · exact hv ▸ Nat.two_pow_pos w
      rw [Nat.mod_eq_of_lt hlt]
      refine ⟨fun e he hn => amaxLeaf_number hf hn ▸ Int.ofNat_le.1 (hge e he), ?_⟩
      rcases hmem with ⟨e, he, hv⟩ | ⟨-, hv⟩
      · cases hn : (floatFormat c.fmt).isNaN (elem w a e) with
        | true => exact .inl (hv ▸ amaxLeaf_nan hn)
        | false => exact .inr ⟨e, he, hn, amaxLeaf_number hf hn ▸ hv⟩
      · exact .inl hv
  · obtain ⟨hs, hd⟩ := vcvt_plain hwf
    exact ⟨cvtRow s c src part (s.srcRow c src oa), fun e he => cvtRow_elem s c src part _ hs hd he, _, rfl,
      vecRow_given hu (by simp) fun j hj => by
        rw [BitVec.getLsbD_and, activeCols_getLsbD s c od hj, cvtHalf_getLsbD _ _ _ hj]⟩

end Sys2Proof.Machine
end

section
/-! PROOF. Words as fields side by side, what a field reads as, and when a slot's field checks are silent (R68, R76). -/

namespace Sys2Proof

theorem zeroField_eq_none {w lo n : Nat} : zeroField w lo n = none ↔ fld w lo n = 0 := by
  simp [zeroField]

theorem badField_eq_none {lo : Nat} {b : Bool} : badField lo b = none ↔ b = false := by
  cases b <;> simp [badField]

theorem firstBad_nil : firstBad [] = none := rfl

theorem firstBad_cons {x : Option Nat} {l : List (Option Nat)} :
    firstBad (x :: l) = none ↔ x = none ∧ firstBad l = none := by
  cases x with
  | none => simp [firstBad]
  | some p => cases h : firstBad l <;> simp [firstBad, h]

theorem firstBad_append {l k : List (Option Nat)} :
    firstBad (l ++ k) = none ↔ firstBad l = none ∧ firstBad k = none := by
  induction l with
  | nil => simp [firstBad_nil]
  | cons x l ih => simp [firstBad_cons, ih, and_assoc]

/-- A word of 64 bits decodes where its arm reads the operation and no check of the arm speaks. -/
theorem decodeSlot_of_read {c : SlotClass} {w : Nat} {i : Instr} {d : Decoded} (hw : w < 2 ^ 64) (h : readSlot c w =
    some d) (hi : d.instr = i)
    (hc : firstBad d.chk = none) : w < 2 ^ 64 ∧ decodeSlot c w = .ok i := by
  exact ⟨hw, by simp [decodeSlot, h, hc, hi]⟩

theorem read_of_decodeSlot {c : SlotClass} {w : Nat} {i : Instr} (h : decodeSlot c w = .ok i) :
    ∃ chk, readSlot c w = some ⟨i, chk⟩ ∧ firstBad chk = none := by
  unfold decodeSlot at h
  cases hr : readSlot c w with
  | none => simp [hr] at h
  | some d =>
    cases hc : firstBad d.chk with
    | none =>
      obtain rfl : d.instr = i := by simpa [hr, hc] using h
      exact ⟨d.chk, rfl, hc⟩
    | some p => simp [hr, hc] at h

/-- A register field is x0 exactly when it is zero. -/
theorem regAt_eq_zero {w lo : Nat} : regAt w lo = 0 ↔ fld w lo 5 = 0 := Fin.ext_iff

theorem fld_one_lt (w lo : Nat) : fld w lo 1 < 2 := Nat.mod_lt _ (by decide)

theorem bitAt_eq_iff {w lo : Nat} {b : Bool} : bitAt w lo = b ↔ fld w lo 1 = b.toNat := by
  have := fld_one_lt w lo
  cases b <;> simp [bitAt]
  omega

theorem rmOf_code (r : RMode) : rmOf r.code = r := by cases r <;> rfl

theorem code_rmOf {n : Nat} (h : n < 5) : (rmOf n).code = n :=
  match n, h with
  | 0, _ | 1, _ | 2, _ | 3, _ | 4, _ => rfl

theorem rmode_code_lt (r : RMode) : r.code < 5 := by cases r <;> decide

/-! ### Operand fields read as numbers -/

theorem regAt_eq_iff {w lo : Nat} {r : Reg} : regAt w lo = r ↔ fld w lo 5 = r.val := Fin.ext_iff

theorem fin_eq_iff (n b : Nat) {w : Nat} [NeZero n] (hn : n = 2 ^ b) {k : Fin n} : Fin.ofNat n w = k ↔ fld w 0 b = k.val := by
  simp [Fin.ext_iff, fld, hn]

theorem finAt_eq_iff (n b : Nat) {w lo : Nat} [NeZero n] (hn : n = 2 ^ b) {k : Fin n} :
    Fin.ofNat n (w / 2 ^ lo) = k ↔ fld w lo b = k.val := by
  simp [Fin.ext_iff, fld, hn]

theorem bv_eq_iff {b w : Nat} {v : BitVec b} : BitVec.ofNat b w = v ↔ fld w 0 b = v.toNat := by
  simp [fld, ← BitVec.toNat_inj]

theorem bvAt_eq_iff {b w lo : Nat} {v : BitVec b} : BitVec.ofNat b (w / 2 ^ lo) = v ↔ fld w lo b = v.toNat := by
  simp [fld, ← BitVec.toNat_inj]

theorem regAt_val (w lo : Nat) : (regAt w lo).val = fld w lo 5 := rfl

theorem bitAt_toNat (w lo : Nat) : (bitAt w lo).toNat = fld w lo 1 := (bitAt_eq_iff.1 rfl).symm

theorem fin_val (n b : Nat) {w : Nat} [NeZero n] (hn : n = 2 ^ b) : (Fin.ofNat n w).val = fld w 0 b :=
  ((fin_eq_iff n b hn).1 rfl).symm

theorem finAt_val (n b : Nat) {w lo : Nat} [NeZero n] (hn : n = 2 ^ b) : (Fin.ofNat n (w / 2 ^ lo)).val = fld w lo b :=
  ((finAt_eq_iff n b hn).1 rfl).symm

theorem bvAt_toNat (b w lo : Nat) : (BitVec.ofNat b (w / 2 ^ lo)).toNat = fld w lo b := (bvAt_eq_iff.1 rfl).symm

theorem fin_ofNat_val {n : Nat} [NeZero n] (k : Fin n) : Fin.ofNat n k.val = k := by simp

theorem fin_val_of_lt {n x : Nat} [NeZero n] (h : x < n) : (Fin.ofNat n x).val = x := Nat.mod_eq_of_lt h

/-! ### Fields side by side -/

/-- A field is two fields side by side. -/
theorem fld_eq_iff (m n : Nat) {w lo a b : Nat} (ha : a < 2 ^ m) :
    fld w lo (m + n) = a + b * 2 ^ m ↔ fld w lo m = a ∧ fld w (lo + m) n = b := by
  rw [fld, fld, fld, Nat.pow_add, Nat.mod_mul, Nat.pow_add, ← Nat.div_div_eq_div_mul]
  have h1 := Nat.mod_lt (w / 2 ^ lo) (Nat.two_pow_pos m)
  constructor
  · intro h
    have h2 : (w / 2 ^ lo % 2 ^ m + 2 ^ m * (w / 2 ^ lo / 2 ^ m % 2 ^ n)) % 2 ^ m = (a + b * 2 ^ m) % 2 ^ m := by rw [h]
    have h3 : (w / 2 ^ lo % 2 ^ m + 2 ^ m * (w / 2 ^ lo / 2 ^ m % 2 ^ n)) / 2 ^ m = (a + b * 2 ^ m) / 2 ^ m := by rw [h]
    rw [Nat.add_mul_mod_self_left, Nat.add_mul_mod_self_right, Nat.mod_mod, Nat.mod_eq_of_lt ha] at h2
    rw [Nat.add_mul_div_left _ _ (Nat.two_pow_pos m), Nat.add_mul_div_right _ _ (Nat.two_pow_pos m), Nat.div_eq_of_lt h1,
      Nat.div_eq_of_lt ha] at h3
    omega
  · rintro ⟨rfl, rfl⟩
    rw [Nat.mul_comm]

/-- A value narrower than its field. -/
theorem fld_eq_low_iff (m n : Nat) {w lo a : Nat} (ha : a < 2 ^ m) :
    fld w lo (m + n) = a ↔ fld w lo m = a ∧ fld w (lo + m) n = 0 := by
  simpa using fld_eq_iff m n (w := w) (lo := lo) (b := 0) ha

theorem fld_eq_zero_iff (m n : Nat) {w lo : Nat} : fld w lo (m + n) = 0 ↔ fld w lo m = 0 ∧ fld w (lo + m) n = 0 :=
  fld_eq_low_iff m n (Nat.two_pow_pos m)

/-- The number that a list of fields makes, each with its value and its width, from the lowest up. -/
def packed : List (Nat × Nat) → Nat
  | [] => 0
  | (v, n) :: l => v + packed l * 2 ^ n

/-- The width of a list of fields. -/
def packedWidth : List (Nat × Nat) → Nat
  | [] => 0
  | (_, n) :: l => n + packedWidth l

/-- The fields of a word from a position up are those of a list. -/
def FieldsAt (w : Nat) : Nat → List (Nat × Nat) → Prop
  | _, [] => True
  | lo, (v, n) :: l => fld w lo n = v ∧ FieldsAt w (lo + n) l

/-- A field of fields is made of them. -/
theorem fld_packed_iff {w lo : Nat} {l : List (Nat × Nat)} (hl : ∀ p ∈ l, p.1 < 2 ^ p.2) :
    fld w lo (packedWidth l) = packed l ↔ FieldsAt w lo l := by
  induction l generalizing lo with
  | nil => simp [packedWidth, packed, FieldsAt, fld, Nat.mod_one]
  | cons p l ih =>
    obtain ⟨v, n⟩ := p
    rw [FieldsAt, ← ih fun p hp => hl p (List.mem_cons_of_mem _ hp), packedWidth, packed,
      fld_eq_iff n (packedWidth l) (hl _ (List.mem_cons_self ..))]

theorem packed_lt {l : List (Nat × Nat)} (hl : ∀ p ∈ l, p.1 < 2 ^ p.2) : packed l < 2 ^ packedWidth l := by
  induction l with
  | nil => simp [packed, packedWidth]
  | cons p l ih =>
    obtain ⟨v, n⟩ := p
    have hv : v < 2 ^ n := hl _ (List.mem_cons_self ..)
    have ht := Nat.mul_le_mul_right (2 ^ n) (ih fun p hp => hl p (List.mem_cons_of_mem _ hp))
    rw [packed, packedWidth, Nat.pow_add, Nat.mul_comm (2 ^ n)]
    rw [Nat.succ_mul] at ht
    omega

/-- A word is made of its fields. -/
theorem packed_eq_iff {w : Nat} {l : List (Nat × Nat)} (hl : ∀ p ∈ l, p.1 < 2 ^ p.2) :
    packed l = w ↔ w < 2 ^ packedWidth l ∧ FieldsAt w 0 l := by
  rw [← fld_packed_iff hl, fld, Nat.pow_zero, Nat.div_one]
  constructor
  · rintro rfl
    exact ⟨packed_lt hl, Nat.mod_eq_of_lt (packed_lt hl)⟩
  · rintro ⟨hw, h⟩
    rw [← h, Nat.mod_eq_of_lt hw]


/-! ### Formats by their codes -/

theorem fmtOf_code (f : Fmt) : fmtOf f.code = f := by cases f <;> rfl

theorem code_fmtOf {n : Nat} (h : n < 12) : (fmtOf n).code = n :=
  match n, h with
  | 0, _ | 1, _ | 2, _ | 3, _ | 4, _ | 5, _ | 6, _ | 7, _ | 8, _ | 9, _ | 10, _ | 11, _ => rfl

theorem fmt_code_lt (f : Fmt) : f.code < 12 := by cases f <;> decide

theorem isFp_iff {f : Fmt} : f.isFp = true ↔ f.code ≤ 2 := by cases f <;> decide

theorem isInt_iff {f : Fmt} : f.isInt = true ↔ 3 ≤ f.code ∧ f.code ≤ 6 := by cases f <;> decide

theorem isSint_iff {f : Fmt} : f.isSint = true ↔ 3 ≤ f.code ∧ f.code ≤ 5 := by cases f <;> decide

theorem isPlain_iff {f : Fmt} : f.isPlain = true ↔ f.code ≤ 6 := by cases f <;> decide

theorem isBlock_iff {f : Fmt} : f.isBlock = true ↔ 7 ≤ f.code := by cases f <;> decide

theorem qsclFmt_iff {f : Fmt} : qsclFmt f = true ↔ f.code = 1 ∨ f.code = 2 ∨ 4 ≤ f.code ∧ f.code ≤ 9 := by cases f <;> decide

theorem clredFmt_iff {f : Fmt} : clredFmt f = true ↔ ¬(3 ≤ f.code ∧ f.code ≤ 6) := by cases f <;> decide

theorem fmt_eq_fp32_iff {f : Fmt} : f = .fp32 ↔ f.code = 0 := by cases f <;> decide

theorem fmt_eq_i32_iff {f : Fmt} : f = .i32 ↔ f.code = 3 := by cases f <;> decide

theorem rmode_eq_rne_iff {r : RMode} : r = .rne ↔ r.code = 0 := by cases r <;> decide

theorem rmode_eq_srk_iff {r : RMode} : r = .srk ↔ r.code = 4 := by cases r <;> decide

end Sys2Proof
end

section
/-! PROOF. The scalar slots' words and their decoding, each the other's inverse (R69). -/

namespace Sys2Proof

section
variable {op w : Nat} (ho : op < 256) {xd xa xb xc : Reg}
include ho

theorem srWord_eq_iff {fn : Nat} (hf : fn < 64) : srWord op xd xa xb xc fn = w ↔ w < 2 ^ 64 ∧ fld w 56 8 = op ∧
    regAt w 51 = xd ∧ regAt w 46 = xa ∧ regAt w 41 = xb ∧ regAt w 36 = xc ∧ fld w 0 30 = 0 ∧ fld w 30 6 = fn := by
  have := xd.isLt; have := xa.isLt; have := xb.isLt; have := xc.isLt
  simp only [srWord, fld, regAt, Fin.ext_iff, Fin.ofNat]
  omega

theorem siWord_eq_iff {imm : Nat} (hi : imm < 2 ^ 46) : siWord op xd xa imm = w ↔ w < 2 ^ 64 ∧ fld w 56 8 = op ∧
    regAt w 51 = xd ∧ regAt w 46 = xa ∧ fld w 0 46 = imm := by
  have := xd.isLt; have := xa.isLt
  simp only [siWord, fld, regAt, Fin.ext_iff, Fin.ofNat]
  omega

/-! Each format with what its last field holds. -/

theorem srWord_plain_iff : srWord op xd xa xb xc 0 = w ↔ w < 2 ^ 64 ∧ fld w 56 8 = op ∧ regAt w 51 = xd ∧ regAt w 46 = xa ∧
    regAt w 41 = xb ∧ regAt w 36 = xc ∧ fld w 0 30 = 0 ∧ fld w 30 6 = 0 :=
  srWord_eq_iff ho (by decide)

theorem srWord_rnd_iff {r : RMode} : srWord op xd xa xb xc r.code = w ↔ w < 2 ^ 64 ∧ fld w 56 8 = op ∧ regAt w 51 = xd ∧
    regAt w 46 = xa ∧ regAt w 41 = xb ∧ regAt w 36 = xc ∧ fld w 0 30 = 0 ∧ fld w 30 3 = r.code ∧ fld w 33 3 = 0 := by
  have hr := Laws.rmode_code_lt r
  rw [srWord_eq_iff ho (by omega), ← fld_eq_low_iff 3 3 hr]

theorem srWord_rnd_sat_iff {r : RMode} {b : Bool} : srWord op xd xa xb xc (r.code + 8 * b.toNat) = w ↔ w < 2 ^ 64 ∧
    fld w 56 8 = op ∧ regAt w 51 = xd ∧ regAt w 46 = xa ∧ regAt w 41 = xb ∧ regAt w 36 = xc ∧ fld w 0 30 = 0 ∧
    fld w 30 3 = r.code ∧ bitAt w 33 = b ∧ fld w 34 2 = 0 := by
  have hr := Laws.rmode_code_lt r
  have hb := Laws.bool_nat_lt b
  rw [srWord_eq_iff ho (by omega), bitAt_eq_iff, ← fld_eq_low_iff 1 2 hb, Nat.mul_comm, ← fld_eq_iff 3 3 hr]
  exact Iff.rfl

theorem srWord_shift_iff {n : Fin 8} : srWord op xd xa xb xc n.val = w ↔ w < 2 ^ 64 ∧ fld w 56 8 = op ∧ regAt w 51 = xd ∧
    regAt w 46 = xa ∧ regAt w 41 = xb ∧ regAt w 36 = xc ∧ fld w 0 30 = 0 ∧ Fin.ofNat 8 (w / 2 ^ 30) = n ∧ fld w 33 3 = 0 := by
  rw [srWord_eq_iff ho (by omega), finAt_eq_iff 8 3 rfl, ← fld_eq_low_iff 3 3 n.isLt]

theorem siWord_imm_iff {v : BitVec 46} : siWord op xd xa v.toNat = w ↔ w < 2 ^ 64 ∧ fld w 56 8 = op ∧ regAt w 51 = xd ∧
    regAt w 46 = xa ∧ imm46 w = v := by
  rw [siWord_eq_iff ho v.isLt, imm46, bv_eq_iff]

theorem siWord_imm6_iff {n : Fin 64} : siWord op xd xa n.val = w ↔ w < 2 ^ 64 ∧ fld w 56 8 = op ∧ regAt w 51 = xd ∧
    regAt w 46 = xa ∧ Fin.ofNat 64 w = n ∧ fld w 6 40 = 0 := by
  rw [siWord_eq_iff ho (by omega), fin_eq_iff 64 6 rfl, ← fld_eq_low_iff 6 40 n.isLt]

theorem siWord_span_iff {p n : Fin 64} : siWord op xd xa (n.val * 2 ^ 6 + p.val) = w ↔ w < 2 ^ 64 ∧ fld w 56 8 = op ∧
    regAt w 51 = xd ∧ regAt w 46 = xa ∧ Fin.ofNat 64 w = p ∧ Fin.ofNat 64 (w / 2 ^ 6) = n ∧ fld w 12 34 = 0 := by
  rw [siWord_eq_iff ho (by omega), fin_eq_iff 64 6 rfl, finAt_eq_iff 64 6 rfl, ← fld_eq_low_iff 6 34 n.isLt, Nat.add_comm,
    ← fld_eq_iff 6 40 p.isLt]

theorem siWord_imm18_iff {v : BitVec 18} : siWord op xd xa v.toNat = w ↔ w < 2 ^ 64 ∧ fld w 56 8 = op ∧ regAt w 51 = xd ∧
    regAt w 46 = xa ∧ BitVec.ofNat 18 w = v ∧ fld w 18 28 = 0 := by
  rw [siWord_eq_iff ho (by omega), bv_eq_iff, ← fld_eq_low_iff 18 28 v.isLt]

theorem siWord_sysNum_iff {v : BitVec 12} : siWord op xd xa v.toNat = w ↔ w < 2 ^ 64 ∧ fld w 56 8 = op ∧ regAt w 51 = xd ∧
    regAt w 46 = xa ∧ BitVec.ofNat 12 w = v ∧ fld w 12 34 = 0 := by
  rw [siWord_eq_iff ho (by omega), bv_eq_iff, ← fld_eq_low_iff 12 34 v.isLt]

end

/-- The word of a scalar operation reads back, and none of its checks speaks. -/
theorem decode_encode_scalar {i : Instr} {w : Nat} (hwf : i.wf = true) (he : encode i = some (.scalar, w)) :
    w < 2 ^ 64 ∧ decodeSlot .scalar w = .ok i := by
  cases i with
  | add | sub | and | or | xor | andn | shl | shr | sra | rotl | mul | mulh | mulhu | div | divu | rem | remu | min | max | minu
  | maxu | slt | sltu | seq | sne | sel | clz | ctz | popc | fmin | fmax | feq | flt | fle | fclass | addx
  | fadd | fsub | fmul | ffma | fdiv | fsqrt | fcvtsw | fcvtws
  | addi | andi | ori | xori | muli | slti | sltiu | movi | movhi | shli | shri | srai | sysrd | syswr | sysset | sysclr
  | ldb | ldbu | ldh | ldhu | ldw | ldwu | ldd | stb | sth | stw | std =>
    replace he := (Prod.mk.inj (Option.some.inj he)).2
    simp only [↓srWord_plain_iff, ↓srWord_rnd_iff, ↓srWord_rnd_sat_iff, ↓srWord_shift_iff, ↓siWord_imm_iff, ↓siWord_imm6_iff,
      ↓siWord_imm18_iff, ↓siWord_sysNum_iff, Nat.reduceLT] at he
    obtain ⟨hlt, hop, hf⟩ := he
    apply decodeSlot_of_read hlt
    · unfold readSlot decodeScalar; rw [hop]; rfl
    · simp only [hf, rmOf_code]
    · simp [firstBad_cons, firstBad_nil, zeroField_eq_none, badField_eq_none, rndChk, ← regAt_eq_zero, rmode_code_lt, hf]
  | bfx | bfi =>
    replace he := (Prod.mk.inj (Option.some.inj he)).2
    rw [siWord_span_iff (by decide)] at he
    obtain ⟨hlt, hop, hd, ha, hp, hn, hz⟩ := he
    apply decodeSlot_of_read hlt
    · unfold readSlot decodeScalar; rw [hop]; rfl
    · simp only [hd, ha, hp, hn]
    · rw [fin_eq_iff 64 6 rfl] at hp
      rw [finAt_eq_iff 64 6 rfl] at hn
      simpa [firstBad_cons, firstBad_nil, zeroField_eq_none, badField_eq_none, hp, hn, hz] using of_decide_eq_true hwf
  | _ => cases he

/-- An operation that a scalar slot decodes to is well formed and has the slot as its word. -/
theorem encode_decodeScalar {d : Decoded} {w : Nat} (hw : w < 2 ^ 64) (h : decodeScalar w = some d) (hn : d.instr ≠ .nop)
    (hs : firstBad d.chk = none) : d.instr.wf = true ∧ encode d.instr = some (.scalar, w) := by
  unfold decodeScalar at h
  split at h
  case h_1 => cases h; exact absurd rfl hn
  case h_75 => cases h
  all_goals
    rename_i hop
    obtain rfl := Option.some.inj h
    simp only [firstBad_cons, zeroField_eq_none, badField_eq_none, rndChk, firstBad_nil, and_true, decide_eq_false_iff_not,
      Nat.not_le] at hs
    refine (?_ : _ ∧ _).imp_right fun hv => congrArg (fun v => some (SlotClass.scalar, v)) hv
  case h_31 | h_32 =>
    have hp : (Fin.ofNat 64 w).val = fld w 0 6 := fin_val 64 6 rfl
    have hn : (Fin.ofNat 64 (w / 2 ^ 6)).val = fld w 6 6 := finAt_val 64 6 rfl
    refine ⟨decide_eq_true ?_, (siWord_span_iff (by decide)).2 ⟨hw, hop, rfl, rfl, rfl, rfl, hs.2⟩⟩
    rw [hp, hn]
    exact Nat.le_of_not_lt hs.1
  all_goals
    refine ⟨rfl, ?_⟩
    simp only [↓srWord_plain_iff, ↓srWord_rnd_iff, ↓srWord_rnd_sat_iff, ↓srWord_shift_iff, ↓siWord_imm_iff, ↓siWord_imm6_iff,
      ↓siWord_imm18_iff, ↓siWord_sysNum_iff, Nat.reduceLT, hw, hop, regAt_eq_zero, code_rmOf, hs, and_self]

end Sys2Proof
end

section
/-! PROOF. The ctl slot's words and their decoding, each the other's inverse (R70). -/

namespace Sys2Proof

theorem scopeOf_code (r : Scope) : scopeOf r.code = r := by cases r <;> rfl

theorem code_scopeOf {n : Nat} (h : n < 5) : (scopeOf n).code = n :=
  match n, h with
  | 0, _ | 1, _ | 2, _ | 3, _ | 4, _ => rfl

theorem scope_code_lt (r : Scope) : r.code < 5 := by cases r <;> decide

section
variable {op w : Nat} (ho : op < 256) {xa xb xd xt : Reg} {n : Fin 256}
include ho

theorem cbWord_target_iff {t : BitVec 15} : cbWord op xa xb t.toNat = w ↔ w < 2 ^ 64 ∧ fld w 56 8 = op ∧ regAt w 51 = xa ∧
    regAt w 46 = xb ∧ BitVec.ofNat 15 w = t ∧ fld w 15 9 = 0 ∧ fld w 24 22 = 0 := by
  have := xa.isLt; have := xb.isLt; have := t.isLt
  rw [bv_eq_iff]
  simp only [cbWord, fld, regAt, Fin.ext_iff, Fin.ofNat]
  omega

theorem cbWord_zero_iff : cbWord op xa xb 0 = w ↔ w < 2 ^ 64 ∧ fld w 56 8 = op ∧ regAt w 51 = xa ∧ regAt w 46 = xb ∧
    fld w 0 24 = 0 ∧ fld w 24 22 = 0 := by
  have := xa.isLt; have := xb.isLt
  simp only [cbWord, fld, regAt, Fin.ext_iff, Fin.ofNat]
  omega

theorem cmWord_eq_iff {id arg : Nat} (hi : id < 2 ^ 16) (ha : arg < 2 ^ 40) : cmWord op id arg = w ↔ w < 2 ^ 64 ∧
    fld w 56 8 = op ∧ fld w 40 16 = id ∧ fld w 0 40 = arg := by
  simp only [cmWord, fld]
  omega

theorem csWord_eq_iff {fl : Nat} (hf : fl < 8) : csWord op n xt fl xd = w ↔ w < 2 ^ 64 ∧ fld w 56 8 = op ∧
    Fin.ofNat 256 (w / 2 ^ 48) = n ∧ regAt w 43 = xt ∧ regAt w 35 = xd ∧ fld w 0 35 = 0 ∧ fld w 40 3 = fl := by
  have := xt.isLt; have := xd.isLt; have := n.isLt
  simp only [csWord, fld, regAt, Fin.ext_iff, Fin.ofNat]
  omega

/-- Format CX with a value of at most 24 bits in its immediate. -/
theorem cxWord_eq_iff (b : Nat) {v : Nat} (hv : v < 2 ^ b) (hb : b ≤ 24) : cxWord op xd xa v = w ↔ w < 2 ^ 64 ∧
    fld w 56 8 = op ∧ regAt w 51 = xd ∧ regAt w 46 = xa ∧ fld w 0 b = v ∧ fld w b (24 - b) = 0 ∧ fld w 24 17 = 0 ∧
    fld w 41 5 = 0 := by
  have hv' : v < 2 ^ 24 := hv.trans_le (Nat.pow_le_pow_right (by decide) hb)
  have hlow := fld_eq_low_iff b (24 - b) (w := w) (lo := 0) hv
  rw [Nat.zero_add, Nat.add_sub_cancel' hb] at hlow
  rw [← and_assoc (a := fld w 0 b = v), ← hlow]
  have := xd.isLt; have := xa.isLt
  simp only [cxWord, fld, regAt, Fin.ext_iff, Fin.ofNat]
  omega

end

section
variable {op w : Nat} (ho : op < 256) {xd xa xt : Reg} {n : Fin 256}
include ho

theorem csWord_plain_iff : csWord op n xt 0 xd = w ↔ w < 2 ^ 64 ∧ fld w 56 8 = op ∧ Fin.ofNat 256 (w / 2 ^ 48) = n ∧
    regAt w 43 = xt ∧ regAt w 35 = xd ∧ fld w 0 35 = 0 ∧ fld w 40 3 = 0 :=
  csWord_eq_iff ho (by decide)

theorem csWord_scope_iff {r : Scope} : csWord op n xt r.code xd = w ↔ w < 2 ^ 64 ∧ fld w 56 8 = op ∧
    Fin.ofNat 256 (w / 2 ^ 48) = n ∧ regAt w 43 = xt ∧ regAt w 35 = xd ∧ fld w 0 35 = 0 ∧ fld w 40 3 = r.code :=
  csWord_eq_iff ho (Laws.scope_code_lt r)

theorem csWord_flag_iff {b : Bool} : csWord op n xt b.toNat xd = w ↔ w < 2 ^ 64 ∧ fld w 56 8 = op ∧
    Fin.ofNat 256 (w / 2 ^ 48) = n ∧ regAt w 43 = xt ∧ regAt w 35 = xd ∧ fld w 0 35 = 0 ∧ bitAt w 40 = b ∧ fld w 41 2 = 0 := by
  have hb := Laws.bool_nat_lt b
  rw [csWord_eq_iff ho (by omega), bitAt_eq_iff, ← fld_eq_low_iff 1 2 hb]

theorem cmWord_segend_iff {g : BitVec 16} {t : BitVec 21} : cmWord op g.toNat t.toNat = w ↔ w < 2 ^ 64 ∧ fld w 56 8 = op ∧
    BitVec.ofNat 16 (w / 2 ^ 40) = g ∧ BitVec.ofNat 21 w = t ∧ fld w 21 19 = 0 := by
  rw [cmWord_eq_iff ho g.isLt (by omega), bvAt_eq_iff, bv_eq_iff, ← fld_eq_low_iff 21 19 t.isLt]

theorem cmWord_halt_iff {t : BitVec 16} : cmWord op 0 t.toNat = w ↔ w < 2 ^ 64 ∧ fld w 56 8 = op ∧
    fld w 40 16 = 0 ∧ BitVec.ofNat 16 w = t ∧ fld w 16 24 = 0 := by
  rw [cmWord_eq_iff ho (by decide) (by omega), bv_eq_iff, ← fld_eq_low_iff 16 24 t.isLt]

theorem cmWord_trap_iff {g : BitVec 16} {t : BitVec 40} : cmWord op g.toNat t.toNat = w ↔ w < 2 ^ 64 ∧ fld w 56 8 = op ∧
    BitVec.ofNat 16 (w / 2 ^ 40) = g ∧ BitVec.ofNat 40 w = t := by
  rw [cmWord_eq_iff ho g.isLt t.isLt, bvAt_eq_iff, bv_eq_iff]

theorem cmWord_zero_iff : cmWord op 0 0 = w ↔ w < 2 ^ 64 ∧ fld w 56 8 = op ∧ fld w 40 16 = 0 ∧ fld w 0 40 = 0 :=
  cmWord_eq_iff ho (by decide) (by decide)

/-- SAFE without a checkpoint number. -/
theorem cmWord_safe_none_iff : cmWord op 0 0 = w ↔ w < 2 ^ 64 ∧ fld w 56 8 = op ∧ bitAt w 55 = false ∧ fld w 40 8 = 0 ∧
    fld w 48 7 = 0 ∧ fld w 0 40 = 0 := by
  rw [cmWord_zero_iff ho, bitAt_eq_iff]
  simp only [fld, Bool.toNat_false]
  omega

theorem cmWord_safe_some_iff {c : Fin 256} : cmWord op (0x8000 + c.val) 0 = w ↔ w < 2 ^ 64 ∧ fld w 56 8 = op ∧
    bitAt w 55 = true ∧ Fin.ofNat 256 (w / 2 ^ 40) = c ∧ fld w 48 7 = 0 ∧ fld w 0 40 = 0 := by
  have := c.isLt
  rw [cmWord_eq_iff ho (by omega) (by decide), bitAt_eq_iff, finAt_eq_iff 256 8 rfl]
  simp only [fld, Bool.toNat_true]
  omega

theorem cxWord_zero_iff : cxWord op xd xa 0 = w ↔ w < 2 ^ 64 ∧ fld w 56 8 = op ∧ regAt w 51 = xd ∧ regAt w 46 = xa ∧
    fld w 0 24 = 0 ∧ fld w 24 17 = 0 ∧ fld w 41 5 = 0 :=
  (cxWord_eq_iff ho 0 (by decide) (by decide)).trans (by simp [fld, Nat.mod_one])

theorem cxWord_scope_iff {r : Scope} : cxWord op xd xa r.code = w ↔ w < 2 ^ 64 ∧ fld w 56 8 = op ∧ regAt w 51 = xd ∧
    regAt w 46 = xa ∧ fld w 0 3 = r.code ∧ fld w 3 21 = 0 ∧ fld w 24 17 = 0 ∧ fld w 41 5 = 0 :=
  cxWord_eq_iff ho 3 (Laws.scope_code_lt r) (by decide)

theorem cxWord_mask_iff {m : BitVec 8} : cxWord op xd xa m.toNat = w ↔ w < 2 ^ 64 ∧ fld w 56 8 = op ∧ regAt w 51 = xd ∧
    regAt w 46 = xa ∧ BitVec.ofNat 8 w = m ∧ fld w 8 16 = 0 ∧ fld w 24 17 = 0 ∧ fld w 41 5 = 0 := by
  rw [cxWord_eq_iff ho 8 m.isLt (by decide), bv_eq_iff]

theorem cxWord_side_iff {k : Fin 4} : cxWord op xd xa k.val = w ↔ w < 2 ^ 64 ∧ fld w 56 8 = op ∧ regAt w 51 = xd ∧
    regAt w 46 = xa ∧ Fin.ofNat 4 w = k ∧ fld w 2 22 = 0 ∧ fld w 24 17 = 0 ∧ fld w 41 5 = 0 := by
  rw [cxWord_eq_iff ho 2 k.isLt (by decide), fin_eq_iff 4 2 rfl]

theorem cxWord_form_iff {k : Fin 3} : cxWord op xd xa k.val = w ↔ w < 2 ^ 64 ∧ fld w 56 8 = op ∧ regAt w 51 = xd ∧
    regAt w 46 = xa ∧ fld w 0 2 = k.val ∧ fld w 2 22 = 0 ∧ fld w 24 17 = 0 ∧ fld w 41 5 = 0 :=
  cxWord_eq_iff ho 2 (by omega) (by decide)

theorem cxWord_sel_iff {k : Fin 9} : cxWord op xd xa k.val = w ↔ w < 2 ^ 64 ∧ fld w 56 8 = op ∧ regAt w 51 = xd ∧
    regAt w 46 = xa ∧ fld w 0 4 = k.val ∧ fld w 4 20 = 0 ∧ fld w 24 17 = 0 ∧ fld w 41 5 = 0 :=
  cxWord_eq_iff ho 4 (by omega) (by decide)

end

theorem loopWord_eq_iff {lc : Fin 4} {xa : Reg} {trip : BitVec 25} {last : BitVec 15} {w : Nat} :
    12 * 2 ^ 56 + lc.val * 2 ^ 54 + xa.val * 2 ^ 49 + trip.toNat * 2 ^ 24 + last.toNat = w ↔ w < 2 ^ 64 ∧ fld w 56 8 = 12 ∧
      Fin.ofNat 4 (w / 2 ^ 54) = lc ∧ regAt w 49 = xa ∧ BitVec.ofNat 25 (w / 2 ^ 24) = trip ∧ BitVec.ofNat 15 w = last ∧
      fld w 15 9 = 0 := by
  have := lc.isLt; have := xa.isLt; have := trip.isLt; have := last.isLt
  rw [bvAt_eq_iff, bv_eq_iff]
  simp only [fld, regAt, Fin.ext_iff, Fin.ofNat]
  omega

/-- The word of a ctl operation reads back, and none of its checks speaks. -/
theorem decode_encode_ctl {i : Instr} {w : Nat} (hwf : i.wf = true) (he : encode i = some (.ctl, w)) :
    w < 2 ^ 64 ∧ decodeSlot .ctl w = .ok i := by
  cases i with
  | nop =>
    obtain rfl : 0 = w := (Prod.mk.inj (Option.some.inj he)).2
    decide
  | beq | bne | blt | bge | bltu | bgeu | jmp | jmpx | call | callx | ret | lexit | halt | trap | eret
  | swait | ssig | srd | sset | sclre | fence | axslew | axskip | accuse | appeal | ifst | spmwr | spare | selfoff =>
    replace he := (Prod.mk.inj (Option.some.inj he)).2
    simp only [↓cbWord_target_iff, ↓cbWord_zero_iff, ↓cmWord_zero_iff, ↓cmWord_halt_iff, ↓cmWord_trap_iff, ↓csWord_plain_iff,
      ↓csWord_scope_iff, ↓csWord_flag_iff, ↓cxWord_zero_iff, ↓cxWord_scope_iff, ↓cxWord_side_iff, Nat.reduceLT] at he
    obtain ⟨hlt, hop, hf⟩ := he
    apply decodeSlot_of_read hlt
    · unfold readSlot decodeCtl; rw [hop]; rfl
    · simp only [hf, scopeOf_code]
    · simp [firstBad_cons, firstBad_nil, zeroField_eq_none, badField_eq_none, ← regAt_eq_zero, scope_code_lt, hf]
  | axrd xd n | spmrd xd n | hbrd xd n =>
    have hn := n.isLt
    replace he := (Prod.mk.inj (Option.some.inj he)).2
    simp only [↓cxWord_form_iff, ↓cxWord_sel_iff, Nat.reduceLT] at he
    obtain ⟨hlt, hop, hf⟩ := he
    apply decodeSlot_of_read hlt
    · unfold readSlot decodeCtl; rw [hop]; rfl
    · simp [hf]
    · simp [firstBad_cons, firstBad_nil, zeroField_eq_none, badField_eq_none, ← regAt_eq_zero, Nat.ne_of_lt hn, hf]
  | srel m | sacq m =>
    replace he := (Prod.mk.inj (Option.some.inj he)).2
    rw [cxWord_mask_iff (by decide)] at he
    obtain ⟨hlt, hop, hf⟩ := he
    have hm : fld w 0 8 ≠ 0 := fun h => by
      rw [bv_eq_iff, h] at hf
      exact absurd (BitVec.eq_of_toNat_eq hf.2.2.1.symm) (by simpa [Instr.wf] using hwf)
    apply decodeSlot_of_read hlt
    · unfold readSlot decodeCtl; rw [hop]; rfl
    · simp only [hf]
    · simp [firstBad_cons, firstBad_nil, zeroField_eq_none, badField_eq_none, ← regAt_eq_zero, hf, hm]
  | segend g t =>
    replace he := (Prod.mk.inj (Option.some.inj he)).2
    rw [cmWord_segend_iff (by decide)] at he
    obtain ⟨hlt, hop, hf⟩ := he
    have ht : fld w 0 21 = t.toNat := bv_eq_iff.1 hf.2.1
    apply decodeSlot_of_read hlt
    · unfold readSlot decodeCtl; rw [hop]; rfl
    · simp only [hf]
    · simp only [Instr.wf, Bool.and_eq_true, decide_eq_true_eq] at hwf
      simp [firstBad_cons, firstBad_nil, zeroField_eq_none, badField_eq_none, hf, ht]
      omega
  | loop n xa trip last =>
    replace he := (Prod.mk.inj (Option.some.inj he)).2
    obtain ⟨hlt, hop, hf⟩ := loopWord_eq_iff.1 he
    apply decodeSlot_of_read hlt
    · unfold readSlot decodeCtl; rw [hop]; rfl
    · simp only [hf]
    · have hx : fld w 49 5 = 0 ∨ fld w 24 25 = 0 := by
        rw [← regAt_eq_zero, hf.2.1]
        exact (Bool.or_eq_true _ _ ▸ hwf).imp eq_of_beq fun h => by rw [bvAt_eq_iff.1 hf.2.2.1, eq_of_beq h]; rfl
      simp [firstBad_cons, firstBad_nil, zeroField_eq_none, hf]
      exact hx.resolve_left
  | safe cp =>
    replace he := (Prod.mk.inj (Option.some.inj he)).2
    cases cp with
    | none =>
      obtain ⟨hlt, hop, hf⟩ := (cmWord_safe_none_iff (by decide)).1 he
      apply decodeSlot_of_read hlt
      · unfold readSlot decodeCtl; rw [hop]; rfl
      · simp only [hf]; rfl
      · simp [firstBad_cons, firstBad_nil, zeroField_eq_none, hf]
    | some c =>
      obtain ⟨hlt, hop, hf⟩ := (cmWord_safe_some_iff (by decide)).1 he
      apply decodeSlot_of_read hlt
      · unfold readSlot decodeCtl; rw [hop]; rfl
      · simp only [hf, if_true]
      · simp [firstBad_cons, firstBad_nil, zeroField_eq_none, hf]
  | _ => cases he


theorem fld_two_ne_three {w lo : Nat} : fld w lo 2 ≠ 3 ↔ fld w lo 2 < 3 := by
  have : fld w lo 2 < 4 := Nat.mod_lt _ (by decide)
  omega

/-- An operation that the ctl slot decodes to is well formed and has the slot as its word. -/
theorem encode_decodeCtl {d : Decoded} {w : Nat} (hw : w < 2 ^ 64) (h : decodeCtl w = some d) (hn : d.instr ≠ .nop)
    (hs : firstBad d.chk = none) : d.instr.wf = true ∧ encode d.instr = some (.ctl, w) := by
  unfold decodeCtl at h
  split at h
  case h_1 => cases h; exact absurd rfl hn
  case h_39 => cases h
  all_goals
    rename_i hop
    obtain rfl := Option.some.inj h
    simp only [firstBad_cons, zeroField_eq_none, badField_eq_none, firstBad_nil, and_true, decide_eq_false_iff_not, Nat.not_le,
      fld_two_ne_three, Bool.or_eq_false_iff, beq_eq_false_iff_ne] at hs
    refine (?_ : _ ∧ _).imp_right fun hv => congrArg (fun v => some (SlotClass.ctl, v)) hv
  case h_13 =>
    obtain ⟨h15, ht⟩ := hs
    refine ⟨?_, loopWord_eq_iff.2 ⟨hw, hop, rfl, rfl, rfl, rfl, h15⟩⟩
    simp only [Instr.wf, Bool.or_eq_true, beq_iff_eq, regAt_eq_zero, bvAt_eq_iff]
    split at ht
    · exact .inl ‹_›
    · exact .inr (zeroField_eq_none.1 ht)
  case h_15 =>
    obtain ⟨h0, hc, h7⟩ := hs
    refine ⟨rfl, ?_⟩
    split at hc
    next hb =>
      simp only [hb, if_true]
      exact (cmWord_safe_some_iff (by decide)).2 ⟨hw, hop, hb, rfl, h7, h0⟩
    next hb =>
      simp only [hb]
      exact (cmWord_safe_none_iff (by decide)).2 ⟨hw, hop, by simpa using hb, zeroField_eq_none.1 hc, h7, h0⟩
  case h_16 =>
    refine ⟨?_, (cmWord_segend_iff (by decide)).2 ⟨hw, hop, rfl, rfl, hs.2⟩⟩
    have ht := (bv_eq_iff (b := 21) (w := w)).1 rfl
    simp only [Instr.wf, Bool.and_eq_true, decide_eq_true_eq, ← ht]
    omega
  case h_26 | h_27 =>
    obtain ⟨hm, h8, h24, h41, h46, h51⟩ := hs
    refine ⟨?_, (cxWord_mask_iff (by decide)).2 ⟨hw, hop, regAt_eq_zero.2 h51, regAt_eq_zero.2 h46, rfl, h8, h24, h41⟩⟩
    simp only [Instr.wf, bne_iff_ne, ne_eq, bv_eq_iff]
    exact hm
  all_goals
    refine ⟨rfl, ?_⟩
    simp only [↓cbWord_target_iff, ↓cbWord_zero_iff, ↓cmWord_zero_iff, ↓cmWord_halt_iff, ↓cmWord_trap_iff, ↓csWord_plain_iff,
      ↓csWord_scope_iff, ↓csWord_flag_iff, ↓cxWord_zero_iff, ↓cxWord_scope_iff, ↓cxWord_side_iff, ↓cxWord_form_iff,
      ↓cxWord_sel_iff, Nat.reduceLT, hw, hop, regAt_eq_zero, code_scopeOf, fin_val_of_lt, hs, and_self]

end Sys2Proof
end

section
/-! PROOF. The lane slot's words and their decoding, each the other's inverse (R73). -/

namespace Sys2Proof

section
variable {op w : Nat} (ho : op < 256) {q sec stn : Fin 8} {lane : LaneRef} {xa : Reg}
include ho

theorem lnWord_add_iff {lvl tag low : Nat} (hl : lvl < 8) (ht : tag < 2 ^ 16) (h0 : low < 2 ^ 19) :
    lnWord op q sec lane stn xa lvl tag + low = w ↔
      w < 2 ^ 64 ∧ fld w 56 8 = op ∧ fld w 53 3 = q.val ∧ fld w 50 3 = sec.val ∧ fld w 47 3 = lane.num.val ∧
    fld w 46 1 = lane.ccw.toNat ∧ fld w 43 3 = stn.val ∧ fld w 38 5 = xa.val ∧
      fld w 35 3 = lvl ∧ fld w 19 16 = tag ∧ fld w 0 19 = low := by
  have hc := Laws.bool_nat_lt lane.ccw
  have hp : lnWord op q sec lane stn xa lvl tag + low = packed [(low, 19), (tag, 16), (lvl, 3), (xa.val, 5), (stn.val, 3),
      (lane.ccw.toNat, 1), (lane.num.val, 3), (sec.val, 3), (q.val, 3), (op, 8)] := by
    simp only [lnWord, packed]
    omega
  rw [hp, packed_eq_iff (by simp; omega)]
  simp only [FieldsAt, packedWidth, Nat.reduceAdd]
  tauto

theorem lnWord_eq_iff {lvl tag : Nat} (hl : lvl < 8) (ht : tag < 2 ^ 16) : lnWord op q sec lane stn xa lvl tag = w ↔
    w < 2 ^ 64 ∧ fld w 56 8 = op ∧ fld w 53 3 = q.val ∧ fld w 50 3 = sec.val ∧ fld w 47 3 = lane.num.val ∧
    fld w 46 1 = lane.ccw.toNat ∧ fld w 43 3 = stn.val ∧ fld w 38 5 = xa.val ∧
    fld w 35 3 = lvl ∧ fld w 19 16 = tag ∧ fld w 0 18 = 0 ∧ fld w 18 1 = 0 := by
  have h := lnWord_add_iff (w := w) ho (q := q) (sec := sec) (stn := stn) (lane := lane) (xa := xa) hl ht (Nat.two_pow_pos 19)
  rwa [Nat.add_zero, fld_eq_zero_iff 18 1] at h

theorem lnWord_bind_iff {b : Bool} : lnWord op q sec lane stn xa 0 0 + b.toNat * 2 ^ 18 = w ↔ w < 2 ^ 64 ∧ fld w 56 8 = op ∧
    fld w 53 3 = q.val ∧ fld w 50 3 = sec.val ∧ fld w 47 3 = lane.num.val ∧
    fld w 46 1 = lane.ccw.toNat ∧ fld w 43 3 = stn.val ∧ fld w 38 5 = xa.val ∧
    fld w 35 3 = 0 ∧ fld w 19 16 = 0 ∧ fld w 0 18 = 0 ∧ fld w 18 1 = b.toNat := by
  have hb := Laws.bool_nat_lt b
  rw [lnWord_add_iff ho (by decide) (by decide) (by omega), ← fld_eq_iff 18 1 (Nat.two_pow_pos 18), Nat.zero_add]

theorem lnWord_zero_iff : lnWord op q sec lane stn xa 0 0 = w ↔ w < 2 ^ 64 ∧ fld w 56 8 = op ∧
    fld w 53 3 = q.val ∧ fld w 50 3 = sec.val ∧ fld w 47 3 = lane.num.val ∧
    fld w 46 1 = lane.ccw.toNat ∧ fld w 43 3 = stn.val ∧ fld w 38 5 = xa.val ∧
    fld w 35 3 = 0 ∧ fld w 19 16 = 0 ∧ fld w 0 18 = 0 ∧ fld w 18 1 = 0 :=
  lnWord_eq_iff ho (by decide) (by decide)

theorem lnWord_level_iff {l : Fin 4} : lnWord op q sec lane stn xa l.val 0 = w ↔ w < 2 ^ 64 ∧ fld w 56 8 = op ∧
    fld w 53 3 = q.val ∧ fld w 50 3 = sec.val ∧ fld w 47 3 = lane.num.val ∧
    fld w 46 1 = lane.ccw.toNat ∧ fld w 43 3 = stn.val ∧ fld w 38 5 = xa.val ∧
    (Fin.ofNat 4 (w / 2 ^ 35) = l ∧ fld w 35 3 < 4) ∧ fld w 19 16 = 0 ∧ fld w 0 18 = 0 ∧ fld w 18 1 = 0 := by
  have hl : fld w 35 3 = l.val ↔ Fin.ofNat 4 (w / 2 ^ 35) = l ∧ fld w 35 3 < 4 := by
    simp only [Fin.ext_iff, Fin.ofNat, fld]
    omega
  rw [lnWord_eq_iff ho (by omega) (by decide), hl]

theorem lnWord_tag_iff {t : BitVec 16} : lnWord op q sec lane stn xa 0 t.toNat = w ↔ w < 2 ^ 64 ∧ fld w 56 8 = op ∧
    fld w 53 3 = q.val ∧ fld w 50 3 = sec.val ∧ fld w 47 3 = lane.num.val ∧
    fld w 46 1 = lane.ccw.toNat ∧ fld w 43 3 = stn.val ∧ fld w 38 5 = xa.val ∧
    fld w 35 3 = 0 ∧ fld w 19 16 = t.toNat ∧ fld w 0 18 = 0 ∧ fld w 18 1 = 0 :=
  lnWord_eq_iff ho (by decide) t.isLt

theorem lnWord_sel_iff {n : Fin 32} : lnWord op q sec lane stn xa 0 n.val = w ↔ w < 2 ^ 64 ∧ fld w 56 8 = op ∧
    fld w 53 3 = q.val ∧ fld w 50 3 = sec.val ∧ fld w 47 3 = lane.num.val ∧
    fld w 46 1 = lane.ccw.toNat ∧ fld w 43 3 = stn.val ∧ fld w 38 5 = xa.val ∧
    fld w 35 3 = 0 ∧ fld w 19 16 = n.val ∧ fld w 0 18 = 0 ∧ fld w 18 1 = 0 :=
  lnWord_eq_iff ho (by decide) (by omega)

end

theorem laneAt_eq_iff {w : Nat} {l : LaneRef} : laneAt w = l ↔ fld w 47 3 = l.num.val ∧ fld w 46 1 = l.ccw.toNat := by
  obtain ⟨c, n⟩ := l
  rw [laneAt, LaneRef.mk.injEq, bitAt_eq_iff, finAt_eq_iff 8 3 rfl, and_comm]

theorem laneAt_num (w : Nat) : (laneAt w).num.val = fld w 47 3 := (laneAt_eq_iff.1 rfl).1.symm

theorem laneAt_ccw (w : Nat) : (laneAt w).ccw.toNat = fld w 46 1 := (laneAt_eq_iff.1 rfl).2.symm

/-- The word of a lane operation reads back, and none of its checks speaks. -/
theorem decode_encode_lane {i : Instr} {w : Nat} (hwf : i.wf = true) (he : encode i = some (.lane, w)) :
    w < 2 ^ 64 ∧ decodeSlot .lane w = .ok i := by
  cases i with
  | pwalk | prst | ptag | pstamp | pflush =>
    replace he := (Prod.mk.inj (Option.some.inj he)).2
    simp only [↓lnWord_zero_iff, ↓lnWord_level_iff, ↓lnWord_tag_iff, Nat.reduceLT] at he
    obtain ⟨hlt, hop, hf⟩ := he
    apply decodeSlot_of_read hlt
    · unfold readSlot decodeLane; rw [hop]; rfl
    · simp [-Fin.ofNat_eq_cast, -Nat.reducePow, finAt_eq_iff 8 3 rfl, bvAt_eq_iff, regAt_eq_iff, hf]
    · simp [firstBad_cons, firstBad_nil, zeroField_eq_none, badField_eq_none, hf]
  | pbind | lmov | pstat =>
    replace he := (Prod.mk.inj (Option.some.inj he)).2
    simp only [↓lnWord_bind_iff, ↓lnWord_zero_iff, ↓lnWord_sel_iff, Nat.reduceLT] at he
    obtain ⟨hlt, hop, hf⟩ := he
    apply decodeSlot_of_read hlt
    · unfold readSlot decodeLane; rw [hop]; rfl
    · simp [-Fin.ofNat_eq_cast, -Nat.reducePow, finAt_eq_iff 8 3 rfl, laneAt_eq_iff, bitAt_eq_iff, regAt_eq_iff, hf]
    · simp only [Instr.wf, Bool.and_eq_true, Bool.or_eq_true, decide_eq_true_eq, bne_iff_ne, beq_iff_eq, ne_eq,
        Fin.ext_iff] at hwf
      simp [firstBad_cons, firstBad_nil, zeroField_eq_none, badField_eq_none, hf]
      omega
  | _ => cases he

/-- An operation that the lane slot decodes to is well formed and has the slot as its word. -/
theorem encode_decodeLane {d : Decoded} {w : Nat} (hw : w < 2 ^ 64) (h : decodeLane w = some d) (hn : d.instr ≠ .nop)
    (hs : firstBad d.chk = none) : d.instr.wf = true ∧ encode d.instr = some (.lane, w) := by
  unfold decodeLane at h
  split at h
  case h_1 => cases h; exact absurd rfl hn
  case h_10 => cases h
  all_goals
    rename_i hop
    obtain rfl := Option.some.inj h
    clear h hn
    simp only [firstBad_cons, zeroField_eq_none, badField_eq_none, firstBad_nil, and_true, decide_eq_false_iff_not, Nat.not_le,
      Bool.or_eq_false_iff, beq_eq_false_iff_ne] at hs
    refine (?_ : _ ∧ _).imp_right fun hv => congrArg (fun v => some (SlotClass.lane, v)) hv
  case h_2 | h_7 =>
    constructor
    · simp only [Instr.wf, Bool.and_eq_true, decide_eq_true_eq, bne_iff_ne, ne_eq, Fin.ext_iff, laneAt_num, finAt_val 8 3 rfl]
      omega
    · simp only [↓lnWord_bind_iff, ↓lnWord_zero_iff, Nat.reduceLT, hw, hop,
        hs, laneAt_num, laneAt_ccw, regAt_val, bitAt_toNat, finAt_val 8 3 rfl, Fin.val_zero,
        and_self]
  case h_8 =>
    simp only [Bool.and_eq_false_iff, decide_eq_false_iff_not, zeroField_eq_none, ite_eq_right_iff] at hs
    constructor
    · simp only [Instr.wf, Bool.and_eq_true, Bool.or_eq_true, decide_eq_true_eq, beq_iff_eq, Fin.ext_iff, finAt_val 8 3 rfl,
        Fin.val_zero]
      rw [fin_val_of_lt (by omega)]
      omega
    · simp only [↓lnWord_sel_iff, Nat.reduceLT, hw, hop, hs, regAt_val, finAt_val 8 3 rfl, fin_val_of_lt, Fin.val_zero,
        Bool.toNat_false, and_self]
  all_goals
    refine ⟨rfl, ?_⟩
    simp only [↓lnWord_zero_iff, ↓lnWord_level_iff, ↓lnWord_tag_iff, Nat.reduceLT, hw, hop,
      hs, regAt_val, finAt_val 8 3 rfl, bvAt_toNat, Fin.val_zero,
      Bool.toNat_false, and_self]

end Sys2Proof
end

section
/-! PROOF. The eng slot's words and their decoding, each the other's inverse (R72). -/

namespace Sys2Proof

/-- The shared fields of an engine slot. -/
theorem ectlOf_eq_iff {w : Nat} {e : ECtl} : ectlOf w = e ↔ fld w 48 8 = e.wsem.val ∧ fld w 43 5 = e.wx.val ∧
    fld w 35 8 = e.ssem.val ∧ fld w 31 4 = e.sinc.val ∧ fld w 26 5 = e.xa.val ∧ fld w 25 1 = e.q.toNat := by
  obtain ⟨ws, wx, ss, si, xa, q⟩ := e
  rw [ectlOf, ECtl.mk.injEq, finAt_eq_iff 256 8 rfl, finAt_eq_iff 256 8 rfl, finAt_eq_iff 16 4 rfl, regAt_eq_iff, regAt_eq_iff]
  exact and_congr_right' (and_congr_right' (and_congr_right' (and_congr_right' (and_congr_right' bitAt_eq_iff))))

/-- The checks of the shared fields are those of a well-formed operation (R72). -/
theorem ecChk_silent {w : Nat} : firstBad (ecChk w) = none ↔ (ectlOf w).ok = true := by
  obtain ⟨hws, hwx, hss, hsi, hxa, -⟩ := ectlOf_eq_iff.1 (rfl : ectlOf w = ectlOf w)
  simp only [ecChk, firstBad_cons, firstBad_nil, and_true, badField_eq_none, decide_eq_false_iff_not, ite_eq_right_iff,
    zeroField_eq_none, ECtl.ok, Bool.and_eq_true, Bool.or_eq_true, decide_eq_true_eq, bne_iff_ne, beq_iff_eq, ne_eq,
      Fin.ext_iff,
    Fin.val_zero, hws, hwx, hss, hsi, hxa]
  omega

theorem ecWord_eq_iff {op k w : Nat} {e : ECtl} (ho : op < 256) (hk : k < 2 ^ 25) : ecWord op e k = w ↔ w < 2 ^ 64 ∧
    fld w 56 8 = op ∧ ectlOf w = e ∧ fld w 0 25 = k := by
  have he := Laws.ectl_lt e
  have hp : ecWord op e k = packed [(k, 25), (e.q.toNat, 1), (e.xa.val, 5), (e.sinc.val, 4), (e.ssem.val, 8), (e.wx.val, 5),
      (e.wsem.val, 8), (op, 8)] := by
    simp only [ecWord, packed]
    omega
  rw [hp, packed_eq_iff (by simp; omega), ectlOf_eq_iff]
  simp only [FieldsAt, packedWidth, Nat.reduceAdd]
  tauto

theorem ecRaw_eq_iff {op k w : Nat} {xa : Reg} (ho : op < 256) (hk : k < 2 ^ 25) : ecRaw op xa k = w ↔ w < 2 ^ 64 ∧
    fld w 56 8 = op ∧ regAt w 26 = xa ∧ (fld w 25 1 = 0 ∧ fld w 31 4 = 0 ∧ fld w 35 8 = 0 ∧ fld w 43 5 = 0 ∧ fld w 48 8 = 0) ∧
      fld w 0 25 = k := by
  have hp : ecRaw op xa k = packed [(k, 25), (0, 1), (xa.val, 5), (0, 4), (0, 8), (0, 5), (0, 8), (op, 8)] := by
    simp only [ecRaw, packed]
    omega
  rw [hp, packed_eq_iff (by simp; omega), regAt_eq_iff]
  simp only [FieldsAt, packedWidth, Nat.reduceAdd]
  tauto

/-! The fields of an engine slot below the shared ones, layout by layout. -/

theorem atomOp_code_lt (o : AtomOp) : o.code < 9 := by cases o <;> decide

theorem atomKind_code_lt (k : AtomKind) : k.code < 3 := by cases k <;> decide

section
variable {op w : Nat} (ho : op < 256) {e : ECtl} {xa : Reg} {a b c d f g : Bool}
include ho

theorem ecWord_packed_iff {k : Nat} (l : List (Nat × Nat)) (hk : k = packed l) (hn : packedWidth l = 25)
    (hl : ∀ p ∈ l, p.1 < 2 ^ p.2) : ecWord op e k = w ↔ w < 2 ^ 64 ∧ fld w 56 8 = op ∧ ectlOf w = e ∧ FieldsAt w 0 l := by
  rw [ecWord_eq_iff ho (by rw [hk, ← hn]; exact packed_lt hl), ← fld_packed_iff hl, hn, hk]

theorem ecRaw_packed_iff {k : Nat} (l : List (Nat × Nat)) (hk : k = packed l) (hn : packedWidth l = 25)
    (hl : ∀ p ∈ l, p.1 < 2 ^ p.2) : ecRaw op xa k = w ↔ w < 2 ^ 64 ∧ fld w 56 8 = op ∧ regAt w 26 = xa ∧
    (fld w 25 1 = 0 ∧ fld w 31 4 = 0 ∧ fld w 35 8 = 0 ∧ fld w 43 5 = 0 ∧ fld w 48 8 = 0) ∧ FieldsAt w 0 l := by
  rw [ecRaw_eq_iff ho (by rw [hk, ← hn]; exact packed_lt hl), ← fld_packed_iff hl, hn, hk]

theorem ecWord_zero_iff : ecWord op e 0 = w ↔ w < 2 ^ 64 ∧ fld w 56 8 = op ∧ ectlOf w = e ∧
    fld w 0 25 = 0 := by
  rw [ecWord_packed_iff ho [(0, 25)] (by simp only [packed]; omega) rfl (by simp)]
  simp [-Fin.ofNat_eq_cast, -Nat.reducePow, FieldsAt]

theorem ecWord_bit_iff : ecWord op e a.toNat = w ↔ w < 2 ^ 64 ∧ fld w 56 8 = op ∧ ectlOf w = e ∧
    bitAt w 0 = a ∧ fld w 1 24 = 0 := by
  have ha := Laws.bool_nat_lt a
  rw [ecWord_packed_iff ho [(a.toNat, 1), (0, 24)] (by simp only [packed]; omega) rfl (by simp; omega)]
  simp [-Fin.ofNat_eq_cast, -Nat.reducePow, FieldsAt, bitAt_eq_iff]

theorem ecWord_bits_iff : ecWord op e (a.toNat + b.toNat * 2) = w ↔ w < 2 ^ 64 ∧ fld w 56 8 = op ∧ ectlOf w = e ∧
    bitAt w 0 = a ∧ bitAt w 1 = b ∧ fld w 2 23 = 0 := by
  have ha := Laws.bool_nat_lt a
  have hb := Laws.bool_nat_lt b
  rw [ecWord_packed_iff ho [(a.toNat, 1), (b.toNat, 1), (0, 23)] (by simp only [packed]; omega) rfl (by simp; omega)]
  simp [-Fin.ofNat_eq_cast, -Nat.reducePow, FieldsAt, bitAt_eq_iff]

theorem ecWord_slot_iff {n : Fin 4} : ecWord op e n.val = w ↔ w < 2 ^ 64 ∧ fld w 56 8 = op ∧ ectlOf w = e ∧
    Fin.ofNat 4 w = n ∧ fld w 2 23 = 0 := by
  rw [ecWord_packed_iff ho [(n.val, 2), (0, 23)] (by simp only [packed]; omega) rfl (by simp)]
  simp [-Fin.ofNat_eq_cast, -Nat.reducePow, FieldsAt, fin_eq_iff 4 2 rfl]

theorem ecWord_entry_bit_iff {n : Fin 16} : ecWord op e (n.val + a.toNat * 2 ^ 4) = w ↔
    w < 2 ^ 64 ∧ fld w 56 8 = op ∧ ectlOf w = e ∧
    Fin.ofNat 16 w = n ∧ bitAt w 4 = a ∧ fld w 5 20 = 0 := by
  have ha := Laws.bool_nat_lt a
  rw [ecWord_packed_iff ho [(n.val, 4), (a.toNat, 1), (0, 20)] (by simp only [packed]; omega) rfl (by simp; omega)]
  simp [-Fin.ofNat_eq_cast, -Nat.reducePow, FieldsAt, fin_eq_iff 16 4 rfl, bitAt_eq_iff]

theorem ecWord_entry_bits_iff {n : Fin 16} : ecWord op e (n.val + a.toNat * 2 ^ 4 + b.toNat * 2 ^ 5) = w ↔
    w < 2 ^ 64 ∧ fld w 56 8 = op ∧ ectlOf w = e ∧
    Fin.ofNat 16 w = n ∧ bitAt w 4 = a ∧ bitAt w 5 = b ∧ fld w 6 19 = 0 := by
  have ha := Laws.bool_nat_lt a
  have hb := Laws.bool_nat_lt b
  rw [ecWord_packed_iff ho [(n.val, 4), (a.toNat, 1), (b.toNat, 1), (0,
    19)] (by simp only [packed]; omega) rfl (by simp; omega)]
  simp [-Fin.ofNat_eq_cast, -Nat.reducePow, FieldsAt, fin_eq_iff 16 4 rfl, bitAt_eq_iff]

theorem ecWord_mxgo_iff {n : Fin 16} {l : Fin 4} : ecWord op e (n.val + a.toNat * 2 ^ 4 + l.val * 2 ^ 5 + b.toNat * 2 ^ 7 +
    c.toNat * 2 ^ 8) = w ↔ w < 2 ^ 64 ∧ fld w 56 8 = op ∧ ectlOf w = e ∧
    Fin.ofNat 16 w = n ∧ bitAt w 4 = a ∧ Fin.ofNat 4 (w / 2 ^ 5) = l ∧ bitAt w 7 = b ∧ bitAt w 8 = c ∧ fld w 9 16 = 0 := by
  have ha := Laws.bool_nat_lt a
  have hb := Laws.bool_nat_lt b
  have hc := Laws.bool_nat_lt c
  rw [ecWord_packed_iff ho [(n.val, 4), (a.toNat, 1), (l.val, 2), (b.toNat, 1), (c.toNat, 1), (0,
    16)] (by simp only [packed]; omega) rfl (by simp; omega)]
  simp [-Fin.ofNat_eq_cast, -Nat.reducePow, FieldsAt, fin_eq_iff 16 4 rfl, finAt_eq_iff 4 2 rfl, bitAt_eq_iff]

theorem ecWord_cvt_iff {x : Fmt} {n : Fin 16} {r : RMode} : ecWord op e (x.code + n.val * 2 ^ 4 + r.code * 2 ^ 8 +
    a.toNat * 2 ^ 11 +
    b.toNat * 2 ^ 12 + c.toNat * 2 ^ 13 + d.toNat * 2 ^ 14 + f.toNat * 2 ^ 15 + g.toNat * 2 ^ 16) = w ↔
      w < 2 ^ 64 ∧ fld w 56 8 = op ∧ ectlOf w = e ∧
    fld w 0 4 = x.code ∧ Fin.ofNat 16 (w / 2 ^ 4) = n ∧ fld w 8 3 = r.code ∧ bitAt w 11 = a ∧ bitAt w 12 = b ∧
    bitAt w 13 = c ∧ bitAt w 14 = d ∧ bitAt w 15 = f ∧ bitAt w 16 = g ∧ fld w 17 8 = 0 := by
  have hx := Laws.fmt_code_lt x
  have hr := Laws.rmode_code_lt r
  have ha := Laws.bool_nat_lt a
  have hb := Laws.bool_nat_lt b
  have hc := Laws.bool_nat_lt c
  have hd := Laws.bool_nat_lt d
  have hf := Laws.bool_nat_lt f
  have hg := Laws.bool_nat_lt g
  rw [ecWord_packed_iff ho [(x.code, 4), (n.val, 4), (r.code, 3), (a.toNat, 1), (b.toNat, 1), (c.toNat, 1), (d.toNat, 1),
    (f.toNat, 1), (g.toNat, 1), (0, 8)] (by simp only [packed]; omega) rfl (by simp; omega)]
  simp [-Fin.ofNat_eq_cast, -Nat.reducePow, FieldsAt, finAt_eq_iff 16 4 rfl, bitAt_eq_iff]

theorem ecWord_qscl_iff {x : Fmt} {n : Fin 8} : ecWord op e (x.code + n.val * 2 ^ 4 + a.toNat * 2 ^ 7) = w ↔
    w < 2 ^ 64 ∧ fld w 56 8 = op ∧ ectlOf w = e ∧
    fld w 0 4 = x.code ∧ Fin.ofNat 8 (w / 2 ^ 4) = n ∧ bitAt w 7 = a ∧ fld w 8 17 = 0 := by
  have hx := Laws.fmt_code_lt x
  have ha := Laws.bool_nat_lt a
  rw [ecWord_packed_iff ho [(x.code, 4), (n.val, 3), (a.toNat, 1), (0, 17)] (by simp only [packed]; omega) rfl (by simp; omega)]
  simp [-Fin.ofNat_eq_cast, -Nat.reducePow, FieldsAt, finAt_eq_iff 8 3 rfl, bitAt_eq_iff]

theorem ecWord_tbev_iff {s : Fin 4} {x y : Fmt} {r : RMode} : ecWord op e (s.val + x.code * 2 ^ 2 + y.code * 2 ^ 6 +
    r.code * 2 ^ 10 + a.toNat * 2 ^ 13 + b.toNat * 2 ^ 14) = w ↔ w < 2 ^ 64 ∧ fld w 56 8 = op ∧ ectlOf w = e ∧
    Fin.ofNat 4 w = s ∧ fld w 2 4 = x.code ∧ fld w 6 4 = y.code ∧ fld w 10 3 = r.code ∧ bitAt w 13 = a ∧
    bitAt w 14 = b ∧ fld w 15 10 = 0 := by
  have hx := Laws.fmt_code_lt x
  have hy := Laws.fmt_code_lt y
  have hr := Laws.rmode_code_lt r
  have ha := Laws.bool_nat_lt a
  have hb := Laws.bool_nat_lt b
  rw [ecWord_packed_iff ho [(s.val, 2), (x.code, 4), (y.code, 4), (r.code, 3), (a.toNat, 1), (b.toNat, 1), (0,
    10)] (by simp only [packed]; omega) rfl (by simp; omega)]
  simp [-Fin.ofNat_eq_cast, -Nat.reducePow, FieldsAt, fin_eq_iff 4 2 rfl, bitAt_eq_iff]

theorem ecWord_fmt_bit_iff {x : Fmt} : ecWord op e (x.code + a.toNat * 2 ^ 4) = w ↔
    w < 2 ^ 64 ∧ fld w 56 8 = op ∧ ectlOf w = e ∧
    fld w 0 4 = x.code ∧ bitAt w 4 = a ∧ fld w 5 20 = 0 := by
  have hx := Laws.fmt_code_lt x
  have ha := Laws.bool_nat_lt a
  rw [ecWord_packed_iff ho [(x.code, 4), (a.toNat, 1), (0, 20)] (by simp only [packed]; omega) rfl (by simp; omega)]
  simp [-Fin.ofNat_eq_cast, -Nat.reducePow, FieldsAt, bitAt_eq_iff]

theorem ecWord_clred_iff {x : Fmt} {r : RMode} : ecWord op e (x.code + r.code * 2 ^ 4 + a.toNat * 2 ^ 7) = w ↔
    w < 2 ^ 64 ∧ fld w 56 8 = op ∧ ectlOf w = e ∧
    fld w 0 4 = x.code ∧ fld w 4 3 = r.code ∧ bitAt w 7 = a ∧ fld w 8 17 = 0 := by
  have hx := Laws.fmt_code_lt x
  have hr := Laws.rmode_code_lt r
  have ha := Laws.bool_nat_lt a
  rw [ecWord_packed_iff ho [(x.code, 4), (r.code, 3), (a.toNat, 1), (0,
    17)] (by simp only [packed]; omega) rfl (by simp; omega)]
  simp [-Fin.ofNat_eq_cast, -Nat.reducePow, FieldsAt, bitAt_eq_iff]

theorem ecWord_atom_iff {o : AtomOp} {k : AtomKind} : ecWord op e (o.code + k.code * 2 ^ 4 + a.toNat * 2 ^ 6) = w ↔
    w < 2 ^ 64 ∧ fld w 56 8 = op ∧ ectlOf w = e ∧
    fld w 0 4 = o.code ∧ fld w 4 2 = k.code ∧ bitAt w 6 = a ∧ fld w 7 18 = 0 := by
  have hop := atomOp_code_lt o
  have hk := atomKind_code_lt k
  have ha := Laws.bool_nat_lt a
  rw [ecWord_packed_iff ho [(o.code, 4), (k.code, 2), (a.toNat, 1), (0,
    18)] (by simp only [packed]; omega) rfl (by simp; omega)]
  simp [-Fin.ofNat_eq_cast, -Nat.reducePow, FieldsAt, bitAt_eq_iff]

theorem ecRaw_entry10_iff {n : Fin 10} : ecRaw op xa n.val = w ↔ w < 2 ^ 64 ∧ fld w 56 8 = op ∧ regAt w 26 = xa ∧
    (fld w 25 1 = 0 ∧ fld w 31 4 = 0 ∧ fld w 35 8 = 0 ∧ fld w 43 5 = 0 ∧ fld w 48 8 = 0) ∧
    fld w 0 4 = n.val ∧ fld w 4 21 = 0 := by
  rw [ecRaw_packed_iff ho [(n.val, 4), (0, 21)] (by simp only [packed]; omega) rfl (by simp; omega)]
  simp [-Fin.ofNat_eq_cast, -Nat.reducePow, FieldsAt]

theorem ecRaw_entry16_iff {n : Fin 16} : ecRaw op xa n.val = w ↔ w < 2 ^ 64 ∧ fld w 56 8 = op ∧ regAt w 26 = xa ∧
    (fld w 25 1 = 0 ∧ fld w 31 4 = 0 ∧ fld w 35 8 = 0 ∧ fld w 43 5 = 0 ∧ fld w 48 8 = 0) ∧
    Fin.ofNat 16 w = n ∧ fld w 4 21 = 0 := by
  rw [ecRaw_packed_iff ho [(n.val, 4), (0, 21)] (by simp only [packed]; omega) rfl (by simp)]
  simp [-Fin.ofNat_eq_cast, -Nat.reducePow, FieldsAt, fin_eq_iff 16 4 rfl]

theorem ecRaw_entry8_iff {n : Fin 8} : ecRaw op xa n.val = w ↔ w < 2 ^ 64 ∧ fld w 56 8 = op ∧ regAt w 26 = xa ∧
    (fld w 25 1 = 0 ∧ fld w 31 4 = 0 ∧ fld w 35 8 = 0 ∧ fld w 43 5 = 0 ∧ fld w 48 8 = 0) ∧
    Fin.ofNat 8 w = n ∧ fld w 3 22 = 0 := by
  rw [ecRaw_packed_iff ho [(n.val, 3), (0, 22)] (by simp only [packed]; omega) rfl (by simp)]
  simp [-Fin.ofNat_eq_cast, -Nat.reducePow, FieldsAt, fin_eq_iff 8 3 rfl]

theorem ecRaw_bits_iff : ecRaw op xa (a.toNat + b.toNat * 2) = w ↔ w < 2 ^ 64 ∧ fld w 56 8 = op ∧ regAt w 26 = xa ∧
    (fld w 25 1 = 0 ∧ fld w 31 4 = 0 ∧ fld w 35 8 = 0 ∧ fld w 43 5 = 0 ∧ fld w 48 8 = 0) ∧
    bitAt w 0 = a ∧ bitAt w 1 = b ∧ fld w 2 23 = 0 := by
  have ha := Laws.bool_nat_lt a
  have hb := Laws.bool_nat_lt b
  rw [ecRaw_packed_iff ho [(a.toNat, 1), (b.toNat, 1), (0, 23)] (by simp only [packed]; omega) rfl (by simp; omega)]
  simp [-Fin.ofNat_eq_cast, -Nat.reducePow, FieldsAt, bitAt_eq_iff]

theorem ecRaw_mxstat_iff {x : Reg} {n : Fin 7} : ecRaw op xa (x.val + n.val * 2 ^ 5) = w ↔
    w < 2 ^ 64 ∧ fld w 56 8 = op ∧ regAt w 26 = xa ∧
    (fld w 25 1 = 0 ∧ fld w 31 4 = 0 ∧ fld w 35 8 = 0 ∧ fld w 43 5 = 0 ∧ fld w 48 8 = 0) ∧
    regAt w 0 = x ∧ fld w 5 4 = n.val ∧ fld w 9 16 = 0 := by
  rw [ecRaw_packed_iff ho [(x.val, 5), (n.val, 4), (0, 16)] (by simp only [packed]; omega) rfl (by simp; omega)]
  simp [-Fin.ofNat_eq_cast, -Nat.reducePow, FieldsAt, regAt_eq_iff]

end

theorem atomOpOf_code (o : AtomOp) : atomOpOf o.code = o := by cases o <;> rfl

theorem code_atomOpOf {n : Nat} (h : n < 9) : (atomOpOf n).code = n :=
  match n, h with
  | 0, _ | 1, _ | 2, _ | 3, _ | 4, _ | 5, _ | 6, _ | 7, _ | 8, _ => rfl

theorem atomKindOf_code (k : AtomKind) : atomKindOf k.code = k := by cases k <;> rfl

theorem code_atomKindOf {n : Nat} (h : n < 3) : (atomKindOf n).code = n :=
  match n, h with
  | 0, _ | 1, _ | 2, _ => rfl

theorem atomOp_eq_add_iff {o : AtomOp} : o = .add ↔ o.code = 0 := by cases o <;> decide

theorem atomKind_eq_sem_iff {k : AtomKind} : k = .sem ↔ k.code = 2 := by cases k <;> decide

theorem fld_two_eq_zero_iff {w : Nat} : fld w 0 2 = 0 ↔ bitAt w 0 = false ∧ bitAt w 1 = false := by
  rw [bitAt_eq_iff, bitAt_eq_iff]
  exact fld_eq_zero_iff 1 1

theorem bits_or_of_ne_zero {w : Nat} (h : fld w 0 2 ≠ 0) : (bitAt w 0 || bitAt w 1) = true := by
  rw [Ne, fld_two_eq_zero_iff] at h
  cases h0 : bitAt w 0 <;> simp_all

theorem fld_two_lt (w lo : Nat) : fld w lo 2 < 4 := Nat.mod_lt _ (by decide)

/-- The checks of a command that acts at issue (R72, R211). -/
theorem atIssueChk_silent {w : Nat} : firstBad (atIssueChk w) = none ↔ (regAt w 26).val ≤ 28 ∧ fld w 25 1 = 0 ∧ fld w 31 4 = 0 ∧
    fld w 35 8 = 0 ∧ fld w 43 5 = 0 ∧ fld w 48 8 = 0 := by
  simp [atIssueChk, firstBad_cons, firstBad_nil, badField_eq_none, zeroField_eq_none, regAt_val]

/-- The word of an engine operation reads back, and none of its checks speaks. -/
theorem decode_encode_eng {i : Instr} {w : Nat} (hwf : i.wf = true) (he : encode i = some (.eng, w)) :
    w < 2 ^ 64 ∧ decodeSlot .eng w = .ok i := by
  cases i with
  | mxgo | mxldb | qamax | trn | tbld | gver | cpl | cpc | cph | cpv | cpabn | tsend | trecv | clgath | clbcst =>
    replace he := (Prod.mk.inj (Option.some.inj he)).2
    simp only [↓ecWord_zero_iff, ↓ecWord_bit_iff, ↓ecWord_slot_iff, ↓ecWord_entry_bit_iff, ↓ecWord_entry_bits_iff,
      ↓ecWord_mxgo_iff, Nat.reduceLT] at he
    obtain ⟨hlt, hop, hf⟩ := he
    replace hwf : ECtl.ok _ = true := hwf
    apply decodeSlot_of_read hlt
    · unfold readSlot decodeEng; rw [hop]; rfl
    · simp only [hf]
    · simp [firstBad_cons, zeroField_eq_none, ecChk_silent, hf, hwf]
  | cvt | qscl | tbev | gsum | clred | atom =>
    replace he := (Prod.mk.inj (Option.some.inj he)).2
    simp only [↓ecWord_cvt_iff, ↓ecWord_qscl_iff, ↓ecWord_tbev_iff, ↓ecWord_fmt_bit_iff, ↓ecWord_clred_iff, ↓ecWord_atom_iff,
      Nat.reduceLT] at he
    obtain ⟨hlt, hop, hf⟩ := he
    apply decodeSlot_of_read hlt
    · unfold readSlot decodeEng; rw [hop]; rfl
    · simp only [hf, fmtOf_code, rmOf_code, atomOpOf_code, atomKindOf_code]
    · have hr := rmode_code_lt
      have ho := atomOp_code_lt
      have hk := atomKind_code_lt
      simp only [Instr.wf, Bool.and_eq_true, Bool.or_eq_true, Bool.not_eq_true', bne_iff_ne, beq_iff_eq, ne_eq, isBlock_iff,
        isFp_iff,
        qsclFmt_iff, clredFmt_iff, rmode_eq_srk_iff, atomKind_eq_sem_iff, atomOp_eq_add_iff] at hwf
      simp [firstBad_cons, zeroField_eq_none, badField_eq_none, rndChk, ecChk_silent, hf, hwf, fmt_code_lt, fmtOf_code]
      grind
  | accz e a b =>
    replace he := (Prod.mk.inj (Option.some.inj he)).2
    rw [ecWord_bits_iff (by decide)] at he
    obtain ⟨hlt, hop, hf⟩ := he
    obtain ⟨-, -, -, -, hxa, -⟩ := ectlOf_eq_iff.1 hf.1
    apply decodeSlot_of_read hlt
    · unfold readSlot decodeEng; rw [hop]; rfl
    · simp only [hf]
    · simp only [Instr.wf, Bool.and_eq_true, Bool.or_eq_true, beq_iff_eq, Fin.ext_iff, Fin.val_zero] at hwf
      simp [firstBad_cons, zeroField_eq_none, badField_eq_none, ecChk_silent, fld_two_eq_zero_iff, hxa, hf, hwf]
      intro ha
      simpa [ha] using hwf.2
  | accdr e n a b =>
    replace he := (Prod.mk.inj (Option.some.inj he)).2
    rw [ecWord_entry_bits_iff (by decide)] at he
    obtain ⟨hlt, hop, hf⟩ := he
    obtain ⟨-, -, -, hsi, -⟩ := ectlOf_eq_iff.1 hf.1
    apply decodeSlot_of_read hlt
    · unfold readSlot decodeEng; rw [hop]; rfl
    · simp only [hf]
    · simp only [Instr.wf, Bool.and_eq_true, bne_iff_ne, ne_eq, Fin.ext_iff, Fin.val_zero] at hwf
      simp [firstBad_cons, zeroField_eq_none, badField_eq_none, ecChk_silent, hsi, hf, hwf]
  | mxcfg xa n | ftset xa n | tolset xa n | mxabn xa n =>
    replace he := (Prod.mk.inj (Option.some.inj he)).2
    simp only [↓ecRaw_entry10_iff, ↓ecRaw_entry16_iff, ↓ecRaw_entry8_iff, ↓ecRaw_bits_iff, Nat.reduceLT] at he
    obtain ⟨hlt, hop, hf⟩ := he
    apply decodeSlot_of_read hlt
    · unfold readSlot decodeEng; rw [hop]; rfl
    · simp only [hf, fin_ofNat_val]
    · simp only [Instr.wf, decide_eq_true_eq, Bool.or_eq_true] at hwf
      simp [firstBad_cons, zeroField_eq_none, badField_eq_none, atIssueChk_silent, fld_two_eq_zero_iff, ← regAt_eq_zero, hf]
      grind
  | mxstat xd n =>
    replace he := (Prod.mk.inj (Option.some.inj he)).2
    rw [ecRaw_mxstat_iff (by decide)] at he
    obtain ⟨hlt, hop, hf⟩ := he
    apply decodeSlot_of_read hlt
    · unfold readSlot decodeEng; rw [hop]; rfl
    · simp only [hf, fin_ofNat_val]
    · simp [firstBad_cons, zeroField_eq_none, badField_eq_none, atIssueChk_silent, ← regAt_eq_zero, hf]
  | _ => cases he

/-- An operation that the eng slot decodes to is well formed and has the slot as its word. -/
theorem encode_decodeEng {d : Decoded} {w : Nat} (hw : w < 2 ^ 64) (h : decodeEng w = some d) (hn : d.instr ≠ .nop)
    (hs : firstBad d.chk = none) : d.instr.wf = true ∧ encode d.instr = some (.eng, w) := by
  unfold decodeEng at h
  split at h
  case h_1 => cases h; exact absurd rfl hn
  case h_30 => cases h
  all_goals
    rename_i hop
    obtain rfl := Option.some.inj h
    clear h hn
    simp only [firstBad_cons, List.cons_append, List.nil_append, zeroField_eq_none, badField_eq_none, decide_eq_false_iff_not,
      Nat.not_le, ecChk_silent,
      atIssueChk_silent] at hs
    refine (?_ : _ ∧ _).imp_right fun hv => congrArg (fun v => some (SlotClass.eng, v)) hv
  case h_3 | h_4 | h_12 | h_14 | h_15 | h_18 | h_19 | h_20 | h_21 | h_22 | h_23 | h_24 | h_25 | h_27 | h_28 =>
    refine ⟨hs.2, ?_⟩
    simp only [↓ecWord_zero_iff, ↓ecWord_bit_iff, ↓ecWord_slot_iff, ↓ecWord_entry_bit_iff, ↓ecWord_entry_bits_iff,
      ↓ecWord_mxgo_iff, Nat.reduceLT, hw, hop, hs, and_self]
  case h_7 | h_8 =>
    refine ⟨decide_eq_true hs.2.1, ?_⟩
    simp only [↓ecRaw_entry16_iff, ↓ecRaw_entry8_iff, Nat.reduceLT, hw, hop, hs, and_self]
  case h_2 =>
    refine ⟨decide_eq_true hs.2.2.1, (ecRaw_entry10_iff (by decide)).2 ⟨hw, hop, rfl, hs.2.2.2, ?_, hs.2.1⟩⟩
    rw [fin_val_of_lt hs.1]
  case h_9 =>
    refine ⟨rfl, (ecRaw_mxstat_iff (by decide)).2 ⟨hw, hop, regAt_eq_zero.2 hs.2.2.1, hs.2.2.2.2, rfl, ?_, hs.2.1⟩⟩
    rw [fin_val_of_lt hs.1]
  case h_10 =>
    refine ⟨?_, (ecRaw_bits_iff (by decide)).2 ⟨hw, hop, regAt_eq_zero.2 hs.2.2.1, hs.2.2.2.2, rfl, rfl, hs.2.1⟩⟩
    exact bits_or_of_ne_zero (beq_eq_false_iff_ne.1 hs.1)
  case h_5 =>
    obtain ⟨hk, h0, hx, hec⟩ := hs
    refine ⟨?_, (ecWord_bits_iff (by decide)).2 ⟨hw, hop, rfl, rfl, rfl, hk⟩⟩
    simp only [Instr.wf, hec, Bool.true_and, Bool.and_eq_true, beq_iff_eq]
    exact ⟨regAt_eq_zero.2 hx, bits_or_of_ne_zero (beq_eq_false_iff_ne.1 h0)⟩
  case h_6 =>
    obtain ⟨hk, h0, hec⟩ := hs
    refine ⟨?_, (ecWord_entry_bits_iff (by decide)).2 ⟨hw, hop, rfl, rfl, rfl, rfl, hk⟩⟩
    obtain ⟨-, -, -, hsi, -⟩ := ectlOf_eq_iff.1 (rfl : ectlOf w = ectlOf w)
    simp only [Instr.wf, hec, Bool.true_and, bne_iff_ne, ne_eq, Fin.ext_iff, ← hsi, Fin.val_zero]
    exact beq_eq_false_iff_ne.1 h0
  case h_11 =>
    obtain ⟨hk, hd, hr, hi, hec⟩ := hs
    simp only [Bool.or_eq_false_iff, Bool.and_eq_false_iff, decide_eq_false_iff_not, Nat.not_le, Nat.not_lt, rndChk,
      badField_eq_none] at hd hr
    have hf : fld w 0 4 = (fmtOf (fld w 0 4)).code := (code_fmtOf hd.1).symm
    refine ⟨?_, (ecWord_cvt_iff (by decide)).2 ⟨hw, hop, rfl, hf, rfl, (code_rmOf hr).symm, rfl, rfl, rfl, rfl, rfl, rfl, hk⟩⟩
    simp only [Instr.wf, hec, Bool.true_and, Bool.and_eq_true, Bool.or_eq_true, Bool.not_eq_true', isBlock_iff, ← hf]
    exact ⟨hd.2, (Bool.and_eq_false_iff.1 hi).imp_right (Bool.not_eq_false' _).mp⟩
  case h_13 =>
    obtain ⟨hk, hd, hec⟩ := hs
    simp only [Bool.not_eq_false', Bool.or_eq_true, Bool.and_eq_true, beq_iff_eq, decide_eq_true_eq] at hd
    have hf : fld w 0 4 = (fmtOf (fld w 0 4)).code := (code_fmtOf (by omega)).symm
    refine ⟨?_, (ecWord_qscl_iff (by decide)).2 ⟨hw, hop, rfl, hf, rfl, rfl, hk⟩⟩
    simp only [Instr.wf, hec, Bool.true_and, qsclFmt_iff, ← hf]
    omega
  case h_16 =>
    obtain ⟨hk, hi, ho, hr, hec⟩ := hs
    simp only [Bool.or_eq_false_iff, Bool.and_eq_false_iff, Bool.not_eq_false', decide_eq_false_iff_not, Nat.not_le, rndChk,
      badField_eq_none] at hi hr
    have hfi : fld w 2 4 = (fmtOf (fld w 2 4)).code := (code_fmtOf (hi.1.trans (by decide))).symm
    have hfo : fld w 6 4 = (fmtOf (fld w 6 4)).code := (code_fmtOf (ho.trans (by decide))).symm
    refine ⟨?_, (ecWord_tbev_iff (by decide)).2 ⟨hw, hop, rfl, rfl, hfi, hfo, (code_rmOf hr).symm, rfl, rfl, hk⟩⟩
    simp only [Instr.wf, hec, Bool.true_and, Bool.and_eq_true, Bool.or_eq_true, beq_iff_eq, isFp_iff, ← hfi, ← hfo]
    exact ⟨⟨Nat.le_of_lt_succ hi.1, Nat.le_of_lt_succ ho⟩, by simpa using hi.2⟩
  case h_17 =>
    obtain ⟨hk, hd, hec⟩ := hs
    simp only [Bool.or_eq_false_iff, Bool.and_eq_false_iff, decide_eq_false_iff_not, Nat.not_le, Nat.not_lt] at hd
    have hf : fld w 0 4 = (fmtOf (fld w 0 4)).code := (code_fmtOf hd.1).symm
    refine ⟨?_, (ecWord_fmt_bit_iff (by decide)).2 ⟨hw, hop, rfl, hf, rfl, hk⟩⟩
    simp only [Instr.wf, hec, Bool.true_and, Bool.or_eq_true, Bool.not_eq_true', isBlock_iff, ← hf]
    exact hd.2
  case h_26 =>
    obtain ⟨hk, hd, hr, hec⟩ := hs
    simp only [Bool.or_eq_false_iff, Bool.and_eq_false_iff, decide_eq_false_iff_not, Nat.not_le] at hd
    have hf : fld w 0 4 = (fmtOf (fld w 0 4)).code := (code_fmtOf hd.1).symm
    have hm : fld w 4 3 = (rmOf (fld w 4 3)).code := (code_rmOf (hr.trans (by decide))).symm
    refine ⟨?_, (ecWord_clred_iff (by decide)).2 ⟨hw, hop, rfl, hf, hm, rfl, hk⟩⟩
    simp only [Instr.wf, hec, Bool.true_and, Bool.and_eq_true, bne_iff_ne, ne_eq, clredFmt_iff, rmode_eq_srk_iff, ← hf, ← hm]
    omega
  case h_29 =>
    obtain ⟨hk, hd, hkind, hec⟩ := hs
    simp only [Bool.or_eq_false_iff, Bool.and_eq_false_iff, decide_eq_false_iff_not, Nat.not_le, beq_eq_false_iff_ne, ne_eq,
      bne_eq_false_iff_eq] at hd hkind
    have h4 := fld_two_lt w 4
    have ho : fld w 0 4 = (atomOpOf (fld w 0 4)).code := (code_atomOpOf hd.1).symm
    have ha : fld w 4 2 = (atomKindOf (fld w 4 2)).code := (code_atomKindOf (by omega)).symm
    refine ⟨?_, (ecWord_atom_iff (by decide)).2 ⟨hw, hop, rfl, ho, ha, rfl, hk⟩⟩
    simp only [Instr.wf, hec, Bool.true_and, Bool.or_eq_true, bne_iff_ne, ne_eq, beq_iff_eq, atomKind_eq_sem_iff,
      atomOp_eq_add_iff, ← ho, ← ha]
    exact hd.2

end Sys2Proof
end

section
/-! PROOF. The vec slot's words and their decoding, each the other's inverse (R71). -/

namespace Sys2Proof

theorem vopOf_code (o : VOp) : vopOf o.code o.rowField = o := by
  cases o with
  | tile t r => simp [vopOf, VOp.code, VOp.rowField, t.isLt]
  | port q =>
    have hq := q.isLt
    simp [vopOf, VOp.code, show 8 + q.val < 16 by omega, Fin.ext_iff, Nat.mod_eq_of_lt hq]
  | bcast | zero | lidx => rfl

/-- An operand pair is that of the operand that it reads as where its code is assigned, and its row field is zero beside a
code of 8 or above. -/
theorem vopOf_fields_iff {n r : Nat} (hr : r < 16) :
    (n = (vopOf n r).code ∧ r = (vopOf n r).rowField) ↔ n < 19 ∧ (8 ≤ n → r = 0) := by
  by_cases h8 : n < 8
  · simp [vopOf, h8, VOp.code, VOp.rowField, Nat.mod_eq_of_lt h8, Nat.mod_eq_of_lt hr]
    omega
  by_cases h16 : n < 16
  · simp [vopOf, h8, h16, VOp.code, VOp.rowField]
    omega
  simp only [vopOf, h8, h16, if_false]
  split
  case h_1 | h_2 => simp [VOp.code, VOp.rowField]
  case h_3 => grind [VOp.code, VOp.rowField]

/-- The operand o stands in the operand field at lo, with its row field below it (R71). -/
def OpAt (w lo : Nat) (o : VOp) : Prop := fld w lo 5 = o.code ∧ fld w (lo - 4) 4 = o.rowField

theorem OpAt.reads {w lo : Nat} {o : VOp} (h : OpAt w lo o) : vopAt w lo = o := by
  rw [vopAt, h.1, h.2, vopOf_code]

theorem opAt_vopAt_iff {w lo : Nat} : OpAt w lo (vopAt w lo) ↔ fld w lo 5 < 19 ∧ (8 ≤ fld w lo 5 → fld w (lo - 4) 4 = 0) :=
  vopOf_fields_iff (Nat.mod_lt _ (by decide))

/-- The shared fields c stand in a vector slot (R71). -/
def CtlAt (w : Nat) (c : VCtl) : Prop := fld w 52 4 = c.fmt.code ∧ fld w 13 2 = c.mp.val ∧ fld w 15 1 = c.cpl.toNat ∧
  fld w 10 3 = c.rnd.code ∧ fld w 9 1 = c.sat.toNat ∧ fld w 4 5 = c.xs.val

theorem CtlAt.reads {w : Nat} {c : VCtl} (h : CtlAt w c) : vctlOf w = c := by
  obtain ⟨f, mp, cpl, r, s, x⟩ := c
  obtain ⟨hf, hm, hc, hr, hs, hx⟩ := h
  rw [vctlOf, hf, hr, VCtl.mk.injEq, fmtOf_code, rmOf_code, finAt_eq_iff 4 2 rfl, regAt_eq_iff]
  exact ⟨rfl, hm, bitAt_eq_iff.2 hc, rfl, bitAt_eq_iff.2 hs, hx⟩

/-- The format field is that of the format that it reads as. -/
def FmtAt (w : Nat) : Prop := fld w 52 4 = (vctlOf w).fmt.code

theorem ctlAt_vctlOf_iff {w : Nat} : CtlAt w (vctlOf w) ↔ FmtAt w ∧ fld w 10 3 = (vctlOf w).rnd.code := by
  refine ⟨fun ⟨hf, _, _, hr, _⟩ => ⟨hf, hr⟩, fun ⟨hf, hr⟩ => ⟨hf, (finAt_val 4 2 rfl).symm, ?_, hr, ?_, (regAt_val w 4).symm⟩⟩
  · exact (bitAt_toNat w 15).symm
  · exact (bitAt_toNat w 9).symm

/-- A format field that a form accepts reads as its format. -/
theorem fmtAt_of_lt {w : Nat} (h : fld w 52 4 < 12) : FmtAt w := (code_fmtOf h).symm

/-! What the silence of a vector slot's checks says of the operands that it reads as. -/

theorem zeroOp_silent {w lo : Nat} : firstBad (unusedOp w lo) = none ↔ OpAt w lo (.tile 0 0) := by
  simp [unusedOp, firstBad_cons, firstBad_nil, zeroField_eq_none, OpAt, VOp.code, VOp.rowField]

theorem bcastChk_silent {w lo : Nat} : firstBad (bcastChk w lo) = none ↔ OpAt w lo .bcast := by
  simp [bcastChk, firstBad_cons, firstBad_nil, zeroField_eq_none, badField_eq_none, OpAt, VOp.code, VOp.rowField]

theorem maskChk_silent {w lo : Nat} : firstBad (maskChk w lo) = none ↔ fld w lo 5 < 4 ∧ fld w (lo - 4) 4 = 0 := by
  simp [maskChk, firstBad_cons, firstBad_nil, zeroField_eq_none, badField_eq_none]

theorem isDest_iff {o : VOp} : o.isDest = true ↔ o.code < 16 := by
  cases o <;> simp [VOp.isDest, VOp.code] <;> omega

theorem dstChk_silent {w : Nat} : firstBad (dstChk w) = none ↔ OpAt w 47 (vopAt w 47) ∧ (vopAt w 47).isDest = true := by
  simp only [dstChk, firstBad_cons, firstBad_nil, and_true, badField_eq_none, decide_eq_false_iff_not, ite_eq_right_iff,
    zeroField_eq_none, isDest_iff, opAt_vopAt_iff]
  constructor
  · rintro ⟨h16, h0⟩
    have ho : OpAt w 47 (vopAt w 47) := opAt_vopAt_iff.2 ⟨by omega, h0⟩
    exact ⟨⟨by omega, h0⟩, by rw [← ho.1]; omega⟩
  · rintro ⟨ho, h16⟩
    rw [← (opAt_vopAt_iff.2 ho).1] at h16
    exact ⟨by omega, ho.2⟩

theorem srcOk_iff {o : VOp} {f : Fmt} : o.srcOk f = true ↔ (o.code = 18 → f.code = 0 ∨ f.code = 3) := by
  have hq : ∀ q : Fin 8, 8 + q.val ≠ 18 := by omega
  have ht : ∀ q : Fin 8, q.val ≠ 18 := by omega
  cases o <;> simp [VOp.srcOk, VOp.code, hq, ht, ← fmt_eq_fp32_iff, ← fmt_eq_i32_iff, or_comm]

theorem srcChk_silent {w lo : Nat} {f : Fmt} :
    firstBad (srcChk w lo f.code) = none ↔ OpAt w lo (vopAt w lo) ∧ (vopAt w lo).srcOk f = true := by
  simp only [srcChk, firstBad_cons, firstBad_nil, and_true, badField_eq_none, Bool.or_eq_false_iff, Bool.and_eq_false_iff,
    Bool.not_eq_false', Bool.or_eq_true, decide_eq_false_iff_not, beq_eq_false_iff_ne, beq_iff_eq, ite_eq_right_iff,
      zeroField_eq_none, srcOk_iff]
  constructor
  · rintro ⟨⟨h19, h18⟩, h0⟩
    have ho : OpAt w lo (vopAt w lo) := opAt_vopAt_iff.2 ⟨by omega, h0⟩
    exact ⟨ho, fun h => h18.resolve_left (by rw [ho.1]; exact not_not.2 h)⟩
  · rintro ⟨ho, h18⟩
    have hn := opAt_vopAt_iff.1 ho
    rw [← ho.1] at h18
    exact ⟨⟨by omega, by tauto⟩, hn.2⟩

theorem eq_bcast_iff {o : VOp} : o = .bcast ↔ o.code = 16 := by
  cases o <;> simp [VOp.code] <;> omega

theorem xsChk_silent {w : Nat} {los : List Nat} (h : ∀ lo ∈ los, OpAt w lo (vopAt w lo)) :
    firstBad (xsChk w los) = none ↔ (vctlOf w).xsOk (los.map (vopAt w)) = true := by
  have hb : (∃ lo ∈ los, fld w lo 5 = 16) ↔ ∃ lo ∈ los, vopAt w lo = .bcast :=
    exists_congr fun lo => and_congr_right fun hl => by rw [eq_bcast_iff, (h lo hl).1]
  have hx : (vctlOf w).xs = 0 ↔ fld w 4 5 = 0 := regAt_eq_zero
  simp [xsChk, firstBad_cons, firstBad_nil, VCtl.xsOk, hb, hx, zeroField_eq_none, imp_iff_not_or, or_comm]

/-- The checks of rnd and sat: each is the code of its value, and plain where the form does not use it. -/
theorem rsChk_silent {w : Nat} {r s : Bool} : firstBad (rsChk w r s) = none ↔
    fld w 10 3 = (vctlOf w).rnd.code ∧ (r = false → (vctlOf w).rnd = .rne) ∧ (s = false → (vctlOf w).sat = false) := by
  have hs : (vctlOf w).sat = false ↔ fld w 9 1 = 0 := bitAt_eq_iff
  have hr : (vctlOf w).rnd = .rne ↔ (vctlOf w).rnd.code = 0 := rmode_eq_rne_iff
  have hlt := rmode_code_lt (vctlOf w).rnd
  have hc : fld w 10 3 < 5 → fld w 10 3 = (vctlOf w).rnd.code := fun h => (code_rmOf h).symm
  cases r <;> cases s <;>
    simp only [rsChk, firstBad_cons, firstBad_nil, and_true, if_true, if_false, Bool.false_eq_true, rndChk, badField_eq_none,
      decide_eq_false_iff_not,
      zeroField_eq_none, hs, hr, reduceCtorEq, false_implies, true_implies] <;> grind

/-! The word of a vector slot, layout by layout (R71). -/

theorem OpAt_tile_zero_iff {w lo : Nat} : OpAt w lo (.tile 0 0) ↔ fld w lo 5 = 0 ∧ fld w (lo - 4) 4 = 0 := Iff.rfl

theorem OpAt_bcast_iff {w lo : Nat} : OpAt w lo .bcast ↔ fld w lo 5 = 16 ∧ fld w (lo - 4) 4 = 0 := Iff.rfl

theorem vrWord_packed {op d dr a ar b br e er k : Nat} {c : VCtl} : vrWord op c d dr a ar b br e er k =
    packed [(k, 4), (c.xs.val, 5), (c.sat.toNat, 1), (c.rnd.code, 3), (c.mp.val, 2), (c.cpl.toNat, 1), (er, 4), (e, 5), (br, 4),
      (b, 5), (ar, 4), (a, 5), (dr, 4), (d, 5), (c.fmt.code, 4), (op, 8)] := by
  simp only [vrWord, packed]
  omega

theorem vrWord_eq_iff {op w d dr a ar b br e er k : Nat} {c : VCtl} (ho : op < 256) (hd : d < 32 ∧ dr < 16) (ha : a < 32 ∧
    ar < 16)
    (hb : b < 32 ∧ br < 16) (he : e < 32 ∧ er < 16) (hk : k < 16) : vrWord op c d dr a ar b br e er k = w ↔ w < 2 ^ 64 ∧
    fld w 56 8 = op ∧ CtlAt w c ∧ (fld w 47 5 = d ∧ fld w 43 4 = dr) ∧ (fld w 38 5 = a ∧ fld w 34 4 = ar) ∧
    (fld w 29 5 = b ∧ fld w 25 4 = br) ∧ (fld w 20 5 = e ∧ fld w 16 4 = er) ∧ fld w 0 4 = k := by
  have hf := fmt_code_lt c.fmt
  have hr := rmode_code_lt c.rnd
  have hs := Laws.bool_nat_lt c.sat
  have hc := Laws.bool_nat_lt c.cpl
  rw [vrWord_packed, packed_eq_iff (by simp; omega)]
  simp only [FieldsAt, packedWidth, Nat.reduceAdd, CtlAt]
  tauto

section
variable {op w : Nat} (ho : op < 256) {c : VCtl} {d a b e : VOp}
include ho

theorem vrWord_three_iff : vrWord op c d.code d.rowField a.code a.rowField b.code b.rowField e.code e.rowField 0 = w ↔
    w < 2 ^ 64 ∧ fld w 56 8 = op ∧ CtlAt w c ∧ OpAt w 47 d ∧ OpAt w 38 a ∧ OpAt w 29 b ∧ OpAt w 20 e ∧ fld w 0 4 = 0 := by
  have hc (o : VOp) : o.code < 32 ∧ o.rowField < 16 := ⟨Laws.vop_code_lt o, Laws.vop_row_lt o⟩
  exact vrWord_eq_iff ho (hc d) (hc a) (hc b) (hc e) (by decide)

theorem vrWord_two_iff : vrWord op c d.code d.rowField a.code a.rowField b.code b.rowField 0 0 0 = w ↔
    w < 2 ^ 64 ∧ fld w 56 8 = op ∧ CtlAt w c ∧ OpAt w 47 d ∧ OpAt w 38 a ∧ OpAt w 29 b ∧ OpAt w 20 (.tile 0 0) ∧
      fld w 0 4 = 0 :=
  vrWord_three_iff (e := .tile 0 0) ho

theorem vrWord_one_iff : vrWord op c d.code d.rowField a.code a.rowField 0 0 0 0 0 = w ↔
    w < 2 ^ 64 ∧ fld w 56 8 = op ∧ CtlAt w c ∧ OpAt w 47 d ∧ OpAt w 38 a ∧ OpAt w 29 (.tile 0 0) ∧ OpAt w 20 (.tile 0 0) ∧
    fld w 0 4 = 0 :=
  vrWord_two_iff (b := .tile 0 0) ho

theorem vrWord_lane_iff : vrWord op c d.code d.rowField a.code a.rowField 16 0 0 0 0 = w ↔
    w < 2 ^ 64 ∧ fld w 56 8 = op ∧ CtlAt w c ∧ OpAt w 47 d ∧ OpAt w 38 a ∧ OpAt w 29 .bcast ∧ OpAt w 20 (.tile 0 0) ∧
      fld w 0 4 = 0 :=
  vrWord_two_iff (b := .bcast) ho

theorem vrWord_none_iff : vrWord op c d.code d.rowField 16 0 0 0 0 0 0 = w ↔
    w < 2 ^ 64 ∧ fld w 56 8 = op ∧ CtlAt w c ∧ OpAt w 47 d ∧ OpAt w 38 .bcast ∧ OpAt w 29 (.tile 0 0) ∧ OpAt w 20 (.tile 0 0) ∧
    fld w 0 4 = 0 :=
  vrWord_one_iff (a := .bcast) ho

theorem vrWord_cmp_iff {m k : Fin 4} : vrWord op c m.val 0 a.code a.rowField b.code b.rowField 0 0 k.val = w ↔
    w < 2 ^ 64 ∧ fld w 56 8 = op ∧ CtlAt w c ∧ (fld w 47 5 = m.val ∧ fld w 43 4 = 0) ∧ OpAt w 38 a ∧ OpAt w 29 b ∧
    OpAt w 20 (.tile 0 0) ∧ fld w 0 4 = k.val := by
  have hc (o : VOp) : o.code < 32 ∧ o.rowField < 16 := ⟨Laws.vop_code_lt o, Laws.vop_row_lt o⟩
  exact vrWord_eq_iff ho ⟨by omega, by decide⟩ (hc a) (hc b) ⟨by decide, by decide⟩ (by omega)

theorem vrWord_cvt_iff {f : Fmt} {p : Bool} (hf : f.code < 8) : vrWord op c d.code d.rowField a.code a.rowField 0 0 0 0 (f.code
    + 8 * p.toNat) = w ↔
    w < 2 ^ 64 ∧ fld w 56 8 = op ∧ CtlAt w c ∧ OpAt w 47 d ∧ OpAt w 38 a ∧ OpAt w 29 (.tile 0 0) ∧ OpAt w 20 (.tile 0 0) ∧
    fld w 0 3 = f.code ∧ bitAt w 3 = p := by
  have hc (o : VOp) : o.code < 32 ∧ o.rowField < 16 := ⟨Laws.vop_code_lt o, Laws.vop_row_lt o⟩
  have hp := Laws.bool_nat_lt p
  rw [bitAt_eq_iff, Nat.mul_comm, ← fld_eq_iff 3 1 (lo := 0) hf]
  exact vrWord_eq_iff ho (hc d) (hc a) ⟨by decide, by decide⟩ ⟨by decide, by decide⟩ (by omega)

end

/-! ### Element-wise forms -/

theorem vecOk_iff {c : VCtl} {b : Bool} {d : VOp} {srcs : List VOp} : vecOk c b d srcs = true ↔
    b = true ∧ d.isDest = true ∧ (∀ o ∈ srcs, o.srcOk c.fmt = true) ∧ c.xsOk srcs = true := by
  simp only [vecOk, Bool.and_eq_true, List.all_eq_true, and_assoc]

theorem plain_iff {c : VCtl} : c.plain = true ↔ c.rnd = .rne ∧ c.sat = false := by
  simp [VCtl.plain]

section
variable {w : Nat} {r s : Bool} (hf : FmtAt w)
include hf

theorem fmtSrc_silent {lo : Nat} : firstBad (srcChk w lo (fld w 52 4)) = none ↔
    OpAt w lo (vopAt w lo) ∧ (vopAt w lo).srcOk (vctlOf w).fmt = true := by
  rw [hf]
  exact srcChk_silent

/-- The checks of a form with three sources. -/
theorem threeChk_silent : firstBad (rsChk w r s ++ dstChk w ++ srcChk w 38 (fld w 52 4) ++
      srcChk w 29 (fld w 52 4) ++ srcChk w 20 (fld w 52 4) ++ xsChk w [38, 29, 20]) = none ↔
    (CtlAt w (vctlOf w) ∧ OpAt w 47 (vopAt w 47) ∧ OpAt w 38 (vopAt w 38) ∧ OpAt w 29 (vopAt w 29) ∧ OpAt w 20 (vopAt w 20)) ∧
    (r = false → (vctlOf w).rnd = .rne) ∧ (s = false → (vctlOf w).sat = false) ∧
    vecOk (vctlOf w) true (vopAt w 47) [vopAt w 38, vopAt w 29, vopAt w 20] = true := by
  have hx (ha : OpAt w 38 (vopAt w 38)) (hb : OpAt w 29 (vopAt w 29)) (hc : OpAt w 20 (vopAt w 20)) :=
    xsChk_silent (w := w) (los := [38, 29, 20]) (by simp [ha, hb, hc])
  simp only [firstBad_append, rsChk_silent, dstChk_silent, fmtSrc_silent hf, vecOk_iff,
    ctlAt_vctlOf_iff, hf, List.map, List.forall_mem_cons, List.not_mem_nil, false_implies, implies_true] at hx ⊢
  tauto

/-- The checks of a form with two sources. -/
theorem twoChk_silent : firstBad (rsChk w r s ++ dstChk w ++ srcChk w 38 (fld w 52 4) ++
      srcChk w 29 (fld w 52 4) ++ unusedOp w 20 ++ xsChk w [38, 29]) = none ↔
    (CtlAt w (vctlOf w) ∧ OpAt w 47 (vopAt w 47) ∧ OpAt w 38 (vopAt w 38) ∧ OpAt w 29 (vopAt w 29) ∧ OpAt w 20 (.tile 0 0)) ∧
    (r = false → (vctlOf w).rnd = .rne) ∧ (s = false → (vctlOf w).sat = false) ∧
    vecOk (vctlOf w) true (vopAt w 47) [vopAt w 38, vopAt w 29] = true := by
  have hx (ha : OpAt w 38 (vopAt w 38)) (hb : OpAt w 29 (vopAt w 29)) :=
    xsChk_silent (w := w) (los := [38, 29]) (by simp [ha, hb])
  simp only [firstBad_append, rsChk_silent, dstChk_silent, fmtSrc_silent hf, zeroOp_silent,
    vecOk_iff, ctlAt_vctlOf_iff, hf, List.map, List.forall_mem_cons, List.not_mem_nil, false_implies, implies_true] at hx ⊢
  tauto

/-- The checks of a form with one source. -/
theorem oneChk_silent : firstBad (rsChk w r s ++ dstChk w ++ srcChk w 38 (fld w 52 4) ++
      unusedOp w 29 ++ unusedOp w 20 ++ xsChk w [38]) = none ↔
    (CtlAt w (vctlOf w) ∧ OpAt w 47 (vopAt w 47) ∧ OpAt w 38 (vopAt w 38) ∧ OpAt w 29 (.tile 0 0) ∧ OpAt w 20 (.tile 0 0)) ∧
    (r = false → (vctlOf w).rnd = .rne) ∧ (s = false → (vctlOf w).sat = false) ∧
    vecOk (vctlOf w) true (vopAt w 47) [vopAt w 38] = true := by
  have hx (ha : OpAt w 38 (vopAt w 38)) := xsChk_silent (w := w) (los := [38]) (by simp [ha])
  simp only [firstBad_append, rsChk_silent, dstChk_silent, fmtSrc_silent hf, zeroOp_silent,
    vecOk_iff, ctlAt_vctlOf_iff, hf, List.map, List.forall_mem_cons, List.not_mem_nil, false_implies, implies_true] at hx ⊢
  tauto

/-- The checks of a form with a source and the broadcast register. -/
theorem laneChk_silent : firstBad (rsChk w r s ++ dstChk w ++ srcChk w 38 (fld w 52 4) ++
      bcastChk w 29 ++ unusedOp w 20 ++ xsChk w [38, 29]) = none ↔
    (CtlAt w (vctlOf w) ∧ OpAt w 47 (vopAt w 47) ∧ OpAt w 38 (vopAt w 38) ∧ OpAt w 29 .bcast ∧ OpAt w 20 (.tile 0 0)) ∧
    (r = false → (vctlOf w).rnd = .rne) ∧ (s = false → (vctlOf w).sat = false) ∧
    vecOk (vctlOf w) true (vopAt w 47) [vopAt w 38, .bcast] = true := by
  have hx (ha : OpAt w 38 (vopAt w 38)) (hb : OpAt w 29 .bcast) : firstBad (xsChk w [38, 29]) = none ∧
      (vctlOf w).xsOk [vopAt w 38, .bcast] = true := by
    simp [xsChk, hb.1, VOp.code, firstBad_cons, firstBad_nil, VCtl.xsOk]
  simp only [firstBad_append, rsChk_silent, dstChk_silent, fmtSrc_silent hf, zeroOp_silent,
    bcastChk_silent, vecOk_iff, ctlAt_vctlOf_iff, hf, List.forall_mem_cons, List.not_mem_nil, false_implies, implies_true,
    VOp.srcOk] at hx ⊢
  tauto

/-- The checks of a form whose one source is the broadcast register. -/
theorem bcastOnlyChk_silent : firstBad (rsChk w r s ++ dstChk w ++ bcastChk w 38 ++ unusedOp w 29 ++
      unusedOp w 20 ++ xsChk w [38]) = none ↔
    (CtlAt w (vctlOf w) ∧ OpAt w 47 (vopAt w 47) ∧ OpAt w 38 .bcast ∧ OpAt w 29 (.tile 0 0) ∧ OpAt w 20 (.tile 0 0)) ∧
    (r = false → (vctlOf w).rnd = .rne) ∧ (s = false → (vctlOf w).sat = false) ∧
    vecOk (vctlOf w) true (vopAt w 47) [.bcast] = true := by
  have hx (ha : OpAt w 38 .bcast) : firstBad (xsChk w [38]) = none ∧ (vctlOf w).xsOk [.bcast] = true := by
    simp [xsChk, ha.1, VOp.code, firstBad_cons, firstBad_nil, VCtl.xsOk]
  simp only [firstBad_append, rsChk_silent, dstChk_silent, zeroOp_silent,
    bcastChk_silent, vecOk_iff, ctlAt_vctlOf_iff, hf, List.forall_mem_cons, List.not_mem_nil, false_implies, implies_true,
    VOp.srcOk] at hx ⊢
  tauto

/-- The checks of a comparison. -/
theorem cmpChk_silent : firstBad (rsChk w false false ++ maskChk w 47 ++
      srcChk w 38 (fld w 52 4) ++ srcChk w 29 (fld w 52 4) ++ unusedOp w 20 ++ xsChk w [38, 29]) = none ↔
    (CtlAt w (vctlOf w) ∧ (fld w 47 5 < 4 ∧ fld w 43 4 = 0) ∧ OpAt w 38 (vopAt w 38) ∧ OpAt w 29 (vopAt w 29) ∧
      OpAt w 20 (.tile 0 0)) ∧ (vctlOf w).plain = true ∧
    (∀ o ∈ [vopAt w 38, vopAt w 29], o.srcOk (vctlOf w).fmt = true) ∧ (vctlOf w).xsOk [vopAt w 38, vopAt w 29] = true := by
  have hx (ha : OpAt w 38 (vopAt w 38)) (hb : OpAt w 29 (vopAt w 29)) :=
    xsChk_silent (w := w) (los := [38, 29]) (by simp [ha, hb])
  simp only [firstBad_append, rsChk_silent, maskChk_silent, fmtSrc_silent hf, zeroOp_silent, plain_iff, ctlAt_vctlOf_iff, hf,
    List.map, List.forall_mem_cons, List.not_mem_nil, false_implies, implies_true, Nat.reduceSub] at hx ⊢
  tauto

end

section
variable {w : Nat} (hf : FmtAt w)
include hf

theorem fmtIsFp : decide (fld w 52 4 ≤ 2) = (vctlOf w).fmt.isFp := by
  rw [hf]; cases (vctlOf w).fmt <;> rfl

theorem fmtIsPlain : decide (fld w 52 4 ≤ 6) = (vctlOf w).fmt.isPlain := by
  rw [hf]; cases (vctlOf w).fmt <;> rfl

theorem fmtIsInt : (decide (3 ≤ fld w 52 4) && decide (fld w 52 4 ≤ 6)) = (vctlOf w).fmt.isInt := by
  rw [hf]; cases (vctlOf w).fmt <;> rfl

theorem fmtIsSint : (decide (3 ≤ fld w 52 4) && decide (fld w 52 4 ≤ 5)) = (vctlOf w).fmt.isSint := by
  rw [hf]; cases (vctlOf w).fmt <;> rfl

theorem fmtNeFp32 : (fld w 52 4 != 0) = !((vctlOf w).fmt == .fp32) := by
  rw [hf]; cases (vctlOf w).fmt <;> rfl

theorem fmtNeI32 : (fld w 52 4 != 3) = !((vctlOf w).fmt == .i32) := by
  rw [hf]; cases (vctlOf w).fmt <;> rfl

theorem fmtNeBoth : (fld w 52 4 != 0 && fld w 52 4 != 3) = !((vctlOf w).fmt == .fp32 || (vctlOf w).fmt == .i32) := by
  rw [hf]; cases (vctlOf w).fmt <;> rfl

end

theorem fmtAt_width {w : Nat} : (fmtOf (fld w 52 4)).width = (vctlOf w).fmt.width := rfl

theorem xsOdd {w : Nat} : (fld w 4 1 == 1) = !((vctlOf w).xs.val % 2 == 0) := by
  rw [show (vctlOf w).xs.val = fld w 4 5 from rfl, fld, fld, Bool.eq_iff_iff, Bool.not_eq_true', beq_iff_eq,
    beq_eq_false_iff_ne]
  omega

theorem fmt_code_inj {f g : Fmt} : f.code = g.code ↔ f = g :=
  ⟨fun h => by rw [← fmtOf_code f, h, fmtOf_code], congrArg _⟩

/-- The conversion formats as their field checks have them (R162). -/
theorem vcvtOk_iff {dst src : Fmt} {part : Bool} : vcvtOk dst src part = true ↔
    src.code < 8 ∧ (!decide (dst.code ≤ 6)) = false ∧
    (src.code == 7 || src.code == dst.code || src.width == 4 * dst.width || dst.width == 4 * src.width ||
      (part && src.width == dst.width)) = false := by
  have hp := isPlain_iff (f := src)
  have hc := fmt_code_inj (f := src) (g := dst)
  simp only [vcvtOk, Bool.and_eq_true, isPlain_iff, bne_iff_ne, Bool.not_eq_true', beq_eq_false_iff_ne, Bool.or_eq_true,
    Bool.not_eq_false',
    Bool.or_eq_false_iff, Bool.and_eq_false_iff, decide_eq_true_eq]
  grind

theorem rsLeft_silent {w : Nat} (hf : FmtAt w) : firstBad (dstChk w ++ srcChk w 38 (fld w 52 4) ++ unusedOp w 29 ++
    unusedOp w 20 ++
      xsChk w [38]) = none ↔ OpAt w 47 (vopAt w 47) ∧ OpAt w 38 (vopAt w 38) ∧ OpAt w 29 (.tile 0 0) ∧ OpAt w 20 (.tile 0 0) ∧
    vecOk (vctlOf w) true (vopAt w 47) [vopAt w 38] = true := by
  have hx (ha : OpAt w 38 (vopAt w 38)) := xsChk_silent (w := w) (los := [38]) (by simp [ha])
  simp only [firstBad_append, dstChk_silent, fmtSrc_silent hf, zeroOp_silent, vecOk_iff, List.map, List.forall_mem_cons,
    List.not_mem_nil, false_implies, implies_true] at hx ⊢
  tauto

theorem cvtChk_silent {w : Nat} {f : Fmt} (hf : FmtAt w) (hs : fld w 0 3 = f.code) : firstBad (rsChk w true true ++ dstChk w ++
      srcChk w 38 (fld w 0 3) ++ unusedOp w 29 ++ unusedOp w 20 ++ xsChk w [38]) = none ↔
    (CtlAt w (vctlOf w) ∧ OpAt w 47 (vopAt w 47) ∧ OpAt w 38 (vopAt w 38) ∧ OpAt w 29 (.tile 0 0) ∧ OpAt w 20 (.tile 0 0)) ∧
    (vopAt w 47).isDest = true ∧ (vopAt w 38).srcOk f = true ∧ (vctlOf w).xsOk [vopAt w 38] = true := by
  have hx (ha : OpAt w 38 (vopAt w 38)) := xsChk_silent (w := w) (los := [38]) (by simp [ha])
  simp only [firstBad_append, rsChk_silent, dstChk_silent, hs, srcChk_silent, zeroOp_silent, ctlAt_vctlOf_iff, hf, List.map,
    reduceCtorEq, false_implies] at hx ⊢
  tauto

theorem srkBeq (r : RMode) : decide (4 ≤ r.code) = !(r != .srk) := by cases r <;> rfl

/-! ### Mask and whole-tile forms (R167) -/

/-- A mask or tile word, with its destination row, mask and completion fields. -/
theorem vmWord_eq_iff {op w f d a b x k r m p : Nat} (ho : op < 256) (hf : f < 16) (hd : d < 32) (ha : a < 32) (hb : b < 32)
    (hx : x < 32) (hk : k < 16) (hr : r < 16) (hm : m < 4) (hp : p < 2) :
    vmWord op f d a b x k + r * 2 ^ 43 + m * 2 ^ 13 + p * 2 ^ 15 = w ↔ w < 2 ^ 64 ∧ fld w 56 8 = op ∧ fld w 52 4 = f ∧
      (fld w 47 5 = d ∧ fld w 43 4 = r) ∧ (fld w 38 5 = a ∧ fld w 34 4 = 0) ∧ (fld w 29 5 = b ∧ fld w 25 4 = 0) ∧
      OpAt w 20 (.tile 0 0) ∧ (fld w 13 2 = m ∧ fld w 15 1 = p) ∧ (fld w 10 3 = 0 ∧ fld w 9 1 = 0) ∧ fld w 4 5 = x ∧
        fld w 0 4 = k := by
  have h : vmWord op f d a b x k + r * 2 ^ 43 + m * 2 ^ 13 + p * 2 ^ 15 = packed [(k, 4), (x, 5), (0, 1), (0, 3), (m, 2), (p,
    1), (0, 4), (0, 5),
      (0, 4), (b, 5), (0, 4), (a, 5), (r, 4), (d, 5), (f, 4), (op, 8)] := by
    simp only [vmWord, packed]
    omega
  rw [h, packed_eq_iff (by simp; omega)]
  simp only [FieldsAt, packedWidth, Nat.reduceAdd, OpAt_tile_zero_iff]
  tauto

theorem vmWord_plain_iff {op w f d a b x k : Nat} (h : op < 256 ∧ f < 16 ∧ d < 32 ∧ a < 32 ∧ b < 32 ∧ x < 32 ∧ k < 16) :
    vmWord op f d a b x k = w ↔ w < 2 ^ 64 ∧ fld w 56 8 = op ∧ fld w 52 4 = f ∧
      (fld w 47 5 = d ∧ fld w 43 4 = 0) ∧ (fld w 38 5 = a ∧ fld w 34 4 = 0) ∧ (fld w 29 5 = b ∧ fld w 25 4 = 0) ∧
      OpAt w 20 (.tile 0 0) ∧ (fld w 13 2 = 0 ∧ fld w 15 1 = 0) ∧ (fld w 10 3 = 0 ∧ fld w 9 1 = 0) ∧ fld w 4 5 = x ∧
        fld w 0 4 = k := by
  obtain ⟨ho, hf, hd, ha, hb, hx, hk⟩ := h
  simpa using vmWord_eq_iff (r := 0) (m := 0) (p := 0) ho hf hd ha hb hx hk (by decide) (by decide) (by decide)

theorem vmWord_mpop_iff {w : Nat} {d : VOp} {m : Fin 4} : vmWord 68 3 d.code m.val 0 0 0 + d.rowField * 2 ^ 43 = w ↔
    w < 2 ^ 64 ∧ fld w 56 8 = 68 ∧ fld w 52 4 = 3 ∧ OpAt w 47 d ∧ (fld w 38 5 = m.val ∧ fld w 34 4 = 0) ∧
      OpAt w 29 (.tile 0 0) ∧
      OpAt w 20 (.tile 0 0) ∧ (fld w 13 2 = 0 ∧ fld w 15 1 = 0) ∧ (fld w 10 3 = 0 ∧ fld w 9 1 = 0) ∧ fld w 4 5 = 0 ∧
        fld w 0 4 = 0 := by
  have hw (x : Nat) : x = x + 0 * 2 ^ 13 + 0 * 2 ^ 15 := by omega
  rw [hw (_ + _), vmWord_eq_iff (by decide) (by decide) (Laws.vop_code_lt d) (by omega) (by decide) (by decide)
    (by decide) (Laws.vop_row_lt d) (by decide) (by decide)]
  rfl

theorem vmWord_tcpy_iff {w : Nat} {t a : Fin 8} {m : Fin 4} {p : Bool} : vmWord 73 0 t.val a.val 0 0 0 + m.val * 2 ^ 13 +
    p.toNat * 2 ^ 15 = w ↔
    w < 2 ^ 64 ∧ fld w 56 8 = 73 ∧ fld w 52 4 = 0 ∧ (fld w 47 5 = t.val ∧ fld w 43 4 = 0) ∧ (fld w 38 5 = a.val ∧
      fld w 34 4 = 0) ∧
      OpAt w 29 (.tile 0 0) ∧ OpAt w 20 (.tile 0 0) ∧ (fld w 13 2 = m.val ∧ fld w 15 1 = p.toNat) ∧ (fld w 10 3 = 0 ∧
        fld w 9 1 = 0) ∧
      fld w 4 5 = 0 ∧ fld w 0 4 = 0 := by
  have hw (x : Nat) : x = x + 0 * 2 ^ 43 := by omega
  rw [hw (vmWord ..), vmWord_eq_iff (by decide) (by decide) (by omega) (by omega) (by decide) (by decide) (by decide) (by
    decide)
    (by omega) (Laws.bool_nat_lt p)]
  rfl

theorem vmWord_tzero_iff {w : Nat} {t : Fin 8} {r : Fin 16} {m : Fin 4} {u p : Bool} :
    vmWord 72 0 t.val 0 0 0 u.toNat + r.val * 2 ^ 43 + m.val * 2 ^ 13 + p.toNat * 2 ^ 15 = w ↔
    w < 2 ^ 64 ∧ fld w 56 8 = 72 ∧ fld w 52 4 = 0 ∧ (fld w 47 5 = t.val ∧ fld w 43 4 = r.val) ∧ OpAt w 38 (.tile 0 0) ∧
      OpAt w 29 (.tile 0 0) ∧ OpAt w 20 (.tile 0 0) ∧ (fld w 13 2 = m.val ∧ fld w 15 1 = p.toNat) ∧ (fld w 10 3 = 0 ∧
        fld w 9 1 = 0) ∧
      fld w 4 5 = 0 ∧ fld w 0 4 = u.toNat :=
  have hu := Laws.bool_nat_lt u
  vmWord_eq_iff (by decide) (by decide) (by omega) (by decide) (by decide) (by decide) (by omega) (by omega) (by omega)
    (Laws.bool_nat_lt p)

theorem firstRow_iff {o : VOp} : o.firstRow = true ↔ o.rowField = 0 := by
  cases o with
  | tile t r => exact beq_iff_eq.trans Fin.ext_iff
  | port | bcast | zero | lidx => exact ⟨fun _ => rfl, fun _ => rfl⟩

theorem maskRs_silent {w : Nat} : firstBad (rsChk w false false) = none ↔ fld w 10 3 = 0 ∧ fld w 9 1 = 0 := by
  simp [rsChk, firstBad_cons, firstBad_nil, zeroField_eq_none]

theorem fld_controls_iff {w : Nat} : fld w 13 3 = 0 ↔ fld w 13 2 = 0 ∧ fld w 15 1 = 0 := fld_eq_zero_iff 2 1

theorem bitAt_of_fld {w : Nat} {b : Bool} (h : fld w 0 4 = b.toNat) : bitAt w 0 = b :=
  bitAt_eq_iff.2 ((fld_eq_low_iff 1 3 (Laws.bool_nat_lt b)).1 h).1

/-- A field that its value fits reads as that value (R167). -/
theorem finAt_of_fld {n b w lo : Nat} [NeZero n] {m : Fin n} (hn : n ∣ 2 ^ b) (h : fld w lo b =
    m.val) : Fin.ofNat n (w / 2 ^ lo) = m := by
  apply Fin.ext
  rw [← Nat.mod_eq_of_lt m.isLt, ← h, fld, Nat.mod_mod_of_dvd _ hn]
  rfl

theorem fin_of_fld {n b w : Nat} [NeZero n] {m : Fin n} (hn : n ∣ 2 ^ b) (h : fld w 0 b = m.val) : Fin.ofNat n w = m := by
  rw [← finAt_of_fld hn h, Nat.pow_zero, Nat.div_one]

theorem finAt_val_of_lt {n b w lo : Nat} [NeZero n] (hn : n ∣ 2 ^ b) (h : fld w lo b < n) : (Fin.ofNat n (w / 2 ^ lo)).val =
    fld w lo b := by
  rw [← Nat.mod_eq_of_lt h, fld, Nat.mod_mod_of_dvd _ hn]
  rfl

/-- The word of an element-wise operation reads back, and none of its checks speaks. -/
theorem decode_encode_vec {i : Instr} {w : Nat} (hwf : i.wf = true) (he : encode i = some (.vec, w)) :
    w < 2 ^ 64 ∧ decodeSlot .vec w = .ok i := by
  cases i with
  | vadd c d a b | vsub c d a b | vmul c d a b | vmin c d a b | vmax c d a b | vdiv c d a b | viadd c d a b | visub c d a b
  | vimul c d a b | vimin c d a b | vimax c d a b | vand c d a b | vor c d a b | vxor c d a b | vshl c d a b | vshr c d a b
  | vsra c d a b | vsel c d a b | vperm c d a b =>
    replace he := (Prod.mk.inj (Option.some.inj he)).2
    simp only [↓vrWord_two_iff, Nat.reduceLT] at he
    obtain ⟨hlt, hop, hctl, hd, ha, hb, hz, hk⟩ := he
    obtain rfl := hctl.reads
    obtain rfl := hd.reads
    obtain rfl := ha.reads
    obtain rfl := hb.reads
    have hf : FmtAt w := hctl.1
    apply decodeSlot_of_read hlt
    · unfold readSlot decodeVec; rw [hop]; rfl
    · rfl
    · simp only [Instr.wf, List.mem_cons, forall_eq_or_imp, List.not_mem_nil, false_implies, implies_true, and_true,
        Bool.and_eq_true, vecOk_iff, plain_iff, beq_iff_eq (b := RMode.rne)] at hwf
      simp [-List.append_assoc, firstBad_cons, twoChk_silent hf, badField_eq_none, zeroField_eq_none, vecOk_iff, fmtIsFp hf,
        fmtIsPlain hf, ↓fmtIsInt hf, ↓fmtIsSint hf, ↓fmtNeBoth hf,
        hwf, hctl, hd, ha, hb, hz, hk]
  | vfma c d a b e | vfms c d a b e | vimad c d a b e =>
    replace he := (Prod.mk.inj (Option.some.inj he)).2
    simp only [↓vrWord_three_iff, Nat.reduceLT] at he
    obtain ⟨hlt, hop, hctl, hd, ha, hb, hz, hk⟩ := he
    obtain rfl := hctl.reads
    obtain rfl := hd.reads
    obtain rfl := ha.reads
    obtain rfl := hb.reads
    obtain rfl := hz.reads
    have hf : FmtAt w := hctl.1
    apply decodeSlot_of_read hlt
    · unfold readSlot decodeVec; rw [hop]; rfl
    · rfl
    · simp only [Instr.wf, List.mem_cons, forall_eq_or_imp, List.not_mem_nil, false_implies, implies_true, and_true,
        Bool.and_eq_true, vecOk_iff, beq_iff_eq (b := RMode.rne)] at hwf
      simp [-List.append_assoc, firstBad_cons, threeChk_silent hf, badField_eq_none, zeroField_eq_none, vecOk_iff, fmtIsFp hf,
        ↓fmtIsInt hf, hwf, hctl, hd, ha, hb, hz, hk]
  | vabs c d a | vneg c d a | vsqrt c d a | vrcp c d a | vrsq c d a | vmov c d a | vrmax c d a | vrmin c d a | vamax c d a
  | vrint c d a =>
    replace he := (Prod.mk.inj (Option.some.inj he)).2
    simp only [↓vrWord_one_iff, Nat.reduceLT] at he
    obtain ⟨hlt, hop, hctl, hd, ha, hb, hz, hk⟩ := he
    obtain rfl := hctl.reads
    obtain rfl := hd.reads
    obtain rfl := ha.reads
    have hf : FmtAt w := hctl.1
    apply decodeSlot_of_read hlt
    · unfold readSlot decodeVec; rw [hop]; rfl
    · rfl
    · simp only [Instr.wf, List.mem_cons, forall_eq_or_imp, List.not_mem_nil, false_implies, implies_true, and_true,
        Bool.and_eq_true, vecOk_iff, plain_iff, Bool.not_eq_true'] at hwf
      simp [-List.append_assoc, firstBad_cons, oneChk_silent hf, badField_eq_none, zeroField_eq_none, vecOk_iff, fmtIsFp hf,
        fmtIsPlain hf, fmtNeFp32 hf, hwf, hctl, hd, ha, hb, hz, hk]
  | vlane c d a | vrot c d a =>
    replace he := (Prod.mk.inj (Option.some.inj he)).2
    simp only [↓vrWord_lane_iff, Nat.reduceLT] at he
    obtain ⟨hlt, hop, hctl, hd, ha, hb, hz, hk⟩ := he
    obtain rfl := hctl.reads
    obtain rfl := hd.reads
    obtain rfl := ha.reads
    have hf : FmtAt w := hctl.1
    apply decodeSlot_of_read hlt
    · unfold readSlot decodeVec; rw [hop]; rfl
    · rfl
    · simp only [Instr.wf, List.mem_cons, forall_eq_or_imp, List.not_mem_nil, false_implies, implies_true, and_true,
        Bool.and_eq_true, vecOk_iff, plain_iff] at hwf
      simp [-List.append_assoc, firstBad_cons, laneChk_silent hf, badField_eq_none, zeroField_eq_none, vecOk_iff,
        fmtIsPlain hf, hwf, hctl, hd, ha, hb, hz, hk]
  | viota c d | vrng c d =>
    replace he := (Prod.mk.inj (Option.some.inj he)).2
    simp only [↓vrWord_none_iff, Nat.reduceLT] at he
    obtain ⟨hlt, hop, hctl, hd, ha, hb, hz, hk⟩ := he
    obtain rfl := hctl.reads
    obtain rfl := hd.reads
    have hf : FmtAt w := hctl.1
    apply decodeSlot_of_read hlt
    · unfold readSlot decodeVec; rw [hop]; rfl
    · rfl
    · simp only [Instr.wf, List.mem_cons, forall_eq_or_imp, List.not_mem_nil, false_implies, implies_true, and_true,
        Bool.and_eq_true, vecOk_iff, plain_iff] at hwf
      simp [-List.append_assoc, firstBad_cons, bcastOnlyChk_silent hf, ↓xsOdd, badField_eq_none, zeroField_eq_none, vecOk_iff,
        ↓fmtNeBoth hf, fmtNeI32 hf, hwf, hctl, hd, ha, hb, hz, hk]
  | vceq c m a b k | vcne c m a b k | vclt c m a b k | vcle c m a b k | vcun c m a b k | viclt c m a b k | vicltu c m a b k
  | viceq c m a b k =>
    replace he := (Prod.mk.inj (Option.some.inj he)).2
    simp only [↓vrWord_cmp_iff, Nat.reduceLT] at he
    obtain ⟨hlt, hop, hctl, hd, ha, hb, hz, hk⟩ := he
    obtain rfl := hctl.reads
    obtain rfl := ha.reads
    obtain rfl := hb.reads
    have hf : FmtAt w := hctl.1
    apply decodeSlot_of_read hlt
    · unfold readSlot decodeVec; rw [hop]; rfl
    · rw [finAt_of_fld (b := 5) (m := m) (by decide) hd.1, fin_of_fld (m := k) (by decide) hk]
    · simp only [Instr.wf, cmpOk, Bool.and_eq_true, List.all_eq_true, decide_eq_true_eq] at hwf
      have hm := m.isLt
      simp [-List.append_assoc, firstBad_cons, cmpChk_silent hf, badField_eq_none, fmtIsFp hf, ↓fmtIsInt hf, ↓fmtIsSint hf,
        fmtAt_width, hwf, hctl, hd, ha, hb, hz, hk]
  | vradd c d a =>
    replace he := (Prod.mk.inj (Option.some.inj he)).2
    simp only [↓vrWord_one_iff, Nat.reduceLT] at he
    obtain ⟨hlt, hop, hctl, hd, ha, hb, hz, hk⟩ := he
    have hr : fld w 10 3 = c.rnd.code := hctl.2.2.2.1
    obtain rfl := hctl.reads
    obtain rfl := hd.reads
    obtain rfl := ha.reads
    have hf : FmtAt w := hctl.1
    apply decodeSlot_of_read hlt
    · unfold readSlot decodeVec; rw [hop]; rfl
    · rfl
    · simp only [Instr.wf, List.mem_cons, forall_eq_or_imp, List.not_mem_nil, false_implies, implies_true, and_true,
        Bool.and_eq_true, vecOk_iff] at hwf
      simp [-List.append_assoc, firstBad_cons, rsLeft_silent hf, badField_eq_none, zeroField_eq_none, vecOk_iff, fmtIsFp hf,
        ↓srkBeq, hr, hwf, hd, ha, hb, hz, hk]
  | vcvt c d a f p =>
    replace he := (Prod.mk.inj (Option.some.inj he)).2
    simp only [Instr.wf, Bool.and_eq_true, vcvtOk_iff] at hwf
    obtain ⟨⟨⟨⟨h8, hdf, hsf⟩, hdd⟩, hsa⟩, hx⟩ := hwf
    rw [vrWord_cvt_iff (by decide) h8] at he
    obtain ⟨hlt, hop, hctl, hd, ha, hb, hz, hs, hp⟩ := he
    obtain rfl := hctl.reads
    obtain rfl := hd.reads
    obtain rfl := ha.reads
    have hf : FmtAt w := hctl.1
    apply decodeSlot_of_read hlt
    · unfold readSlot decodeVec; rw [hop]; rfl
    · rw [hs, fmtOf_code, hp]
    · rw [firstBad_cons, firstBad_cons, cvtChk_silent hf hs, badField_eq_none, badField_eq_none, hs, fmtOf_code, hp, hf,
        fmtOf_code]
      exact ⟨hdf, hsf, ⟨hctl, hd, ha, hb, hz⟩, hdd, hsa, hx⟩
  | mset m ones =>
    have ho := Laws.bool_nat_lt ones
    replace he := (Prod.mk.inj (Option.some.inj he)).2
    rw [vmWord_plain_iff (by omega)] at he
    obtain ⟨hlt, hop, hff, hd, ha, hb, hz, hc, hrs, hx, hk⟩ := he
    apply decodeSlot_of_read hlt
    · unfold readSlot decodeVec; rw [hop]; rfl
    · rw [finAt_of_fld (b := 5) (m := m) (by decide) hd.1, bitAt_of_fld hk]
    · simp [firstBad_cons, firstBad_append, firstBad_nil, maskRs_silent, maskChk_silent, zeroOp_silent, OpAt_tile_zero_iff,
        fld_controls_iff, badField_eq_none, zeroField_eq_none, hff, hd, ha, hb, hz, hc, hrs, hx, hk, ho]
  | mand m a b | mor m a b =>
    replace he := (Prod.mk.inj (Option.some.inj he)).2
    rw [vmWord_plain_iff (by omega)] at he
    obtain ⟨hlt, hop, hff, hd, ha, hb, hz, hc, hrs, hx, hk⟩ := he
    apply decodeSlot_of_read hlt
    · unfold readSlot decodeVec; rw [hop]; rfl
    · rw [finAt_of_fld (b := 5) (m := m) (by decide) hd.1, finAt_of_fld (b := 5) (m := a) (by decide) ha.1,
        finAt_of_fld (b := 5) (m := b) (by decide) hb.1]
    · simp [firstBad_cons, firstBad_append, firstBad_nil, maskRs_silent, maskChk_silent, zeroOp_silent,
        fld_controls_iff, zeroField_eq_none, hff, hd, ha, hb, hz, hc, hrs, hx, hk]
  | mnot m a =>
    replace he := (Prod.mk.inj (Option.some.inj he)).2
    rw [vmWord_plain_iff (by omega)] at he
    obtain ⟨hlt, hop, hff, hd, ha, hb, hz, hc, hrs, hx, hk⟩ := he
    apply decodeSlot_of_read hlt
    · unfold readSlot decodeVec; rw [hop]; rfl
    · rw [finAt_of_fld (b := 5) (m := m) (by decide) hd.1, finAt_of_fld (b := 5) (m := a) (by decide) ha.1]
    · simp [firstBad_cons, firstBad_append, firstBad_nil, maskRs_silent, maskChk_silent, zeroOp_silent, OpAt_tile_zero_iff,
        fld_controls_iff, zeroField_eq_none, hff, hd, ha, hb, hz, hc, hrs, hx, hk]
  | mrow m x | mcol m x =>
    replace he := (Prod.mk.inj (Option.some.inj he)).2
    rw [vmWord_plain_iff (by omega)] at he
    obtain ⟨hlt, hop, hff, hd, ha, hb, hz, hc, hrs, hx, hk⟩ := he
    apply decodeSlot_of_read hlt
    · unfold readSlot decodeVec; rw [hop]; rfl
    · rw [finAt_of_fld (b := 5) (m := m) (by decide) hd.1, regAt_eq_iff.2 hx]
    · simp [firstBad_cons, firstBad_append, maskRs_silent, maskChk_silent, zeroOp_silent, bcastChk_silent,
        OpAt_tile_zero_iff, OpAt_bcast_iff, fld_controls_iff, zeroField_eq_none, hff, hd, ha, hb, hz, hc, hrs, hk]
  | mpop d m =>
    replace he := (Prod.mk.inj (Option.some.inj he)).2
    simp only [Instr.wf, Bool.and_eq_true, firstRow_iff] at hwf
    rw [vmWord_mpop_iff] at he
    obtain ⟨hlt, hop, hff, hd, ha, hb, hz, hc, hrs, hx, hk⟩ := he
    obtain rfl := hd.reads
    have h0 : fld w 43 4 = 0 := hd.2.trans hwf.2
    apply decodeSlot_of_read hlt
    · unfold readSlot decodeVec; rw [hop]; rfl
    · rw [finAt_of_fld (b := 5) (m := m) (by decide) ha.1]
    · simp [firstBad_cons, firstBad_append, firstBad_nil, maskRs_silent, maskChk_silent, dstChk_silent, zeroOp_silent,
        badField_eq_none, fld_controls_iff, zeroField_eq_none, hff, hd, h0, hwf, ha, hb, hz, hc, hrs, hx, hk]
  | tzero t row whole m p =>
    replace he := (Prod.mk.inj (Option.some.inj he)).2
    rw [vmWord_tzero_iff] at he
    obtain ⟨hlt, hop, hff, hd, ha, hb, hz, hc, hrs, hx, hk⟩ := he
    apply decodeSlot_of_read hlt
    · unfold readSlot decodeVec; rw [hop]; rfl
    · rw [finAt_of_fld (b := 5) (m := t) (by decide) hd.1, (finAt_eq_iff 16 4 rfl).2 hd.2, bitAt_of_fld hk,
        (finAt_eq_iff 4 2 rfl).2 hc.1, bitAt_eq_iff.2 hc.2]
    · have ho := Laws.bool_nat_lt whole
      have hrow : whole = true → row = 0 := by simpa [Instr.wf, or_iff_not_imp_left] using hwf
      simp [firstBad_cons, firstBad_append, firstBad_nil, maskRs_silent, zeroOp_silent, badField_eq_none, zeroField_eq_none,
        hff, hd, ha, hb, hz, hrs, hx, hk, ho]
      exact hrow
  | tcpy t a m p =>
    replace he := (Prod.mk.inj (Option.some.inj he)).2
    rw [vmWord_tcpy_iff] at he
    obtain ⟨hlt, hop, hff, hd, ha, hb, hz, hc, hrs, hx, hk⟩ := he
    apply decodeSlot_of_read hlt
    · unfold readSlot decodeVec; rw [hop]; rfl
    · rw [finAt_of_fld (b := 5) (m := t) (by decide) hd.1, finAt_of_fld (b := 5) (m := a) (by decide) ha.1,
        (finAt_eq_iff 4 2 rfl).2 hc.1, bitAt_eq_iff.2 hc.2]
    · simp [firstBad_cons, firstBad_append, firstBad_nil, maskRs_silent, zeroOp_silent, badField_eq_none, zeroField_eq_none,
        hff, hd, ha, hb, hz, hrs, hx, hk]
  | _ => cases he

/-- What the check of a format field lets through has an assigned code (R33). -/
theorem fmtAt_of_plain {w : Nat} (h : fld w 52 4 ≤ 6) : FmtAt w := fmtAt_of_lt (h.trans_lt (by decide))

theorem firstBad_cons₂ {x y : Option Nat} {l : List (Option Nat)} :
    firstBad (x :: y :: l) = none ↔ x = none ∧ y = none ∧ firstBad l = none := by
  rw [firstBad_cons, firstBad_cons]

theorem subs_le {f : Fmt} (h : f.code ≤ 6) : 32 / f.width ≤ 4 := by
  revert h
  cases f <;> decide

theorem fld_bit_of_lt {w : Nat} (h : fld w 0 4 < 2) : fld w 0 4 = (bitAt w 0).toNat := by
  rw [bitAt_toNat]
  simp only [fld] at *
  omega

theorem fld_three_lt (w lo : Nat) : fld w lo 3 < 8 := Nat.mod_lt _ (by decide)

/-- An operation that the vec slot decodes to is well formed and has the slot as its word. -/
theorem encode_decodeVec {d : Decoded} {w : Nat} (hw : w < 2 ^ 64) (h : decodeVec w = some d) (hn : d.instr ≠ .nop)
    (hs : firstBad d.chk = none) : d.instr.wf = true ∧ encode d.instr = some (.vec, w) := by
  unfold decodeVec at h
  split at h
  case h_1 => cases h; exact absurd rfl hn
  case h_57 => cases h
  all_goals
    rename_i hop
    obtain rfl := Option.some.inj h
    clear h hn
    refine (?_ : _ ∧ _).imp_right fun hv => congrArg (fun v => some (SlotClass.vec, v)) hv
  case h_2 | h_3 | h_4 | h_7 | h_8 | h_11 | h_15 | h_16 | h_17 | h_18 | h_19 | h_20 | h_21 | h_22 | h_23 | h_24 | h_25 | h_35 |
    h_39 =>
    obtain ⟨hfc, hk, hs⟩ := firstBad_cons₂.1 hs
    have hf : FmtAt w := by
      simp only [badField_eq_none, Bool.not_eq_false', Bool.and_eq_true, Bool.and_eq_false_iff, bne_eq_false_iff_eq,
        decide_eq_true_eq] at hfc
      exact fmtAt_of_plain (by omega)
    obtain ⟨⟨hctl, hd, ha, hb, hz⟩, hr, hsat, hv⟩ := (twoChk_silent hf).1 hs
    refine ⟨?_, (vrWord_two_iff (by decide)).2 ⟨hw, hop, hctl, hd, ha, hb, hz, zeroField_eq_none.1 hk⟩⟩
    simp only [badField_eq_none, fmtIsFp hf, fmtIsPlain hf, ↓fmtIsInt hf, ↓fmtIsSint hf, ↓fmtNeBoth hf,
      Bool.not_eq_false'] at hfc
    simp only [vecOk_iff, List.mem_cons, forall_eq_or_imp, List.not_mem_nil, false_implies, implies_true, and_true] at hv
    simp only [Instr.wf, beq_iff_eq (b := RMode.rne), vecOk_iff, List.mem_cons, forall_eq_or_imp, List.not_mem_nil,
      false_implies, implies_true, Bool.and_eq_true,
      plain_iff, hfc, hv, hr, hsat, and_self]
  case h_5 | h_6 | h_26 =>
    obtain ⟨hfc, hk, hs⟩ := firstBad_cons₂.1 hs
    have hf : FmtAt w := by
      simp only [badField_eq_none, Bool.not_eq_false', Bool.and_eq_true, 
        decide_eq_true_eq] at hfc
      exact fmtAt_of_plain (by omega)
    obtain ⟨⟨hctl, hd, ha, hb, hz⟩, hr, hsat, hv⟩ := (threeChk_silent hf).1 hs
    refine ⟨?_, (vrWord_three_iff (by decide)).2 ⟨hw, hop, hctl, hd, ha, hb, hz, zeroField_eq_none.1 hk⟩⟩
    simp only [badField_eq_none, fmtIsFp hf, ↓fmtIsInt hf, Bool.not_eq_false'] at hfc
    simp only [vecOk_iff, List.mem_cons, forall_eq_or_imp, List.not_mem_nil, false_implies, implies_true, and_true] at hv
    simp only [Instr.wf, beq_iff_eq (b := RMode.rne), vecOk_iff, List.mem_cons, forall_eq_or_imp, List.not_mem_nil,
      false_implies, implies_true, Bool.and_eq_true,
      hfc, hv, hr, and_self]
  case h_9 | h_10 | h_12 | h_13 | h_14 | h_36 | h_42 | h_43 | h_44 | h_46 =>
    obtain ⟨hfc, hk, hs⟩ := firstBad_cons₂.1 hs
    have hf : FmtAt w := by
      simp only [badField_eq_none, Bool.not_eq_false', bne_eq_false_iff_eq,
        decide_eq_true_eq] at hfc
      exact fmtAt_of_plain (by omega)
    obtain ⟨⟨hctl, hd, ha, hb, hz⟩, hr, hsat, hv⟩ := (oneChk_silent hf).1 hs
    refine ⟨?_, (vrWord_one_iff (by decide)).2 ⟨hw, hop, hctl, hd, ha, hb, hz, zeroField_eq_none.1 hk⟩⟩
    simp only [badField_eq_none, fmtIsFp hf, fmtIsPlain hf, fmtNeFp32 hf, Bool.not_eq_false'] at hfc
    simp only [vecOk_iff, List.mem_cons, forall_eq_or_imp, List.not_mem_nil, false_implies, implies_true, and_true] at hv
    simp only [Instr.wf, Bool.not_eq_true', vecOk_iff, List.mem_cons, forall_eq_or_imp, List.not_mem_nil, false_implies,
      implies_true, Bool.and_eq_true,
      plain_iff, hfc, hv, hr, hsat, and_self]
  case h_37 | h_38 =>
    obtain ⟨hfc, hk, hs⟩ := firstBad_cons₂.1 hs
    have hf : FmtAt w := by
      simp only [badField_eq_none, Bool.not_eq_false', 
        decide_eq_true_eq] at hfc
      exact fmtAt_of_plain (by omega)
    obtain ⟨⟨hctl, hd, ha, hb, hz⟩, hr, hsat, hv⟩ := (laneChk_silent hf).1 hs
    refine ⟨?_, (vrWord_lane_iff (by decide)).2 ⟨hw, hop, hctl, hd, ha, hb, hz, zeroField_eq_none.1 hk⟩⟩
    simp only [badField_eq_none, fmtIsPlain hf, Bool.not_eq_false'] at hfc
    simp only [vecOk_iff, List.mem_cons, forall_eq_or_imp, List.not_mem_nil, false_implies, implies_true, and_true] at hv
    simp only [Instr.wf, vecOk_iff, List.mem_cons, forall_eq_or_imp, List.not_mem_nil, false_implies, implies_true,
      Bool.and_eq_true,
      plain_iff, hfc, hv, hr, hsat, and_self]
  case h_40 =>
    obtain ⟨hfc, hk, hs⟩ := firstBad_cons₂.1 hs
    have hf : FmtAt w := by
      simp only [badField_eq_none, bne_eq_false_iff_eq] at hfc
      exact fmtAt_of_plain (by omega)
    obtain ⟨⟨hctl, hd, ha, hb, hz⟩, hr, hsat, hv⟩ := (bcastOnlyChk_silent hf).1 hs
    refine ⟨?_, (vrWord_none_iff (by decide)).2 ⟨hw, hop, hctl, hd, ha, hb, hz, zeroField_eq_none.1 hk⟩⟩
    simp only [badField_eq_none, fmtNeI32 hf, Bool.not_eq_false'] at hfc
    simp only [vecOk_iff, List.mem_cons, forall_eq_or_imp, List.not_mem_nil, false_implies, implies_true, and_true] at hv
    simp only [Instr.wf, vecOk_iff, List.mem_cons, forall_eq_or_imp, List.not_mem_nil, false_implies, implies_true,
      Bool.and_eq_true,
      plain_iff, hfc, hv, hr, hsat, and_self]
  case h_47 =>
    obtain ⟨hfc, hk, hs⟩ := firstBad_cons₂.1 hs
    obtain ⟨hodd, hs⟩ := firstBad_cons.1 hs
    have hf : FmtAt w := by
      simp only [badField_eq_none, Bool.and_eq_false_iff, bne_eq_false_iff_eq] at hfc
      exact fmtAt_of_plain (by omega)
    obtain ⟨⟨hctl, hd, ha, hb, hz⟩, hr, hsat, hv⟩ := (bcastOnlyChk_silent hf).1 hs
    refine ⟨?_, (vrWord_none_iff (by decide)).2 ⟨hw, hop, hctl, hd, ha, hb, hz, zeroField_eq_none.1 hk⟩⟩
    simp only [badField_eq_none, xsOdd, Bool.not_eq_false'] at hodd
    simp only [badField_eq_none, ↓fmtNeBoth hf, Bool.not_eq_false'] at hfc
    simp only [vecOk_iff, List.mem_cons, forall_eq_or_imp, List.not_mem_nil, false_implies, implies_true, and_true] at hv
    simp only [Instr.wf, vecOk_iff, List.mem_cons, forall_eq_or_imp, List.not_mem_nil, false_implies, implies_true,
      Bool.and_eq_true,
      plain_iff, hfc, hv, hr, hsat, hodd, and_self]
  case h_27 | h_28 | h_29 | h_30 | h_31 | h_32 | h_33 | h_34 =>
    obtain ⟨hfc, hk, hs⟩ := firstBad_cons₂.1 hs
    have h6 : fld w 52 4 ≤ 6 := by
      simp only [badField_eq_none, Bool.not_eq_false', Bool.and_eq_true, decide_eq_true_eq] at hfc
      omega
    have hf := fmtAt_of_plain h6
    obtain ⟨⟨hctl, hd, ha, hb, hz⟩, hp, hv⟩ := (cmpChk_silent hf).1 hs
    simp only [badField_eq_none, decide_eq_false_iff_not, Nat.not_le] at hk
    rw [fmtAt_width] at hk
    have hm := finAt_val_of_lt (n := 4) (b := 5) (by decide) hd.1
    have hj : (Fin.ofNat 4 w).val = fld w 0 4 := by
      have := finAt_val_of_lt (n := 4) (b := 4) (lo := 0) (by decide) (hk.trans_le (subs_le (hf ▸ h6)))
      rwa [Nat.pow_zero, Nat.div_one] at this
    refine ⟨?_, (vrWord_cmp_iff (by decide)).2 ⟨hw, hop, hctl, ⟨hm.symm, hd.2⟩, ha, hb, hz, hj.symm⟩⟩
    simp only [badField_eq_none, fmtIsFp hf, ↓fmtIsInt hf, ↓fmtIsSint hf, Bool.not_eq_false'] at hfc
    simp only [Instr.wf, cmpOk, Bool.and_eq_true, List.all_eq_true, decide_eq_true_eq, hfc, hp, hj]
    exact ⟨⟨⟨⟨trivial, trivial⟩, hv.1⟩, hv.2⟩, hk⟩
  case h_41 =>
    obtain ⟨hfc, hk, hs⟩ := firstBad_cons₂.1 hs
    obtain ⟨hr, hs⟩ := firstBad_cons.1 hs
    have hf : FmtAt w := by
      simp only [badField_eq_none, Bool.not_eq_false', 
        decide_eq_true_eq] at hfc
      exact fmtAt_of_plain (by omega)
    obtain ⟨hd, ha, hb, hz, hv⟩ := (rsLeft_silent hf).1 hs
    simp only [badField_eq_none, decide_eq_false_iff_not, Nat.not_le] at hr
    have hrc : (vctlOf w).rnd.code = fld w 10 3 := code_rmOf (hr.trans (by decide))
    have hctl : CtlAt w (vctlOf w) := ctlAt_vctlOf_iff.2 ⟨hf, hrc.symm⟩
    refine ⟨?_, (vrWord_one_iff (by decide)).2 ⟨hw, hop, hctl, hd, ha, hb, hz, zeroField_eq_none.1 hk⟩⟩
    have hsrk : ((vctlOf w).rnd != .srk) = true := by
      rw [bne_iff_ne, Ne, rmode_eq_srk_iff, hrc]
      omega
    simp only [badField_eq_none, fmtIsFp hf, Bool.not_eq_false'] at hfc
    simp only [vecOk_iff, List.mem_cons, forall_eq_or_imp, List.not_mem_nil, false_implies, implies_true, and_true] at hv
    simp only [Instr.wf, vecOk_iff, List.mem_cons, forall_eq_or_imp, List.not_mem_nil, false_implies, implies_true,
      Bool.and_eq_true,
      hfc, hv, hsrk, and_self]
  case h_45 =>
    obtain ⟨hfc, hk, hs⟩ := firstBad_cons₂.1 hs
    have hf : FmtAt w := fmtAt_of_plain (by simpa [badField_eq_none] using hfc)
    have hsc : fld w 0 3 = (fmtOf (fld w 0 3)).code := (code_fmtOf ((fld_three_lt w 0).trans (by decide))).symm
    obtain ⟨⟨hctl, hd, ha, hb, hz⟩, hdd, hsa, hx⟩ := (cvtChk_silent hf hsc).1 hs
    have h8 : (fmtOf (fld w 0 3)).code < 8 := hsc ▸ fld_three_lt w 0
    refine ⟨?_, (vrWord_cvt_iff (by decide) h8).2 ⟨hw, hop, hctl, hd, ha, hb, hz, hsc, rfl⟩⟩
    simp only [badField_eq_none, fmtAt_width] at hk hfc
    rw [hsc, fmtOf_code, hf] at hk
    rw [hf] at hfc
    simp only [Instr.wf, Bool.and_eq_true, vcvtOk_iff]
    exact ⟨⟨⟨⟨h8, hfc, hk⟩, hdd⟩, hsa⟩, hx⟩
  case h_48 =>
    simp only [firstBad_cons, firstBad_append, firstBad_nil, maskRs_silent, maskChk_silent, zeroOp_silent, fld_controls_iff,
      badField_eq_none, zeroField_eq_none, and_true, decide_eq_false_iff_not, Nat.not_le] at hs
    obtain ⟨hk, hff, hc, ⟨⟨⟨⟨⟨hrs, hd⟩, ha⟩, hb⟩, hz⟩, hx⟩⟩ := hs
    have hm : (Fin.ofNat 4 (w / 2 ^ 47)).val = fld w 47 5 := finAt_val_of_lt (by decide) hd.1
    have ho := fld_bit_of_lt hk
    exact ⟨rfl, (vmWord_plain_iff (by omega)).2 ⟨hw, hop, hff, ⟨hm.symm, hd.2⟩, ha, hb, hz, hc, hrs, hx, ho⟩⟩
  case h_49 | h_50 =>
    simp only [firstBad_cons, firstBad_append, firstBad_nil, maskRs_silent, maskChk_silent, zeroOp_silent, fld_controls_iff,
      zeroField_eq_none, and_true] at hs
    obtain ⟨hk, hff, hc, ⟨⟨⟨⟨⟨hrs, hd⟩, ha⟩, hb⟩, hz⟩, hx⟩⟩ := hs
    have hm : (Fin.ofNat 4 (w / 2 ^ 47)).val = fld w 47 5 := finAt_val_of_lt (by decide) hd.1
    have hma : (Fin.ofNat 4 (w / 2 ^ 38)).val = fld w 38 5 := finAt_val_of_lt (by decide) ha.1
    have hmb : (Fin.ofNat 4 (w / 2 ^ 29)).val = fld w 29 5 := finAt_val_of_lt (by decide) hb.1
    exact ⟨rfl, (vmWord_plain_iff (by omega)).2 ⟨hw, hop, hff, ⟨hm.symm, hd.2⟩, ⟨hma.symm, ha.2⟩, ⟨hmb.symm, hb.2⟩, hz, hc,
      hrs, hx, hk⟩⟩
  case h_51 =>
    simp only [firstBad_cons, firstBad_append, firstBad_nil, maskRs_silent, maskChk_silent, zeroOp_silent, fld_controls_iff,
      zeroField_eq_none, and_true] at hs
    obtain ⟨hk, hff, hc, ⟨⟨⟨⟨⟨hrs, hd⟩, ha⟩, hb⟩, hz⟩, hx⟩⟩ := hs
    have hm : (Fin.ofNat 4 (w / 2 ^ 47)).val = fld w 47 5 := finAt_val_of_lt (by decide) hd.1
    have hma : (Fin.ofNat 4 (w / 2 ^ 38)).val = fld w 38 5 := finAt_val_of_lt (by decide) ha.1
    exact ⟨rfl, (vmWord_plain_iff (by omega)).2 ⟨hw, hop, hff, ⟨hm.symm, hd.2⟩, ⟨hma.symm, ha.2⟩, hb, hz, hc, hrs, hx, hk⟩⟩
  case h_52 =>
    simp only [firstBad_cons, firstBad_append, firstBad_nil, maskRs_silent, maskChk_silent, zeroOp_silent, dstChk_silent,
      fld_controls_iff,
      badField_eq_none, zeroField_eq_none, and_true, bne_eq_false_iff_eq] at hs
    obtain ⟨hk, hff, hc, ⟨⟨⟨⟨⟨⟨hrs, hd⟩, hrow⟩, ha⟩, hb⟩, hz⟩, hx⟩⟩ := hs
    have hma : (Fin.ofNat 4 (w / 2 ^ 38)).val = fld w 38 5 := finAt_val_of_lt (by decide) ha.1
    refine ⟨?_, vmWord_mpop_iff.2 ⟨hw, hop, hff, hd.1, ⟨hma.symm, ha.2⟩, hb, hz, hc, hrs, hx, hk⟩⟩
    exact Bool.and_eq_true_iff.2 ⟨hd.2, firstRow_iff.2 (hd.1.2.symm.trans hrow)⟩
  case h_53 | h_54 =>
    simp only [firstBad_cons, firstBad_append, maskRs_silent, maskChk_silent, zeroOp_silent, bcastChk_silent, fld_controls_iff,
      zeroField_eq_none] at hs
    obtain ⟨hk, hff, hc, ⟨⟨⟨⟨hrs, hd⟩, ha⟩, hb⟩, hz⟩⟩ := hs
    have hm : (Fin.ofNat 4 (w / 2 ^ 47)).val = fld w 47 5 := finAt_val_of_lt (by decide) hd.1
    exact ⟨rfl, (vmWord_plain_iff (by omega)).2 ⟨hw, hop, hff, ⟨hm.symm, hd.2⟩, ha, hb, hz, hc, hrs, (regAt_val w 4).symm, hk⟩⟩
  case h_55 =>
    simp only [firstBad_cons, firstBad_append, firstBad_nil, maskRs_silent, zeroOp_silent, 
      badField_eq_none, zeroField_eq_none, and_true, decide_eq_false_iff_not, Nat.not_le] at hs
    obtain ⟨hk, hff, hd, hrow, ⟨⟨⟨⟨hrs, ha⟩, hb⟩, hz⟩, hx⟩⟩ := hs
    have hm : (Fin.ofNat 8 (w / 2 ^ 47)).val = fld w 47 5 := finAt_val_of_lt (by decide) hd
    have ho := fld_bit_of_lt hk
    have hr := finAt_val 16 4 rfl (w := w) (lo := 43)
    refine ⟨?_, vmWord_tzero_iff.2 ⟨hw, hop, hff, ⟨hm.symm, hr.symm⟩, ha, hb, hz,
      ⟨(finAt_val 4 2 rfl).symm, (bitAt_toNat w 15).symm⟩, hrs, hx, ho⟩⟩
    rw [ho] at hrow
    have hfirst : bitAt w 0 = true → Fin.ofNat 16 (w / 2 ^ 43) = 0 := fun h => by
      simp only [h, Bool.toNat_true, one_ne_zero, if_false, zeroField_eq_none] at hrow
      exact (finAt_eq_iff 16 4 rfl).2 hrow
    rw [Instr.wf, Bool.or_eq_true, Bool.not_eq_true', beq_iff_eq, ← Bool.not_eq_true, or_iff_not_imp_left, not_not]
    exact hfirst
  case h_56 =>
    simp only [firstBad_cons, firstBad_append, firstBad_nil, maskRs_silent, zeroOp_silent, 
      badField_eq_none, zeroField_eq_none, and_true, decide_eq_false_iff_not, Nat.not_le] at hs
    obtain ⟨hk, hff, hd, hdr, ha, har, ⟨⟨⟨hrs, hb⟩, hz⟩, hx⟩⟩ := hs
    have hm : (Fin.ofNat 8 (w / 2 ^ 47)).val = fld w 47 5 := finAt_val_of_lt (by decide) hd
    have hma : (Fin.ofNat 8 (w / 2 ^ 38)).val = fld w 38 5 := finAt_val_of_lt (by decide) ha
    exact ⟨rfl, vmWord_tcpy_iff.2 ⟨hw, hop, hff, ⟨hm.symm, hdr⟩, ⟨hma.symm, har⟩, hb, hz,
      ⟨(finAt_val 4 2 rfl).symm, (bitAt_toNat w 15).symm⟩, hrs, hx, hk⟩⟩

end Sys2Proof
end

section
/-! PROOF. Decode and encode agree in every slot (R68 to R75). -/

namespace Sys2Proof

/-- The word of a well-formed instruction reads back in its class. -/
theorem decode_encode {i : Instr} {c : SlotClass} {w : Nat} (hwf : i.wf = true) (he : encode i = some (c, w)) :
    w < 2 ^ 64 ∧ decodeSlot c w = .ok i := by
  cases c with
  | ctl => exact decode_encode_ctl hwf he
  | scalar => exact decode_encode_scalar hwf he
  | vec => exact decode_encode_vec hwf he
  | eng => exact decode_encode_eng hwf he
  | lane => exact decode_encode_lane hwf he

/-- An accepted word is the word of the well-formed instruction that it decodes to. -/
theorem encode_decode {i : Instr} {c : SlotClass} {w : Nat} (hw : w < 2 ^ 64) (h : decodeSlot c w = .ok i) (hn : i ≠ .nop) :
    i.wf = true ∧ encode i = some (c, w) := by
  obtain ⟨chk, hr, hs⟩ := read_of_decodeSlot h
  cases c with
  | ctl => exact encode_decodeCtl hw hr hn hs
  | scalar => exact encode_decodeScalar hw hr hn hs
  | vec => exact encode_decodeVec hw hr hn hs
  | eng => exact encode_decodeEng hw hr hn hs
  | lane => exact encode_decodeLane hw hr hn hs

/-- Settles O1: slot by slot, a word is its format's fields side by side, so that its fields give back the operands, and the
field checks that stay silent are those of a well-formed instruction. -/
theorem encodingRoundTrips : Obligations.EncodingRoundTrips :=
  ⟨fun _ _ _ hwf he => decode_encode hwf he, fun _ _ _ hw h hn => encode_decode hw h hn⟩

end Sys2Proof
end

section
/-! PROOF. Words printed in the manual (R69 to R73). -/

namespace Sys2Proof.Machine

/-- Settles O2: each word is its instruction's word, which reads back. -/
theorem printedWordsDecode : Obligations.PrintedWordsDecode :=
  ⟨(decode_encode rfl rfl).2, (decode_encode rfl rfl).2, (decode_encode rfl rfl).2, (decode_encode rfl rfl).2, (decode_encode rfl rfl).2,
    (decode_encode rfl rfl).2, (decode_encode rfl rfl).2, (decode_encode rfl rfl).2, (decode_encode rfl rfl).2, (decode_encode rfl rfl).2,
    (decode_encode rfl rfl).2⟩

end Sys2Proof.Machine
end

section
/-! PROOF. A step at a bundle is the issue of that bundle (R62, R76, R80, R115, R118). -/

namespace Sys2Proof.Machine

/-! ## Where a step issues a bundle -/

/-- What is due below a rank is due below a later one. -/
theorem agendaDue_none {s : State} {m n : Nat} (hmn : m ≤ n) (h : s.agendaDue n = none) : s.agendaDue m = none := by
  unfold State.agendaDue at *
  cases hl : s.agenda with
  | nil => rfl
  | cons d l =>
    simp only [hl, ite_eq_right_iff, reduceCtorEq, imp_false, not_or, not_and, Bool.or_eq_true, Bool.and_eq_true, decide_eq_true_eq] at h ⊢
    exact ⟨h.1, fun he hr => h.2 he (hr.trans_le hmn)⟩

/-- With no input come, none is taken. -/
theorem nextInput_none {s : State} (h : ∀ p ∈ s.inbox, s.now < p.1) : s.nextInput = none := by
  have hf : s.inbox.filter (fun p => decide (p.1 ≤ s.now)) = [] :=
    List.filter_eq_nil_iff.2 fun p hp => by simpa using h p hp
  simp [State.nextInput, hf]

theorem nextNotice_none {s : State} (h : ∀ p ∈ s.inbox, s.now < p.1) : s.nextNotice = none := by
  refine List.find?_eq_none.2 fun p hp => ?_
  simp [Nat.not_le.2 (h p hp)]

/-- A sequencer that issues a bundle in this cycle issues it. -/
theorem runCycle_atIssue {s : State} {b : Bundle} (h : s.atIssue b) : s.runCycle = s.issue b := by
  obtain ⟨-, -, -, -, -, hrun, -, htrap, hlate, hwait, hesc, hstarve, hrt, hfetch⟩ := h
  simp [State.runCycle, State.issueCycle, hrun, htrap, hlate, hwait, hesc, hstarve, hrt, hfetch]

/-- Where nothing of the cycle's order stands before the bundle, the step is its issue. -/
theorem step_atIssue {s : State} {b : Bundle} (h : s.atIssue b) : step s = endPre (s.issue b) := by
  rw [← runCycle_atIssue h]
  obtain ⟨hph, hin, hw, hag, hpoll, hrun, hlate, -⟩ := h
  simp [step, State.act, hph, State.preStep, agendaDue_none (m := rankFirst) (by decide) hag, nextNotice_none hin,
    agendaDue_none (m := rankWriteback) (by decide) hag, nextInput_none hin, hw, agendaDue_none (m := rankRead) (by decide) hag,
    hpoll, hag, State.boundaryEvent, hrun, hlate]

/-! ## The issue of a bundle with one operation -/

/-- A slot of a bundle is one of six. -/
theorem mem_slots {k : Fin 8} : k ∈ ([0, 1, 2, 3, 4, 5] : List (Fin 8)) ↔ k.val < 6 := by
  revert k; decide

/-- Slots that decode raise no trap of their decoding. -/
theorem decodeTraps_nil {s : State} {b : Bundle} (h : ∀ k < 6, ∃ i, decodeBundleSlot b k = .ok i) : s.decodeTraps b = [] := by
  refine List.filterMap_eq_nil_iff.2 fun k hk => ?_
  obtain ⟨i, hi⟩ := h k.val (mem_slots.1 hk)
  simp only [hi]

/-- A list of which one element alone maps to something. -/
theorem filterMap_of_one {α β : Type} {f : α → Option β} {l : List α} {a : α} {v : β} (hl : l.Nodup) (ha : a ∈ l) (hv : f a = some v)
    (hn : ∀ x ∈ l, x ≠ a → f x = none) : l.filterMap f = [v] := by
  induction l with
  | nil => cases ha
  | cons x l ih =>
    obtain ⟨hx, hl⟩ := List.nodup_cons.1 hl
    by_cases hxa : x = a
    · subst hxa
      rw [List.filterMap_cons_some hv, List.filterMap_eq_nil_iff.2]
      exact fun y hy => hn y (List.mem_cons_of_mem _ hy) fun h => hx (h ▸ hy)
    · rw [List.filterMap_cons_none (hn x (List.mem_cons_self ..) hxa)]
      exact ih hl ((List.mem_cons.1 ha).resolve_left (Ne.symm hxa)) fun y hy => hn y (List.mem_cons_of_mem _ hy)

/-- The one operation of a bundle whose other slots are NOP. -/
theorem bundleOps_of_one {b : Bundle} {k : Fin 8} {i : Instr} (hk : k.val < 6)
    (hz : ∀ j < 6, j ≠ k.val → decodeBundleSlot b j = .ok .nop) (hi : decodeBundleSlot b k.val = .ok i) (hn : i ≠ .nop) :
    bundleOps b = [(k, i)] := by
  rw [bundleOps, filterMap_of_one (a := k) (v := (k, i)) (by decide) (mem_slots.2 hk)]
  · cases h : actsLast i <;> simp [h]
  · rw [hi]
    cases i with
    | nop => exact absurd rfl hn
    | _ => rfl
  · intro j hj hne
    rw [hz j.val (mem_slots.1 hj) fun h => hne (Fin.ext h)]

/-- An operation's trap is found before the slots act, or not at all before them. -/
theorem earlyTraps_of_one (s : State) (k : Fin 8) (i : Instr) :
    s.earlyTraps [(k, i)] = [] ∨ ∃ p, s.trapOf (k, i) = some p ∧ s.earlyTraps [(k, i)] = [p] := by
  by_cases h3 : k = 3
  · exact .inl (by simp [State.earlyTraps, h3])
  cases ho : s.trapOf (k, i) with
  | none => exact .inl (by simp [State.earlyTraps, h3, ho])
  | some p =>
    by_cases h4 : p.1 ≤ 4
    · exact .inr ⟨p, rfl, by simp [State.earlyTraps, h3, ho, h4]⟩
    · exact .inl (by simp [State.earlyTraps, h3, ho, h4])

/-- The issue of a bundle whose one operation answers a next state: the trap that it takes, of whatever class, or what
follows it. -/
theorem issue_of_one {s t : State} {b : Bundle} {k : Fin 8} {i : Instr} (hk : k.val < 6)
    (hz : ∀ j < 6, j ≠ k.val → decodeBundleSlot b j = .ok .nop) (hi : decodeBundleSlot b k.val = .ok i) (hn : i ≠ .nop)
    (hc : s.ctlTraps b = []) (ht : s.runSlot k i = .next t) : s.issue b = .next (s.afterSlots b [(k, i)] t) := by
  have hd : s.decodeTraps b = [] := decodeTraps_nil fun j hj => by
    by_cases hjk : j = k.val
    · exact ⟨i, hjk ▸ hi⟩
    · exact ⟨_, hz j hj hjk⟩
  have hr : runSlots [(k, i)] s = .next t := by simp [runSlots, ht]
  rw [State.issue, bundleOps_of_one hk hz hi hn, hc, hd, List.nil_append, List.nil_append]
  rcases earlyTraps_of_one s k i with he | ⟨p, hp, he⟩
  · simp only [he, firstClass, hr]
  · have htook : t.seq.tookTrap = some p := by simpa [State.trapOf, ht] using hp
    simp only [he, firstClass, State.afterSlots, htook]

/-- Settles O6: with nothing before it in its cycle the step is the bundle's issue, and a bundle's one operation is run once,
whether its trap is found early or late. -/
theorem stepRunsBundle : Obligations.StepRunsBundle := by
  intro b s h
  refine ⟨step_atIssue h, fun k i t hz hi hn hc => ?_⟩
  intro slot ht
  rw [step_atIssue h, issue_of_one (k := slot) k.isLt (fun j hj hne => decodeBundleSlot_zero b j (hz j hne hj)) hi hn hc ht]
  rfl

end Sys2Proof.Machine
end

section
/-! PROOF. A bundle placed at pc is fetched (R64, R65). -/

namespace Sys2Proof.Machine

theorem packElems_testBit {w : Nat} (hw : 0 < w) (l : List Nat) (i : Nat) :
    (packElems w l).testBit i = ((l[i / w]?).getD 0).testBit (i % w) := by
  have h := congrArg (fun x => x.testBit (i % w)) (packElems_elem w l (i / w))
  simpa only [Nat.testBit_mod_two_pow, Nat.mod_lt i hw, decide_true, Bool.true_and, Nat.testBit_shiftRight, Nat.div_add_mod] using h

/-- Unit j of a bundle's escape (R64). -/
def bundleUnit (b : Bundle) (j : Nat) : BitVec 16 := BitVec.ofNat 16 (b.toNat / 2 ^ (16 * j))

/-- The units of a bundle make it. -/
theorem packElems_bundleUnits (b : Bundle) :
    BitVec.ofNat 384 (packElems 16 ((List.range 24).map fun j => (bundleUnit b j).toNat)) = b := by
  apply BitVec.eq_of_getLsbD_eq
  intro i hi
  have h16 : i / 16 < 24 := by omega
  have hl : i % 16 < 16 := Nat.mod_lt _ (by decide)
  simp only [hi, decide_true, Bool.true_and, packElems_testBit (show 0 < 16 by decide), List.getElem?_map,
    List.getElem?_range h16, Option.map_some, Option.getD_some, bundleUnit, BitVec.toNat_ofNat, Nat.testBit_mod_two_pow, hl,
    Nat.testBit_div_two_pow, Nat.mod_add_div, BitVec.getLsbD]

theorem escapeUnits_eq (a : Nat) (b : Bundle) : escapeUnits a b = (a, { unit := 0xFFFF, start := true }) ::
    (List.range 24).filterMap fun j =>
      if bundleUnit b j = 0 then none else some (a + 1 + j, ({ unit := bundleUnit b j, start := false } : CodeUnit)) := rfl

/-- The unit found at an address of a placed escape: those that are zero are left unwritten. -/
theorem find?_escape {a n k : Nat} {u : Nat → BitVec 16} :
    ((List.range n).filterMap fun j => if u j = 0 then none else some (a + j, ({ unit := u j, start := false } : CodeUnit))).find?
      (fun c => c.1 = a + k) = if k < n ∧ u k ≠ 0 then some (a + k, { unit := u k, start := false }) else none := by
  induction n with
  | zero => simp
  | succ n ih =>
    rw [List.range_succ, List.filterMap_append, List.find?_append, ih]
    by_cases hk : k = n
    · subst hk
      by_cases hu : u k = 0#16 <;> simp [hu]
    · have hlt : k < n + 1 ↔ k < n := by omega
      by_cases hu : u n = 0#16 <;> simp [hu, hlt, Ne.symm hk]

/-- What stands outside a range of addresses is not found in it. -/
theorem find?_outside {l : List (Nat × CodeUnit)} {p : Nat × CodeUnit → Bool} {a : Nat} (h : ∀ c, p c = true → c.1 ≠ a) :
    (l.filter p).find? (fun c => c.1 = a) = none :=
  List.find?_eq_none.2 fun c hc => by simpa using h c (List.mem_filter.1 hc).2

section
variable (b : Bundle) (s : State)

/-- The code units of a placed bundle. -/
theorem placeBundle_codeAt {k : Nat} (hk : k < 25) : (s.placeBundle b).codeAt (s.seq.pc.toNat + k) =
    if k = 0 then { unit := 0xFFFF, start := true } else { unit := bundleUnit b (k - 1), start := false } := by
  have hlo : (s.seq.code.filter fun c => decide (c.1 < s.seq.pc.toNat)).find? (fun c => c.1 = s.seq.pc.toNat + k) = none :=
    find?_outside fun c hc => by have := of_decide_eq_true hc; omega
  have hhi : (s.seq.code.filter fun c => decide (s.seq.pc.toNat + 25 ≤ c.1)).find? (fun c => c.1 = s.seq.pc.toNat + k) = none :=
    find?_outside fun c hc => by have := of_decide_eq_true hc; omega
  have hcode : (s.placeBundle b).seq.code = s.seq.code.filter (fun c => c.1 < s.seq.pc.toNat) ++ escapeUnits s.seq.pc.toNat b ++
      s.seq.code.filter (fun c => s.seq.pc.toNat + 25 ≤ c.1) := rfl
  rw [State.codeAt, hcode, List.find?_append, List.find?_append, hlo, hhi, Option.none_or, Option.or_none, escapeUnits_eq]
  cases k with
  | zero => simp
  | succ j =>
    have ha : s.seq.pc.toNat + (j + 1) = s.seq.pc.toNat + 1 + j := by omega
    have hne : ¬(s.seq.pc.toNat = s.seq.pc.toNat + 1 + j) := by omega
    rw [ha, List.find?_cons_of_neg (by simpa using hne), find?_escape (u := bundleUnit b)]
    by_cases hu : bundleUnit b j = 0#16
    · simp [hu]
    · simp [hu, show j < 24 by omega]

theorem placeBundle_literal : (s.placeBundle b).literal s.seq.pc.toNat = b := by
  rw [State.literal, List.map_congr_left (g := fun j => (bundleUnit b j).toNat), packElems_bundleUnits]
  intro j hj
  rw [Nat.add_assoc, placeBundle_codeAt b s (by have := List.mem_range.1 hj; omega), if_neg (by omega), Nat.add_sub_cancel_left]

/-- A bundle placed where its escape fits is fetched. -/
theorem placeBundle_fetch (h : s.seq.pc.toNat + 25 ≤ if s.seq.mode = .user then 0x7000 else 0x8000) :
    (s.placeBundle b).fetch = .ok b := by
  have hc : (s.placeBundle b).codeAt s.seq.pc.toNat = { unit := 0xFFFF, start := true } :=
    placeBundle_codeAt b s (k := 0) (by decide)
  have hl := placeBundle_literal b s
  have hb : (s.placeBundle b).seq.badTarget = none := rfl
  have hpc : (s.placeBundle b).seq.pc = s.seq.pc := rfl
  have hm : (s.placeBundle b).seq.mode = s.seq.mode := rfl
  rw [State.fetch, hb, hpc, hm]
  simp only [hc, hl]
  cases hmode : s.seq.mode with
  | user =>
    simp only [hmode, if_true] at h
    simp [Config.runtimeBase, show ¬0x7000 ≤ s.seq.pc.toNat by omega, show ¬0x7000 < s.seq.pc.toNat + 25 by omega]
  | supervisor => simpa [hmode, Config.codeUnits] using h

end

/-- Settles O7: an escape's units are found at their addresses, and the bundle that they make is the one placed. -/
theorem placedBundleIsFetched : Obligations.PlacedBundleIsFetched := fun b _ _ s h =>
  ⟨placeBundle_fetch b s h, rfl, rfl, rfl, rfl, rfl, rfl, rfl, rfl, rfl, placeBundle_fetch _ s h⟩

end Sys2Proof.Machine
end

section
/-! PROOF. Results that land, and x0 (R77, R78, R93). -/

namespace Sys2Proof.Machine

/-- A system register write reaches neither the sequencer nor the annulus nor HBM. -/
theorem sysLand_frame (s : State) (num : BitVec 12) (v : Word) :
    (s.sysLand num v).seq = s.seq ∧ (s.sysLand num v).ann = s.ann ∧ (s.sysLand num v).cp.hbm = s.cp.hbm := by
  unfold State.sysLand
  split
  case h_14 | h_15 => split <;> exact ⟨rfl, rfl, rfl⟩
  case h_27 =>
    split
    · exact ⟨rfl, rfl, rfl⟩
    split
    · exact ⟨rfl, rfl, rfl⟩
    split
    · dsimp only
      split
      · split <;> exact ⟨rfl, rfl, rfl⟩
      all_goals exact ⟨rfl, rfl, rfl⟩
    · exact ⟨rfl, rfl, rfl⟩
  all_goals exact ⟨rfl, rfl, rfl⟩

/-- A result that lands leaves the writes in flight, the pc, the annulus and HBM. -/
theorem landDest_frame (s : State) (d : Dest) : (s.landDest d).seq.writes = s.seq.writes ∧ (s.landDest d).seq.pc = s.seq.pc ∧
    (s.landDest d).ann = s.ann ∧ (s.landDest d).cp.hbm = s.cp.hbm := by
  cases d with
  | x r v =>
    simp only [State.landDest, State.setX]
    split <;> exact ⟨rfl, rfl, rfl, rfl⟩
  | sys n v =>
    obtain ⟨hq, ha, hm⟩ := sysLand_frame s n v
    exact ⟨congrArg Seq.writes hq, congrArg Seq.pc hq, ha, hm⟩
  | _ => exact ⟨rfl, rfl, rfl, rfl⟩

theorem x_zero (s : State) : s.x 0 = 0 := rfl

/-- A register other than x0 holds what is written to it, and the others hold what they held. -/
theorem x_setX_self (s : State) {r : Reg} (v : Word) (h : r ≠ 0) : (s.setX r v).x r = v := by
  simp [State.x, State.setX, h]

theorem x_setX_other (s : State) {r q : Reg} (v : Word) (h : q ≠ r) : (s.setX r v).x q = s.x q := by
  by_cases hr : r = 0
  · simp [State.setX, hr]
  · by_cases hq : q = 0
    · simp [State.x, hq]
    · have hv : r.val ≠ q.val := fun e => h (Fin.ext e.symm)
      simp [State.x, State.setX, hr, hq, hv]


/-- A write in flight for x0 holds no pending bit (R78). -/
theorem inFlight_x0_pending {s t : State} {v : Word} {lat : Nat} (h : InFlight s (.x 0 v) lat t) (k : Key) :
    t.pendingRead k = s.pendingRead k ∧ t.pendingWrite k = s.pendingWrite k := by
  obtain ⟨w, hd, -, -, -, rfl⟩ := h
  constructor <;> simp [State.pendingRead, State.pendingWrite, hd, Dest.key]

theorem InFlight.x {s t : State} {d : Dest} {lat : Nat} (h : InFlight s d lat t) (r : Reg) : t.x r = s.x r := by
  obtain ⟨hr, -⟩ := h.frame
  simp only [State.x, hr]

/-- A result that is not a push lands in its register's place. -/
theorem landWrite_reg {s : State} {w : PendingWrite} (h : w.isPush = false) : s.landWrite w = s.landDest w.dest := by
  unfold State.landWrite
  cases hd : w.dest with
  | push => simp [PendingWrite.isPush, hd] at h
  | _ => rfl

theorem resultWriteback_next {s : State} {w : PendingWrite} (h : s.nextWrite = some w) (hp : w.isPush = false) :
    exec .resultWriteback s = .next ((s.landDest w.dest).onSeq fun q => { q with writes := q.writes.erase w }) := by
  rw [← landWrite_reg hp]
  change execResultWriteback s = _
  rw [execResultWriteback, h]

/-- Settles O16: a result for x0 holds no pending bit and lands nowhere; the first result due lands in its own register. -/
theorem registerWritesLand : Obligations.RegisterWritesLand := by
  constructor
  · intro xa xb s
    refine ⟨rfl, fun h => ⟨_, rfl, ?_⟩, fun v => rfl⟩
    have hf := srOp_inFlight h (List.mem_cons_self ..) (List.mem_cons_of_mem _ (List.mem_cons_self ..)) 1 true (· + ·)
    exact ⟨hf.x, fun k => (inFlight_x0_pending hf k).1, fun k => (inFlight_x0_pending hf k).2⟩
  · intro s w h hp
    obtain ⟨hw, hpc, ha, hm⟩ := landDest_frame s w.dest
    refine ⟨_, resultWriteback_next h hp, congrArg (List.erase · w) hw, ha, hm, hpc, ?_⟩
    cases hd : w.dest with
    | x r v =>
      refine ⟨fun hr => x_setX_self s v hr, fun q hq => x_setX_other s v hq, ?_⟩
      change (s.setX r v).seq.tiles = s.seq.tiles ∧ (s.setX r v).sys = s.sys
      unfold State.setX
      split <;> exact ⟨rfl, rfl⟩
    | tile i v => exact ⟨rfl, rfl, rfl⟩
    | mask m rows cols => exact ⟨rfl, rfl, rfl, rfl, rfl⟩
    | lc n v => exact ⟨rfl, rfl, rfl, rfl⟩
    | sys n v =>
      rw [hd] at hw
      change (s.sysLand n v).seq.writes = s.seq.writes at hw
      simp only [State.landDest, State.onSeq, hw]
    | push => simp [PendingWrite.isPush, hd] at hp

end Sys2Proof.Machine
end

section
/-! PROOF. Control transfers, and the fault near a loop's end (R114, R115, R119). -/

namespace Sys2Proof.Machine

/-- An instruction takes the trap of its first check that fires. -/
theorem traps_of_guarded {s : State} {i : Instr} {checks : List (Option TrapReq)} {f : State → State} {t : TrapReq}
    (he : exec i s = .next (s.guarded checks f)) (h : firstTrap checks = some t) : Traps i s t :=
  he.trans (congrArg _ (guarded_trap h))

/-- A branch whose operands are readable, away from a loop's end, makes its transfer when its condition holds. -/
theorem branch_goes {s : State} {i : Instr} {cond : Word → Word → Bool} {c : Prop} {xa xb : Reg} {l : BitVec 15}
    (he : exec i s = .next (branchOp cond xa xb l s)) (hc : cond (s.x xa) (s.x xb) = true ↔ c) (hloop : s.clearOfLoopEnd)
    (ha : s.pendingRead (.x xa) = false) (hb : s.pendingRead (.x xb) = false) :
    (c → Completes i s (· = transferred s (some (BitVec.ofNat 64 l.toNat)))) ∧ (¬c → Completes i s (· = transferred s none)) := by
  have hg : branchOp cond xa xb l s = s.transfer (if cond (s.x xa) (s.x xb) then some (l.setWidth 64) else none) :=
    guarded_pass (by simp [rdX_none ha, rdX_none hb, nearEnd_none hloop])
  rw [hg, ← BitVec.ofNat_toNat] at he
  exact ⟨fun h => ⟨_, he, by rw [if_pos (hc.2 h)]; rfl⟩, fun h => ⟨_, he, by rw [if_neg (mt hc.1 h)]; rfl⟩⟩

/-- A jump whose checks are silent makes its transfer. -/
theorem jump_goes {s : State} {i : Instr} {checks : List (Option TrapReq)} {v : Word}
    (he : exec i s = .next (s.guarded checks (State.transfer (some v)))) (hc : ∀ x ∈ checks, x = none) :
    (True → Completes i s (· = transferred s (some v))) ∧ (¬True → Completes i s (· = transferred s none)) :=
  ⟨fun _ => ⟨_, he, guarded_pass hc⟩, fun h => absurd trivial h⟩

/-- A call whose checks are silent makes its transfer and puts its link in flight. -/
theorem call_goes {s : State} {i : Instr} {checks : List (Option TrapReq)} {v : Word}
    (he : exec i s = .next (callOp checks v s)) (hc : ∀ x ∈ checks, x = none) (hloop : s.clearOfLoopEnd) (hw : s.wrX 30 = none) :
    Completes i s (InFlight (transferred s (some v)) (.x 30 s.linkWord) 1) := by
  refine ⟨_, he, ?_⟩
  have hg : callOp checks v s = (s.transfer (some v)).putX 30 s.linkWord 1 false :=
    guarded_pass fun x hx => (List.mem_append.1 hx).elim (hc x) (by simp +contextual [hw, nearEnd_none hloop])
  rw [hg]
  exact putX_inFlight ..

/-- The loop fault of a transfer near the innermost level's end. -/
theorem nearEnd_some {s : State} {v : LoopLevel} {ls : List LoopLevel} (hl : s.seq.loops = v :: ls)
    (h : v.stop.toNat = s.seq.pc.toNat ∨ v.stop.toNat = s.after s.seq.pc.toNat ∨ v.stop.toNat = s.after (s.after s.seq.pc.toNat)) :
    s.nearEnd = some (loopFault v.n.val) := by
  simp [State.nearEnd, hl, trapIf, or_assoc, h]

/-- LEXIT's own faults are of the class of the loop fault. -/
theorem lexitTrap_cls {s : State} {t : TrapReq} (h : s.lexitTrap = some t) : t.cls = 5 := by
  unfold State.lexitTrap at h
  split at h
  · cases h; rfl
  · cases h
  · unfold trapIf at h
    split at h
    · cases h; rfl
    · cases h

/-- Settles O18: each transfer's checks in turn, then the transfer that `State.transfer` leaves. -/
theorem controlTransfers : Obligations.ControlTransfers := by
  refine ⟨fun xa xb l s hloop ha hb h30 => ?_, fun xa l s hloop hr => ?_, fun xa xb l v ls s hl hend hr i hi => ?_⟩
  · have hn := nearEnd_none hloop
    refine ⟨branch_goes rfl beq_iff_eq hloop ha hb, branch_goes rfl bne_iff_ne hloop ha hb, branch_goes rfl BitVec.slt_iff_toInt_lt hloop ha hb,
      branch_goes rfl ?_ hloop ha hb, branch_goes rfl ?_ hloop ha hb, branch_goes rfl ?_ hloop ha hb, ?_, ?_, ?_⟩
    · rw [Bool.not_eq_true', ← Bool.not_eq_true, BitVec.slt_iff_toInt_lt, Int.not_lt]
    · rw [BitVec.ult_iff_lt, BitVec.lt_def]
    · rw [Bool.not_eq_true', ← Bool.not_eq_true, BitVec.ult_iff_lt, BitVec.lt_def, Nat.not_lt]
    · rw [BitVec.ofNat_toNat]
      exact jump_goes rfl (by simp [hn])
    · exact jump_goes rfl (by simp [rdX_none ha, hn])
    · exact jump_goes rfl (by simp [rdX_none h30, hn])
  · rw [BitVec.ofNat_toNat]
    exact ⟨call_goes rfl (by simp) hloop (ready_wr hr), call_goes rfl (by simp [ready_rd hr]) hloop (ready_wr hr)⟩
  · have hn := nearEnd_some hl hend
    have hrd : ∀ r ∈ [xa, xb, 30], s.rdX r = none := fun r => ready_rd hr
    simp only [List.forall_mem_cons, List.not_mem_nil, false_implies, implies_true, and_true] at hrd
    obtain ⟨ha, hb, h30⟩ := hrd
    have hw := ready_wr hr
    have hlast : firstTrap [some (loopFault v.n.val)] = some (loopFault v.n.val) := rfl
    have hlexit : firstTrap [some (loopFault v.n.val), s.lexitTrap] = some (loopFault v.n.val) :=
      firstTrap_head fun u hu => (lexitTrap_cls (List.mem_singleton.1 hu).symm).ge
    simp only [List.mem_cons, List.not_mem_nil, or_false] at hi
    rcases hi with rfl | rfl | rfl | rfl | rfl | rfl | rfl | rfl | rfl | rfl | rfl | rfl
    case inr.inr.inr.inr.inr.inr.inr.inr.inr.inr.inr => exact traps_of_guarded rfl (by simp only [hn, ha, firstTrap]; exact hlexit)
    all_goals exact traps_of_guarded rfl (by simp only [List.cons_append, List.nil_append, hn, ha, hb, h30, hw]; exact hlast)

end Sys2Proof.Machine
end

section
/-! PROOF. A bundle of NOPs, in sequence and in a transfer (R66, R80, R115). -/

namespace Sys2Proof.Machine

/-- With no level active no loop ends. -/
theorem endLoops_nil {a : BitVec 15} {now : Nat} {q : Seq} (h : q.loops = []) : q.endLoops a now = (q, none) := by
  rw [Seq.endLoops, h, loopEnd, ← h]

theorem advance_loops (s : State) (e : Effect) (q : Seq) : (s.advance e q).loops = q.loops := by
  unfold State.advance
  dsimp only
  split
  · rfl
  · rfl
  · split
    · rfl
    · split <;> rfl

/-- What follows slots that ask for nothing, where no loop is active: the sequencer goes on to the next address, but for
the signature. -/
theorem finish_none {s t : State} (b : Bundle) (he : t.seq.effect = .none) (hl : t.seq.loops = []) :
    ∃ crc, (s.finish b t).seq = { s.advance .none { t.seq with slot := 0 } with crc := crc } ∧ (s.finish b t).ann = t.ann := by
  have hend := endLoops_nil (a := s.seq.pc) (now := s.now) ((advance_loops s .none { t.seq with effect := .none, slot := 0 }).trans hl)
  have hseq : ({ t.seq with effect := .none, slot := 0 } : Seq) = { t.seq with slot := 0 } := by rw [← he]
  rw [← hseq]
  unfold State.finish
  simp only [he, State.onSeq, State.onSeg, hend]
  by_cases hf : s.seq.follows <;> by_cases hs : s.seg.inSeg <;> simp only [hf, hs] <;> exact ⟨_, rfl, rfl⟩

/-- A bundle of NOPs issues without a trap, and only what follows a bundle happens. -/
theorem issue_nops {s : State} {b : Bundle} (hb : ∀ k, slotBits b k = 0) (ht : s.seq.tookTrap = none) :
    s.issue b = .next (s.finish b s) := by
  have hd (k : Nat) : decodeBundleSlot b k = .ok .nop := decodeBundleSlot_zero b k (hb k)
  have hops : bundleOps b = [] := by simp [bundleOps, hd]
  have hctl : s.ctlTraps b = [] := by simp [State.ctlTraps, ctlOf, ctlOpcode, hd, hb, barredInDelay, standsAlone]
  have hdec : s.decodeTraps b = [] := decodeTraps_nil fun k _ => ⟨_, hd k⟩
  simp [State.issue, hops, hctl, hdec, State.earlyTraps, firstClass, runSlots, State.afterSlots, ht]

/-- The pc of an address within code memory. -/
theorem pc_of_address (n : Nat) : (BitVec.ofNat 64 n).setWidth 15 = BitVec.ofNat 15 n := BitVec.setWidth_ofNat_of_le (by decide) n

/-- Where fetch goes after a bundle that asks for nothing: in sequence, a delay bundle counted (R80), or to the target of the
transfer that is due (R115). -/
theorem advance_seq {s : State} {q : Seq} (h : s.seq.xfer = none) : s.advance .none q =
    q.goTo (BitVec.ofNat 64 (s.after s.seq.pc.toNat)) false (s.now + 1) := by
  simp only [State.advance, h]

theorem advance_delay {s : State} {q : Seq} {x : Xfer} (h : s.seq.xfer = some x) (hx : 1 < x.left) : s.advance .none q =
    { q with xfer := some { x with left := x.left - 1 } }.goTo (BitVec.ofNat 64 (s.after s.seq.pc.toNat)) false (s.now + 1) := by
  simp only [State.advance, h, Xfer.next, if_neg (Nat.not_le.2 hx)]

theorem advance_target {s : State} {q : Seq} {x : Xfer} {v : Word} (h : s.seq.xfer = some x) (hx : x.left ≤ 1) (hv : x.target = some v) :
    s.advance .none q = { q with xfer := none }.goTo v true (s.now + 1) := by
  simp only [State.advance, h, Xfer.next, if_pos hx, hv]

theorem advance_untaken {s : State} {q : Seq} {x : Xfer} (h : s.seq.xfer = some x) (hx : x.left ≤ 1) (hv : x.target = none) :
    s.advance .none q = { q with xfer := none }.goTo (BitVec.ofNat 64 (s.after s.seq.pc.toNat)) false (s.now + 1) := by
  simp only [State.advance, h, Xfer.next, if_pos hx, hv]

/-- What goes on in the next cycle, wherever fetch goes. -/
theorem advance_frame (s : State) (q : Seq) : (s.advance .none q).issueAt = s.now + 1 ∧ (s.advance .none q).regs = q.regs := by
  cases h : s.seq.xfer with
  | none => rw [advance_seq h]; exact ⟨rfl, rfl⟩
  | some x =>
    by_cases hx : x.left ≤ 1
    · cases hv : x.target with
      | none => rw [advance_untaken h hx hv]; exact ⟨rfl, rfl⟩
      | some v => rw [advance_target h hx hv]; exact ⟨rfl, rfl⟩
    · rw [advance_delay h (Nat.not_le.1 hx)]; exact ⟨rfl, rfl⟩

/-- Settles O19: nothing but the advance follows a bundle of NOPs, and the advance counts the delay bundles. -/
theorem delayBundlesThenTarget : Obligations.DelayBundlesThenTarget := by
  refine ⟨fun s => ⟨s, rfl, rfl⟩, fun b s hb hl htook he => ?_⟩
  obtain ⟨crc, hseq, hann⟩ := finish_none (s := s) b he hl
  obtain ⟨hat, hregs⟩ := advance_frame s { s.seq with slot := 0 }
  refine ⟨_, issue_nops hb htook, ?_⟩
  rw [hseq, hann]
  refine ⟨hat, hregs, rfl, fun hx => ?_, fun x hx => ⟨fun hleft => ?_, fun hleft => ⟨?_, fun v hv => ?_⟩, fun hleft hv => ?_⟩⟩
  · rw [advance_seq hx]
    exact ⟨hx, pc_of_address _⟩
  · rw [advance_delay hx hleft]
    exact ⟨rfl, pc_of_address _⟩
  · cases hv : x.target with
    | none => rw [advance_untaken hx hleft hv]; rfl
    | some v => rw [advance_target hx hleft hv]; rfl
  · rw [advance_target hx hleft hv]
    exact ⟨rfl, rfl, fun h => if_pos h, fun h => if_neg (Nat.not_lt.2 h)⟩
  · rw [advance_untaken hx hleft hv]
    exact pc_of_address _

end Sys2Proof.Machine
end

section
/-! PROOF. Taking a trap, and a state that a bound on the delay bundles would shut out (R134 to R136). -/

namespace Sys2Proof.Machine

/-- In user mode with nothing in flight, a trap keeps its words in TCAUSE and TINFO and the pc in TEPC. -/
theorem enterTrap_user {s : State} (r : TrapRec) (hm : s.seq.mode = .user) (hw : s.seq.writes = []) :
    s.enterTrap r = { s with
      sys := { s.sys with
        tepc := BitVec.ofNat 64 s.seq.pc.toNat, tcause := tcauseWord r false s.seq.xfer s.seg.inSeg, tinfo := tinfoWord r },
      seq := { s.seq with
        mode := .supervisor, suspended := true, pc := s.sys.tvec.setWidth 15, issueAt := s.now + 3, escPaid := true, xfer := none,
        arrived := false, badTarget := none, trapDue := none } } := by
  simp only [State.enterTrap, hm, landAll_nil hw]
  rfl

/-- A state that no run reaches: outside a segment, a transfer with four delay bundles to go. -/
def fourDelays : State :=
  { State.reset with seq := { Seq.reset with mode := .user, xfer := some { left := 4, target := some 0 } } }

/-- Refutes O22: the count of delay bundles is not bounded by two in the clause on TCAUSE's bit 11, and of four of them the
count's third bit stands in the place of bit 11, outside a segment, too. -/
theorem not_trapEntry : ¬ Obligations.TrapEntry := by
  intro h
  obtain ⟨c, i, e, heq, -, -, -, hseg, -⟩ := h.1 { cause := 0, code := 0, baddr := 0, slot := 0, detail := 0 } fourDelays rfl rfl
  rw [enterTrap_user _ rfl rfl] at heq
  have hc := congrArg (fun s : State => s.sys.tcause) heq
  dsimp only at hc
  rw [← hc] at hseg
  exact absurd hseg (by decide)

end Sys2Proof.Machine
end

section
/-! PROOF. ERET, TRAP and the privileged operations (R137, R139, R140). -/

namespace Sys2Proof.Machine

/-- ERET in supervisor mode: mode, pc and the outstanding transfer by TCAUSE and TEPC (R140). -/
theorem eret_returns {s : State} (hm : s.seq.mode = .supervisor) : Completes .eret s (· = { s with seq := { s.seq with
    mode := if s.sys.tcause.getLsbD 8 then .supervisor else .user, suspended := s.sys.tcause.getLsbD 8 && s.seq.suspended,
    pc := s.sys.tepc.setWidth 15, issueAt := s.now + 3, escPaid := false, arrived := true, badTarget := none,
    xfer := if fieldNat s.sys.tcause 9 2 = 0 then none
      else some { left := fieldNat s.sys.tcause 9 2, target := some ((bitsOf s.sys.tcause 32 15).setWidth 64) },
    effect := .eret } }) := by
  have hg : s.guarded [trapIf (s.seq.mode == .user) (privTrap 0x14)] (fun s => s.returnTrap.onSeq fun q => { q with effect := .eret }) =
      s.returnTrap.onSeq fun q => { q with effect := .eret } := guarded_pass (by simp [hm, trapIf])
  have ht : (bitsOf s.sys.tcause 32 15).setWidth 64 = BitVec.ofNat 64 (fieldNat s.sys.tcause 32 15) := by
    apply BitVec.eq_of_toNat_eq
    simp [fieldNat]
  refine ⟨_, congrArg Host.Outcome.next hg, ?_⟩
  rw [ht]
  cases h8 : s.sys.tcause.getLsbD 8 <;>
    simp only [State.returnTrap, State.onSeq, h8, Bool.not_false, Bool.not_true, if_true, Bool.false_eq_true, if_false, Bool.false_and,
      Bool.true_and]

/-- A privileged operation of user code traps, whatever its later checks find, where none is of an earlier class. -/
theorem traps_privileged {s : State} {i : Instr} {n : Nat} {checks : List (Option TrapReq)} {f : State → State}
    (hm : s.seq.mode = .user) (he : exec i s = .next (s.guarded (trapIf (s.seq.mode == .user) (privTrap n) :: checks) f))
    (hc : ∀ u, some u ∈ checks → 4 ≤ u.cls) : Traps i s (privTrap n) :=
  traps_of_guarded he (by rw [hm]; exact firstTrap_head hc)

/-- TRAP owes its trap where none is due (R139). -/
theorem trap_owes {s : State} (id : BitVec 16) (arg : BitVec 40) (h : s.seq.trapDue = none) :
    Completes (.trap id arg) s (· = { s with seq := { s.seq with
      trapDue := some { cause := 0x10, code := id, baddr := s.seq.pc, slot := 0, detail := arg } } }) := by
  refine ⟨_, rfl, ?_⟩
  simp only [State.oweTrap, State.onSeq, h]

/-- A trap that is due is taken in place of the bundle that would issue next (R139, R145). -/
theorem issueCycle_trapDue {u : State} {r : TrapRec} (h : u.seq.trapDue = some r) : u.issueCycle = .next (u.enterTrap r) := by
  simp only [State.issueCycle, h]

/-- The faults of a register that an operation reads or writes are of the class of the schedule faults. -/
theorem reg_faults_cls {s : State} {r : Reg} {l : List (Option TrapReq)} (hl : ∀ x ∈ l, x = s.rdX r ∨ x = s.wrX r) (u : TrapReq)
    (hu : some u ∈ l) : 4 ≤ u.cls := by
  rcases hl _ hu with h | h
  · simp [rdX_cls h.symm]
  · simp [wrX_cls h.symm]

/-- Settles O24: ERET's fields, TRAP's debt, and the privilege check first of the checks of every privileged operation but
SPMWR, whose reserved-field trap is of an earlier class. -/
theorem trapsRaisedAndReturned : Obligations.TrapsRaisedAndReturned := by
  refine ⟨fun s => ⟨fun hm => ?_, fun hm => eret_returns hm⟩, fun id arg s h => ⟨trap_owes id arg h, fun u hu => issueCycle_trapDue hu⟩,
    fun xd xa sel map side s hm => ⟨fun hr b hb => ?_, fun p hp hmap => ?_⟩⟩
  · exact traps_privileged (n := 0x14) hm rfl (by simp)
  · refine traps_of_guarded rfl ?_
    simp [hm, rdX_none hr, hb, valueTrap, firstTrap, trapIf, privTrap, reservedTrap]
  · have hw : ∀ u, some u ∈ [s.wrX xd] → 4 ≤ u.cls := reg_faults_cls (s := s) (r := xd) (by simp)
    have ha : ∀ u, some u ∈ [s.rdX xa] → 4 ≤ u.cls := reg_faults_cls (s := s) (r := xa) (by simp)
    have hn : ∀ u : TrapReq, some u ∈ ([] : List (Option TrapReq)) → 4 ≤ u.cls := by simp
    simp only [List.mem_cons, List.not_mem_nil, or_false] at hp
    rcases hp with rfl | rfl | rfl | rfl | rfl | rfl | rfl | rfl | rfl | rfl | rfl | rfl
    case inr.inr.inr.inr.inr.inr.inr.inr.inl =>
      refine traps_privileged hm rfl fun u hu => ?_
      simp only [List.mem_cons, List.not_mem_nil, or_false] at hu
      rcases hu with hu | hu
      · exact ha u (by simp [hu])
      · rcases hmap rfl with hr | hb
        · simp [valueTrap, firstTrap, rdX_some hr] at hu
        · simp [valueTrap, hb] at hu
    · exact traps_privileged (n := 0x30) hm rfl hw
    · exact traps_privileged (n := 0x31) hm rfl ha
    · exact traps_privileged (n := 0x32) hm rfl ha
    · exact traps_privileged (n := 0x33) hm rfl hw
    · exact traps_privileged (n := 0x34) hm rfl hn
    · exact traps_privileged (n := 0x35) hm rfl hw
    · exact traps_privileged (n := 0x36) hm rfl hw
    · exact traps_privileged (n := 0x37) hm rfl hw
    · exact traps_privileged (n := 0x39) hm rfl hw
    · exact traps_privileged (n := 0x3A) hm rfl hn
    · exact traps_privileged (n := 0x14) hm rfl hn

end Sys2Proof.Machine
end

section
/-! PROOF. System register accesses by access code, and what reads back (R105 to R108). -/

namespace Sys2Proof.Machine

/-! ## System register accesses (R105 to R108) -/

theorem sysPend_cls {s : State} {num : BitVec 12} {wr : Bool} {u : TrapReq} (h : s.sysPend num wr = some u) : u.cls = 5 := by
  unfold State.sysPend State.writeFault State.readFault at h
  split at h <;>
    · simp only [Option.ite_none_right_eq_some, Option.some.injEq] at h
      rw [← h.2]; rfl

/-- A system register that no write in flight is for has no pending bit. -/
theorem sysPend_none {s : State} {num : BitVec 12} (wr : Bool) (h : s.pendingWrite (.sys num) = false) : s.sysPend num wr = none := by
  have hr : s.pendingRead (.sys num) = false := by
    simp only [State.pendingWrite, State.pendingRead, List.any_eq_false, Bool.and_eq_true, not_and] at h ⊢
    exact fun w hw hk => absurd hk (h w hw)
  cases wr <;> simp [State.sysPend, State.writeFault, State.readFault, h, hr]

/-- A value that breaks a layout takes the reserved-field trap. -/
theorem sysValueTrap_cls {s : State} {num : BitVec 12} {v : Word} {u : TrapReq} (h : s.sysValueTrap num v = some u) : u.cls = 3 := by
  unfold State.sysValueTrap at h
  split at h
  · simp only [trapIf, Option.ite_none_right_eq_some, Option.some.injEq] at h
    rw [← h.2]; rfl
  · dsimp only at h
    split at h
    · cases h
    all_goals
      cases h
      rfl

theorem valueTrap_some {l : List (Option TrapReq)} {t : Option TrapReq} {u : TrapReq} (h : valueTrap l t = some u) : t = some u := by
  simp only [valueTrap, Option.ite_none_right_eq_some] at h
  exact h.2

theorem valueTrap_none (l : List (Option TrapReq)) : valueTrap l none = none := by simp [valueTrap]

section
variable {xd xa : Reg} {num : BitVec 12} {s : State} {t : TrapReq}

/-- The access's own trap wins over the faults of the registers. -/
theorem sysrd_traps (h : s.sysTrap num true false = some t) (hc : t.cls ≤ 5) : Traps (.sysrd xd num) s t := by
  refine traps_of_guarded rfl ?_
  rw [h]
  refine firstTrap_head fun u hu => ?_
  simp only [List.mem_cons, List.not_mem_nil, or_false] at hu
  rcases hu with hu | hu
  · exact (sysPend_cls hu.symm).symm ▸ hc
  · exact (wrX_cls hu.symm).symm ▸ hc

/-- So it does of a write, unless its value's trap is of an earlier class. -/
theorem syswr_traps (h : s.sysTrap num false true = some t) (hc : t.cls ≤ 5) (hv : s.sysValueTrap num (s.x xa) = none ∨ t.cls ≤ 3) :
    Traps (.syswr xa num) s t := by
  refine traps_of_guarded rfl ?_
  rw [h]
  refine firstTrap_head fun u hu => ?_
  simp only [List.mem_cons, List.not_mem_nil, or_false] at hu
  rcases hu with hu | hu | hu
  · exact (rdX_cls hu.symm).symm ▸ hc
  · exact (sysPend_cls hu.symm).symm ▸ hc
  · have hu := valueTrap_some hu.symm
    rcases hv with hv | hv
    · rw [hv] at hu; cases hu
    · exact (sysValueTrap_cls hu).symm ▸ hv

/-- And of a read and a write in one. -/
theorem sysModify_traps {f : Word → Word → Word} (h : s.sysTrap num true true = some t) (hc : t.cls ≤ 5)
    (hv : s.sysValueTrap num (f (s.sysRead num) (s.x xa)) = none ∨ t.cls ≤ 3) : sysModify f xd xa num s = s.takeTrap t := by
  unfold sysModify
  refine guarded_trap ?_
  rw [h]
  refine firstTrap_head fun u hu => ?_
  simp only [List.mem_cons, List.not_mem_nil, or_false] at hu
  rcases hu with hu | hu | hu | hu | hu
  · exact (rdX_cls hu.symm).symm ▸ hc
  · exact (sysPend_cls hu.symm).symm ▸ hc
  · exact (sysPend_cls hu.symm).symm ▸ hc
  · exact (wrX_cls hu.symm).symm ▸ hc
  · have hu := valueTrap_some hu.symm
    rcases hv with hv | hv
    · rw [hv] at hu; cases hu
    · exact (sysValueTrap_cls hu).symm ▸ hv

theorem sysset_sysclr_traps (h : s.sysTrap num true true = some t) (hc : t.cls ≤ 5)
    (hv : (s.sysValueTrap num (s.sysRead num ||| s.x xa) = none ∧ s.sysValueTrap num (s.sysRead num &&& ~~~s.x xa) = none) ∨ t.cls ≤ 3) :
    Traps (.sysset xd xa num) s t ∧ Traps (.sysclr xd xa num) s t :=
  ⟨congrArg Host.Outcome.next (sysModify_traps h hc (hv.imp_left And.left)),
    congrArg Host.Outcome.next (sysModify_traps h hc (hv.imp_left And.right))⟩

/-- A value that breaks the layout traps before the mode does (R76). -/
theorem syswr_badValue (hno : ∀ u, s.sysTrap num false true = some u → 4 ≤ u.cls) (hr : s.pendingRead (.x xa) = false)
    (hv : s.sysValueTrap num (s.x xa) = some t) : Traps (.syswr xa num) s t := by
  have ht := sysValueTrap_cls hv
  have hval : valueTrap [none] (some t) = some t := rfl
  have hpend : firstTrap [s.sysPend num true, some t] = some t := by
    cases hp : s.sysPend num true with
    | none => rfl
    | some u => simp [firstTrap, sysPend_cls hp, ht]
  refine traps_of_guarded rfl ?_
  rw [rdX_none hr, hv, hval]
  cases hs : s.sysTrap num false true with
  | none => exact hpend
  | some u => simp only [firstTrap] at hpend ⊢; simp only [hpend, ht, if_pos (show 3 < u.cls from hno u hs)]

/-- A read and a write with nothing in their way: the register's old value and its new one are in flight. -/
theorem sysModify_inFlight {f : Word → Word → Word} (hr : s.ready [xa] xd) (hp : s.pendingWrite (.sys num) = false)
    (h : s.sysTrap num true true = none) (hv : s.sysValueTrap num (f (s.sysRead num) (s.x xa)) = none) :
    ∃ u, InFlight s (.x xd (s.sysRead num)) 2 u ∧ InFlight u (.sys num (f (s.sysRead num) (s.x xa))) 1 (sysModify f xd xa num s) := by
  refine ⟨s.putX xd (s.sysRead num) 2 false, putX_inFlight .., ?_⟩
  have hm : sysModify f xd xa num s = (s.putX xd (s.sysRead num) 2 false).enqueue (.sys num (f (s.sysRead num) (s.x xa))) 1 false := by
    unfold sysModify
    exact guarded_pass (by simp [h, hv, ready_rd hr, ready_wr hr, sysPend_none _ hp, valueTrap_none])
  rw [hm]
  exact enqueue_inFlight ..

end

/-! ## What reads back (R105) -/

/-- Register k of a channel in the PHY window (R457). -/
def Phy.word (p : Phy) (k : Fin 4) : Word :=
  match k with
  | 0 => p.ctl
  | 1 => p.rdly
  | 2 => p.wdly
  | 3 => p.repair

/-- A channel's registers. -/
def State.phyAt (s : State) (ch : Nat) : Phy := (s.phy[ch]?).getD Phy.reset

theorem phyAt_onPhy (s : State) (ch : Fin 64) (f : Phy → Phy) : (s.onPhy ch f).phyAt ch = f (s.phyAt ch) := by
  simp [State.phyAt, State.onPhy]

section
variable (s : State) {num : BitVec 12} {ch : Fin 64} {k : Fin 4} (h : num.toNat = 0xC00 + 16 * ch.val + k.val)
include h

theorem sysRead_phy : s.sysRead num = (s.phyAt ch).word k := by
  have hch : (num.toNat - 0xC00) / 16 = ch.val := by omega
  have hk : num.toNat % 16 = k.val := by omega
  unfold State.sysRead
  split
  case h_46 =>
    rw [if_neg (by simp; omega), if_neg (by simp; omega), if_pos (by omega), hch, hk]
    fin_cases k <;> rfl
  all_goals omega

theorem sysLand_phy (v : Word) : ((s.sysLand num v).phyAt ch).word k = v := by
  have hch : (num.toNat - 0xC00) / 16 = ch.val := by omega
  have hk : num.toNat % 16 = k.val := by omega
  unfold State.sysLand
  split
  case h_27 =>
    rw [if_neg (by simp; omega), if_neg (by simp; omega), if_pos (by omega), hch, hk]
    fin_cases k
    · change Phy.ctl ((if _ then _ else _ : State).phyAt _) = v
      split <;> exact congrArg Phy.ctl (phyAt_onPhy s ch fun p => { p with ctl := v })
    · exact congrArg Phy.rdly (phyAt_onPhy s ch fun p => { p with rdly := v, oldR := p.rdly, since := s.now })
    · exact congrArg Phy.wdly (phyAt_onPhy s ch fun p => { p with wdly := v, oldW := p.wdly, sinceW := s.now })
    · exact congrArg Phy.repair (phyAt_onPhy s ch fun p => { p with repair := v })
  all_goals omega

end

/-- A mask of low bits keeps the remainder. -/
theorem toNat_and_lowMask (v : Word) {n : Nat} (hn : n < 64) : (v &&& BitVec.ofNat 64 (2 ^ n - 1)).toNat = v.toNat % 2 ^ n := by
  have hlt : 2 ^ n - 1 < 2 ^ 64 := (Nat.sub_le ..).trans_lt (Nat.pow_lt_pow_right (by decide) hn)
  rw [BitVec.toNat_and, BitVec.toNat_ofNat, Nat.mod_eq_of_lt hlt, Nat.and_two_pow_sub_one_eq_mod]

/-- A mailbox word reads back. -/
theorem mbox_readBack (s : State) (v : Word) (k : Fin 16) :
    (s.sysLand (BitVec.ofNat 12 (0x010 + k.val)) v).sysRead (BitVec.ofNat 12 (0x010 + k.val)) = v := by
  have h : (BitVec.ofNat 12 (0x010 + k.val)).toNat = 0x010 + k.val := by simp only [BitVec.toNat_ofNat]; omega
  have hread : ∀ u : State, u.sysRead (BitVec.ofNat 12 (0x010 + k.val)) = u.sys.mbox[k] := by
    intro u
    unfold State.sysRead
    split
    case h_46 =>
      rw [if_pos (by simp; omega), h]
      simp
    all_goals omega
  have hland : s.sysLand (BitVec.ofNat 12 (0x010 + k.val)) v = s.onSys fun r => { r with mbox := r.mbox.setIfInBounds k v } := by
    unfold State.sysLand
    split
    case h_27 =>
      rw [if_pos (by simp; omega), h]
      simp
    all_goals omega
  rw [hread, hland]
  simp [State.onSys]

/-- Settles O17: the access code's trap and the value's are ordered by class, a silent check list puts the results in flight,
and each writable register is read where it was written. -/
theorem systemRegisters : Obligations.SystemRegisters := by
  refine ⟨fun xd xa num s hr hp => ⟨fun h => ?_, fun h hv => ?_, fun h hv => ?_, fun h hv => ?_⟩,
    fun xd xa num s h300 => ?_, fun s v => ⟨?_, ?_, mbox_readBack s v, fun ch k => ?_, rfl, rfl, rfl, rfl⟩⟩
  · refine ⟨_, congrArg Host.Outcome.next (guarded_pass ?_), putX_inFlight ..⟩
    simp [h, sysPend_none _ hp, ready_wr hr]
  · refine ⟨_, congrArg Host.Outcome.next (guarded_pass ?_), enqueue_inFlight ..⟩
    simp [h, sysPend_none _ hp, ready_rd hr, hv, valueTrap_none]
  · exact ⟨_, rfl, sysModify_inFlight (f := fun v a => v ||| a) hr hp h hv⟩
  · exact ⟨_, rfl, sysModify_inFlight (f := fun v a => v &&& ~~~a) hr hp h hv⟩
  · have hpriv : (privTrap num.toNat).cls ≤ 5 := by simp [privTrap]
    refine ⟨fun ha => ?_, fun ha => ?_, fun ha => ?_, fun ha => ?_, fun ha => ?_, fun ha => ?_, fun t ha hr hv => ?_⟩
    · have h : ∀ r w, s.sysTrap num r w = some (reservedTrap 0) := fun r w => by simp [State.sysTrap, ha]
      exact ⟨sysrd_traps (h ..) (by decide), syswr_traps (h ..) (by decide) (.inr le_rfl),
        sysset_sysclr_traps (h ..) (by decide) (.inr le_rfl)⟩
    · have h : ∀ r, s.sysTrap num r true = some (reservedTrap 0) := fun r => by simp [State.sysTrap, ha, show ¬num = 768#12 from h300]
      exact ⟨by simp [State.sysTrap, ha], syswr_traps (h ..) (by decide) (.inr le_rfl),
        sysset_sysclr_traps (h ..) (by decide) (.inr le_rfl)⟩
    · have h : ∀ r, s.seq.mode = .user → s.sysTrap num r true = some (privTrap num.toNat) := fun r hu => by
        simp [State.sysTrap, ha, hu]
      exact ⟨by simp [State.sysTrap, ha], fun hu => ⟨fun hf => syswr_traps (h _ hu) hpriv (.inl hf),
        fun hf => sysset_sysclr_traps (h _ hu) hpriv (.inl hf)⟩, fun hu => by simp [State.sysTrap, ha, hu]⟩
    · exact fun r w => by simp [State.sysTrap, ha]
    · have h : ∀ r, s.sysTrap num r true = some (reservedTrap 0) := fun r => by simp [State.sysTrap, ha, show ¬num = 768#12 from h300]
      exact ⟨fun hu => sysrd_traps (by simp [State.sysTrap, ha, hu]) hpriv, syswr_traps (h ..) (by decide) (.inr le_rfl),
        sysset_sysclr_traps (h ..) (by decide) (.inr le_rfl), fun hu => by simp [State.sysTrap, ha, hu]⟩
    · have h : ∀ r w, s.seq.mode = .user → s.sysTrap num r w = some (privTrap num.toNat) := fun r w hu => by
        simp [State.sysTrap, ha, hu]
      exact ⟨fun hu => ⟨sysrd_traps (h _ _ hu) hpriv, fun hf => syswr_traps (h _ _ hu) hpriv (.inl hf),
        fun hf => sysset_sysclr_traps (h _ _ hu) hpriv (.inl hf)⟩, fun hu r w => by simp [State.sysTrap, ha, hu]⟩
    · refine syswr_badValue (fun u hu => ?_) hr hv
      rcases ha with ha | ha | ha <;> simp [State.sysTrap, ha] at hu <;> exact (congrArg TrapReq.cls hu.2).le
  · simp only [List.forall_mem_cons]
    exact ⟨rfl, rfl, rfl, rfl, rfl, rfl, rfl, rfl, rfl, rfl, rfl, rfl, rfl, rfl, rfl, rfl, rfl, nofun⟩
  · simp only [List.forall_mem_cons]
    exact ⟨toNat_and_lowMask v (n := 35) (by decide), toNat_and_lowMask v (n := 32) (by decide),
      toNat_and_lowMask v (n := 34) (by decide), toNat_and_lowMask v (n := 32) (by decide), nofun⟩
  · have h : (BitVec.ofNat 12 (0xC00 + 16 * ch.val + k.val)).toNat = 0xC00 + 16 * ch.val + k.val := by
      simp only [BitVec.toNat_ofNat]; omega
    rw [sysRead_phy _ h, sysLand_phy _ h]

end Sys2Proof.Machine
end

section
/-! PROOF. HALT in a state with a failing row on its way (R133). -/

namespace Sys2Proof.Machine

/-- A row on its way to a write port bound to sector 0, whose arithmetic check fails. -/
def failingRow : PendingWrite := { dest := .push 0 1 0 (BitVec.allOnes 128), due := 8, issued := 0, baddr := 0x7000, slot := 3, bad := true }

/-- The sector access claimed for that row, at the end of its way of 15 hops (R16). -/
def failingClaim : Claim := { cyc := 23, sec := 0, write := true, owner := .port 0 }

/-- An untimed state with the row in flight and its port bound. -/
def failingPush : State :=
  { State.reset with
    seq := { Seq.reset with writes := [failingRow] }
    ann := { Annulus.reset with
      ports := Annulus.reset.ports.set 0 { PortState.reset with bound := true, wr := true, gen := 1 }, claims := [failingClaim] } }

/-- At a HALT the failing row is suppressed and its claim is given up (R111, log 66). -/
theorem failingPush_claims : failingPush.landAll.ann.claims = [] := by decide

/-- Refutes O25: HALT in a state with a failing row on its way to a port gives up the row's sector access, and the annulus
does not stay as it was. -/
theorem not_sequencingOperations : ¬ Obligations.SequencingOperations := by
  intro h
  obtain ⟨t, ht, -, -, -, -, -, hann, -⟩ := (h.2.2 0 failingPush (.inl rfl)).2 (.inl rfl)
  have hx : exec (.halt 0) failingPush = .next (failingPush.landAll.onSeq fun q =>
      { q with run := .halted, loops := [], xfer := none, haltSt := some 0, effect := .halt }) := rfl
  rw [hx] at ht
  injection ht with ht
  have hc : failingPush.landAll.ann.claims = [failingClaim] := by
    have := congrArg Annulus.claims hann
    rwa [← ht] at this
  rw [failingPush_claims] at hc
  cases hc

end Sys2Proof.Machine
end

section
/-! PROOF. Commands that join their station's queue or table (R72, R200, R231, R261, R358). -/

namespace Sys2Proof.Machine

theorem xAt_eq {s : State} {xa r : Reg} {k : Nat} (h : r.val = xa.val + k) : s.xAt xa k = s.x r := by
  have hr : xa.val + k < 32 := h ▸ r.isLt
  rw [State.xAt, dif_pos hr]
  exact congrArg s.x (Fin.ext h.symm)

theorem capture_captured (s : State) (u : EUnit) (e : ECtl) (op : Instr) (n : Nat) :
    Captured s (s.nextIdx u) op e n (s.capture u e op) := by
  refine ⟨rfl, rfl, fun k r _ hr => ?_, rfl, rfl, rfl, rfl, rfl, rfl, rfl, rfl, rfl⟩
  simp [State.capture, xAt_eq hr]

/-- The format entry and the tolerance are no part of what every command captures. -/
theorem Captured.withFt {s : State} {idx : BitVec 24} {op : Instr} {e : ECtl} {n : Nat} {c : Cmd} (h : Captured s idx op e n c)
    (fe : Fin 16) : Captured s idx op e n (s.withFt fe c) := h

/-- A queue that is not full takes the command (R200, R231). -/
theorem enqueueCmd_room {s : State} {u : EUnit} {c : Cmd} (hu : u ≠ .cps)
    (h : (if c.prio then (s.queues u).prio else (s.queues u).normal).length < 16) :
    s.enqueueCmd u c = s.onQueues u fun q => q.with c := by
  have hq : s.enqueueCmd u c = (s.countCmd u).onQueues u fun q =>
      if c.prio then { q with prio := q.prio ++ [c] } else { q with normal := q.normal ++ [c] } := if_neg (Nat.not_le.2 h)
  rw [hq]
  cases u with
  | cps => exact absurd rfl hu
  | _ => cases hp : c.prio <;> simp [State.countCmd, State.onQueues, State.onMx, State.onSh, State.onTm, Queues.with, hp]

/-- A command whose checks are silent joins the queue that its issue names. -/
theorem joins_of_guarded {i : Instr} {s : State} {u : EUnit} {e : ECtl} {n : Nat} {p : Cmd → Prop} {l : List (Option TrapReq)}
    {f : State → State} (c : Cmd) (hu : u ≠ .cps) (hi : exec i s = .next (s.guarded l f)) (hl : s.cmdReady e n → ∀ x ∈ l, x = none)
    (hf : f s = s.enqueueCmd u c) (hc : Captured s (s.nextIdx u) i e n c) (hp : p c) : Joins i s u e n p := by
  intro hr hroom
  have hprio : c.prio = e.q := hc.2.2.2.2.2.2.1
  have hidx : s.nextIdx u = (s.queues u).count := by
    cases u with
    | cps => exact absurd rfl hu
    | _ => rfl
  refine ⟨c, hidx ▸ hc, hp, completes_of_guarded hi (hl hr) ?_⟩
  rw [hf, enqueueCmd_room hu (by rw [hprio]; exact hroom)]

theorem cmdFault_silent {s : State} {e : ECtl} {n : Nat} (h : s.cmdReady e n) : ∀ x ∈ [s.cmdFault e n], x = none := by
  simp [cmdFault_none h le_rfl]

section
variable {i : Instr} {s : State} {u : EUnit} {e : ECtl} {n : Nat} {f : State → State}

/-- A command with no check of its own joins its queue as captured (R231, R358). -/
theorem joins_plain (hu : u ≠ .cps) (hi : exec i s = .next (s.guarded [s.cmdFault e n] f))
    (hf : f s = s.enqueueCmd u (s.capture u e i)) : Joins i s u e n fun _ => True :=
  joins_of_guarded _ hu hi cmdFault_silent hf (capture_captured ..) trivial

/-- One that names a format entry captures it with its tolerance (R206, R233). -/
theorem joins_entry (fe : Fin 16) (hu : u ≠ .cps) (hi : exec i s = .next (s.guarded [s.cmdFault e n] f))
    (hf : f s = s.enqueueCmd u (s.withFt fe (s.capture u e i))) :
    Joins i s u e n fun c => c.ft = s.mx.ft[fe] ∧ c.tau = s.mx.tol[Fin.ofNat 8 (fieldNat s.mx.ft[fe] 39 3)] :=
  joins_of_guarded _ hu hi cmdFault_silent hf ((capture_captured s u e i n).withFt fe) ⟨rfl, rfl⟩

end

/-- Bases in their groups meet the bank rule (R19, R214). -/
theorem inBank_of_parity {ga : Bool} {a b : Nat} (ha : a % 2 = if ga then 1 else 0) (hb : b % 2 = if ga then 0 else 1) :
    (!(inBank ga a && inBank (!ga) b)) = false := by
  cases ga <;> simpa [inBank] using ⟨ha, hb⟩

/-- A readable MXGO whose bases obey the bank rule joins st0's queue with its nest, its masks and its entry (R211, R214). -/
theorem mxgo_joins {s : State} {e : ECtl} {fe : Fin 16} {fmode ga zacc : Bool} {lcn : Fin 4}
    (hd : e.sinc = 0 → hasDrain s.mx.shadow = false)
    (hmask : s.pendingRead (.mask (Fin.ofNat 4 (fieldNat s.mx.shadow[9] 0 2))) = false) (hlc : s.pendingRead (.lc lcn) = false)
    (ha : fieldNat s.mx.shadow[6] 0 3 % 2 = if ga then 1 else 0) (hb : fieldNat s.mx.shadow[7] 0 3 % 2 = if ga then 0 else 1) :
    Joins (.mxgo e fe fmode lcn ga zacc) s .array e 4 fun c => c.nest = s.mx.shadow ∧
      c.mrow = s.seq.maskRow[(Fin.ofNat 4 (fieldNat s.mx.shadow[9] 0 2) : Fin 4)] ∧
      (∀ j < 128, c.mcol.getLsbD j =
        (s.seq.maskCol[(Fin.ofNat 4 (fieldNat s.mx.shadow[9] 0 2) : Fin 4)].getLsbD j != s.mx.shadow[9].getLsbD 2)) ∧
      c.ft = s.mx.ft[s.mxEntry fe fmode lcn] ∧ c.tau = s.mx.tol[Fin.ofNat 8 (fieldNat s.mx.ft[s.mxEntry fe fmode lcn] 39 3)] := by
  refine joins_of_guarded _ (by decide) rfl (fun hr => ?_) rfl
    ((capture_captured s .array e (.mxgo e fe fmode lcn ga zacc) 4).withFt (s.mxEntry fe fmode lcn)) ⟨rfl, rfl, fun j hj => ?_, rfl, rfl⟩
  · have hdrain : (e.sinc = 0 && hasDrain s.mx.shadow) = false := by simpa using hd
    have hlc' : (if fmode then s.readFault (.lc lcn) else none) = none := by simp [readFault_none hlc]
    simp only [List.forall_mem_cons]
    exact ⟨trapIf_neg _ hdrain, readFault_none hmask, hlc', cmdFault_none hr le_rfl, trapIf_neg _ (inBank_of_parity ha hb), nofun⟩
  · simp only [State.cols]
    cases s.mx.shadow[9].getLsbD 2 <;> simp [hj]

/-- A command of st5 or st6 with an entry enters the copy table (R261). -/
theorem copy_enters {i : Instr} {s : State} {e : ECtl} {timed : Cmd → Bool} {rows : Cmd → Nat} {p : Cmd → Prop}
    (hi : exec i s = .next (copyIssue e i timed rows s)) (hp : ∀ c : Cmd, c.op = i → (timed c = true ↔ p c)) (hr : s.cmdReady e 4)
    (hroom : s.cp.ents.length < 512) :
    ∃ c ent, Captured s s.cp.count i e 4 c ∧ ent.cmd = c ∧ (ent.timed = true ↔ p c) ∧ ent.rows = min (rows c) 512 ∧
      ent.start = none ∧ ent.nissue = 0 ∧ ent.nland = 0 ∧
      Completes i s (· = { s with cp := { s.cp with count := s.cp.count + 1, ents := s.cp.ents ++ [ent] } }) := by
  refine ⟨s.capture .cps e i, newEnt (s.capture .cps e i) (timed _) (rows _) s.cp.ctx s.cp.pasid, capture_captured .., rfl,
    hp _ rfl, rfl, rfl, rfl, rfl, completes_of_guarded hi (cmdFault_silent hr) ?_⟩
  rw [if_neg (Nat.not_le.2 hroom)]
  rfl

/-- Settles O35: each issue's checks are silent, the command that it captures is `capture`'s with its entry, and a queue or a
table with room takes it last. -/
theorem commandsAreQueued : Obligations.CommandsAreQueued := by
  refine ⟨fun e fe fm fm2 rnd m slot lcn b1 b2 b3 b4 b5 b6 b7 s => ?_, fun e op kind b s hr hroom => ?_⟩
  · intro any entry odd mk
    refine ⟨fun hb => ?_, joins_plain (by decide) rfl rfl, joins_entry fe (by decide) rfl rfl, fun hd hmask hlc ha hb => ?_,
      joins_entry fe (by decide) rfl rfl, joins_entry fe (by decide) rfl rfl, joins_plain (by decide) rfl rfl,
      joins_plain (by decide) rfl rfl, joins_plain (by decide) rfl rfl, joins_plain (by decide) rfl rfl,
      joins_plain (by decide) rfl rfl, joins_plain (by decide) rfl rfl, joins_plain (by decide) rfl rfl,
      joins_plain (by decide) rfl rfl, joins_plain (by decide) rfl rfl⟩
    · refine joins_of_guarded _ (by decide) rfl (fun hr => ?_) rfl ((capture_captured s .array e (.mxldb e fe b1) 2).withFt fe)
        ⟨rfl, rfl⟩
      have hbank : (!inBank (!b1) (fieldNat (s.x e.xa) 0 3)) = false := by cases b1 <;> simpa [inBank] using hb
      simp only [List.forall_mem_cons]
      exact ⟨cmdFault_none hr le_rfl, trapIf_neg _ hbank, nofun⟩
    · have hfe : Fin.ofNat 16 (if b1 then s.seq.lc[lcn].toNat + fe.val else fe.val) = s.mxEntry fe b1 lcn := by
        cases b1
        · exact Fin.ext (Nat.mod_eq_of_lt fe.isLt)
        · rfl
      rw [hfe]
      exact mxgo_joins hd hmask hlc ha hb
  · exact ⟨copy_enters rfl (fun _ _ => Iff.rfl) hr hroom, copy_enters rfl (fun _ _ => by simp) hr hroom,
      copy_enters rfl (fun _ _ => by simp) hr hroom, copy_enters rfl (fun _ _ => by simp) hr hroom,
      copy_enters rfl (fun _ _ => by simp) hr hroom, copy_enters rfl (fun _ _ => by simp) hr hroom,
      copy_enters rfl (fun _ _ => by simp) hr hroom, s.capture .cps e (.cpabn e b), capture_captured ..,
      completes_of_guarded rfl (cmdFault_silent hr) rfl⟩

end Sys2Proof.Machine
end

section
/-! PROOF. Commands that complete (R72, R226, R236, R249, R274, R359). -/

namespace Sys2Proof.Machine

/-! ## Commands that complete (R72, R226, R236, R249, R274, R359) -/

/-- A completion's signal reaches the increments of the cycle and the predecessor's outcomes only. -/
theorem cmdDone_frame (s : State) (c : Cmd) (n : Nat) : ∃ p i, s.cmdDone c n = { s with predOut := p, incs := i } := by
  unfold State.cmdDone State.signalCmd
  split
  · exact ⟨_, s.incs, rfl⟩
  · split
    · exact ⟨s.predOut, s.incs, rfl⟩
    · exact ⟨s.predOut, _, rfl⟩

/-- What the station changes beside the increments does not bear on the signal. -/
theorem cmdDone_signals {s u : State} (h : u.incs = s.incs) (c : Cmd) (n : Nat) : Signals s c n (u.cmdDone c n) := by
  refine ⟨fun hc => ?_, fun hp hs => ?_⟩
  · rcases hc with hc | hc
    · simpa [State.cmdDone, State.signalCmd, hc, State.notePred] using h
    · cases hp : c.pred <;> simpa [State.cmdDone, State.signalCmd, hp, hc, State.notePred] using h
  · simp only [State.cmdDone, State.signalCmd, hp, hs, State.signal, h, Bool.false_eq_true, if_false]
    exact ⟨_, rfl, rfl, rfl⟩

/-- An operation that frees a unit or an entry leaves the increments of the cycle. -/
theorem Signals.congr {s t u : State} {c : Cmd} {n : Nat} (h : Signals s c n u) (hi : t.incs = u.incs) : Signals s c n t := by
  obtain ⟨hquiet, hloud⟩ := h
  exact ⟨fun hc => hi.trans (hquiet hc), fun hp hs => hi ▸ hloud hp hs⟩

/-- Neither the core nor the increments of the cycle differ. -/
def Quiet (s t : State) : Prop := SameCore s t ∧ t.incs = s.incs

/-- A command that signals from a station's state `u`, after which its unit is freed, ends: what it says of the stations is said
of any state with those of `u`. -/
theorem ends_of {i : Instr} {s u : State} {c : Cmd} {n : Nat} {drop : State → State} {p : State → Prop}
    (he : exec i s = .next (drop (u.cmdDone c n))) (hu : Quiet s u) (hd : ∀ v, Quiet v (drop v))
    (hp : ∀ v : State, v.mx = u.mx → v.sh = u.sh → v.tm = u.tm → p (drop v)) :
    Completes i s fun t => Signals s c n t ∧ SameCore s t ∧ p t := by
  obtain ⟨⟨hseq, hann, hsems, hsys⟩, hincs⟩ := hd (u.cmdDone c n)
  obtain ⟨⟨hseq', hann', hsems', hsys'⟩, hincs'⟩ := hu
  refine ⟨_, he, (cmdDone_signals hincs' c n).congr hincs, ?_, ?_⟩
  · obtain ⟨o, l, hf⟩ := cmdDone_frame u c n
    rw [hf] at hseq hann hsems hsys ⊢
    exact ⟨hseq.trans hseq', hann.trans hann', hsems.trans hsems', hsys.trans hsys'⟩
  · obtain ⟨o, l, hf⟩ := cmdDone_frame u c n
    rw [hf]
    exact hp _ rfl rfl rfl

theorem Quiet.refl (s : State) : Quiet s s := ⟨⟨rfl, rfl, rfl, rfl⟩, rfl⟩

theorem zeroAcc_quiet (s : State) (a0 a1 : Bool) : Quiet s (s.zeroAcc a0 a1) := Quiet.refl s

theorem dropArray_quiet (s : State) : Quiet s s.dropArray := Quiet.refl s

theorem dropDrain_quiet (s : State) : Quiet s s.dropDrain := Quiet.refl s

@[simp] theorem zeroAcc_acc0 (s : State) (a0 a1 : Bool) : (s.zeroAcc a0 a1).mx.acc0 = if a0 then Acc.zero else s.mx.acc0 := rfl

@[simp] theorem zeroAcc_acc1 (s : State) (a0 a1 : Bool) : (s.zeroAcc a0 a1).mx.acc1 = if a1 then Acc.zero else s.mx.acc1 := rfl

@[simp] theorem dropArray_array (s : State) : s.dropArray.mx.array = none := rfl

@[simp] theorem dropArray_acc0 (s : State) : s.dropArray.mx.acc0 = s.mx.acc0 := rfl

@[simp] theorem dropArray_acc1 (s : State) : s.dropArray.mx.acc1 = s.mx.acc1 := rfl

@[simp] theorem dropArray_bbuf (s : State) : s.dropArray.mx.bbuf = s.mx.bbuf := rfl

@[simp] theorem dropDrain_drain (s : State) : s.dropDrain.mx.drain = none := rfl

@[simp] theorem dropDrain_zero (s : State) : s.dropDrain.mx.zero = none := rfl

@[simp] theorem dropDrain_acc0 (s : State) : s.dropDrain.mx.acc0 = s.mx.acc0 := rfl

@[simp] theorem dropDrain_acc1 (s : State) : s.dropDrain.mx.acc1 = s.mx.acc1 := rfl

theorem freeShape_quiet (u : EUnit) (s : State) : Quiet s (s.freeShape u) := by
  cases u <;> exact Quiet.refl s

/-! ### The matrix station -/

theorem completion_array {s : State} {r : ArrayRun} (h : s.mx.array = some r) :
    exec (.commandCompletion .array r.cmd.idx) s = .next (s.endArray r) := by
  show execCommandCompletion .array r.cmd.idx s = _
  simp [execCommandCompletion, h]

theorem completion_zero {s : State} {c : Cmd} (h : s.mx.zero = some c) :
    exec (.commandCompletion .drain c.idx) s = .next (s.endDrain c) := by
  show execCommandCompletion .drain c.idx s = _
  simp [execCommandCompletion, h]

theorem completion_drain {s : State} {d : DrainRun} (hz : s.mx.zero = none) (h : s.mx.drain = some d) :
    exec (.commandCompletion .drain d.cmd.idx) s = .next (s.endDrain d.cmd) := by
  show execCommandCompletion .drain d.cmd.idx s = _
  simp [execCommandCompletion, hz, h]

/-- An MXLDB's tile passes its checks (R218). -/
theorem endMxldb_passes {s : State} {r : ArrayRun} (hz : hdrZero (r.bufB.headD 0) = true)
    (hcode : (hdrOf (r.bufB.headD 0)).code = r.cmd.fb.code) (hor : r.cmd.fb.isBlock = true → (hdrOf (r.bufB.headD 0)).orient = true)
    (hm : tileMalformed r.cmd.fb (hdrOf (r.bufB.headD 0)) = false)
    (ht : r.cmd.xs[1].getLsbD 16 = true → (hdrOf (r.bufB.headD 0)).tag = bitsOf r.cmd.xs[1] 0 16) :
    s.endMxldb r = ((s.onMx fun m => { m with bbuf := some { sec := r.bAt.1, row := r.bAt.2, rows := r.bufB } }).cmdDone r.cmd 0).dropArray := by
  unfold State.endMxldb
  dsimp only
  generalize r.bufB.headD 0 = h at *
  have hhdr : (!hdrZero h || (hdrOf h).code ≠ r.cmd.fb.code || r.cmd.fb.isBlock && !(hdrOf h).orient) = false := by
    simpa [hz, hcode] using hor
  have htag : (r.cmd.xs[1].getLsbD 16 && (hdrOf h).tag != bitsOf r.cmd.xs[1] 0 16) = false := by
    simpa using ht
  rw [hhdr, htag, hm]
  rfl

/-! ### The shaping stations -/

theorem completion_shape {s : State} {u : EUnit} {g : ShapeRun} (hu : u ∈ [EUnit.tis, .cvs, .trs]) (h : s.shapeOf u = some g) :
    exec (.commandCompletion u g.cmd.idx) s = .next (s.endShape u g) := by
  show execCommandCompletion u g.cmd.idx s = _
  simp only [List.mem_cons, List.not_mem_nil, or_false] at hu
  rcases hu with rfl | rfl | rfl <;> simp [execCommandCompletion, h]

theorem freeShape_shapeOf {u : EUnit} (hu : u ∈ [EUnit.tis, .cvs, .trs]) (s : State) : (s.freeShape u).shapeOf u = none := by
  simp only [List.mem_cons, List.not_mem_nil, or_false] at hu
  rcases hu with rfl | rfl | rfl <;> rfl

/-- Freeing a unit leaves the table slots. -/
theorem freeShape_slots (u : EUnit) (s : State) : (s.freeShape u).sh.slots = s.sh.slots := by
  cases u <;> rfl

theorem endShape_other {s : State} {u : EUnit} {g : ShapeRun} (h : ∀ e k, g.cmd.op ≠ .tbld e k) :
    s.endShape u g = (s.cmdDone g.cmd g.bytes).freeShape u := by
  unfold State.endShape
  split
  · next heq => exact absurd heq (h _ _)
  · rfl

/-- A TBLD with a well-formed image fills its slot (R249). -/
theorem endShape_table {s : State} {u : EUnit} {g : ShapeRun} {ec : ECtl} {slot : Fin 4} {tab : TableSlot} (hop : g.cmd.op = .tbld ec slot)
    (h : tableOf g.rows = some tab) : s.endShape u g = ((s.onSh fun h => { h with
      slots := h.slots.set slot (some tab), tblBad := h.tblBad.filter fun p => p.1 ≠ slot.val,
      tblFlaw := h.tblFlaw.filter fun p => p.1 ≠ slot.val }).cmdDone g.cmd 0).freeShape u := by
  simp [State.endShape, hop, h]

/-! ### st5 and st6 -/

/-- Freeing an entry changes the entries, the accesses claimed and the agenda. -/
theorem dropCopy_frame (s : State) (idx : BitVec 24) : ∃ l claims, s.dropCopy idx = { s with
    agenda := l, ann := { s.ann with claims := claims },
    cp := { s.cp with ents := s.cp.ents.filter fun e => e.cmd.idx ≠ idx } } := by
  obtain ⟨l, hl⟩ : OnlyPlans _ (s.dropCopy idx) := OnlyPlans.foldl _ (fun _ _ h => (h.plan ..).ite h) (OnlyPlans.refl _)
  exact ⟨l, _, hl⟩

theorem dropCopy_ent (s : State) (idx : BitVec 24) : (s.dropCopy idx).ent idx = none := by
  obtain ⟨l, claims, h⟩ := dropCopy_frame s idx
  rw [h]
  simp [State.ent]

/-- The entry of a copy is freed with what its command has made of the increments and failures. -/
theorem endsCopy {i : Instr} {s u : State} {idx : BitVec 24} {p : State → Prop} (he : exec i s = .next (u.dropCopy idx))
    (hseq : u.seq = s.seq) (hann : u.ann = s.ann) (hp : ∀ v : State, v.incs = u.incs → v.fails = u.fails → p v) :
    Completes i s fun t => p t ∧ t.ent idx = none ∧ t.seq = s.seq ∧ t.ann.mem = s.ann.mem := by
  refine ⟨_, he, ?_, dropCopy_ent u idx, ?_, ?_⟩ <;> obtain ⟨l, claims, h⟩ := dropCopy_frame u idx <;> rw [h]
  · exact hp _ rfl rfl
  · exact hseq
  · show u.ann.mem = s.ann.mem
    rw [hann]

section
variable {s : State} {en : CopyEnt} (h : s.ent en.cmd.idx = some en) (hs : en.stoppable = true) (hpark : en.park = none)
  (ha : s.cp.abns = [])
include h hs hpark ha

/-- A stoppable entry is a copy's: without a verdict it signals the bytes that it moved (R72, R274). -/
theorem completion_copy (hv : s.copyVerdict en = none) : exec (.commandCompletion .cps en.cmd.idx) s =
    .next ((s.cmdDone en.cmd (512 * en.rows)).dropCopy en.cmd.idx) := by
  refine congrArg Host.Outcome.next (show s.endCopy _ = _ from ?_)
  simp only [State.endCopy, ha, List.find?_nil, h, CopyEnt.parked, hpark, Option.isSome_none, Bool.false_eq_true, if_false, hv]
  split
  · next heq => simp [CopyEnt.stoppable, heq] at hs
  · next heq => simp [CopyEnt.stoppable, heq] at hs
  · rfl

/-- With a verdict it fails (R272, R273, R275). -/
theorem completion_copyFails {v : Nat × Nat} (hv : s.copyVerdict en = some v) : exec (.commandCompletion .cps en.cmd.idx) s =
    .next ((s.cmdFails .cps en.cmd v.1 v.2).dropCopy en.cmd.idx) := by
  refine congrArg Host.Outcome.next (show s.endCopy _ = _ from ?_)
  simp only [State.endCopy, ha, List.find?_nil, h, CopyEnt.parked, hpark, Option.isSome_none, Bool.false_eq_true, if_false, hv]
  split
  · next heq => simp [CopyEnt.stoppable, heq] at hs
  · next heq => simp [CopyEnt.stoppable, heq] at hs
  · simp only [State.copyFails, h]

end

/-- A step's entry is freed with its signal (R359). -/
theorem completion_coll {s : State} {c : Cmd} {n : Nat} (h : s.tm.sent = [(c, n)]) :
    exec (.commandCompletion .cls c.idx) s = .next ((s.onTm fun m => { m with sent := m.sent.erase (c, n) }).cmdDone c (512 * n)) := by
  show execCommandCompletion .cls c.idx s = _
  simp [execCommandCompletion, State.endColl, h]

/-- Settles O44: the running command's end is a signal from the station's new state and the unit's release, which leave the
rest; of a copy, the entry's release after its signal or its failure. -/
theorem commandsComplete : Obligations.CommandsComplete := by
  intro r g u cz d en ec f slot l b0 b1 b2 s ends kept h
  refine ⟨fun hr => ⟨fun hop hnext hdrain hfree => ?_, fun hop => ?_, fun hop => ?_, fun hop hz hcode hor hm ht => ?_⟩,
    fun hz hop => ?_, fun hz hd hop => ?_, fun hu hg => ⟨fun hop => ?_, fun tab hop htab => ?_⟩,
    fun hent hs hpark habn => ⟨fun hv => ?_, fun v hv hsig => ?_⟩, fun c n hsent => ?_⟩
  · have he : s.endArray r = (s.cmdDone r.cmd r.bytes).dropArray := by
      simp [State.endArray, hop, hnext, hdrain, Nat.not_lt.2 hfree]
    exact ends_of (he ▸ completion_array hr) (.refl s) dropArray_quiet fun v hv _ _ => ⟨rfl, by simp [hv], by simp [hv]⟩
  · have he : s.endArray r = ((s.zeroAcc b0 b1).cmdDone r.cmd 0).dropArray := by simp [State.endArray, hop]
    exact ends_of (he ▸ completion_array hr) (zeroAcc_quiet ..) dropArray_quiet fun v hv _ _ => by simp [hv]
  · have he : s.endArray r = ((s.zeroAcc (!b0) false).cmdDone r.cmd (512 * tileRows r.cmd.fd)).dropArray := by
      simp [State.endArray, hop]
    exact ends_of (he ▸ completion_array hr) (zeroAcc_quiet ..) dropArray_quiet fun v hv _ _ => by cases b0 <;> simp [hv]
  · have hmx : s.endArray r = s.endMxldb r := by simp [State.endArray, hop]
    have he := completion_array hr
    rw [hmx, endMxldb_passes hz hcode hor hm ht] at he
    exact ends_of he (.refl s) dropArray_quiet fun v hv _ _ => by simp [hv, kept, State.onMx]
  · have he : s.endDrain cz = ((s.zeroAcc false true).cmdDone cz 0).dropDrain := by simp [State.endDrain, hop]
    exact ends_of (he ▸ completion_zero hz) (zeroAcc_quiet ..) dropDrain_quiet fun v hv _ _ => by simp [hv]
  · have he : s.endDrain d.cmd = ((s.zeroAcc false (!b0)).cmdDone d.cmd (512 * tileRows d.cmd.fd)).dropDrain := by
      simp [State.endDrain, hop]
    exact ends_of (he ▸ completion_drain hz hd) (zeroAcc_quiet ..) dropDrain_quiet fun v hv _ _ => by cases b0 <;> simp [hv]
  · exact ends_of (endShape_other hop ▸ completion_shape hu hg) (.refl s) (freeShape_quiet u) fun v _ _ _ => freeShape_shapeOf hu v
  · have he := completion_shape hu hg
    rw [endShape_table hop htab] at he
    refine ends_of he (.refl s) (freeShape_quiet u) fun v _ hsh _ => ⟨freeShape_shapeOf hu v, ?_⟩
    rw [freeShape_slots, hsh]
    exact ⟨by simp [State.onSh], fun k hk => by simp [State.onSh, Fin.val_ne_of_ne (Ne.symm hk)]⟩
  · obtain ⟨o, l, hf⟩ := cmdDone_frame s en.cmd (512 * en.rows)
    exact endsCopy (completion_copy hent hs hpark habn hv) (by rw [hf]) (by rw [hf]) fun v hi _ => (cmdDone_signals rfl _ _).congr hi
  · obtain ⟨hsinc, hpred⟩ := hsig
    have hf : s.cmdFails .cps en.cmd v.1 v.2 = _ := (if_neg hsinc).trans (failCmd_signalling s hsinc hpred _ _)
    exact endsCopy (completion_copyFails hent hs hpark habn hv) (by rw [hf]) (by rw [hf]) fun v' _ hi => hi.trans (by rw [hf])
  · refine ends_of (drop := id) (completion_coll hsent) (.refl s) .refl fun v _ _ htm => ?_
    simp [htm, State.onTm, hsent]

end Sys2Proof.Machine
end

section
/-! PROOF. Every check's trap has a class, the illegal code units' or a later one (R76). -/

namespace Sys2Proof.Machine

/-! ## Every trap of a check has a class (R76) -/

/-- A trap that a check raises is of no class before that of the illegal code units, which is 1 (R76). -/
structure Classed (c : Option TrapReq) : Prop where
  ne_zero : ∀ u, c = some u → u.cls ≠ 0

theorem Classed.none : Classed none := ⟨nofun⟩

theorem Classed.some {t : TrapReq} (h : t.cls ≠ 0) : Classed (some t) := ⟨fun _ hu => Option.some.inj hu ▸ h⟩

theorem Classed.ite {p : Prop} [Decidable p] {a b : Option TrapReq} (ha : Classed a) (hb : Classed b) : Classed (if p then a else b) := by
  split
  · exact ha
  · exact hb

theorem Classed.trapIf {b : Bool} {t : TrapReq} (h : t.cls ≠ 0) : Classed (trapIf b t) := Classed.ite (.some h) .none

theorem Classed.firstTrap {l : List (Option TrapReq)} (h : ∀ c ∈ l, Classed c) : Classed (firstTrap l) :=
  ⟨fun _ hu => (h _ (firstTrap_mem hu)).ne_zero _ rfl⟩

theorem Classed.valueTrap {l : List (Option TrapReq)} {c : Option TrapReq} (h : Classed c) : Classed (valueTrap l c) :=
  Classed.ite h .none

theorem Classed.findSome {l : List (Option TrapReq)} (h : ∀ c ∈ l, Classed c) : Classed (l.findSome? id) := by
  refine ⟨fun u hu => ?_⟩
  obtain ⟨c, hc, hcu⟩ := List.exists_of_findSome?_eq_some hu
  exact (h c hc).ne_zero u hcu

theorem Key.fault_classed (k : Key) : k.fault.cls ≠ 0 := by simp [keyFault_cls]

section
variable (s : State)

theorem readFault_classed (k : Key) : Classed (s.readFault k) := Classed.ite (.some k.fault_classed) .none

theorem writeFault_classed (k : Key) : Classed (s.writeFault k) := Classed.ite (.some k.fault_classed) .none

theorem rdX_classed (r : Reg) : Classed (s.rdX r) := readFault_classed s _

theorem wrX_classed (r : Reg) : Classed (s.wrX r) := writeFault_classed s _

theorem nearEnd_classed : Classed s.nearEnd := ⟨fun _ h => by simp [nearEnd_cls h]⟩

theorem secFault_classed (sec : Fin 8) : Classed (s.secFault sec) := .trapIf (by simp [localFault])

theorem claimFault_classed (sec : Fin 8) (row cyc : Nat) (write : Bool) (stn : Nat) : Classed (s.claimFault sec row cyc write stn) := by
  refine Classed.ite (.some (by simp [sectorFault])) (Classed.ite .none ⟨fun u hu => ?_⟩)
  obtain ⟨n, -, rfl⟩ := Option.map_eq_some_iff.1 hu
  simp [overlapFault]

theorem localTrap_classed (op a n : Nat) (write : Bool) : Classed (s.localTrap op a n write) := by
  refine .findSome ?_
  simp only [List.forall_mem_cons]
  exact ⟨.trapIf (by simp [localFault]), .trapIf (by simp), .trapIf (by simp [privTrap]), .trapIf (by simp [localFault]),
    claimFault_classed s _ _ _ _ _, nofun⟩

theorem prefetchFault_classed (p : PortState) : Classed (s.prefetchFault p) := by
  unfold State.prefetchFault
  refine Classed.ite .none ?_
  split
  · next t h => exact .some ((secFault_classed s _).ne_zero _ h)
  · refine .firstTrap fun c hc => ?_
    obtain ⟨i, -, rfl⟩ := List.mem_map.1 hc
    exact claimFault_classed s _ _ _ _ _

theorem laneTrap_classed (u : LaneUse) : Classed (s.laneTrap u) := .trapIf (by simp [laneFault])

theorem cmdFault_classed (e : ECtl) (n : Nat) : Classed (s.cmdFault e n) := by
  refine .firstTrap fun c hc => ?_
  rcases List.mem_cons.1 hc with rfl | hc
  · exact rdX_classed s _
  · obtain ⟨k, -, rfl⟩ := List.mem_map.1 hc
    split
    · exact rdX_classed s _
    · exact .none

theorem sysTrap_classed (num : BitVec 12) (rd wr : Bool) : Classed (s.sysTrap num rd wr) := by
  unfold State.sysTrap
  dsimp only
  split
  · exact .some (by simp [reservedTrap])
  · exact Classed.ite (.some (by simp [reservedTrap])) (Classed.ite (.some (by simp [privTrap])) .none)

theorem sysPend_classed (num : BitVec 12) (wr : Bool) : Classed (s.sysPend num wr) := ⟨fun _ h => by simp [sysPend_cls h]⟩

theorem sysValueTrap_classed (num : BitVec 12) (v : Word) : Classed (s.sysValueTrap num v) := ⟨fun _ h => by simp [sysValueTrap_cls h]⟩

theorem lexitTrap_classed : Classed s.lexitTrap := ⟨fun _ h => by simp [lexitTrap_cls h]⟩

theorem loopEndBad_classed (stop : BitVec 15) : Classed (s.loopEndBad stop) := .trapIf (by simp)

theorem loopTrap_classed (n : Fin 4) (t : Nat) (stop : BitVec 15) : Classed (s.loopTrap n t stop) := .trapIf (by simp [loopFault])

theorem safeTrap_classed (cp : Option (Fin 256)) : Classed (s.safeTrap cp) := by
  refine .firstTrap ?_
  simp only [List.forall_mem_cons]
  exact ⟨.trapIf (by simp [schedFault]), .trapIf (by simp [schedFault]), .trapIf (by simp [schedFault]),
    .trapIf (by simp [schedFault]), nofun⟩

theorem segendTrap_classed (g : Segment) : Classed (s.segendTrap g) := by
  refine .firstTrap ?_
  simp only [List.forall_mem_cons]
  exact ⟨.trapIf (by simp [schedFault]), .trapIf (by simp), nofun⟩

end

/-! ## What a slot's operation leaves of the trap noted -/

/-- The trap that a slot has taken, if any, is of no class before that of the illegal code units. -/
structure State.ranked (t : State) : Prop where
  ne_zero : ∀ r, t.seq.tookTrap = some r → r.1 ≠ 0

/-- An outcome's state is so ranked. -/
structure Ranked (o : Out) : Prop where
  ranked : ∀ t, o = .next t → t.ranked

theorem Ranked.next {t : State} (h : t.ranked) : Ranked (.next t) := ⟨fun _ hu => Host.Outcome.next.inj hu ▸ h⟩

theorem State.ranked.congr {s t : State} (h : s.ranked) (ht : t.seq.tookTrap = s.seq.tookTrap) : t.ranked :=
  ⟨fun r hr => h.ne_zero r (ht.symm.trans hr)⟩

theorem takeTrap_ranked (s : State) {t : TrapReq} (h : t.cls ≠ 0) : (s.takeTrap t).ranked := by
  refine ⟨fun r hr => ?_⟩
  obtain rfl := Option.some.inj hr
  exact h

theorem guarded_ranked {s : State} {l : List (Option TrapReq)} {f : State → State} (h : s.ranked) (hl : ∀ c ∈ l, Classed c)
    (hf : (f s).seq.tookTrap = s.seq.tookTrap) : (s.guarded l f).ranked := by
  unfold State.guarded
  split
  · next t ht => exact takeTrap_ranked s ((Classed.firstTrap hl).ne_zero t ht)
  · exact h.congr hf

end Sys2Proof.Machine
end

section
/-! PROOF. What the operations of the ctl, scalar, eng and lane slots leave of the trap that a slot has noted (R76). -/

namespace Sys2Proof.Machine

section
variable {s : State}

theorem tookTrap_ite {c : Prop} [Decidable c] {a b : State} (ha : a.seq.tookTrap = s.seq.tookTrap)
    (hb : b.seq.tookTrap = s.seq.tookTrap) : (if c then a else b).seq.tookTrap = s.seq.tookTrap := by
  split
  · exact ha
  · exact hb

/-- A hardware change of a system register notes no trap. -/
theorem hwSys_tookTrap (s : State) (num : BitVec 12) (get : State → Word) (f : Word → Word) :
    (s.hwSys num get f).seq.tookTrap = s.seq.tookTrap := by
  obtain ⟨hseq, -⟩ := sysLand_frame s num (f (get s))
  show (s.sysLand num (f (get s))).seq.tookTrap = _
  rw [hseq]

theorem landDest_tookTrap (s : State) (d : Dest) : (s.landDest d).seq.tookTrap = s.seq.tookTrap := by
  cases d with
  | x r v =>
    simp only [State.landDest, State.setX]
    split <;> rfl
  | sys n v =>
    obtain ⟨hseq, -⟩ := sysLand_frame s n v
    exact congrArg Seq.tookTrap hseq
  | _ => rfl

theorem unpush_tookTrap (s : State) (w : PendingWrite) : (s.unpush w).seq.tookTrap = s.seq.tookTrap := by
  unfold State.unpush
  split
  · split <;> rfl
  · rfl

theorem noteCheck_tookTrap (s : State) (w : PendingWrite) : (s.noteCheck w).seq.tookTrap = s.seq.tookTrap := by
  unfold State.noteCheck
  dsimp only
  split
  · exact (hwSys_tookTrap ..).trans (hwSys_tookTrap ..)
  · exact hwSys_tookTrap ..

/-- Steps that each leave a part leave it together. -/
theorem foldl_keeps {α β : Type} {f : State → α → State} {g : State → β} (h : ∀ u a, g (f u a) = g u) (l : List α) (s : State) :
    g (l.foldl f s) = g s := by
  induction l generalizing s with
  | nil => rfl
  | cons a l ih => exact (ih _).trans (h s a)

theorem landAll_tookTrap (s : State) : s.landAll.seq.tookTrap = s.seq.tookTrap := by
  unfold State.landAll
  refine (foldl_keeps (g := fun u => u.seq.tookTrap) noteCheck_tookTrap ..).trans ?_
  exact (foldl_keeps (g := fun u => u.seq.tookTrap) (fun u (w : PendingWrite) => landDest_tookTrap u w.dest) ..).trans
    (foldl_keeps (g := fun u => u.seq.tookTrap) unpush_tookTrap ..)

/-! ### Engine commands -/

theorem cmdFails_tookTrap (s : State) (u : EUnit) (c : Cmd) (code detail : Nat) :
    (s.cmdFails u c code detail).seq.tookTrap = s.seq.tookTrap := by
  have hrec : (s.recordFail u c code).seq.tookTrap = s.seq.tookTrap := by
    cases u with
    | array | drain | cls => rfl
    | tis | cvs | trs | cps => exact hwSys_tookTrap ..
  exact tookTrap_ite (tookTrap_ite hrec hrec) (tookTrap_ite rfl (tookTrap_ite rfl rfl))

theorem plainFail_tookTrap (s : State) (u : EUnit) (c : Cmd) (code : Nat) : (s.plainFail u c code).seq.tookTrap = s.seq.tookTrap := by
  obtain ⟨-, hseq, -⟩ := spoilTable_frame s c
  exact (cmdFails_tookTrap ..).trans (congrArg Seq.tookTrap hseq)

theorem countCmd_tookTrap (s : State) (u : EUnit) : (s.countCmd u).seq.tookTrap = s.seq.tookTrap := by
  obtain ⟨-, hseq, -⟩ := countCmd_frame s u
  exact congrArg Seq.tookTrap hseq

theorem enqueueCmd_tookTrap (s : State) (u : EUnit) (c : Cmd) : (s.enqueueCmd u c).seq.tookTrap = s.seq.tookTrap := by
  have hq : ∀ f, ((s.countCmd u).onQueues u f).seq.tookTrap = (s.countCmd u).seq.tookTrap := fun f => by cases u <;> rfl
  exact tookTrap_ite ((plainFail_tookTrap ..).trans (countCmd_tookTrap ..)) ((hq _).trans (countCmd_tookTrap s u))

theorem abandonArray_tookTrap (s : State) : s.abandonArray.seq.tookTrap = s.seq.tookTrap := by
  unfold State.abandonArray
  split
  · exact plainFail_tookTrap ..
  · rfl

theorem abandonDrain_tookTrap (s : State) : s.abandonDrain.seq.tookTrap = s.seq.tookTrap := by
  unfold State.abandonDrain
  split
  · exact tookTrap_ite (abandonArray_tookTrap s) (plainFail_tookTrap ..)
  · split
    · exact tookTrap_ite (abandonArray_tookTrap s) (plainFail_tookTrap ..)
    · rfl

/-- MXABN gives up commands, and takes no trap. -/
theorem mxabn_ranked (h : s.ranked) (a d : Bool) : Ranked (execMxabn a d s) := by
  have hgone : ∀ (l : List Cmd) (f : Matrix → Matrix),
      ((l.foldl (fun u c => u.abandoned c) (s.countCmd .array)).onMx f).seq.tookTrap = s.seq.tookTrap := fun l _ =>
    foldl_keeps (g := fun u => u.seq.tookTrap) (fun u c => plainFail_tookTrap u _ c _) l _
  have harray : ∀ v : State, v.seq.tookTrap = s.seq.tookTrap → (if a then v.abandonArray else v).seq.tookTrap = s.seq.tookTrap :=
    fun v hv => tookTrap_ite ((abandonArray_tookTrap v).trans hv) hv
  have hdrain : ∀ v : State, v.seq.tookTrap = s.seq.tookTrap → (if d then v.abandonDrain else v).seq.tookTrap = s.seq.tookTrap :=
    fun v hv => tookTrap_ite ((abandonDrain_tookTrap v).trans hv) hv
  have hzero : ∀ (v : State) (f : Matrix → Matrix), v.seq.tookTrap = s.seq.tookTrap →
      (if a then v.onMx f else v).seq.tookTrap = s.seq.tookTrap := fun v f hv => tookTrap_ite hv hv
  exact .next (h.congr (hzero _ _ (hdrain _ (harray _ (hgone _ _)))))

theorem shapeIssue_ranked (h : s.ranked) (u : EUnit) (e : ECtl) (op : Instr) (fe : Option (Fin 16)) :
    (shapeIssue u e op fe s).ranked :=
  guarded_ranked h (by simpa using cmdFault_classed s e 4) (enqueueCmd_tookTrap ..)

theorem collIssue_ranked (h : s.ranked) (e : ECtl) (op : Instr) : (collIssue e op s).ranked :=
  guarded_ranked h (by simpa using cmdFault_classed s e 4) (enqueueCmd_tookTrap ..)

theorem copyIssue_ranked (h : s.ranked) (e : ECtl) (op : Instr) (timed : Cmd → Bool) (rows : Cmd → Nat) :
    (copyIssue e op timed rows s).ranked := by
  exact guarded_ranked h (by simpa using cmdFault_classed s e 4) (tookTrap_ite ((plainFail_tookTrap ..).trans (countCmd_tookTrap s .cps)) rfl)

/-! ### Scalar operations -/

theorem srOp_ranked (h : s.ranked) (lat : Nat) (b : Bool) (f : Word → Word → Word) (xd xa xb : Reg) : (srOp lat b f xd xa xb s).ranked :=
  guarded_ranked h (by simp [rdX_classed, wrX_classed]) rfl

theorem srOp1_ranked (h : s.ranked) (lat : Nat) (b : Bool) (f : Word → Word) (xd xa : Reg) : (srOp1 lat b f xd xa s).ranked :=
  guarded_ranked h (by simp [rdX_classed, wrX_classed]) rfl

theorem fpOp2_ranked (h : s.ranked) (lat : Nat) (b : Bool) (f : Nat → Nat → Word) (xd xa xb : Reg) : (fpOp2 lat b f xd xa xb s).ranked :=
  guarded_ranked h (by simp [rdX_classed, wrX_classed]) rfl

theorem fpOp1_ranked (h : s.ranked) (lat : Nat) (b : Bool) (f : Nat → Word) (xd xa : Reg) : (fpOp1 lat b f xd xa s).ranked :=
  guarded_ranked h (by simp [rdX_classed, wrX_classed]) rfl

theorem loadOp_ranked (h : s.ranked) (op n : Nat) (signed : Bool) (xd xa : Reg) (imm : BitVec 46) :
    (loadOp op n signed xd xa imm s).ranked := by
  unfold loadOp
  refine guarded_ranked h ?_ (tookTrap_ite (a := s) (b := s.countEcc _ 1) rfl rfl)
  simp only [List.forall_mem_cons]
  exact ⟨rdX_classed s _, wrX_classed s _, (localTrap_classed ..).valueTrap, nofun⟩

theorem storeOp_ranked (h : s.ranked) (op n : Nat) (xd xa : Reg) (imm : BitVec 46) : (storeOp op n xd xa imm s).ranked := by
  unfold storeOp
  refine guarded_ranked h ?_ rfl
  simp only [List.forall_mem_cons]
  exact ⟨rdX_classed s _, rdX_classed s _, (localTrap_classed ..).valueTrap, nofun⟩

theorem sysModify_ranked (h : s.ranked) (f : Word → Word → Word) (xd xa : Reg) (num : BitVec 12) : (sysModify f xd xa num s).ranked := by
  unfold sysModify
  refine guarded_ranked h ?_ rfl
  simp only [List.forall_mem_cons]
  exact ⟨sysTrap_classed .., rdX_classed s _, sysPend_classed .., sysPend_classed .., wrX_classed s _,
    (sysValueTrap_classed ..).valueTrap, nofun⟩

/-! ### Ports and control -/

theorem startPrefetch_tookTrap (s : State) (q : Fin 8) : (s.startPrefetch q).seq.tookTrap = s.seq.tookTrap := by
  unfold State.startPrefetch
  exact foldl_keeps (g := fun u : State => u.seq.tookTrap) (f := fun u i => (u.claim _ (s.now + 1 + i) false (.port q)).plan _ _ _)
    (fun _ _ => rfl) _ _

theorem branchOp_ranked (h : s.ranked) (cond : Word → Word → Bool) (xa xb : Reg) (target : BitVec 15) :
    (branchOp cond xa xb target s).ranked :=
  guarded_ranked h (by simp [rdX_classed, nearEnd_classed]) rfl

theorem callOp_ranked (h : s.ranked) {checks : List (Option TrapReq)} (hc : ∀ c ∈ checks, Classed c) (v : Word) :
    (callOp checks v s).ranked :=
  guarded_ranked h (fun c hm => (List.mem_append.1 hm).elim (hc c) fun hm => by
    have : ∀ c ∈ [s.wrX 30, s.nearEnd], Classed c := by simp [wrX_classed, nearEnd_classed]
    exact this c hm) rfl

/-- A boundary's beginning takes no trap; what it is turned away with is of a class. -/
theorem segend_ranked (h : s.ranked) (seg : BitVec 16) (count : BitVec 21) : Ranked (execSegend seg count s) := by
  have hz : s.resetPorts.seq.tookTrap = s.seq.tookTrap := by
    obtain ⟨a, l, hp⟩ := resetPorts_onlySectors s
    rw [hp]
  unfold execSegend
  split
  · exact .next (takeTrap_ranked s (by decide))
  · exact .next (takeTrap_ranked s (by simp [reservedTrap]))
  · split
    · exact .next (h.congr rfl)
    · split
      · exact .next (takeTrap_ranked s (by simp))
      · refine .next (guarded_ranked h (by simp [segendTrap_classed]) ?_)
        unfold State.boundaryZero
        generalize s.resetPorts = p at hz
        exact tookTrap_ite (tookTrap_ite hz hz) hz

theorem trap_ranked (h : s.ranked) (id : BitVec 16) (arg : BitVec 40) : Ranked (execTrap id arg s) := by
  refine .next (h.congr ?_)
  unfold State.oweTrap
  show (match s.seq.trapDue with | some _ => _ | none => _ : Seq).tookTrap = _
  split <;> rfl

/-- A control transfer, SAFE, SEGEND, HALT, TRAP or ERET takes traps of a class only. -/
theorem barred_ranked {i : Instr} {w : Nat} (h : s.ranked) (hd : decodeSlot .ctl w = .ok i) (hb : barredInDelay (fld w 56 8) = true) :
    Ranked (exec i s) := by
  obtain ⟨chk, hr, -⟩ := read_of_decodeSlot hd
  simp only [barredInDelay, Bool.or_eq_true, Bool.and_eq_true, decide_eq_true_eq] at hb
  change decodeCtl w = _ at hr
  unfold decodeCtl at hr
  split at hr
  case h_2 | h_3 | h_4 | h_5 | h_6 | h_7 => cases hr; exact .next (branchOp_ranked h ..)
  case h_8 => cases hr; exact .next (guarded_ranked h (by simp [nearEnd_classed]) rfl)
  case h_9 => cases hr; exact .next (guarded_ranked h (by simp [rdX_classed, nearEnd_classed]) rfl)
  case h_10 => cases hr; exact .next (callOp_ranked h (by simp) _)
  case h_11 => cases hr; exact .next (callOp_ranked h (by simp [rdX_classed]) _)
  case h_12 => cases hr; exact .next (guarded_ranked h (by simp [rdX_classed, nearEnd_classed]) rfl)
  case h_13 =>
    cases hr
    refine .next (guarded_ranked h ?_ (tookTrap_ite rfl rfl))
    simp [loopEndBad_classed, rdX_classed, loopTrap_classed, writeFault_classed]
  case h_14 => cases hr; exact .next (guarded_ranked h (by simp [rdX_classed, nearEnd_classed, lexitTrap_classed]) (tookTrap_ite rfl rfl))
  case h_15 => cases hr; exact .next (guarded_ranked h (by simp [safeTrap_classed]) (tookTrap_ite rfl rfl))
  case h_16 => cases hr; exact segend_ranked h ..
  case h_17 =>
    cases hr
    refine .next (guarded_ranked h ?_ (landAll_tookTrap s))
    simp only [List.forall_mem_cons]
    exact ⟨.trapIf (by simp), .trapIf (by simp [reservedTrap]), nofun⟩
  case h_18 => cases hr; exact trap_ranked h ..
  case h_19 => cases hr; exact .next (guarded_ranked h (by simpa using Classed.trapIf (by simp [privTrap])) rfl)
  case h_39 => cases hr
  all_goals omega

/-- So does every operation of the scalar slots. -/
theorem scalar_ranked {i : Instr} {w : Nat} (h : s.ranked) (he : encode i = some (.scalar, w)) : Ranked (exec i s) := by
  cases i with
  | add | sub | and | or | xor | andn | shl | shr | sra | rotl | mul | mulh | mulhu | div | divu | rem | remu | min | max | minu
  | maxu | slt | sltu | seq | sne | addx => exact .next (srOp_ranked h ..)
  | fmin | fmax | feq | flt | fle | fadd | fsub | fmul | fdiv => exact .next (fpOp2_ranked h ..)
  | clz | ctz | popc | bfx | addi | andi | ori | xori | shli | shri | srai | muli | slti | sltiu | movhi => exact .next (srOp1_ranked h ..)
  | fsqrt | fcvtws | fcvtsw | fclass => exact .next (fpOp1_ranked h ..)
  | sel | ffma => exact .next (guarded_ranked h (by simp [rdX_classed, wrX_classed]) rfl)
  | bfi => exact .next (guarded_ranked h (by simp [rdX_classed, wrX_classed]) rfl)
  | movi => exact .next (guarded_ranked h (by simp [wrX_classed]) rfl)
  | ldb | ldbu | ldh | ldhu | ldw | ldwu | ldd => exact .next (loadOp_ranked h ..)
  | stb | sth | stw | std => exact .next (storeOp_ranked h ..)
  | sysrd => exact .next (guarded_ranked h (by simp [sysTrap_classed, sysPend_classed, wrX_classed]) rfl)
  | syswr =>
    refine .next (guarded_ranked h ?_ rfl)
    simp only [List.forall_mem_cons]
    exact ⟨sysTrap_classed .., rdX_classed s _, sysPend_classed .., (sysValueTrap_classed ..).valueTrap, nofun⟩
  | sysset | sysclr => exact .next (sysModify_ranked h ..)
  | _ => cases he

/-- Every command of the eng slot does. -/
theorem eng_ranked {i : Instr} {w : Nat} (h : s.ranked) (he : encode i = some (.eng, w)) : Ranked (exec i s) := by
  cases i with
  | mxcfg | ftset | tolset => exact .next (guarded_ranked h (by simp [rdX_classed]) rfl)
  | mxstat => exact .next (guarded_ranked h (by simp [wrX_classed]) rfl)
  | mxabn a d => exact mxabn_ranked h a d
  | mxgo e fe fmode lcn =>
    refine .next (guarded_ranked h ?_ (enqueueCmd_tookTrap ..))
    simp only [List.forall_mem_cons]
    exact ⟨.trapIf (by simp [reservedTrap]), readFault_classed s _, Classed.ite (readFault_classed s _) .none, cmdFault_classed s e 4,
      .trapIf (by simp [bankFault]), nofun⟩
  | mxldb e =>
    refine .next (guarded_ranked h ?_ (enqueueCmd_tookTrap ..))
    simp only [List.forall_mem_cons]
    exact ⟨cmdFault_classed s e 2, .trapIf (by simp [bankFault]), nofun⟩
  | accz e => exact .next (guarded_ranked h (by simp [cmdFault_classed]) (enqueueCmd_tookTrap ..))
  | accdr e => exact .next (guarded_ranked h (by simp [cmdFault_classed]) (enqueueCmd_tookTrap ..))
  | cvt | qamax | qscl | trn | tbld | tbev | gsum | gver => exact .next (shapeIssue_ranked h ..)
  | clred | clgath | clbcst => exact .next (collIssue_ranked h ..)
  | cpl | cpc | cph | cpv | tsend | trecv | atom => exact .next (copyIssue_ranked h ..)
  | cpabn e => exact .next (guarded_ranked h (by simp [cmdFault_classed]) rfl)
  | _ => cases he

/-- And every operation of the lane slot. -/
theorem lane_ranked {i : Instr} {w : Nat} (h : s.ranked) (he : encode i = some (.lane, w)) : Ranked (exec i s) := by
  cases i with
  | pbind q sec lane stn xa wr =>
    refine .next (guarded_ranked h ?_ (tookTrap_ite rfl (startPrefetch_tookTrap ..)))
    simp only [List.forall_mem_cons]
    exact ⟨rdX_classed s _, .trapIf (by simp [portFault, schedFault]), laneTrap_classed s _, secFault_classed s _,
      Classed.ite .none (prefetchFault_classed s _), nofun⟩
  | pwalk q xa lvl =>
    refine .next (guarded_ranked h ?_ (tookTrap_ite rfl (startPrefetch_tookTrap ..)))
    simp only [List.forall_mem_cons]
    exact ⟨rdX_classed s _, .trapIf (by simp [portFault, schedFault]), Classed.ite .none (prefetchFault_classed _ _), nofun⟩
  | prst q =>
    obtain ⟨a, l, hp⟩ := unbind_onlySectors s q
    exact .next (h.congr (tookTrap_ite (by rw [hp]) rfl))
  | ptag | pstamp => exact .next (guarded_ranked h (by simpa using Classed.trapIf (by simp [portFault, schedFault])) rfl)
  | lmov src lane dst xa =>
    have hclaims : ∀ l : List (Nat × Fin 8 × Nat × Bool), (l.foldl (fun v c => v.claim c.2.1 c.1 c.2.2.2 .lmov) s).seq.tookTrap =
        s.seq.tookTrap := fun l =>
      foldl_keeps (g := fun u : State => u.seq.tookTrap) (f := fun v c => v.claim c.2.1 c.1 c.2.2.2 .lmov) (fun _ _ => rfl) l s
    refine .next (guarded_ranked h ?_ (hclaims _))
    simp only [List.forall_mem_cons]
    refine ⟨rdX_classed s _, laneTrap_classed s _, secFault_classed s _, secFault_classed s _, .firstTrap fun c hc => ?_, nofun⟩
    obtain ⟨k, -, rfl⟩ := List.mem_map.1 hc
    exact claimFault_classed s _ _ _ _ _
  | pstat => exact .next (guarded_ranked h (by simp [wrX_classed]) rfl)
  | pflush q =>
    refine .next (guarded_ranked h ?_ (startPrefetch_tookTrap ..))
    simp only [List.forall_mem_cons]
    exact ⟨.trapIf (by simp [portFault, schedFault]), prefetchFault_classed _ _, nofun⟩
  | _ => cases he

end

end Sys2Proof.Machine
end

section
/-! PROOF. Illegal code units and opcodes, and operations barred from delay bundles (R63, R66, R74, R75, R80, R115, R121). -/

namespace Sys2Proof.Machine

/-! ## A bundle whose place a trap takes (R75, R76, R121) -/

theorem slotBits_lt (b : Bundle) (k : Nat) : slotBits b k < 2 ^ 64 := Nat.mod_lt _ (by decide)

theorem opcode_eq_fld {w : Nat} (hw : w < 2 ^ 64) : w / 2 ^ 56 = fld w 56 8 := by
  simp only [fld]; omega

/-- A trap found before the slots act is of a class. -/
theorem trapOf_ne_zero {s : State} {p : Fin 8 × Instr} {r : Nat × TrapRec}
    (h : ∀ u : State, u.ranked → Ranked (exec p.2 u)) (hr : s.trapOf p = some r) : r.1 ≠ 0 := by
  have hi : (s.onSeq fun q => { q with slot := p.1, tookTrap := none }).ranked := ⟨nofun⟩
  unfold State.trapOf State.runSlot at hr
  split at hr
  · next t ht => exact ((h _ hi).ranked t ht).ne_zero r hr
  · cases hr

/-- The operations of a bundle are those of its slots. -/
theorem bundleOps_mem {b : Bundle} {p : Fin 8 × Instr} (h : p ∈ bundleOps b) :
    p.1.val < 6 ∧ decodeBundleSlot b p.1.val = .ok p.2 ∧ p.2 ≠ .nop := by
  have hm : p ∈ ([0, 1, 2, 3, 4, 5] : List (Fin 8)).filterMap fun k => match decodeBundleSlot b k.val with
      | .ok .nop => none
      | .ok i => some (k, i)
      | .error _ => none := by
    rcases List.mem_append.1 h with h | h <;> exact (List.mem_filter.1 h).1
  obtain ⟨k, hk, hp⟩ := List.mem_filterMap.1 hm
  split at hp
  · cases hp
  · next i hn hi =>
    cases hp
    exact ⟨mem_slots.1 hk, hi, hn⟩
  · cases hp

/-- No slot's operation of a bundle with a barred ctl operation raises a trap of a class before the illegal code units'. -/
theorem earlyTraps_ne_zero {s : State} {b : Bundle} (hb : barredInDelay (ctlOpcode b) = true) :
    ∀ r ∈ s.earlyTraps (bundleOps b), r.1 ≠ 0 := by
  intro r hr
  obtain ⟨p, hp, hpr⟩ := List.mem_filterMap.1 (List.mem_filter.1 hr).1
  obtain ⟨hp, h3⟩ := List.mem_filter.1 hp
  obtain ⟨⟨k, hk8⟩, i⟩ := p
  obtain ⟨hk, hi, hn⟩ := bundleOps_mem hp
  have hlt := slotBits_lt b k
  refine trapOf_ne_zero (fun u hu => ?_) hpr
  dsimp only at hk hi hn ⊢
  match k, hk with
  | 0, _ => exact barred_ranked hu hi (by rwa [← opcode_eq_fld hlt])
  | 1, _ => exact scalar_ranked hu (encode_decode hlt hi hn).2
  | 2, _ => exact scalar_ranked hu (encode_decode hlt hi hn).2
  | 3, _ => simp at h3
  | 4, _ => exact eng_ranked hu (encode_decode hlt hi hn).2
  | 5, _ => exact lane_ranked hu (encode_decode hlt hi hn).2

/-- The traps of a bundle's decoding are of a class. -/
theorem decodeTraps_ne_zero (s : State) (b : Bundle) : ∀ r ∈ s.decodeTraps b, r.1 ≠ 0 := by
  intro r hr
  obtain ⟨k, -, hk⟩ := List.mem_filterMap.1 hr
  split at hk
  · next e he =>
    cases hk
    cases e <;> simp [decodeTrap, slotTrap]
  · cases hk

/-- So are those of the ctl operation's own rules. -/
theorem ctlTraps_ne_zero (s : State) (b : Bundle) : ∀ r ∈ s.ctlTraps b, r.1 ≠ 0 := by
  have hone : ∀ (p : Prop) [Decidable p] (slot : Fin 8) (cls cause detail : Nat), cls ≠ 0 →
      ∀ r ∈ (if p then [slotTrap s slot cls cause detail] else []), r.1 ≠ 0 := by
    intro p _ slot cls cause detail hc r hr
    split at hr
    · rw [List.mem_singleton.1 hr]; exact hc
    · cases hr
  simp only [State.ctlTraps, List.forall_mem_append]
  refine ⟨⟨hone _ _ _ _ _ (by decide), hone _ _ _ _ _ (by decide)⟩, fun r hr => ?_⟩
  split at hr
  · split at hr
    · rw [List.mem_singleton.1 hr]; simp [slotTrap]
    · cases hr
  · cases hr

theorem firstClass_mem {l : List (Nat × TrapRec)} {t : Nat × TrapRec} (h : firstClass l = some t) : t ∈ l := by
  induction l generalizing t with
  | nil => cases h
  | cons a l ih =>
    simp only [firstClass] at h
    split at h
    · simp [Option.some.inj h]
    · next u hu =>
      obtain rfl := Option.some.inj h
      split
      · exact List.mem_cons_of_mem _ (ih hu)
      · exact List.mem_cons_self ..

/-- A trap of slot 0 and class 1 wins where no other is of a class before it (R76). -/
theorem firstClass_head {t : Nat × TrapRec} {l : List (Nat × TrapRec)} (ht : t.1 = 1) (hs : t.2.slot = 0) (h : ∀ u ∈ l, u.1 ≠ 0) :
    firstClass (t :: l) = some t := by
  cases hl : firstClass l with
  | none => simp [firstClass, hl]
  | some u =>
    have hu := h u (firstClass_mem hl)
    simp [firstClass, hl, ht, hs]
    omega

/-- In a delay bundle a barred ctl operation's trap takes the bundle's place (R80, R121). -/
theorem issue_barred {s : State} {b : Bundle} {x : Xfer} (hx : s.seq.xfer = some x) (hb : barredInDelay (ctlOpcode b) = true) :
    s.issue b = .next (s.enterTrap
      { cause := 0x01, code := 0, baddr := s.seq.pc, slot := 0, detail := BitVec.ofNat 40 (s.codeAt s.seq.pc.toNat).unit.toNat }) := by
  obtain ⟨l, hc⟩ : ∃ l, s.ctlTraps b = slotTrap s 0 1 0x01 (s.codeAt s.seq.pc.toNat).unit.toNat :: l :=
    ⟨_, by simp only [State.ctlTraps, hx, hb, Option.isSome_some, Bool.and_self, if_true]; rfl⟩
  have hl : ∀ u ∈ l, u.1 ≠ 0 := fun u hu => ctlTraps_ne_zero s b u (hc ▸ List.mem_cons_of_mem _ hu)
  have hall : ∀ u ∈ l ++ s.decodeTraps b ++ s.earlyTraps (bundleOps b), u.1 ≠ 0 := by
    simp only [List.forall_mem_append]
    exact ⟨⟨hl, decodeTraps_ne_zero s b⟩, earlyTraps_ne_zero hb⟩
  rw [State.issue, hc, List.cons_append, List.cons_append, firstClass_head rfl rfl hall]
  rfl

/-! ## An opcode that no row of R74 lists (R75) -/

/-- The opcodes that R74 lists for a slot's space. -/
def listedOp (c : SlotClass) (op : Nat) : Prop :=
  match c with
  | .ctl => op ≤ 0x0D ∨ (0x10 ≤ op ∧ op ≤ 0x14) ∨ (0x18 ≤ op ∧ op ≤ 0x1F) ∨ (0x30 ≤ op ∧ op ≤ 0x3A)
  | .scalar => op ≤ 0x20 ∨ (0x28 ≤ op ∧ op ≤ 0x33) ∨ (0x38 ≤ op ∧ op ≤ 0x42) ∨ (0x48 ≤ op ∧ op ≤ 0x55) ∨
      (0x58 ≤ op ∧ op ≤ 0x5B)
  | .vec => op ≤ 0x0D ∨ (0x10 ≤ op ∧ op ≤ 0x1B) ∨ (0x20 ≤ op ∧ op ≤ 0x2D) ∨ (0x30 ≤ op ∧ op ≤ 0x33) ∨
      (0x38 ≤ op ∧ op ≤ 0x3A) ∨ (0x40 ≤ op ∧ op ≤ 0x46) ∨ (0x48 ≤ op ∧ op ≤ 0x49)
  | .eng => op ≤ 0x09 ∨ (0x10 ≤ op ∧ op ≤ 0x17) ∨ (0x20 ≤ op ∧ op ≤ 0x24) ∨ (0x28 ≤ op ∧ op ≤ 0x2C) ∨ op = 0x30
  | .lane => op ≤ 0x08

/-- A slot's table reads nothing of an opcode that it does not list. -/
theorem readSlot_unlisted {c : SlotClass} {w : Nat} (h : ¬listedOp c (fld w 56 8)) : readSlot c w = none := by
  cases c with
  | ctl =>
    simp only [listedOp] at h
    show decodeCtl w = none
    unfold decodeCtl
    split
    case h_39 => rfl
    all_goals omega
  | scalar =>
    simp only [listedOp] at h
    show decodeScalar w = none
    unfold decodeScalar
    split
    case h_75 => rfl
    all_goals omega
  | vec =>
    simp only [listedOp] at h
    show decodeVec w = none
    unfold decodeVec
    split
    case h_57 => rfl
    all_goals omega
  | eng =>
    simp only [listedOp] at h
    show decodeEng w = none
    unfold decodeEng
    split
    case h_30 => rfl
    all_goals omega
  | lane =>
    simp only [listedOp] at h
    show decodeLane w = none
    unfold decodeLane
    split
    case h_10 => rfl
    all_goals omega

/-- A bundle with one slot of an unlisted opcode, and NOP in the others, has its place taken by that opcode's trap. -/
theorem issue_unlisted {s : State} {b : Bundle} {k : Fin 8} {w : Nat} (hk : k.val < 6)
    (hb : ∀ j, slotBits b j = if j = k.val then w else 0) (h : ¬listedOp (slotClass k.val) (fld w 56 8)) :
    s.issue b = .next (s.enterTrap (slotTrap s k 2 0x02 (fld w 56 8)).2) := by
  have hbad : decodeBundleSlot b k.val = .error (.illegalOp (fld w 56 8)) := by
    simp only [decodeBundleSlot, decodeSlot, hb, if_true, readSlot_unlisted h]
  have hother : ∀ j : Nat, j < 6 → j ≠ k.val → decodeBundleSlot b j = .ok .nop := fun j _ hne =>
    decodeBundleSlot_zero b j ((hb j).trans (if_neg hne))
  have hdec : s.decodeTraps b = [slotTrap s k 2 0x02 (fld w 56 8)] := by
    refine filterMap_of_one (a := k) (by decide) (mem_slots.2 hk) (by simp only [hbad]; rfl) fun j hj hne => ?_
    simp only [hother j.val (mem_slots.1 hj) fun e => hne (Fin.ext e)]
  have hops : bundleOps b = [] := by
    refine List.eq_nil_iff_forall_not_mem.2 fun p hp => ?_
    obtain ⟨hlt, hi, hn⟩ := bundleOps_mem hp
    by_cases hpk : p.1.val = k.val
    · rw [hpk, hbad] at hi; cases hi
    · rw [hother _ hlt hpk] at hi
      exact hn (Except.ok.inj hi).symm
  have hctl : s.ctlTraps b = [] := by
    have hop : ctlOpcode b = if 0 = k.val then fld w 56 8 else 0 := by
      rw [ctlOpcode, opcode_eq_fld (slotBits_lt b 0), hb]
      split <;> rfl
    have hbarred : barredInDelay (ctlOpcode b) = false ∧ ctlOpcode b ≠ 0x11 := by
      rw [hop]
      split
      · next h0 =>
        rw [← h0] at h
        simp only [listedOp, slotClass] at h
        simp only [barredInDelay, Bool.or_eq_false_iff, Bool.and_eq_false_iff, decide_eq_false_iff_not]
        omega
      · decide
    have hctlOf : ctlOf b = .nop := by
      unfold ctlOf
      by_cases h0 : 0 = k.val
      · rw [h0, hbad]
      · rw [hother 0 (by decide) h0]
    simp [State.ctlTraps, hbarred, hctlOf, standsAlone]
  rw [State.issue, hops, hctl, hdec]
  rfl

/-! ## A fetch that finds no bundle (R63, R66, R115) -/

section
variable {s : State} (hm : s.seq.mode = .user) (hb : s.seq.badTarget = none)
include hm hb

/-- Past the user's code memory nothing is fetched. -/
theorem fetch_beyond (h : 0x7000 ≤ s.seq.pc.toNat) : s.fetch = .error (s.codeTrap s.seq.pc.toNat) := by
  have hlate : (s.seq.mode == .user && decide (Config.runtimeBase ≤ s.seq.pc.toNat)) = true := by
    simp [hm, show Config.runtimeBase ≤ s.seq.pc.toNat from h]
  simp only [State.fetch, hb, hlate, if_true]

variable (h : s.seq.pc.toNat < 0x7000)
include h

/-- In it, a transfer reaches the start of a bundle only. -/
theorem fetch_noStart (harr : s.seq.arrived = true) (hst : (s.codeAt s.seq.pc.toNat).start = false) :
    s.fetch = .error (s.codeTrap s.seq.pc.toNat) := by
  have hearly : (s.seq.mode == .user && decide (Config.runtimeBase ≤ s.seq.pc.toNat)) = false := by
    simp [hm, show s.seq.pc.toNat < Config.runtimeBase from h]
  have hstart : (s.seq.arrived && !(s.codeAt s.seq.pc.toNat).start) = true := by simp [harr, hst]
  simp only [State.fetch, hb, hearly, hstart, Bool.false_eq_true, if_false, if_true]

variable (hst : s.seq.arrived = true → (s.codeAt s.seq.pc.toNat).start = true)
include hst

/-- A unit past the dictionary's indices that is no escape is illegal. -/
theorem fetch_noUnit (hlo : 0x800 ≤ (s.codeAt s.seq.pc.toNat).unit.toNat) (hne : (s.codeAt s.seq.pc.toNat).unit.toNat ≠ 0xFFFF) :
    s.fetch = .error (s.codeTrap (s.codeAt s.seq.pc.toNat).unit.toNat) := by
  have hearly : (s.seq.mode == .user && decide (Config.runtimeBase ≤ s.seq.pc.toNat)) = false := by
    simp [hm, show s.seq.pc.toNat < Config.runtimeBase from h]
  have hstart : (s.seq.arrived && !(s.codeAt s.seq.pc.toNat).start) = false := by simpa using hst
  have hlit : (s.codeAt s.seq.pc.toNat).unit ≠ 0xFFFF := fun e => hne (congrArg BitVec.toNat e)
  have hdict : (decide (0x800 ≤ (s.codeAt s.seq.pc.toNat).unit.toNat) ||
      decide (s.sys.dictn.toNat ≤ (s.codeAt s.seq.pc.toNat).unit.toNat)) = true := by simp [hlo]
  simp only [State.fetch, hb, hearly, hstart, Bool.false_eq_true, if_false, if_neg hlit, hdict, if_true]

/-- An escape whose bundle does not end in it is illegal. -/
theorem fetch_overrun (he : (s.codeAt s.seq.pc.toNat).unit.toNat = 0xFFFF) (hend : 0x7000 < s.seq.pc.toNat + 25) :
    s.fetch = .error (s.codeTrap 0xFFFF) := by
  have hearly : (s.seq.mode == .user && decide (Config.runtimeBase ≤ s.seq.pc.toNat)) = false := by
    simp [hm, show s.seq.pc.toNat < Config.runtimeBase from h]
  have hstart : (s.seq.arrived && !(s.codeAt s.seq.pc.toNat).start) = false := by simpa using hst
  have hlit : (s.codeAt s.seq.pc.toNat).unit = 0xFFFF := BitVec.eq_of_toNat_eq he
  have hover : (if s.seq.mode == .user then Config.runtimeBase else Config.codeUnits) < s.seq.pc.toNat + 25 := by
    simpa [hm, Config.runtimeBase] using hend
  simp only [State.fetch, hb, hearly, hstart, Bool.false_eq_true, if_false, hlit, if_true, if_pos hover]
  rfl

end

/-- What the fetch at pc finds is the trap of ILLEGAL_CODE_UNIT_FETCH. -/
theorem illegalCodeUnitFetch_traps {s : State} {n : Nat} (h : s.fetch = .error (s.codeTrap n)) :
    Completes .illegalCodeUnitFetch s (· = s.enterTrap (s.codeTrap n)) := by
  refine ⟨_, ?_, rfl⟩
  show execIllegalCodeUnitFetch s = _
  simp only [execIllegalCodeUnitFetch, State.fetchTrap, h]

/-- Settles O38: each code unit of the fetch that is none reaches its trap, a barred operation's trap is of the first class
that any slot's operation can raise, and an unlisted opcode is the only thing that its bundle's slots say. -/
theorem sequencerFaults : Obligations.SequencerFaults := by
  refine ⟨fun s hm => ?_, fun s b x hx => ?_, fun s b k w hb => ?_⟩
  · exact ⟨fun v hv => illegalCodeUnitFetch_traps (by simp only [State.fetch, hv]),
      fun hb h => illegalCodeUnitFetch_traps (fetch_beyond hm hb h),
      fun hb h harr hst => illegalCodeUnitFetch_traps (fetch_noStart hm hb h harr hst),
      fun hb h hst hlo hne => illegalCodeUnitFetch_traps (fetch_noUnit hm hb h hst hlo hne),
      fun hb h hst he hend => illegalCodeUnitFetch_traps (fetch_overrun hm hb h hst he hend), ⟨_, rfl, rfl⟩, ⟨_, rfl, rfl⟩⟩
  · intro op hop
    refine issue_barred hx ?_
    simp only [barredInDelay, Bool.or_eq_true, Bool.and_eq_true, decide_eq_true_eq]
    exact hop
  · intro op listed hn
    have hw : w < 2 ^ 64 := by have := slotBits_lt b k; rwa [hb, if_pos rfl] at this
    have h := issue_unlisted (s := s) (k := ⟨k.val, by omega⟩) k.isLt hb (by rw [← opcode_eq_fld hw]; exact hn)
    rw [← opcode_eq_fld hw] at h
    exact h

end Sys2Proof.Machine
end

section
/-! PROOF. Scalar integer instructions and FCLASS: each result as a number or bit by bit (R94 to R98, R104). -/

namespace Sys2Proof.Machine

/-! ## The instructions of two and of one register -/

section
variable {i : Instr} {s : State} {l : List Reg} {xd xa xb : Reg} {lat : Nat} {residue : Bool} {v : Word}

/-- An operation of two readable registers gives its value of them. -/
theorem srOp_gives {f : Word → Word → Word} (hi : exec i s = .next (srOp lat residue f xd xa xb s)) (hr : s.ready l xd)
    (hv : f (s.x xa) (s.x xb) = v) (ha : xa ∈ l := by simp) (hb : xb ∈ l := by simp) : Gives i s (.x xd v) lat :=
  ⟨_, hi, hv ▸ srOp_inFlight hr ha hb lat residue f⟩

/-- An operation of one readable register gives its value of it. -/
theorem srOp1_gives {f : Word → Word} (hi : exec i s = .next (srOp1 lat residue f xd xa s)) (hr : s.ready l xd)
    (hv : f (s.x xa) = v) (ha : xa ∈ l := by simp) : Gives i s (.x xd v) lat :=
  ⟨_, hi, hv ▸ srOp1_inFlight hr ha lat residue f⟩

end

/-! ## The immediate (R97) -/

theorem sext46_toInt (imm : BitVec 46) : (sext46 imm).toInt = imm.toInt := BitVec.toInt_signExtend_of_le (by decide)

/-- As an unsigned number the immediate is its value modulo 2^64. -/
theorem sext46_toNat (imm : BitVec 46) : ((sext46 imm).toNat : Int) = imm.toInt % 2 ^ 64 := by
  rw [← sext46_toInt, BitVec.toInt_eq_toNat_cond]
  split <;> omega

/-- Above bit 45 the immediate repeats it. -/
theorem sext46_bit (imm : BitVec 46) {i : Nat} (h : i < 64) : (sext46 imm).getLsbD i = imm.getLsbD (min i 45) := by
  rw [sext46, BitVec.getLsbD_signExtend, BitVec.msb_eq_getLsbD_last, decide_eq_true h, Bool.true_and]
  split
  · rw [Nat.min_eq_left (by omega)]
  · rw [Nat.min_eq_right (by omega)]

/-! ## Sums and products -/

theorem sub_toNat (a b : Word) : ((a - b).toNat : Int) = ((a.toNat : Int) - b.toNat) % 2 ^ 64 := by
  rw [BitVec.toNat_sub]
  omega

/-- The high half of a signed product fits a double. -/
theorem mulhWord_toInt (a b : Word) : (mulhWord a b).toInt = a.toInt * b.toInt / 2 ^ 64 := by
  have hb : ∀ c : Word, -2 ^ 63 ≤ c.toInt ∧ c.toInt ≤ 2 ^ 63 := fun c => ⟨c.le_toInt, c.toInt_lt.le⟩
  obtain ⟨hlo, hhi⟩ : -2 ^ 126 ≤ a.toInt * b.toInt ∧ a.toInt * b.toInt ≤ 2 ^ 126 := by
    rw [← abs_le, abs_mul]
    calc |a.toInt| * |b.toInt| ≤ 2 ^ 63 * 2 ^ 63 := mul_le_mul (abs_le.2 (hb a)) (abs_le.2 (hb b)) (abs_nonneg _) (by decide)
      _ = 2 ^ 126 := by norm_num
  rw [mulhWord, BitVec.toInt_ofInt, Int.bmod_eq_of_le (by omega) (by omega)]

theorem mulhuWord_toNat (a b : Word) : (mulhuWord a b).toNat = a.toNat * b.toNat / 2 ^ 64 := by
  have h : a.toNat * b.toNat < 2 ^ 64 * 2 ^ 64 := Nat.mul_lt_mul'' a.isLt b.isLt
  rw [mulhuWord, BitVec.toNat_ofNat, Nat.mod_eq_of_lt (Nat.div_lt_of_lt_mul h)]

theorem add_shiftLeft_toNat (a b : Word) (n : Nat) : (a + b <<< n).toNat = (a.toNat + b.toNat * 2 ^ n) % 2 ^ 64 := by
  rw [BitVec.toNat_add, BitVec.toNat_shiftLeft, Nat.shiftLeft_eq, Nat.add_mod_mod]

/-- A sum with the immediate, once narrowed. -/
theorem add_sext46 (a : Word) (imm : BitVec 46) : ((a + sext46 imm).toNat : Int) = (a.toNat + imm.toInt) % 2 ^ 64 := by
  rw [add_sext46_toNat]
  omega

/-- A product with the immediate, once narrowed. -/
theorem mul_sext46 (a : Word) (imm : BitVec 46) : ((a * sext46 imm).toNat : Int) = (a.toNat * imm.toInt) % 2 ^ 64 := by
  rw [BitVec.toNat_mul, Int.natCast_emod, Int.natCast_mul, sext46_toNat]
  exact (Int.mod_modEq imm.toInt (2 ^ 64)).mul_left _

/-- Settles O8: each operation by its one law, and the number of its result. -/
theorem integerArithmeticResults : Obligations.IntegerArithmeticResults := by
  unfold Obligations.IntegerArithmeticResults
  intro xd xa xb sh imm s hr a b
  exact ⟨⟨_, srOp_gives rfl hr rfl, BitVec.toNat_add ..⟩, ⟨_, srOp_gives rfl hr rfl, sub_toNat ..⟩,
    ⟨_, srOp_gives rfl hr rfl, BitVec.toNat_mul ..⟩, ⟨_, srOp_gives rfl hr rfl, mulhWord_toInt ..⟩,
    ⟨_, srOp_gives rfl hr rfl, mulhuWord_toNat ..⟩, ⟨_, srOp_gives rfl hr rfl, add_shiftLeft_toNat ..⟩,
    ⟨_, srOp1_gives rfl hr rfl, add_sext46 ..⟩, ⟨_, srOp1_gives rfl hr rfl, mul_sext46 ..⟩⟩

/-! ## Bits -/

theorem sshiftRight_toInt (a : Word) (n : Nat) : (a.sshiftRight n).toInt = a.toInt / 2 ^ n := by
  rw [BitVec.toInt_sshiftRight, Int.shiftRight_eq_div_pow]
  norm_cast

/-- Bit i of a double is at i + n after a rotation by n. -/
theorem rotl64_bit (a : Word) {n i : Nat} (hn : n < 64) (hi : i < 64) : (rotl64 a n).getLsbD ((i + n) % 64) = a.getLsbD i := by
  rw [rotl64, BitVec.getLsbD_rotateLeft, Nat.mod_eq_of_lt hn, Bool.cond_decide]
  split
  · congr 1; omega
  · rw [decide_eq_true (show (i + n) % 64 < 64 by omega), Bool.true_and]
    congr 1; omega

theorem movhi_toNat (hi : BitVec 18) (a : Word) : (hi ++ a.setWidth 46 : Word).toNat = hi.toNat * 2 ^ 46 + a.toNat % 2 ^ 46 := by
  have h := a.toNat.mod_lt (show 2 ^ 46 > 0 by decide)
  rw [BitVec.toNat_append, BitVec.toNat_setWidth, ← Nat.shiftLeft_add_eq_or_of_lt h, Nat.shiftLeft_eq]

theorem bfxWord_toNat {pos wm1 : Nat} (h : pos + wm1 < 64) (a : Word) :
    (bfxWord pos wm1 a).toNat = a.toNat / 2 ^ pos % 2 ^ (wm1 + 1) := by
  have hlt : a.toNat / 2 ^ pos % 2 ^ (wm1 + 1) < 2 ^ 64 :=
    (Nat.mod_lt _ (Nat.two_pow_pos _)).trans_le (Nat.pow_le_pow_right (by decide) (by omega))
  rw [bfxWord, BitVec.toNat_ofNat, getField, Nat.mod_eq_of_lt hlt]

/-- A field replaced leaves what stands below it and above it. -/
theorem setField_eq (v lo w x : Nat) :
    setField v lo w x = v % 2 ^ lo + 2 ^ lo * (x % 2 ^ w + 2 ^ w * (v / 2 ^ lo / 2 ^ w)) := by
  have h1 := Nat.mod_add_div v (2 ^ lo)
  have h2 := Nat.mod_add_div (v / 2 ^ lo) (2 ^ w)
  have h3 : v = v % 2 ^ lo + 2 ^ lo * (v / 2 ^ lo % 2 ^ w) + 2 ^ lo * (2 ^ w * (v / 2 ^ lo / 2 ^ w)) := by
    rw [Nat.add_assoc, ← Nat.mul_add, h2, h1]
  rw [setField, Nat.mul_add, Nat.mul_comm _ (2 ^ lo), Nat.mul_comm _ (2 ^ lo)]
  omega

/-- Bit i of a number with a field replaced. -/
theorem setField_testBit (v lo w x i : Nat) :
    (setField v lo w x).testBit i = if lo ≤ i ∧ i < lo + w then x.testBit (i - lo) else v.testBit i := by
  have hdiv : ∀ n k j : Nat, (n / 2 ^ k).testBit j = n.testBit (k + j) := fun n k j => by
    rw [← Nat.shiftRight_eq_div_pow, Nat.testBit_shiftRight]
  rw [setField_eq, Nat.add_comm, Nat.testBit_two_pow_mul_add _ (Nat.mod_lt _ (Nat.two_pow_pos lo)), Nat.add_comm,
    Nat.testBit_two_pow_mul_add _ (Nat.mod_lt _ (Nat.two_pow_pos w))]
  simp only [Nat.testBit_mod_two_pow, hdiv]
  split
  · rw [if_neg (by omega)]; simp [*]
  · split
    · rw [if_pos (by omega)]; simp [*]
    · rw [if_neg (by omega)]; congr 1; omega

theorem bfiWord_bit {pos wm1 i : Nat} (d a : Word) (hi : i < 64) : (bfiWord pos wm1 d a).getLsbD i =
    if pos ≤ i ∧ i ≤ pos + wm1 then a.getLsbD (i - pos) else d.getLsbD i := by
  rw [bfiWord, BitVec.getLsbD_ofNat, decide_eq_true hi, Bool.true_and, setField_testBit]
  simp only [BitVec.getLsbD, Nat.lt_succ_iff, ← Nat.add_assoc]

/-- Settles O9: each operation by its one law, and its result's number or bits. -/
theorem bitResults : Obligations.BitResults := by
  unfold Obligations.BitResults
  intro xd xa xb n pos wm1 imm hi s hr hf a b m
  have hm : m < 64 := Nat.mod_lt _ (by decide)
  have hshl : ∀ k, (a <<< k).toNat = a.toNat * 2 ^ k % 2 ^ 64 := fun k => by rw [BitVec.toNat_shiftLeft, Nat.shiftLeft_eq]
  have hshr : ∀ k, (a >>> k).toNat = a.toNat / 2 ^ k := fun k => by rw [BitVec.toNat_ushiftRight, Nat.shiftRight_eq_div_pow]
  have hfree : ∀ x ∈ [s.wrX xd], x = none := by simp [ready_wr hr]
  have hown : ∀ x ∈ [s.rdX xa, s.rdX xd, s.wrX xd], x = none := by simp [ready_rd hr (r := xa), ready_rd hr (r := xd), ready_wr hr]
  refine ⟨⟨_, srOp_gives rfl hr rfl, fun i => BitVec.getLsbD_and⟩, ⟨_, srOp_gives rfl hr rfl, fun i => BitVec.getLsbD_or⟩,
    ⟨_, srOp_gives rfl hr rfl, fun i => BitVec.getLsbD_xor⟩, ⟨_, srOp_gives rfl hr rfl, fun i => ?andn⟩,
    ⟨_, srOp_gives rfl hr rfl, hshl _⟩, ⟨_, srOp_gives rfl hr rfl, hshr _⟩, ⟨_, srOp_gives rfl hr rfl, sshiftRight_toInt ..⟩,
    ⟨_, srOp_gives rfl hr rfl, fun i hi => rotl64_bit a hm hi⟩,
    ⟨_, srOp1_gives rfl hr rfl, fun i hi => ?andi⟩, ⟨_, srOp1_gives rfl hr rfl, fun i hi => ?ori⟩,
    ⟨_, srOp1_gives rfl hr rfl, fun i hi => ?xori⟩, ⟨_, srOp1_gives rfl hr rfl, hshl _⟩, ⟨_, srOp1_gives rfl hr rfl, hshr _⟩,
    ⟨_, srOp1_gives rfl hr rfl, sshiftRight_toInt ..⟩, ⟨_, completes_of_guarded rfl hfree (putX_inFlight ..), sext46_toInt imm⟩,
    ⟨_, srOp1_gives rfl hr rfl, movhi_toNat ..⟩, ⟨_, srOp1_gives rfl hr rfl, bfxWord_toNat hf a⟩,
    ⟨_, completes_of_guarded rfl hown (putX_inFlight ..), fun i hi => bfiWord_bit _ _ hi⟩⟩
  case andn =>
    by_cases h : i < 64
    · simp [h, a, b]
    · simp [BitVec.getLsbD_of_ge _ i (not_lt.1 h), a, b]
  case andi => rw [BitVec.getLsbD_and, sext46_bit imm hi]
  case ori => rw [BitVec.getLsbD_or, sext46_bit imm hi]
  case xori => rw [BitVec.getLsbD_xor, sext46_bit imm hi]

/-! ## Orders and counts -/

theorem min_slt_toInt (a b : Word) : (if a.slt b then a else b).toInt = min a.toInt b.toInt := by
  rw [apply_ite BitVec.toInt, min_def]
  simp only [BitVec.slt, decide_eq_true_eq]
  split <;> split <;> omega

theorem max_slt_toInt (a b : Word) : (if a.slt b then b else a).toInt = max a.toInt b.toInt := by
  rw [apply_ite BitVec.toInt, max_def]
  simp only [BitVec.slt, decide_eq_true_eq]
  split <;> split <;> omega

theorem min_ult_toNat (a b : Word) : (if a.ult b then a else b).toNat = min a.toNat b.toNat := by
  rw [apply_ite BitVec.toNat, min_def]
  simp only [BitVec.ult, decide_eq_true_eq]
  split <;> split <;> omega

theorem max_ult_toNat (a b : Word) : (if a.ult b then b else a).toNat = max a.toNat b.toNat := by
  rw [apply_ite BitVec.toNat, max_def]
  simp only [BitVec.ult, decide_eq_true_eq]
  split <;> split <;> omega

/-- The leading zeros of a double, its highest one below them. -/
theorem clzWord_spec (a : Word) : (clzWord a).toNat ≤ 64 ∧ (∀ i < (clzWord a).toNat, a.getLsbD (63 - i) = false) ∧
    ((clzWord a).toNat < 64 → a.getLsbD (63 - (clzWord a).toNat) = true) := by
  by_cases h : a = 0
  · subst h
    rw [clzWord, if_pos rfl]
    exact ⟨le_refl _, fun i _ => BitVec.getLsbD_zero, fun h => absurd h (by decide)⟩
  · have hne : a.toNat ≠ 0 := fun e => h (BitVec.eq_of_toNat_eq e)
    have hlog : a.toNat.log2 < 64 := (Nat.log2_lt hne).2 a.isLt
    have hv : (clzWord a).toNat = 63 - a.toNat.log2 := by
      rw [clzWord, if_neg h, BitVec.toNat_ofNat, Nat.mod_eq_of_lt (by omega)]
    rw [hv, show 63 - (63 - a.toNat.log2) = a.toNat.log2 by omega]
    refine ⟨by omega, fun i hi => ?_, fun _ => Nat.testBit_log2 hne⟩
    exact Nat.testBit_lt_two_pow ((Nat.log2_lt hne).1 (by omega))

theorem lowestSet_spec (n v : Nat) : lowestSet n v ≤ n ∧ (∀ i < lowestSet n v, v.testBit i = false) ∧
    (lowestSet n v < n → v.testBit (lowestSet n v) = true) := by
  induction n generalizing v with
  | zero => exact ⟨le_refl _, nofun, nofun⟩
  | succ n ih =>
    obtain ⟨hle, hzero, hone⟩ := ih (v / 2)
    by_cases h : v % 2 = 1
    · simp only [lowestSet, h, if_true]
      exact ⟨Nat.zero_le _, nofun, fun _ => by simp [h]⟩
    · simp only [lowestSet, h, if_false]
      refine ⟨by omega, fun i hi => ?_, fun hlt => ?_⟩
      · cases i with
        | zero => simp [h]
        | succ i => rw [Nat.testBit_succ]; exact hzero i (by omega)
      · rw [Nat.testBit_succ]; exact hone (by omega)

/-- The trailing zeros of a double, its lowest one above them. -/
theorem ctzWord_spec (a : Word) : (ctzWord a).toNat ≤ 64 ∧ (∀ i < (ctzWord a).toNat, a.getLsbD i = false) ∧
    ((ctzWord a).toNat < 64 → a.getLsbD (ctzWord a).toNat = true) := by
  have h := lowestSet_spec 64 a.toNat
  rwa [show (ctzWord a).toNat = lowestSet 64 a.toNat by
    rw [ctzWord, BitVec.toNat_ofNat, Nat.mod_eq_of_lt (by omega)]]

theorem length_filter_eq_sum {α : Type} (p : α → Bool) (l : List α) :
    (l.filter p).length = (l.map fun i => if p i then 1 else 0).sum := by
  induction l with
  | nil => rfl
  | cons a l ih => cases h : p a <;> simp [h, ih, Nat.add_comm]

theorem popcWord_toNat (a : Word) : (popcWord a).toNat = ((List.range 64).map fun i => if a.getLsbD i then 1 else 0).sum := by
  have h := List.length_filter_le (fun i => a.getLsbD i) (List.range 64)
  rw [List.length_range] at h
  rw [popcWord, BitVec.toNat_ofNat, Nat.mod_eq_of_lt (by omega), length_filter_eq_sum]

/-- Settles O10: each operation by its one law, with the order of its operands or the positions of their bits. -/
theorem compareAndCountResults : Obligations.CompareAndCountResults := by
  unfold Obligations.CompareAndCountResults
  intro xd xa xb xc imm s hr a b
  have hsel : ∀ x ∈ [s.rdX xa, s.rdX xb, s.rdX xc, s.wrX xd], x = none := by
    simp [ready_rd hr (r := xa), ready_rd hr (r := xb), ready_rd hr (r := xc), ready_wr hr]
  refine ⟨⟨_, srOp_gives rfl hr rfl, min_slt_toInt ..⟩, ⟨_, srOp_gives rfl hr rfl, max_slt_toInt ..⟩,
    ⟨_, srOp_gives rfl hr rfl, min_ult_toNat ..⟩, ⟨_, srOp_gives rfl hr rfl, max_ult_toNat ..⟩,
    srOp_gives rfl hr (boolWord_eq_ite BitVec.slt_iff_toInt_lt), srOp_gives rfl hr (boolWord_eq_ite BitVec.ult_iff_toNat_lt),
    srOp_gives rfl hr (boolWord_eq_ite beq_iff_eq), srOp_gives rfl hr ?sne, srOp1_gives rfl hr (boolWord_eq_ite ?slti),
    srOp1_gives rfl hr (boolWord_eq_ite ?sltiu), completes_of_guarded rfl hsel (putX_inFlight ..),
    ⟨_, srOp1_gives rfl hr rfl, clzWord_spec a⟩, ⟨_, srOp1_gives rfl hr rfl, ctzWord_spec a⟩,
    ⟨_, srOp1_gives rfl hr rfl, popcWord_toNat a⟩⟩
  case sne => rw [boolWord_eq_ite bne_iff_ne, ite_not]
  case slti => rw [BitVec.slt_iff_toInt_lt, sext46_toInt]
  case sltiu => rw [BitVec.ult_iff_toNat_lt, ← sext46_toNat, Int.ofNat_lt]

/-! ## Division (R96) -/

/-- By zero the quotient is all ones and the remainder the dividend. -/
theorem divRem_zero (signed : Bool) (a : Word) : divRem signed a 0 = (0xFFFFFFFFFFFFFFFF#64, a) := rfl

/-- The one quotient that does not fit stays the least number. -/
theorem divRem_overflow : divRem true 0x8000000000000000#64 0xFFFFFFFFFFFFFFFF#64 = (0x8000000000000000#64, 0) := by decide

/-- But for the one overflow a signed quotient fits a double (R96). -/
theorem divRem_signed {a b : Word} (hb : b ≠ 0) (ho : ¬(a = 0x8000000000000000#64 ∧ b = 0xFFFFFFFFFFFFFFFF#64)) :
    (divRem true a b).1.toInt = a.toInt.tdiv b.toInt ∧
      (divRem true a b).2.toInt = a.toInt - (divRem true a b).1.toInt * b.toInt := by
  have hover : (a = 0x8000000000000000#64 && b = BitVec.allOnes 64) = false := by simpa using ho
  have hq : (divRem true a b).1.toInt = a.toInt.tdiv b.toInt := by
    rw [divRem, if_neg hb, if_pos rfl, hover, if_neg (by decide), BitVec.toInt_ofInt, ← BitVec.toInt_sdiv]
    exact BitVec.toInt_sdiv_of_ne_or_ne a b (not_and_or.1 ho)
  have hr : (divRem true a b).2.toInt = a.toInt.tmod b.toInt := by
    rw [divRem, if_neg hb, if_pos rfl, hover, if_neg (by decide), ← BitVec.toInt_srem, BitVec.ofInt_toInt]
  rw [hq, hr, Int.tmod_def, Int.mul_comm]
  exact ⟨rfl, rfl⟩

theorem divRem_unsigned {a b : Word} (hb : b ≠ 0) : (divRem false a b).1.toNat = a.toNat / b.toNat ∧
    (divRem false a b).2.toNat = a.toNat - (divRem false a b).1.toNat * b.toNat := by
  have hq : (divRem false a b).1.toNat = a.toNat / b.toNat := by
    have := Nat.div_le_self a.toNat b.toNat
    rw [divRem, if_neg hb, if_neg (by decide), BitVec.toNat_ofNat, Nat.mod_eq_of_lt (by omega)]
  have hr : (divRem false a b).2.toNat = a.toNat % b.toNat := by
    have := Nat.mod_le a.toNat b.toNat
    rw [divRem, if_neg hb, if_neg (by decide), BitVec.toNat_ofNat, Nat.mod_eq_of_lt (by omega)]
  rw [hq, hr, Nat.mul_comm]
  exact ⟨rfl, Nat.mod_eq_sub_mul_div⟩

/-- Settles O11: the cases of R96 are those of `divRem`. -/
theorem divisionResults : Obligations.DivisionResults := by
  unfold Obligations.DivisionResults
  intro xd xa xb s hr a b least ones
  refine ⟨(divRem true a b).1, (divRem true a b).2, (divRem false a b).1, (divRem false a b).2, srOp_gives rfl hr rfl,
    srOp_gives rfl hr rfl, srOp_gives rfl hr rfl, srOp_gives rfl hr rfl, fun hb => ?_, fun ⟨ha, hb⟩ => ?_,
    fun ⟨hb, ho⟩ => divRem_signed hb ho, fun hb => divRem_unsigned hb⟩
  · rw [hb]; exact ⟨rfl, rfl, rfl, rfl⟩
  · rw [ha, hb]; exact ⟨congrArg Prod.fst divRem_overflow, congrArg Prod.snd divRem_overflow⟩

/-! ## The class of an FP32 code (R104) -/

/-- FCLASS's bit is the one of its operand's class, and no other. -/
theorem fpClassBit_f32 {c k m : Nat} (h : c < 2 ^ 32) (hk : k = fpClassBit f32 c) (hm : m = c % 2 ^ 31) :
    (k = 0 ↔ m = 0x7F800000 ∧ 2 ^ 31 ≤ c) ∧ (k = 1 ↔ 0x00800000 ≤ m ∧ m < 0x7F800000 ∧ 2 ^ 31 ≤ c) ∧
      (k = 2 ↔ 0 < m ∧ m < 0x00800000 ∧ 2 ^ 31 ≤ c) ∧ (k = 3 ↔ m = 0 ∧ 2 ^ 31 ≤ c) ∧ (k = 4 ↔ m = 0 ∧ ¬2 ^ 31 ≤ c) ∧
      (k = 5 ↔ 0 < m ∧ m < 0x00800000 ∧ ¬2 ^ 31 ≤ c) ∧ (k = 6 ↔ 0x00800000 ≤ m ∧ m < 0x7F800000 ∧ ¬2 ^ 31 ≤ c) ∧
      (k = 7 ↔ m = 0x7F800000 ∧ ¬2 ^ 31 ≤ c) ∧ (k = 8 ↔ 0x7F800000 < m ∧ m < 0x7FC00000) ∧ (k = 9 ↔ 0x7FC00000 ≤ m) ∧ k ≤ 9 := by
  have hquiet : c / 2 ^ (f32.f - 1) % 2 = 1 ↔ 0x400000 ≤ m % 2 ^ 23 := by
    show c / 2 ^ 22 % 2 = 1 ↔ _
    omega
  have hsub : f32.mag c < 2 ^ f32.f ↔ m < 0x800000 := by rw [hm]; rfl
  have hlt : m < 2 ^ 31 := hm ▸ Nat.mod_lt _ (by decide)
  simp only [fpClassBit, f32_isNaN, f32_isInf, f32_isZero, f32_sign h, decide_eq_true_eq, hquiet, hsub, ← hm] at hk
  clear hquiet hsub hm
  split_ifs at hk <;> omega

/-- Settles O13: the bit of the class of the operand's low half. -/
theorem fclassSetsOneBit : Obligations.FclassSetsOneBit := fun _ _ _ hr =>
  ⟨_, fpOp1_gives rfl hr rfl, fpClassBit_f32 (lo32_lt _) rfl rfl⟩

end Sys2Proof.Machine
end

section
/-! PROOF. The values that reset leaves (R108, R149, R189, R206 to R208, R253, R276, R306, R352, R391, R397). -/

namespace Sys2Proof.Machine

/-- Every element of a vector of one value, at an index of the vector. -/
theorem replicate_get {α : Type} (n : Nat) (v : α) (k : Fin n) : (Vector.replicate n v)[k] = v := Vector.getElem_replicate k.isLt

/-- The shadow bank of the matrix station is zero but for its last register (R206). -/
theorem reset_shadow (k : Fin 9) : State.reset.mx.shadow[k] = 0 := by
  have h : State.reset.mx.shadow[k] = ((Vector.replicate 10 0).set 9 0x1F8)[k.val]'(by omega) := rfl
  rw [h, Vector.getElem_set_ne _ _ (by omega), Vector.getElem_replicate]

/-- Settles O3: a vector at reset holds one value throughout, but for the shadow bank's last register. -/
theorem resetState : Obligations.ResetState :=
  ⟨rfl, rfl, rfl, rfl, rfl, rfl, rfl, rfl, rfl, rfl, rfl, rfl, replicate_get 128 _, fun m => ⟨replicate_get 4 _ m, replicate_get 4 _ m⟩,
    fun q => congrArg PortState.bound (replicate_get 8 _ q), replicate_get 16 _, replicate_get 8 _, reset_shadow, rfl,
    replicate_get 256 _, rfl, rfl, rfl, rfl, rfl, rfl, rfl, rfl, rfl, rfl, rfl, rfl⟩

end Sys2Proof.Machine
end

section
/-! PROOF. Both memories stay canonical (R99, R10; log 3): which functions of the model leave the cell's memory and HBM as they
were, what the writers do to them, and from these that every step keeps both in canonical form. -/

namespace Sys2Proof.Machine

/-! ## Functions that leave both memories as they were -/

/-- Both memories are as before: `SameMem` as two equations that `simp` takes apart. -/
@[simp] abbrev MemKept (s t : State) : Prop := t.ann.mem = s.ann.mem ∧ t.cp.hbm = s.cp.hbm

theorem MemKept.trans {s t u : State} (h : MemKept s t) (g : MemKept t u) : MemKept s u := SameMem.trans h g

theorem MemKept.foldl {α : Type} {f : State → α → State} (h : ∀ u a, MemKept u (f u a)) (l : List α) (s : State) :
    MemKept s (l.foldl f s) :=
  foldl_sameMem h l s

@[simp] theorem ite_mem {c : Prop} [Decidable c] (a b : State) : (if c then a else b).ann.mem = if c then a.ann.mem else b.ann.mem := by
  split <;> rfl

@[simp] theorem ite_hbm {c : Prop} [Decidable c] (a b : State) : (if c then a else b).cp.hbm = if c then a.cp.hbm else b.cp.hbm := by
  split <;> rfl

@[simp] theorem foldl_mem {α : Type} {f : State → α → State} (h : ∀ u a, (f u a).ann.mem = u.ann.mem) (l : List α) (s : State) :
    (l.foldl f s).ann.mem = s.ann.mem :=
  foldl_keeps (g := fun u => u.ann.mem) h l s

@[simp] theorem foldl_hbm {α : Type} {f : State → α → State} (h : ∀ u a, (f u a).cp.hbm = u.cp.hbm) (l : List α) (s : State) :
    (l.foldl f s).cp.hbm = s.cp.hbm :=
  foldl_keeps (g := fun u => u.cp.hbm) h l s

/-- What each turn of a fold over pairs keeps, the fold keeps. -/
theorem foldl_snd_keeps {α β γ δ : Type} {g : γ → δ} {f : β × γ → α → β × γ} (h : ∀ p a, g (f p a).2 = g p.2) (l : List α)
    (p : β × γ) : g (l.foldl f p).2 = g p.2 := by
  induction l generalizing p with
  | nil => rfl
  | cons a l ih => exact (ih _).trans (h p a)

@[simp] theorem foldl_snd_mem {α β : Type} {f : β × State → α → β × State} (h : ∀ p a, (f p a).2.ann.mem = p.2.ann.mem) (l : List α)
    (p : β × State) : (l.foldl f p).2.ann.mem = p.2.ann.mem :=
  foldl_snd_keeps (g := fun u : State => u.ann.mem) h l p

@[simp] theorem foldl_snd_hbm {α β : Type} {f : β × State → α → β × State} (h : ∀ p a, (f p a).2.cp.hbm = p.2.cp.hbm) (l : List α)
    (p : β × State) : (l.foldl f p).2.cp.hbm = p.2.cp.hbm :=
  foldl_snd_keeps (g := fun u : State => u.cp.hbm) h l p

theorem MemKept.ite {s a b : State} {c : Prop} [Decidable c] (ha : MemKept s a) (hb : MemKept s b) : MemKept s (if c then a else b) := by
  split
  · exact ha
  · exact hb

theorem SameMem.ite {s a b : State} {c : Prop} [Decidable c] (ha : SameMem s a) (hb : SameMem s b) : SameMem s (if c then a else b) := by
  split
  · exact ha
  · exact hb

/-! ### Registers, results, traps, sector accesses and semaphores -/

theorem fresh_memKept (s : State) : MemKept s s.fresh.2 := SameMem.refl s

theorem plan_memKept (s : State) (c r : Nat) (a : Act) : MemKept s (s.plan c r a) := SameMem.refl s

@[simp] theorem foldl_plan_memKept {α : Type} (cyc rank : α → Nat) (g : α → Act) (l : List α) (s : State) :
    MemKept s (l.foldl (fun u a => u.plan (cyc a) (rank a) (g a)) s) := MemKept.foldl (fun _ _ => plan_memKept ..) l s

@[simp] theorem setX_memKept (r : Reg) (v : Word) (s : State) : MemKept s (s.setX r v) := by simp [State.setX]

@[simp] theorem enqueue_memKept (d : Dest) (lat : Nat) (residue : Bool) (s : State) : MemKept s (s.enqueue d lat residue) := ⟨rfl, rfl⟩

@[simp] theorem putX_memKept (r : Reg) (v : Word) (lat : Nat) (residue : Bool) (s : State) : MemKept s (s.putX r v lat residue) := ⟨rfl, rfl⟩

@[simp] theorem sysLand_memKept (num : BitVec 12) (v : Word) (s : State) : MemKept s (s.sysLand num v) := sysLand_sameMem s num v

@[simp] theorem landDest_memKept (d : Dest) (s : State) : MemKept s (s.landDest d) := landDest_sameMem s d

@[simp] theorem hwSys_memKept (num : BitVec 12) (get : State → Word) (f : Word → Word) (s : State) : MemKept s (s.hwSys num get f) :=
  hwSys_sameMem s num get f

@[simp] theorem countArc_memKept (u : Nat) (s : State) : MemKept s (s.countArc u) := by simp [State.countArc]

@[simp] theorem clearInj_memKept (slot : Fin 8) (s : State) : MemKept s (s.clearInj slot) := ⟨rfl, rfl⟩

@[simp] theorem noteCheck_memKept (w : PendingWrite) (s : State) : MemKept s (s.noteCheck w) := noteCheck_sameMem s w

@[simp] theorem unpush_memKept (s : State) (w : PendingWrite) : MemKept s (s.unpush w) := unpush_sameMem s w

@[simp] theorem landAll_memKept (s : State) : MemKept s s.landAll := landAll_sameMem s

@[simp] theorem stopWith_memKept (status : BitVec 16) (s : State) : MemKept s (s.stopWith status) := by simp [State.stopWith]

@[simp] theorem enterTrap_memKept (t : TrapRec) (s : State) : MemKept s (s.enterTrap t) := enterTrap_sameMem s t

@[simp] theorem takeTrap_memKept (t : TrapReq) (s : State) : MemKept s (s.takeTrap t) := takeTrap_sameMem s t

@[simp] theorem returnTrap_memKept (s : State) : MemKept s s.returnTrap := ⟨rfl, rfl⟩

@[simp] theorem oweTrap_memKept (t : TrapRec) (s : State) : MemKept s (s.oweTrap t) := ⟨rfl, rfl⟩

@[simp] theorem oweCheck_memKept (t : TrapRec) (s : State) : MemKept s (s.oweCheck t) := ⟨rfl, rfl⟩

@[simp] theorem guarded_memKept {k : State → State} (s : State) (l : List (Option TrapReq)) (h : MemKept s (k s)) : MemKept s (s.guarded l k) :=
  guarded_sameMem h

@[simp] theorem claim_memKept (sec : Fin 8) (cyc : Nat) (write : Bool) (o : Owner) (s : State) : MemKept s (s.claim sec cyc write o) := ⟨rfl, rfl⟩

@[simp] theorem unclaim_memKept (o : Owner) (from_ : Nat) (s : State) : MemKept s (s.unclaim o from_) := ⟨rfl, rfl⟩

@[simp] theorem unclaimReads_memKept (q : Fin 8) (from_ : Nat) (s : State) : MemKept s (s.unclaimReads q from_) := ⟨rfl, rfl⟩

@[simp] theorem countEcc_memKept (w n : Nat) (s : State) : MemKept s (s.countEcc w n) := ⟨rfl, rfl⟩

@[simp] theorem readRow_memKept (s : State) (sec : Fin 8) (row : Nat) : MemKept s (s.readRow sec row).2 := by simp [State.readRow]

@[simp] theorem cmdRow_memKept (s : State) (issued : Nat) (timed : Bool) (sec : Fin 8) (row : Nat) : MemKept s (s.cmdRow issued timed sec row).2 := by
  unfold State.cmdRow
  generalize (if timed then [] else s.oldBytes issued sec row) = old
  dsimp only
  split <;> simp

theorem onSem_memKept (s : State) (n : Fin 256) (f : Sem → Sem) : MemKept s (s.onSem n f) := SameMem.refl s

@[simp] theorem foldl_onSem_memKept {α : Type} (n : α → Fin 256) (g : α → Sem → Sem) (l : List α) (s : State) :
    MemKept s (l.foldl (fun u a => u.onSem (n a) (g a)) s) := MemKept.foldl (fun _ _ => onSem_memKept ..) l s

@[simp] theorem notePred_memKept (c : Cmd) (code : BitVec 8) (s : State) : MemKept s (s.notePred c code) := ⟨rfl, rfl⟩

@[simp] theorem signalCmd_memKept (c : Cmd) (bytes : Nat) (s : State) : MemKept s (s.signalCmd c bytes) := by simp [State.signalCmd]

@[simp] theorem failCmd_memKept (c : Cmd) (code detail : BitVec 8) (s : State) : MemKept s (s.failCmd c code detail) := by simp [State.failCmd]

@[simp] theorem applySignals_memKept (s : State) : MemKept s s.applySignals := by
  simp [State.applySignals]

/-! ### Places on the mesh -/

@[simp] theorem viewOf_memKept (s : State) (c : Cmd) : MemKept s (s.viewOf c) := by
  unfold State.viewOf
  split
  · split <;> simp
  · simp

@[simp] theorem planFor_memKept (v rank : Nat) (act : Act) (s : State) : MemKept s (s.planFor v rank act) := ⟨rfl, rfl⟩

/-! ### Ports and vector operands -/

@[simp] theorem onPort_memKept (q : Fin 8) (f : PortState → PortState) (s : State) : MemKept s (s.onPort q f) := ⟨rfl, rfl⟩

@[simp] theorem pop_memKept (q : Fin 8) (s : State) : MemKept s (s.pop q) := by simp [State.pop]

@[simp] theorem arrivePush_memKept (q : Fin 8) (gen : Nat) (r : Row) (cols : BitVec 128) (s : State) : MemKept s (s.arrivePush q gen r cols) := by
  unfold State.arrivePush
  split <;> simp

@[simp] theorem startPrefetch_memKept (q : Fin 8) (s : State) : MemKept s (s.startPrefetch q) := by simp [State.startPrefetch]

@[simp] theorem unbind_memKept (q : Fin 8) (s : State) : MemKept s (s.unbind q) := by simp [State.unbind]

@[simp] theorem resetPort_memKept (q : Fin 8) (s : State) : MemKept s (s.resetPort q) := by simp [State.resetPort]

@[simp] theorem popSrc_memKept (o : VOp) (s : State) : MemKept s (s.popSrc o) := by
  unfold State.popSrc
  split <;> simp

@[simp] theorem putRow_memKept (o : VOp) (cols : BitVec 128) (r : Row) (lat : Nat) (s : State) : MemKept s (s.putRow o cols r lat) := by
  unfold State.putRow
  split <;> simp

/-! ### Scalar instructions, loads and stores -/

@[simp] theorem srOp_memKept (lat : Nat) (residue : Bool) (f : Word → Word → Word) (xd xa xb : Reg) (s : State) :
    MemKept s (srOp lat residue f xd xa xb s) := by simp [srOp]

@[simp] theorem srOp1_memKept (lat : Nat) (residue : Bool) (f : Word → Word) (xd xa : Reg) (s : State) :
    MemKept s (srOp1 lat residue f xd xa s) := by simp [srOp1]

@[simp] theorem countLoad_memKept (a : Nat) (s : State) : MemKept s (s.countLoad a) := by simp [State.countLoad]

@[simp] theorem storeOp_memKept (op n : Nat) (xd xa : Reg) (imm : BitVec 46) (s : State) : MemKept s (storeOp op n xd xa imm s) := by simp [storeOp]

/-! ### Transfers and loops -/

@[simp] theorem transfer_memKept (target : Option Word) (s : State) : MemKept s (s.transfer target) := ⟨rfl, rfl⟩

@[simp] theorem branchOp_memKept (cond : Word → Word → Bool) (xa xb : Reg) (target : BitVec 15) (s : State) :
    MemKept s (branchOp cond xa xb target s) := by simp [branchOp]

@[simp] theorem callOp_memKept (checks : List (Option TrapReq)) (target : Word) (s : State) : MemKept s (callOp checks target s) := by simp [callOp]

@[simp] theorem takeSpare_memKept (s : State) : MemKept s s.takeSpare := ⟨rfl, rfl⟩

@[simp] theorem resetPorts_memKept (s : State) : MemKept s s.resetPorts := by simp [State.resetPorts]

@[simp] theorem boundaryZero_memKept (s : State) : MemKept s s.boundaryZero := by simp [State.boundaryZero]

/-! ### Commands abandoned, a cell cleared, the end of a launch -/

@[simp] theorem stopMatrix_memKept (s : State) : MemKept s s.stopMatrix := ⟨rfl, rfl⟩

@[simp] theorem abandon_memKept (stay : Cmd → Bool) (windows : Bool) (s : State) : MemKept s (s.abandon stay windows) := ⟨rfl, rfl⟩

@[simp] theorem stopLanes_memKept (s : State) : MemKept s s.stopLanes := by simp [State.stopLanes]

@[simp] theorem replayLanes_memKept (s : State) : MemKept s s.replayLanes := by simp [State.replayLanes]

@[simp] theorem prune_memKept (s : State) : MemKept s s.prune := ⟨rfl, rfl⟩

@[simp] theorem freeSectors_memKept (s : State) : MemKept s s.freeSectors := ⟨rfl, rfl⟩

@[simp] theorem freePred_memKept (s : State) : MemKept s s.freePred := ⟨rfl, rfl⟩

@[simp] theorem freeKept_memKept (x : SavedCtx) (s : State) : MemKept s (s.freeKept x) := ⟨rfl, rfl⟩

@[simp] theorem discard_memKept (lid : BitVec 32) (s : State) : MemKept s (s.discard lid) := by simp [State.discard]

@[simp] theorem endPred_memKept (lid : BitVec 32) (s : State) : MemKept s (s.endPred lid) := by
  unfold State.endPred
  split <;> simp

@[simp] theorem endProgram_memKept (lid : BitVec 32) (s : State) : MemKept s (s.endProgram lid) := by
  unfold State.endProgram
  dsimp only
  split <;> simp

@[simp] theorem finishEntry_memKept (id : Nat) (status cstat : BitVec 16) (handle : Word) (s : State) :
    MemKept s (s.finishEntry id status cstat handle) := ⟨rfl, rfl⟩

@[simp] theorem dropSlots_memKept (lid : BitVec 32) (s : State) : MemKept s (s.dropSlots lid) := ⟨rfl, rfl⟩

@[simp] theorem dropLaunch_memKept (l : LaunchRec) (s : State) : MemKept s (s.dropLaunch l) := by simp [State.dropLaunch]

@[simp] theorem endHere_memKept (lid : BitVec 32) (status cstat : BitVec 16) (s : State) : MemKept s (s.endHere lid status cstat) := by
  unfold State.endHere
  split <;> simp

@[simp] theorem endLaunch_memKept (lid : BitVec 32) (status cstat : BitVec 16) (s : State) :
    MemKept s (s.endLaunch lid status cstat) := by simp [State.endLaunch]

/-! ### System registers -/

@[simp] theorem sysModify_memKept (f : Word → Word → Word) (xd xa : Reg) (num : BitVec 12) (s : State) :
    MemKept s (sysModify f xd xa num s) := by simp [sysModify]

/-! ### Fetching and faults by the cycle -/

@[simp] theorem landWrite_memKept (w : PendingWrite) (s : State) : MemKept s (s.landWrite w) := by
  unfold State.landWrite
  split <;> simp

@[simp] theorem suppress_memKept (u : ArcUnit) (w : PendingWrite) (s : State) : MemKept s (s.suppress u w) := by simp [State.suppress]

@[simp] theorem dropStore_memKept (u : ArcUnit) (w : PendingStore) (s : State) : MemKept s (s.dropStore u w) := ⟨rfl, rfl⟩

/-! ### Segments, replay and lockstep pairs -/

@[simp] theorem beginBoundary_memKept (s : State) : MemKept s s.beginBoundary := by simp [State.beginBoundary]

@[simp] theorem loadMasks_memKept (g : Segment) (s : State) : MemKept s (s.loadMasks g) := ⟨rfl, rfl⟩

@[simp] theorem noteSegment_memKept (i : Nat) (s : State) : MemKept s (s.noteSegment i) := ⟨rfl, rfl⟩

@[simp] theorem startSegment_memKept (i : Nat) (g : Segment) (s : State) : MemKept s (s.startSegment i g) := ⟨rfl, rfl⟩

@[simp] theorem afterLast_memKept (s : State) : MemKept s s.afterLast := ⟨rfl, rfl⟩

@[simp] theorem nextSegment_memKept (s : State) : MemKept s s.nextSegment := by
  unfold State.nextSegment
  split <;> simp

@[simp] theorem holdTrap_memKept (n : Fin 256) (s : State) : MemKept s (s.holdTrap n) := by simp [State.holdTrap]

@[simp] theorem sendNotice_memKept (f q : Nat) (s : State) : MemKept s (s.sendNotice f q) := by
  unfold State.sendNotice
  repeat' split
  all_goals simp

@[simp] theorem restoreShadow_memKept (h : Shadow) (s : State) : MemKept s (s.restoreShadow h) := ⟨rfl, rfl⟩

@[simp] theorem backToStart_memKept (h : Shadow) (s : State) : MemKept s (s.backToStart h) := by simp [State.backToStart]

@[simp] theorem exhaust_memKept (s : State) : MemKept s s.exhaust := by
  unfold State.exhaust
  split <;> simp

@[simp] theorem raiseReplay_memKept (s : State) : MemKept s s.raiseReplay := by simp [State.raiseReplay]

@[simp] theorem waitReplay_memKept (from_ : Nat) (s : State) : MemKept s (s.waitReplay from_) := ⟨rfl, rfl⟩

@[simp] theorem lockMismatch_memKept (s : State) : MemKept s s.lockMismatch := by simp [State.lockMismatch]

/-! ### What follows a bundle -/

@[simp] theorem pauseCopies_memKept (s : State) : MemKept s s.pauseCopies := ⟨rfl, rfl⟩

@[simp] theorem beginCkpt_memKept (cp : Fin 256) (s : State) : MemKept s (s.beginCkpt cp) := ⟨rfl, rfl⟩

@[simp] theorem beginSave_memKept (cp : Option (Fin 256)) (s : State) : MemKept s (s.beginSave cp) := ⟨rfl, rfl⟩

@[simp] theorem afterSafe_memKept (a : BitVec 15) (cp : Option (Fin 256)) (s : State) : MemKept s (s.afterSafe a cp) := by simp [State.afterSafe]

@[simp] theorem finish_memKept (s : State) (b : Bundle) (t : State) : MemKept t (s.finish b t) := by
  unfold State.finish
  cases he : t.seq.effect with
  | hold => simp
  | eret => simp
  | halt => simp
  | _ => simp

/-! ### Lanes, ports and LMOV -/

@[simp] theorem setLmov_memKept (i : Nat) (r : LmovRun) (s : State) : MemKept s (s.setLmov i r) := ⟨rfl, rfl⟩

/-! ### What the stations share -/

@[simp] theorem onQueues_memKept (u : EUnit) (f : Queues → Queues) (s : State) : MemKept s (s.onQueues u f) := by
  unfold State.onQueues
  split <;> simp

@[simp] theorem countCmd_memKept (u : EUnit) (s : State) : MemKept s (s.countCmd u) := by
  unfold State.countCmd
  split <;> simp

@[simp] theorem recordFail_memKept (u : EUnit) (c : Cmd) (code : Nat) (s : State) : MemKept s (s.recordFail u c code) := by
  unfold State.recordFail
  split <;> simp

@[simp] theorem cmdFails_memKept (u : EUnit) (c : Cmd) (code detail : Nat) (s : State) :
    MemKept s (s.cmdFails u c code detail) := by simp [State.cmdFails]

@[simp] theorem spoilTable_memKept (c : Cmd) (s : State) : MemKept s (s.spoilTable c) := by
  unfold State.spoilTable
  split <;> simp

@[simp] theorem plainFail_memKept (u : EUnit) (c : Cmd) (code : Nat) (s : State) : MemKept s (s.plainFail u c code) := by simp [State.plainFail]

@[simp] theorem enqueueCmd_memKept (u : EUnit) (c : Cmd) (s : State) : MemKept s (s.enqueueCmd u c) := by simp [State.enqueueCmd]

@[simp] theorem claimRead_memKept (u : EUnit) (c : Cmd) (sec : Fin 8) (row : Nat) (s : State) : MemKept s (s.claimRead u c sec row).2 := by
  simp [State.claimRead]

@[simp] theorem cmdDone_memKept (c : Cmd) (bytes : Nat) (s : State) : MemKept s (s.cmdDone c bytes) := by simp [State.cmdDone]

/-! ### HBM and the walks of the map unit -/

@[simp] theorem takeBank_memKept (a : Nat) (s : State) : MemKept s (s.takeBank a) := ⟨rfl, rfl⟩

@[simp] theorem readHbm_memKept (s : State) (a : Nat) : MemKept s (s.readHbm a).2 := by
  unfold State.readHbm
  dsimp only
  split
  · simp
  · split <;> simp

@[simp] theorem walkRead_memKept (p : Bool × State) (a : Nat) : MemKept p.2 (State.walkRead p a).2 := by
  simp [State.walkRead]

@[simp] theorem walkPage_memKept (s : State) (ctx : Word) (dva : Nat) (write : Bool) : MemKept s (s.walkPage ctx dva write).2 := by
  unfold State.walkPage
  dsimp only
  split
  · simp
  · split <;> simp

/-! ### What the Apex writes and reads -/

@[simp] theorem pushEventAt_memKept (absc : Word) (kind queue cell : Nat) (lid : BitVec 32) (data : Nat) (s : State) :
    MemKept s (s.pushEventAt absc kind queue cell lid data) := ⟨rfl, rfl⟩

@[simp] theorem pushEvent_memKept (kind queue cell : Nat) (lid : BitVec 32) (data : Nat) (s : State) :
    MemKept s (s.pushEvent kind queue cell lid data) := ⟨rfl, rfl⟩

@[simp] theorem onQueue_memKept (q : Fin 64) (f : QueueDesc → QueueDesc) (s : State) : MemKept s (s.onQueue q f) := ⟨rfl, rfl⟩

@[simp] theorem onHeap_memKept (id : Nat) (f : HeapEnt → HeapEnt) (s : State) : MemKept s (s.onHeap id f) := ⟨rfl, rfl⟩

@[simp] theorem pageRequest_memKept (pasid : BitVec 20) (page : Nat) (s : State) : MemKept s (s.pageRequest pasid page) := by simp [State.pageRequest]

@[simp] theorem parkQueue_memKept (q : Fin 64) (s : State) : MemKept s (s.parkQueue q) := by simp [State.parkQueue]

@[simp] theorem parkSignal_memKept (e : HeapEnt) (a : Nat) (s : State) : MemKept s (s.parkSignal e a) := by simp [State.parkSignal]

@[simp] theorem serveApex_memKept (host : Bool) (ctx page : Nat) (ok : Bool) (s : State) : MemKept s (s.serveApex host ctx page ok) := by
  unfold State.serveApex
  dsimp only
  refine MemKept.trans (MemKept.foldl (fun u q => ?_) (List.finRange 64) s) (MemKept.foldl (fun u e => ?_) _ _)
  · simp
  · split <;> simp

@[simp] theorem apexAts_memKept (pasid : BitVec 20) (page : Nat) (r : AtsResult) (s : State) : MemKept s (s.apexAts pasid page r) := by
  unfold State.apexAts
  dsimp only
  refine MemKept.trans (MemKept.foldl (fun u q => ?_) (List.finRange 64) s) (MemKept.foldl (fun u e => ?_) _ _)
  · split
    · split <;> simp
    · simp
  · split
    · simp
    · split
      · split <;> simp
      · simp

/-! ### The copy station's entries -/

@[simp] theorem onEnt_memKept (idx : BitVec 24) (f : CopyEnt → CopyEnt) (s : State) : MemKept s (s.onEnt idx f) := ⟨rfl, rfl⟩

@[simp] theorem copyIssue_memKept (e : ECtl) (op : Instr) (timed : Cmd → Bool) (rows : Cmd → Nat) (s : State) :
    MemKept s (copyIssue e op timed rows s) := by simp [copyIssue]

@[simp] theorem wakeCopies_memKept (s : State) : MemKept s s.wakeCopies := by simp [State.wakeCopies]

@[simp] theorem firstTick_memKept (s : State) : MemKept s s.firstTick := by simp [State.firstTick]

@[simp] theorem checkAbns_memKept (idx : BitVec 24) (s : State) : MemKept s (s.checkAbns idx) := by simp [State.checkAbns]

@[simp] theorem dropCopy_memKept (idx : BitVec 24) (s : State) : MemKept s (s.dropCopy idx) := by simp [State.dropCopy]

@[simp] theorem copyFails_memKept (idx : BitVec 24) (code detail : Nat) (s : State) : MemKept s (s.copyFails idx code detail) := by
  unfold State.copyFails
  split <;> simp

@[simp] theorem stopCopy_memKept (idx : BitVec 24) (code detail : Nat) (s : State) : MemKept s (s.stopCopy idx code detail) := by
  unfold State.stopCopy
  split <;> simp

@[simp] theorem landViolations_memKept (s : State) : MemKept s s.landViolations := by simp [State.landViolations]

@[simp] theorem violate_memKept (c : Cmd) (kind : Nat) (addr : Word) (s : State) : MemKept s (s.violate c kind addr) := by simp [State.violate]

@[simp] theorem violation_memKept (idx : BitVec 24) (kind : Nat) (s : State) : MemKept s (s.violation idx kind) := by
  unfold State.violation
  split <;> simp

@[simp] theorem pushRecord_memKept (r : FaultRec) (s : State) : MemKept s (s.pushRecord r) := ⟨rfl, rfl⟩

@[simp] theorem faultCopy_memKept (idx : BitVec 24) (kind : Nat) (s : State) : MemKept s (s.faultCopy idx kind) := by
  unfold State.faultCopy
  split <;> simp

@[simp] theorem wantedRecord_memKept (s : State) : MemKept s s.wantedRecord := by
  unfold State.wantedRecord
  repeat' split
  all_goals simp

@[simp] theorem translated_memKept (idx : BitVec 24) (x : Xlate) (s : State) : MemKept s (s.translated idx x) := by simp [State.translated]

@[simp] theorem placeRow_memKept (idx : BitVec 24) (base frame : Nat) (rem : Option Nat) (dva : Nat) (s : State) :
    MemKept s (s.placeRow idx base frame rem dva) := by
  unfold State.placeRow
  split <;> simp

@[simp] theorem awaitHost_memKept (idx : BitVec 24) (k : Nat) (s : State) : MemKept s (s.awaitHost idx k) := ⟨rfl, rfl⟩

@[simp] theorem beginHost_memKept (e : CopyEnt) (dva : Nat) (s : State) : MemKept s (s.beginHost e dva) := by
  unfold State.beginHost
  dsimp only
  repeat' split
  all_goals simp

@[simp] theorem beginXlate_memKept (idx : BitVec 24) (s : State) : MemKept s (s.beginXlate idx) := by
  unfold State.beginXlate
  dsimp only
  repeat' split
  all_goals simp

@[simp] theorem hostAnswer_memKept (page : Nat) (r : AtsResult) (idx : BitVec 24) (s : State) : MemKept s (s.hostAnswer page r idx) := by
  unfold State.hostAnswer
  repeat' split
  all_goals simp

@[simp] theorem resumeCopy_memKept (idx : BitVec 24) (s : State) : MemKept s (s.resumeCopy idx) := by simp [State.resumeCopy]

@[simp] theorem pageAnswer_memKept (host : Bool) (ctx page : Nat) (ok : Bool) (s : State) :
    MemKept s (s.pageAnswer host ctx page ok) := by simp [State.pageAnswer]

/-! ### ATOM -/

@[simp] theorem sendAtom_memKept (idx : BitVec 24) (s : State) : MemKept s (s.sendAtom idx) := by
  unfold State.sendAtom
  dsimp only
  repeat' split
  all_goals simp

@[simp] theorem startAtom_memKept (idx : BitVec 24) (s : State) : MemKept s (s.startAtom idx) := by
  unfold State.startAtom
  repeat' split
  all_goals simp

@[simp] theorem onAtomTab_memKept (r : AtomReq) (f : ReplayTab → ReplayTab) (s : State) : MemKept s (s.onAtomTab r f) := by
  unfold State.onAtomTab
  split <;> simp

@[simp] theorem answerAtom_memKept (r : AtomReq) (e : AtomEnd) (s : State) : MemKept s (s.answerAtom r e) := by simp [State.answerAtom]

@[simp] theorem knowAtom_memKept (e : CopyEnt) (s : State) : MemKept s (s.knowAtom e) := ⟨rfl, rfl⟩

@[simp] theorem loseAtom_memKept (idx : BitVec 24) (s : State) : MemKept s (s.loseAtom idx) := by
  unfold State.loseAtom
  repeat' split
  all_goals simp

@[simp] theorem loseAtoms_memKept (s : State) : MemKept s s.loseAtoms := by simp [State.loseAtoms]

/-! ### Copies -/

@[simp] theorem startCopy_memKept (idx : BitVec 24) (s : State) : MemKept s (s.startCopy idx) := by
  unfold State.startCopy
  split <;> simp

@[simp] theorem takeLane_memKept (sec : Fin 8) (s : State) : MemKept s (s.takeLane sec) := ⟨rfl, rfl⟩

@[simp] theorem settle_memKept (idx : BitVec 24) (gap : Nat) (s : State) : MemKept s (s.settle idx gap) := by
  unfold State.settle
  repeat' split
  all_goals simp

@[simp] theorem endCopy_memKept (idx : BitVec 24) (s : State) : MemKept s (s.endCopy idx) := by
  unfold State.endCopy
  repeat' split
  all_goals simp

@[simp] theorem copyClaim_memKept (idx : BitVec 24) (k : Nat) (write : Bool) (data : Row) (s : State) : MemKept s (s.copyClaim idx k write data) := by
  unfold State.copyClaim
  dsimp only
  repeat' split
  all_goals simp

@[simp] theorem sendRow_memKept (c : Cmd) (k : Nat) (row : Row) (poisoned : Bool) (s : State) :
    MemKept s (s.sendRow c k row poisoned) := by simp [State.sendRow]

@[simp] theorem issueTimed_memKept (e : CopyEnt) (k : Nat) (s : State) : MemKept s (s.issueTimed e k) := by
  unfold State.issueTimed
  dsimp only
  split <;> simp

@[simp] theorem later_memKept (rank : Nat) (a : Act) (s : State) : MemKept s (s.later rank a) := ⟨rfl, rfl⟩

@[simp] theorem outRow_memKept (e : CopyEnt) (k : Nat) (row : Row) (s : State) : MemKept s (s.outRow e k row) := by
  unfold State.outRow
  dsimp only
  repeat' split
  all_goals simp

@[simp] theorem issueUntimed_memKept (e : CopyEnt) (k : Nat) (s : State) : MemKept s (s.issueUntimed e k) := by
  unfold State.issueUntimed
  dsimp only
  repeat' split
  all_goals simp

@[simp] theorem copyTick_memKept (s : State) : MemKept s s.copyTick := by
  unfold State.copyTick
  dsimp only
  split <;> simp

@[simp] theorem lostRow_memKept (idx : BitVec 24) (k : Nat) (f : Nat × Nat) (s : State) : MemKept s (s.lostRow idx k f) := by simp [State.lostRow]

@[simp] theorem farVerdict_memKept (src : Peer) (lid : BitVec 32) (idx : BitVec 24) (k : Nat) (data : Row) (inner outer : Nat) (tchk : Bool)
    (tag : BitVec 16) (s : State) : MemKept s (s.farVerdict src lid idx k data inner outer tchk tag).2 := by
  unfold State.farVerdict
  dsimp only
  split
  · simp
  · split <;> simp

@[simp] theorem startAbn_memKept (idx : BitVec 24) (s : State) : MemKept s (s.startAbn idx) := by
  unfold State.startAbn
  split <;> simp

/-! ### Timed sends and landing windows -/

@[simp] theorem startSend_memKept (idx : BitVec 24) (s : State) : MemKept s (s.startSend idx) := by
  unfold State.startSend
  dsimp only
  repeat' split
  all_goals simp

@[simp] theorem startRecv_memKept (idx : BitVec 24) (s : State) : MemKept s (s.startRecv idx) := by
  unfold State.startRecv
  split <;> simp

@[simp] theorem onWin_memKept (w : Fin 16) (f : LandWin → LandWin) (s : State) : MemKept s (s.onWin w f) := ⟨rfl, rfl⟩

@[simp] theorem landFault_memKept (t : TrapReq) (s : State) : MemKept s (s.landFault t) := ⟨rfl, rfl⟩

@[simp] theorem failWindow_memKept (w : Fin 16) (code : Nat) (s : State) : MemKept s (s.failWindow w code) := by
  unfold State.failWindow
  split <;> simp

@[simp] theorem windowRow_memKept (w : Fin 16) (k : Nat) (data : Row) (poisoned : Bool) (s : State) : MemKept s (s.windowRow w k data poisoned) := by
  unfold State.windowRow
  dsimp only
  repeat' split
  all_goals simp

@[simp] theorem flitFault_memKept (p : Fin 18) (s : State) : MemKept s (s.flitFault p) := ⟨rfl, rfl⟩

@[simp] theorem joinTile_memKept (r : TimedRow) (s : State) : MemKept s (s.joinTile r).2 := by
  simp [State.joinTile]

@[simp] theorem recvTile_memKept (a : InTile) (r : TimedRow) (red : Fin 8 × Fin 512 × Fmt × RMode × Bool × BitVec 16) (s : State) :
    MemKept s (s.recvTile a r red) := by simp [State.recvTile]

@[simp] theorem landRed_memKept (r : TimedRow) (red : Fin 8 × Fin 512 × Fmt × RMode × Bool × BitVec 16) (s : State) :
    MemKept s (s.landRed r red) := by simp [State.landRed]

/-! ### The Abscissa -/

@[simp] theorem stepAbscissa_memKept (n : Int) (s : State) : MemKept s (s.stepAbscissa n) := ⟨rfl, rfl⟩

@[simp] theorem keeper_memKept (s : State) : MemKept s s.keeper := by simp [State.keeper]

@[simp] theorem dropFlit_memKept (p : Fin 18) (f : Flit) (s : State) : MemKept s (s.dropFlit p f) := by
  unfold State.dropFlit
  split <;> simp

@[simp] theorem deskew_memKept (p : Fin 18) (f : Flit) (s : State) : MemKept s (s.deskew p f) := by simp [State.deskew]

/-! ### The collective station -/

@[simp] theorem collIssue_memKept (e : ECtl) (op : Instr) (s : State) : MemKept s (collIssue e op s) := by simp [collIssue]

@[simp] theorem freeSend_memKept (cyc : Nat) (s : State) : MemKept s (s.freeSend cyc) := ⟨rfl, rfl⟩

@[simp] theorem startColl_memKept (c : Cmd) (s : State) : MemKept s (s.startColl c) := by
  unfold State.startColl
  split <;> simp

@[simp] theorem sendTo_memKept (c : Cmd) (row : TimedRow) (s : State) (p : Peer) : MemKept s (State.sendTo c row s p) := by
  unfold State.sendTo
  dsimp only
  split <;> simp

@[simp] theorem sendTick_memKept (s : State) : MemKept s s.sendTick := by
  unfold State.sendTick
  dsimp only
  repeat' split
  all_goals simp

@[simp] theorem endColl_memKept (idx : BitVec 24) (s : State) : MemKept s (s.endColl idx) := by
  unfold State.endColl
  split <;> simp

@[simp] theorem setRecv_memKept (r r' : RecvRun) (s : State) : MemKept s (s.setRecv r r') := ⟨rfl, rfl⟩

@[simp] theorem dropRecv_memKept (r : RecvRun) (s : State) : MemKept s (s.dropRecv r) := ⟨rfl, rfl⟩

@[simp] theorem fixRecv_memKept (r v : RecvRun) (s : State) : MemKept s (s.fixRecv r v) := by
  unfold State.fixRecv
  split
  · simp
  · split <;> simp

@[simp] theorem recvStep_memKept (r : RecvRun) (s : State) : MemKept s (s.recvStep r) := by
  unfold State.recvStep
  dsimp only
  repeat' split
  all_goals simp

@[simp] theorem recvTick_memKept (s : State) : MemKept s s.recvTick := by simp [State.recvTick]

@[simp] theorem recvMismatch_memKept (pick : Nat) (s : State) : MemKept s (s.recvMismatch pick) := by
  unfold State.recvMismatch
  split <;> simp

/-! ### The matrix station -/

@[simp] theorem statSample_memKept (r : Reg) (sel : Fin 7) (s : State) : MemKept s (s.statSample r sel) := ⟨rfl, rfl⟩

@[simp] theorem dropArray_memKept (s : State) : MemKept s s.dropArray := ⟨rfl, rfl⟩

@[simp] theorem dropDrain_memKept (s : State) : MemKept s s.dropDrain := ⟨rfl, rfl⟩

@[simp] theorem failArray_memKept (code : Nat) (s : State) : MemKept s (s.failArray code) := by
  unfold State.failArray
  split <;> simp

@[simp] theorem failDrain_memKept (code : Nat) (s : State) : MemKept s (s.failDrain code) := by
  unfold State.failDrain
  split <;> simp

@[simp] theorem failDrainOf_memKept (array : Bool) (code : Nat) (s : State) : MemKept s (s.failDrainOf array code) := by simp [State.failDrainOf]

@[simp] theorem abandoned_memKept (c : Cmd) (s : State) : MemKept s (s.abandoned c) := by simp [State.abandoned]

@[simp] theorem abandonArray_memKept (s : State) : MemKept s s.abandonArray := by
  unfold State.abandonArray
  split <;> simp

@[simp] theorem abandonDrain_memKept (s : State) : MemKept s s.abandonDrain := by
  unfold State.abandonDrain
  repeat' split
  all_goals simp

@[simp] theorem planReads_memKept (r : ArrayRun) (s : State) : MemKept s (s.planReads r) := by simp [State.planReads]

theorem arrayRow_memKept {s t : State} {c : Cmd} {p : Fin 8 × Nat} {k : Nat} {r : Row} (h : s.arrayRow c p k = .ok (r, t)) : MemKept s t := by
  unfold State.arrayRow at h
  dsimp only at h
  split at h
  · cases h
  · have ht := congrArg Prod.snd (Except.ok.inj h)
    subst ht
    exact claimRead_memKept ..

theorem arrayRow_map_memKept {α : Type} {s t : State} {c : Bool} {cmd : Cmd} {p : Fin 8 × Nat} {k : Nat} {f : Row → α} {r q : α}
    (h : (if c then (s.arrayRow cmd p k).map fun p => (f p.1, p.2) else .ok (r, s)) = .ok (q, t)) : MemKept s t := by
  split at h
  · cases ha : s.arrayRow cmd p k with
    | error e => rw [ha] at h; cases h
    | ok v => rw [ha] at h; cases h; exact arrayRow_memKept ha
  · cases h; exact SameMem.refl s

@[simp] theorem arrayRead_memKept (s : State) : MemKept s s.arrayRead := by
  unfold State.arrayRead
  split
  · simp
  · next r _ =>
    dsimp only
    split
    · simp
    · next r' u ha =>
      have hu : MemKept s u := arrayRow_map_memKept (f := fun row => { r with bufA := r.bufA ++ [row] }) ha
      split
      · exact hu.trans (failArray_memKept ..)
      · next r'' v hb =>
        have hv : MemKept u v := arrayRow_map_memKept (f := fun row => { r' with bufB := r'.bufB ++ [row] }) hb
        refine MemKept.trans hu (MemKept.trans hv ?_)
        split <;> simp

@[simp] theorem startMxgo_memKept (c : Cmd) (zacc : Bool) (s : State) : MemKept s (s.startMxgo c zacc) := by simp [State.startMxgo]

@[simp] theorem startMxldb_memKept (c : Cmd) (s : State) : MemKept s (s.startMxldb c) := by simp [State.startMxldb]

@[simp] theorem beginDrain_memKept (array : Bool) (d : DrainRun) (s : State) : MemKept s (s.beginDrain array d) := by simp [State.beginDrain]

@[simp] theorem startAccdr_memKept (c : Cmd) (acc0 : Bool) (s : State) : MemKept s (s.startAccdr c acc0) := by simp [State.startAccdr]

@[simp] theorem startAccz_memKept (c : Cmd) (a0 a1 : Bool) (s : State) : MemKept s (s.startAccz c a0 a1) := ⟨rfl, rfl⟩

@[simp] theorem startMatrix_memKept (c : Cmd) (s : State) : MemKept s (s.startMatrix c) := by
  unfold State.startMatrix
  split <;> simp

@[simp] theorem endStep_memKept (s : State) : MemKept s s.endStep := by
  unfold State.endStep
  split <;> simp

@[simp] theorem stepBegun_memKept (r : ArrayRun) (s : State) : MemKept s (s.stepBegun r) := by simp [State.stepBegun]

@[simp] theorem setDrain_memKept (array : Bool) (d : Option DrainRun) (s : State) : MemKept s (s.setDrain array d) := ⟨rfl, rfl⟩

@[simp] theorem correctAcc_memKept (array : Bool) (m n : Fin 64) (v : BitVec 32) (s : State) : MemKept s (s.correctAcc array m n v) := ⟨rfl, rfl⟩

@[simp] theorem drainPasses_memKept (array : Bool) (d : DrainRun) (el : Vector (Vector (BitVec 32) 65) 65) (corrected : Bool) (s : State) :
    MemKept s (s.drainPasses array d el corrected) := ⟨rfl, rfl⟩

@[simp] theorem drainUncorrectable_memKept (array : Bool) (rf cf : List (Fin 64)) (s : State) :
    MemKept s (s.drainUncorrectable array rf cf) := by simp [State.drainUncorrectable]

@[simp] theorem drainChecked_memKept (array : Bool) (s : State) : MemKept s (s.drainChecked array) := by
  unfold State.drainChecked
  dsimp only
  repeat' split
  all_goals simp

@[simp] theorem sumsMismatch_memKept (pick : Nat) (s : State) : MemKept s (s.sumsMismatch pick) := by
  unfold State.sumsMismatch
  dsimp only
  split <;> simp

@[simp] theorem drainClaim_memKept (array : Bool) (s : State) : MemKept s (s.drainClaim array) := by
  unfold State.drainClaim
  repeat' split
  all_goals simp

@[simp] theorem zeroAcc_memKept (a0 a1 : Bool) (s : State) : MemKept s (s.zeroAcc a0 a1) := ⟨rfl, rfl⟩

@[simp] theorem endMxldb_memKept (r : ArrayRun) (s : State) : MemKept s (s.endMxldb r) := by simp [State.endMxldb]

@[simp] theorem endArray_memKept (r : ArrayRun) (s : State) : MemKept s (s.endArray r) := by
  unfold State.endArray
  split <;> simp

@[simp] theorem endDrain_memKept (c : Cmd) (s : State) : MemKept s (s.endDrain c) := by
  unfold State.endDrain
  split <;> simp

@[simp] theorem resumeArray_memKept (s : State) : MemKept s s.resumeArray := by
  unfold State.resumeArray
  split <;> simp

/-! ### The shaping stations -/

@[simp] theorem shapeIssue_memKept (u : EUnit) (e : ECtl) (op : Instr) (fe : Option (Fin 16)) (s : State) :
    MemKept s (shapeIssue u e op fe s) := by simp [shapeIssue]

@[simp] theorem setShape_memKept (u : EUnit) (r : Option ShapeRun) (s : State) : MemKept s (s.setShape u r) := by
  unfold State.setShape
  split <;> simp

@[simp] theorem freeShape_memKept (u : EUnit) (s : State) : MemKept s (s.freeShape u) := by simp [State.freeShape]

@[simp] theorem shapeFail_memKept (u : EUnit) (code : Nat) (s : State) : MemKept s (s.shapeFail u code) := by
  unfold State.shapeFail
  split <;> simp

@[simp] theorem shapeMismatch_memKept (u : EUnit) (injected : Bool) (s : State) : MemKept s (s.shapeMismatch u injected) := by
  unfold State.shapeMismatch
  split
  · simp
  · refine MemKept.trans (MemKept.trans ?_ (countArc_memKept _ _))
      (MemKept.trans (MemKept.ite (plan_memKept ..) (oweCheck_memKept _ _)) (shapeFail_memKept ..))
    exact MemKept.ite (hwSys_memKept ..) (SameMem.refl s)

@[simp] theorem planEnd_memKept (u : EUnit) (c : Cmd) (cyc : Nat) (s : State) : MemKept s (s.planEnd u c cyc) := ⟨rfl, rfl⟩

@[simp] theorem startShape_memKept (u : EUnit) (c : Cmd) (s : State) : MemKept s (s.startShape u c) := by
  unfold State.startShape
  repeat' split
  all_goals simp

@[simp] theorem fixTiles_memKept (u : EUnit) (r : ShapeRun) (s : State) : MemKept s (s.fixTiles u r).2 := by
  unfold State.fixTiles
  dsimp only
  split
  · simp
  · split <;> simp

@[simp] theorem countTable_memKept (r : ShapeRun) (i : Nat) (s : State) : MemKept s (s.countTable r i) := by
  unfold State.countTable
  repeat' split
  all_goals simp

@[simp] theorem gotRow_memKept (u : EUnit) (r : ShapeRun) (i p : Nat) (row : Row) (s : State) : MemKept s (s.gotRow u r i p row) := by
  have hq : ∀ (c : Bool) (r : ShapeRun), MemKept s (if c then s.fixTiles u r else (r, s)).2 := fun c r => by
    split <;> simp
  unfold State.gotRow
  generalize (if r.cmd.isCvt && p = 0 then { r with scale := row } else { r with rows := r.rows ++ [row] } : ShapeRun) = r'
  generalize (if r.cmd.isCvt then 1 else 0) = first
  dsimp only
  split
  case h_5 =>
    generalize (decide (i = 0) && decide (p = first)) = c
    specialize hq c r'
    split <;> simp
  case h_3 => split <;> simp
  all_goals simp

@[simp] theorem shapeRead_memKept (u : EUnit) (s : State) : MemKept s (s.shapeRead u) := by
  unfold State.shapeRead
  dsimp only
  repeat' split
  all_goals simp

@[simp] theorem statStep_memKept (u : EUnit) (s : State) : MemKept s (s.statStep u) := by
  unfold State.statStep
  dsimp only
  repeat' split
  all_goals simp

@[simp] theorem shapeClaim_memKept (u : EUnit) (s : State) : MemKept s (s.shapeClaim u) := by
  unfold State.shapeClaim
  dsimp only
  repeat' split
  all_goals simp

@[simp] theorem shapeFound_memKept (u : EUnit) (s : State) : MemKept s (s.shapeFound u) := by
  unfold State.shapeFound
  repeat' split
  all_goals simp

@[simp] theorem shapeTick_memKept (u : EUnit) (s : State) : MemKept s (s.shapeTick u) := by
  unfold State.shapeTick
  dsimp only
  split <;> simp

@[simp] theorem endShape_memKept (u : EUnit) (r : ShapeRun) (s : State) : MemKept s (s.endShape u r) := by
  unfold State.endShape
  split <;> simp

/-! ### Faults of the hardware -/

@[simp] theorem spoil_memKept (w : PendingWrite) (s : State) : MemKept s (s.spoil w) := ⟨rfl, rfl⟩

@[simp] theorem checkFails_memKept (u : ArcUnit) (slot : Fin 8) (pick : Nat) (s : State) : MemKept s (s.checkFails u slot pick) := by
  unfold State.checkFails
  repeat' split
  all_goals simp

/-! ### Cell health -/

@[simp] theorem sendMsg_memKept (kind count body : Nat) (side : Fin 4) (s : State) :
    MemKept s (s.sendMsg kind count body side) := by simp [State.sendMsg]

@[simp] theorem onSide_memKept (i : Fin 4) (f : SideRec → SideRec) (s : State) : MemKept s (s.onSide i f) := ⟨rfl, rfl⟩

@[simp] theorem openWindow_memKept (i : Fin 4) (own : Bool) (voters : List (Nat × Nat)) (s : State) :
    MemKept s (s.openWindow i own voters) :=
  ⟨rfl, rfl⟩

@[simp] theorem sendRing_memKept (kind : Nat) (c : Nat × Nat) (pos body : Nat) (s : State) : MemKept s (s.sendRing kind c pos body) := by
  unfold State.sendRing
  repeat' split
  all_goals simp

@[simp] theorem sendVote_memKept (kind : Nat) (i : Fin 4) (cause : Nat) (s : State) : MemKept s (s.sendVote kind i cause) := by simp [State.sendVote]

@[simp] theorem mapFence_memKept (c : Nat × Nat) (s : State) : MemKept s (s.mapFence c) := by simp [State.mapFence]

@[simp] theorem fenceSide_memKept (i : Fin 4) (self : Bool) (s : State) : MemKept s (s.fenceSide i self) := by simp [State.fenceSide]

@[simp] theorem tally_memKept (i : Fin 4) (s : State) : MemKept s (s.tally i) := by simp [State.tally]

@[simp] theorem cause_memKept (i : Fin 4) (code : Nat) (s : State) : MemKept s (s.cause i code) := by
  unfold State.cause
  split <;> simp

@[simp] theorem healthOp_memKept {k : State → State} (s : State) (op : Nat) (l : List (Option TrapReq)) (h : MemKept s (k s)) :
    MemKept s (healthOp op l k s) := guarded_memKept s _ h

@[simp] theorem handSpare_memKept (s : State) : MemKept s s.handSpare := by simp [State.handSpare]

@[simp] theorem becomeFenced_memKept (self : Bool) (f : Word) (s : State) : MemKept s (s.becomeFenced self f) := ⟨rfl, rfl⟩

@[simp] theorem selfFence_memKept (s : State) : MemKept s s.selfFence := by simp [State.selfFence]

@[simp] theorem receive_memKept {k : State → State} (s : State) (kind : Nat) (side : Fin 4) (m : BitVec 256) (h : ∀ u, MemKept u (k u)) :
    MemKept s (s.receive kind side m k) := by
  unfold State.receive
  dsimp only
  split
  · simp
  · split
    · simp
    · refine MemKept.trans ?_ (h _)
      simp

@[simp] theorem forwardRing_memKept (kind : Nat) (side : Fin 4) (m : BitVec 256) (s : State) : MemKept s (s.forwardRing kind side m) := by
  unfold State.forwardRing
  dsimp only
  split <;> simp

@[simp] theorem countVote_memKept (i : Fin 4) (v : Nat × Nat) (s : State) : MemKept s (s.countVote i v) := by simp [State.countVote]

@[simp] theorem readmit_memKept (i : Fin 4) (s : State) : MemKept s (s.readmit i) := by simp [State.readmit]

@[simp] theorem tallyAppeal_memKept (i : Fin 4) (s : State) : MemKept s (s.tallyAppeal i) := by simp [State.tallyAppeal]

@[simp] theorem tallyAll_memKept (s : State) : MemKept s s.tallyAll := by simp [State.tallyAll]

@[simp] theorem restartSeq_memKept (s : State) : MemKept s s.restartSeq := ⟨rfl, rfl⟩

@[simp] theorem quietCauses_memKept (s : State) : MemKept s s.quietCauses := by simp [State.quietCauses]

@[simp] theorem renewWindow_memKept (i : Fin 4) (s : State) : MemKept s (s.renewWindow i) := by simp [State.renewWindow]

@[simp] theorem taint_memKept (pmlast : Word) (r : BitVec 32 × Nat × Nat) (s : State) : MemKept s (s.taint pmlast r) := ⟨rfl, rfl⟩

@[simp] theorem endTest_memKept (s : State) : MemKept s s.endTest := by simp [State.endTest]

/-! ### Packets and the heap -/

@[simp] theorem thawed_memKept {k : State → State} (s : State) (i : Instr) (h : MemKept s (k s)) : MemKept s (s.thawed i k) := by
  unfold State.thawed
  split
  · simp
  · exact h

@[simp] theorem planOnce_memKept (cyc rank : Nat) (act : Act) (s : State) : MemKept s (s.planOnce cyc rank act) := by simp [State.planOnce]

@[simp] theorem endNodes_memKept (s : State) : MemKept s s.endNodes :=
  MemKept.foldl (fun u e => by split <;> simp) _ s

@[simp] theorem look_memKept (s : State) : MemKept s s.look := by
  unfold State.look
  dsimp only
  refine MemKept.trans (endNodes_memKept s) (MemKept.trans (MemKept.foldl (fun u e => ?_) s.endNodes.apex.heap _) (planOnce_memKept ..))
  split <;> simp

@[simp] theorem enterHeap_memKept (e : HeapEnt) (s : State) : MemKept s (s.enterHeap e) := by
  unfold State.enterHeap
  dsimp only
  split <;> simp

@[simp] theorem runChain_memKept (id : Nat) (dva n : Nat) (s : State) : MemKept s (s.runChain id dva n) := by
  unfold State.runChain
  split <;> simp

@[simp] theorem evalNode_memKept {k : HeapEnt → Nat → State → State} (s : State) (id : Nat) (ok : HeapEnt → Bool)
    (h : ∀ e v, MemKept s (k e v s)) : MemKept s (s.evalNode id ok k) := by
  unfold State.evalNode
  split
  · simp
  · extract_lets word
    clear_value word
    repeat' split
    · simp
    · simp
    · simp
    · exact h _ _

@[simp] theorem loopAgain_memKept (entry : Nat) (e : HeapEnt) (v : Nat) (t : State) : MemKept t (loopAgain entry e v t) := by
  unfold loopAgain
  split <;> simp

@[simp] theorem loopFirst_memKept (entry : Nat) (e : HeapEnt) (t : State) : MemKept t (loopFirst entry e t) := by
  unfold loopFirst
  split <;> simp

@[simp] theorem switchRun_memKept (entry : Nat) (e : HeapEnt) (v : Nat) (t : State) : MemKept t (switchRun entry e v t) := by
  unfold switchRun
  dsimp only
  repeat' split
  all_goals simp

@[simp] theorem endCommand_memKept (result : Nat) (s : State) : MemKept s (s.endCommand result) := ⟨rfl, rfl⟩

@[simp] theorem endFree_memKept (s : State) : MemKept s s.endFree := ⟨rfl, rfl⟩

@[simp] theorem endWait_memKept (st : BitVec 16) (s : State) : MemKept s (s.endWait st) := by simp [State.endWait]

/-! ### The loader -/

@[simp] theorem becomePred_memKept (lid : BitVec 32) (status : BitVec 16) (s : State) : MemKept s (s.becomePred lid status) := ⟨rfl, rfl⟩

@[simp] theorem launchRegs_memKept (l : LaunchRec) (s : State) : MemKept s (s.launchRegs l) := ⟨rfl, rfl⟩

@[simp] theorem loadProgram_memKept (l : LaunchRec) (s : State) : MemKept s (s.loadProgram l) := ⟨rfl, rfl⟩

@[simp] theorem freshProgram_memKept (entry : BitVec 15) (s : State) : MemKept s (s.freshProgram entry) := by simp [State.freshProgram]

/-! ### Launches -/

@[simp] theorem refuse_memKept (e : HeapEnt) (stag : BitVec 32) (status : BitVec 16) (s : State) :
    MemKept s (s.refuse e stag status) := by simp [State.refuse]

@[simp] theorem letIn_memKept (e : HeapEnt) (p : LaunchPkt) (g : Image) (s : State) : MemKept s (s.letIn e p g) := by simp [State.letIn]

@[simp] theorem judge_memKept (id : Nat) (s : State) : MemKept s (s.judge id) := by
  unfold State.judge
  dsimp only
  repeat' split
  all_goals simp

@[simp] theorem setImage_memKept (id : Nat) (p : LaunchPkt) (g : Image) (s : State) : MemKept s (s.setImage id p g) := ⟨rfl, rfl⟩

@[simp] theorem launchIn_memKept (q : Fin 64) (p : LaunchPkt) (g : Image) (remote : Bool) (s : State) : MemKept s (s.launchIn q p g remote) := by
  unfold State.launchIn
  dsimp only
  split <;> simp

@[simp] theorem takePacket_memKept (q : Fin 64) (w : BitVec 1024) (img : Option Image) (node : Option Nat) (depth : Nat) (s : State) :
    MemKept s (s.takePacket q w img node depth) := by
  unfold State.takePacket
  dsimp only
  repeat' split
  all_goals simp

@[simp] theorem fetchOn_memKept (q : Fin 64) (s : State) : MemKept s (s.fetchOn q) := by simp [State.fetchOn]

@[simp] theorem askHost_memKept (q : Fin 64) (node : Option Nat) (m : OutMsg) (s : State) : MemKept s (s.askHost q node m) := by simp [State.askHost]

@[simp] theorem fetchChain_memKept (q : Fin 64) (e : HeapEnt) (a n : Nat) (hostPkt : Option (BitVec 1024)) (img : Option Image) (s : State) :
    MemKept s (s.fetchChain q e a n hostPkt img) := by
  unfold State.fetchChain
  repeat' split
  all_goals simp

@[simp] theorem fetchRing_memKept (q : Fin 64) (hostPkt : Option (BitVec 1024)) (img : Option Image) (s : State) :
    MemKept s (s.fetchRing q hostPkt img) := by
  unfold State.fetchRing
  dsimp only
  repeat' split
  all_goals simp

@[simp] theorem onLaunch_memKept (lid : BitVec 32) (f : LaunchRec → LaunchRec) (s : State) : MemKept s (s.onLaunch lid f) := ⟨rfl, rfl⟩

@[simp] theorem fillSlots_memKept (l : LaunchRec) (k start : Nat) (s : State) : MemKept s (s.fillSlots l k start) := ⟨rfl, rfl⟩

@[simp] theorem armDie_memKept (l : LaunchRec) (s : State) : MemKept s (s.armDie l) := by simp [State.armDie]

@[simp] theorem arm_memKept (t0 : Nat) (l : LaunchRec) (s : State) : MemKept s (s.arm t0 l) := by simp [State.arm]

@[simp] theorem unplaced_memKept (e : HeapEnt) (p : LaunchPkt) (g : Image) (status : BitVec 16) (s : State) :
    MemKept s (s.unplaced e p g status) := by
  unfold State.unplaced
  split <;> simp

@[simp] theorem tell_memKept (e : HeapEnt) (p : LaunchPkt) (g : Image) (lid : BitVec 32) (o : Nat × Nat) (t0 : Nat) (s : State) :
    MemKept s (s.tell e p g lid o t0) := by simp [State.tell]

@[simp] theorem watch_memKept (l : LaunchRec) (s : State) : MemKept s (s.watch l) := by simp [State.watch]

@[simp] theorem runs_memKept (l : LaunchRec) (s : State) : MemKept s (s.runs l) := by simp [State.runs]

@[simp] theorem firstBundle_memKept (s : State) : MemKept s s.firstBundle := ⟨rfl, rfl⟩

@[simp] theorem armResume_memKept (t1 : Nat) (l : LaunchRec) (s : State) : MemKept s (s.armResume t1 l) := by
  unfold State.armResume
  have hstart : ∀ u : State, MemKept u (match l.ctx with
    | some c => (u.fillSlots l c.seg.idx t1).planFor (t1 + c.rel + c.gap) rankRead (.ev (.resumeStart l.placement))
    | none => u.planFor t1 rankRead (.ev (.resumeStart l.placement))) := fun u => by split <;> simp
  have hlaunch := (onLaunch_memKept l.lid (fun l => { l with st := .resuming, t0 := t1, ready := [] }) s).trans (armDie_memKept l _)
  have hall := ((hlaunch.trans (hstart _)).trans (planFor_memKept (t1 - 4096) rankEnd (.ev (.armingDeadline l.lid)) _)).trans (fresh_memKept _)
  exact MemKept.ite (hall.trans (plan_memKept ..)) hall

@[simp] theorem allBack_memKept (lid : BitVec 32) (s : State) : MemKept s (s.allBack lid) := by
  unfold State.allBack
  split <;> simp

@[simp] theorem finalOwn_memKept (lid : BitVec 32) (s : State) : MemKept s (s.finalOwn lid) := by simp [State.finalOwn]

@[simp] theorem finalReport_memKept (lid : BitVec 32) (s : State) : MemKept s (s.finalReport lid) := by
  unfold State.finalReport
  split <;> simp

@[simp] theorem requestHere_memKept (full : Bool) (atP : Option Nat) (l : LaunchRec) (s : State) :
    MemKept s (s.requestHere full atP l) := by simp [State.requestHere]

@[simp] theorem request_memKept (full : Bool) (l : LaunchRec) (s : State) : MemKept s (s.request full l) := by simp [State.request]

@[simp] theorem writeOut_memKept (l : LaunchRec) (s : State) : MemKept s (s.writeOut l) := by simp [State.writeOut]

@[simp] theorem resume_memKept (l : LaunchRec) (c : Option SavedCtx) (s : State) : MemKept s (s.resume l c) := ⟨rfl, rfl⟩

@[simp] theorem resumeSuspended_memKept (e : HeapEnt) (p : LaunchPkt) (g : Image) (o : Nat × Nat) (l : LaunchRec) (s : State) :
    MemKept s (s.resumeSuspended e p g o l) := by
  unfold State.resumeSuspended
  dsimp only
  split <;> simp

theorem goAgain_memKept {s t : State} {e : HeapEnt} {p : LaunchPkt} {g : Image} {l : LaunchRec} (h : s.goAgain e p g l = some t) : MemKept s t := by
  unfold State.goAgain at h
  obtain ⟨o, -, h⟩ := Option.bind_eq_some_iff.1 h
  dsimp only at h
  repeat' split at h
  all_goals cases h
  all_goals simp

@[simp] theorem takeVerdict_memKept (stag : BitVec 32) (ok : Bool) (s : State) : MemKept s (s.takeVerdict stag ok) := by
  unfold State.takeVerdict
  repeat' split
  all_goals simp

@[simp] theorem takePlace_memKept (stag : BitVec 32) (lid : BitVec 32) (x y t0 : Nat) (s : State) : MemKept s (s.takePlace stag lid x y t0) := by
  unfold State.takePlace
  split <;> simp

@[simp] theorem takeEnded_memKept (lid : BitVec 32) (status : BitVec 16) (s : State) : MemKept s (s.takeEnded lid status) := by
  unfold State.takeEnded
  split <;> simp

/-! ### Pre-emption, saves and resumes -/

@[simp] theorem parkCopies_memKept (s : State) : MemKept s s.parkCopies := ⟨rfl, rfl⟩

@[simp] theorem leaveCell_memKept (s : State) : MemKept s s.leaveCell := by simp [State.leaveCell]

@[simp] theorem saveBeside_memKept (c : SavedCtx) (s : State) : MemKept s (s.saveBeside c) := by simp [State.saveBeside]

@[simp] theorem slotWritten_memKept (c : SavedCtx) (s : State) : MemKept s (s.slotWritten c) := by simp [State.slotWritten]

@[simp] theorem launchSaved_memKept (lid : BitVec 32) (s : State) : MemKept s (s.launchSaved lid) := by
  unfold State.launchSaved
  split <;> simp

@[simp] theorem fenceLaunch_memKept (l : LaunchRec) (s : State) : MemKept s (s.fenceLaunch l) := by
  unfold State.fenceLaunch
  repeat' split
  all_goals simp

@[simp] theorem fenceLaunches_memKept (on : LaunchRec → Bool) (s : State) : MemKept s (s.fenceLaunches on) := by simp [State.fenceLaunches]

@[simp] theorem restorePort_memKept (q : Fin 8) (p : PortState) (s : State) : MemKept s (s.restorePort q p) := by
  unfold State.restorePort
  split
  · simp
  · dsimp only
    simp

@[simp] theorem restorePorts_memKept (l : Vector PortState 8) (s : State) : MemKept s (s.restorePorts l) := by simp [State.restorePorts]

@[simp] theorem restoreCopies_memKept (c : SavedCtx) (s : State) : MemKept s (s.restoreCopies c) := by
  simp [State.restoreCopies]

@[simp] theorem restoreSeg_memKept (c : SavedCtx) (same : Bool) (s : State) : MemKept s (s.restoreSeg c same) := by
  unfold State.restoreSeg
  dsimp only
  repeat' split
  all_goals simp

@[simp] theorem restoreUnits_memKept (c : SavedCtx) (s : State) : MemKept s (s.restoreUnits c) := ⟨rfl, rfl⟩

@[simp] theorem goOn_memKept (l : LaunchRec) (c : SavedCtx) (s : State) : MemKept s (s.goOn l c) := by simp [State.goOn]

/-! ### The host's side -/

@[simp] theorem pushService_memKept (v : Nat × BitVec 16 × BitVec 16 × Nat) (s : State) : MemKept s (s.pushService v) := ⟨rfl, rfl⟩

@[simp] theorem passService_memKept (page : Nat) (asid : BitVec 16) (s : State) : MemKept s (s.passService page asid) := by
  unfold State.passService
  repeat' split
  all_goals simp

@[simp] theorem serviceRecord_memKept (r : FaultRec) (s : State) : MemKept s (s.serviceRecord r) := by simp [State.serviceRecord]

@[simp] theorem endService_memKept (host : Bool) (ctx page : Nat) (ok : Bool) (s : State) :
    MemKept s (s.endService host ctx page ok) := by simp [State.endService]

@[simp] theorem translateAgain_memKept (covers : CopyEnt → Nat → Bool) (s : State) :
    MemKept s (s.translateAgain covers) := by simp [State.translateAgain]

theorem takeInval_memKept {s t : State} {host : Bool} (h : s.takeInval host = some t) : MemKept s t := by
  unfold State.takeInval at h
  split at h
  · cases h; simp
  · cases h

@[simp] theorem command_memKept {k : State → State} (s : State) (code op0 : Nat) (fn : Fin 9) (h : ∀ u, MemKept u (k u)) :
    MemKept s (s.command code op0 fn k) := by
  unfold State.command
  split
  · simp
  · exact MemKept.trans ⟨rfl, rfl⟩ (h _)

@[simp] theorem onOwned_memKept {k : LaunchRec → State → State} (s : State) (fn : Fin 9) (lid : BitVec 32) (h : ∀ l, MemKept s (k l s)) :
    MemKept s (s.onOwned fn lid k) := by
  unfold State.onOwned
  split
  · simp
  · split
    · simp
    · exact h _

@[simp] theorem barWrite_memKept (fn : Fin 9) (off : Nat) (v : Word) (s : State) : MemKept s (s.barWrite fn off v) := by
  unfold State.barWrite
  repeat' split
  all_goals simp

@[simp] theorem retest_memKept (e : HeapEnt) (s : State) : MemKept s (s.retest e) := by
  unfold State.retest
  split <;> simp

@[simp] theorem markPhy_memKept (ch : Fin 64) (bad : Bool) (s : State) : MemKept s (s.markPhy ch bad) := ⟨rfl, rfl⟩

@[simp] theorem recordPhy_memKept (ch : Fin 64) (s : State) : MemKept s (s.recordPhy ch) := by simp [State.recordPhy]

@[simp] theorem startOrder_memKept (s : State) : MemKept s s.startOrder := ⟨rfl, rfl⟩

@[simp] theorem fromJournal_memKept (old s : State) : MemKept s (State.fromJournal old s) := ⟨rfl, rfl⟩

@[simp] theorem release_memKept (s : State) : MemKept s s.release := by simp [State.release]

@[simp] theorem trainHbm_memKept (s : State) : MemKept s s.trainHbm := ⟨rfl, rfl⟩

@[simp] theorem trainPorts_memKept (s : State) : MemKept s s.trainPorts := ⟨rfl, rfl⟩

@[simp] theorem loadFlash_memKept (s : State) : MemKept s s.loadFlash := ⟨rfl, rfl⟩

@[simp] theorem bootStep_memKept (s : State) : MemKept s s.bootStep := by
  unfold State.bootStep
  split <;> simp

/-! ### Scalar FP32 -/

@[simp] theorem fpOp2_memKept (lat : Nat) (residue : Bool) (f : Nat → Nat → Word) (xd xa xb : Reg) (s : State) :
    MemKept s (fpOp2 lat residue f xd xa xb s) := by simp [fpOp2]

@[simp] theorem fpOp1_memKept (lat : Nat) (residue : Bool) (f : Nat → Word) (xd xa : Reg) (s : State) :
    MemKept s (fpOp1 lat residue f xd xa s) := by simp [fpOp1]

/-! ### Engine commands start and complete -/

@[simp] theorem startQueued_memKept (u : EUnit) (c : Cmd) (s : State) : MemKept s (s.startQueued u c) := by
  unfold State.startQueued
  repeat' split
  all_goals simp

@[simp] theorem startEnt_memKept (e : CopyEnt) (s : State) : MemKept s (s.startEnt e) := by
  unfold State.startEnt
  split <;> simp

@[simp] theorem startCps_memKept (idx : BitVec 24) (s : State) : MemKept s (s.startCps idx) := by
  unfold State.startCps
  repeat' split
  all_goals simp

/-! ### The vector and mask instructions -/

theorem popAll_memKept {c : VCtl} {l : List VOp} {s u : State} (h : State.popAll c l s = .ok u) : MemKept s u := by
  induction l generalizing s with
  | nil => cases h; exact ⟨rfl, rfl⟩
  | cons o l ih =>
    rw [State.popAll] at h
    split at h
    · cases h
    · exact MemKept.trans (by simp) (ih h)

@[simp] theorem vecDo_memKept {k : State → State} (s : State) (c : VCtl) (ports srcs : List VOp) (more : List (Option TrapReq))
    (h : ∀ u, MemKept u (k u)) : MemKept s (vecDo c ports srcs more k s) := by
  refine guarded_memKept s _ ?_
  split
  · simp
  · next u hu => exact (popAll_memKept hu).trans (h u)

@[simp] theorem vecRow_memKept (lat : Nat) (c : VCtl) (od : VOp) (srcs : List VOp) (more : List (Option TrapReq)) (cols : BitVec 128)
    (r : Row) (s : State) :
    MemKept s (vecRow lat c od srcs more cols r s) := by simp [vecRow]

@[simp] theorem vec1_memKept (lat : Nat) (c : VCtl) (od oa : VOp) (f : Nat → Nat → Nat) (s : State) :
    MemKept s (vec1 lat c od oa f s) := by simp [vec1]

@[simp] theorem vec2_memKept (lat : Nat) (c : VCtl) (od oa ob : VOp) (f : Nat → Nat → Nat → Nat) (s : State) :
    MemKept s (vec2 lat c od oa ob f s) := by simp [vec2]

@[simp] theorem vec3_memKept (lat : Nat) (c : VCtl) (od oa ob oc : VOp) (f : Nat → Nat → Nat → Nat → Nat) (s : State) :
    MemKept s (vec3 lat c od oa ob oc f s) := by simp [vec3]

@[simp] theorem vecCmp_memKept (c : VCtl) (md : Fin 4) (oa ob : VOp) (sub : Fin 4) (cmp : Nat → Nat → Bool) (s : State) :
    MemKept s (vecCmp c md oa ob sub cmp s) := by simp [vecCmp]

@[simp] theorem vecReduce_memKept (c : VCtl) (od oa : VOp) (op : Nat → Nat → Nat) (leaf : Nat → Nat) (ident : Nat) (s : State) :
    MemKept s (vecReduce c od oa op leaf ident s) := by simp [vecReduce]

@[simp] theorem maskOp_memKept (reads : List (Fin 4)) (more : List (Option TrapReq)) (md : Fin 4) (rows : BitVec 16) (cols : BitVec 128) (s : State) :
    MemKept s (maskOp reads more md rows cols s) := by simp [maskOp]

/-! ### The cell runtime -/

@[simp] theorem runtimeIdles_memKept (s : State) : MemKept s s.runtimeIdles := ⟨rfl, rfl⟩

@[simp] theorem runtimeEnd_memKept (cause : Nat) (s : State) : MemKept s (s.runtimeEnd cause) := by simp [State.runtimeEnd]

@[simp] theorem resumeHandler_memKept (h : HandlerSave) (s : State) : MemKept s (s.resumeHandler h) := ⟨rfl, rfl⟩

@[simp] theorem retireRow_memKept (s : State) : MemKept s s.retireRow := by simp [State.retireRow]

@[simp] theorem beforeDispose_memKept (s : State) : MemKept s s.beforeDispose := by simp [State.beforeDispose]

/-! ### The order of a cycle -/

theorem afterSlots_memKept {s t : State} (b : Bundle) (ops : List (Fin 8 × Instr)) (h : MemKept s t) : MemKept s (s.afterSlots b ops t) := by
  unfold State.afterSlots
  split
  · simp
  · dsimp only
    split <;> simpa using h

@[simp] theorem holdCycle_memKept (v : Nat) (s : State) : MemKept s (s.holdCycle v) := by simp [State.holdCycle]

theorem ownReport_memKept {s t : State} (h : s.ownReport = some t) : MemKept s t := by
  unfold State.ownReport at h
  split at h
  · split at h
    · cases h
    · cases h; simp
  · cases h

theorem predReport_memKept {s t : State} (h : s.predReport = some t) : MemKept s t := by
  unfold State.predReport at h
  split at h
  · cases h
  · split at h
    · cases h
    · cases h; simp

@[simp] theorem periodic_memKept (v : Nat) (s : State) : MemKept s (s.periodic v) := by
  have hat : ∀ {c : Prop} [Decidable c] {u : State} {r : Nat} {i : Instr}, SameMem s u → SameMem s (if c then u.plan s.now r (.ev i) else u) :=
    fun h => SameMem.ite h h
  show SameMem s (s.periodic v)
  unfold State.periodic
  dsimp only
  refine hat (SameMem.trans ?_ (foldl_sameMem (fun u p => ?_) (List.finRange 18) _))
  · exact hat (hat (hat (hat (SameMem.refl s))))
  · exact SameMem.ite (SameMem.refl u) (SameMem.refl u)

@[simp] theorem tick_memKept (s : State) : MemKept s s.tick := by
  unfold State.tick
  refine MemKept.trans ?_ (periodic_memKept _ _)
  simp

/-! ## Both memories canonical -/

/-- Both memories of a state are canonical, each as its own fact: reducible, so that `simp` takes it apart. -/
@[simp] abbrev MemCanon (s : State) : Prop := s.ann.mem.wf = true ∧ s.cp.hbm.wf = true

theorem memWf_iff {s : State} : s.memWf = true ↔ MemCanon s := by simp [State.memWf]

theorem MemKept.canon {s t : State} (h : MemKept s t) (hs : MemCanon s) : MemCanon t := by
  obtain ⟨hm, hh⟩ := h
  rwa [MemCanon, hm, hh]

theorem foldl_memCanon {α : Type} {f : State → α → State} (h : ∀ u a, MemCanon u → MemCanon (f u a)) (l : List α) {s : State}
    (hs : MemCanon s) : MemCanon (l.foldl f s) := by
  induction l generalizing s with
  | nil => exact hs
  | cons a l ih => exact ih (h s a hs)

/-- Steps each of which may fail. -/
theorem foldl_bind_memCanon {α : Type} {f : State → α → Option State}
    (h : ∀ u a v, MemCanon u → f u a = some v → MemCanon v) (l : List α)
    {o : Option State} (ho : ∀ u, o = some u → MemCanon u) {t : State} (ht : l.foldl (fun o a => o.bind fun u => f u a) o = some t) :
    MemCanon t := by
  induction l generalizing o with
  | nil => exact ho t ht
  | cons a l ih =>
    refine ih (fun v hv => ?_) ht
    obtain ⟨u, hu, hv⟩ := Option.bind_eq_some_iff.1 hv
    exact h u a v (ho u hu) hv

theorem ite_memCanon {c : Prop} [Decidable c] {s t : State} (hs : MemCanon s) (ht : MemCanon t) : MemCanon (if c then s else t) := by
  split
  · exact hs
  · exact ht

/-! ### The memory operations -/

@[simp] theorem write_wf {m : Memory} (h : m.wf = true) (a : Nat) (l : List Byte) : (m.write a l).wf = true := Memory.write_wf a l h

@[simp] theorem setRow_wf {m : Memory} (h : m.wf = true) (a : Nat) (r : Row) : (m.setRow a r).wf = true := Memory.setRow_wf a r h

/-- A rising list whose addresses are all `b` or above rises from `b`. -/
theorem risingFrom_raise {m : Memory} {lo b : Nat} (h : Memory.risingFrom lo m = true) (hb : ∀ c ∈ m, b ≤ c.1) :
    Memory.risingFrom b m = true := by
  cases m with
  | nil => rfl
  | cons c m =>
    simp only [Memory.risingFrom, Bool.and_eq_true, decide_eq_true_eq] at h ⊢
    exact ⟨⟨hb c (List.mem_cons_self ..), h.1.2⟩, h.2⟩

/-- Bytes at `a` or above, moved down by `a` and up by `b`, still rise. -/
theorem risingFrom_moved {m : Memory} {a b lo : Nat} (h : Memory.risingFrom lo m = true) (ha : ∀ c ∈ m, a ≤ c.1) :
    Memory.risingFrom b (m.map fun c => (c.1 - a + b, c.2)) = true := by
  induction m generalizing lo b with
  | nil => rfl
  | cons c m ih =>
    simp only [Memory.risingFrom, Bool.and_eq_true, decide_eq_true_eq] at h
    obtain ⟨⟨-, hbyte⟩, hrest⟩ := h
    have hc := ha c (List.mem_cons_self ..)
    have hup := Memory.risingFrom_ge hrest
    simp only [List.map_cons, Memory.risingFrom, Bool.and_eq_true, decide_eq_true_eq]
    refine ⟨⟨Nat.le_add_left .., hbyte⟩, risingFrom_raise (ih hrest fun d hd => ha d (List.mem_cons_of_mem _ hd)) fun d hd => ?_⟩
    obtain ⟨e, he, rfl⟩ := List.mem_map.1 hd
    have := hup e he
    dsimp only
    omega

/-- A copy of a range into a canonical memory keeps it canonical. -/
theorem paste_wf {src dst : Memory} (hs : src.wf = true) (hd : dst.wf = true) (a n b : Nat) : (src.paste a n dst b).wf = true := by
  have hrange : ∀ c ∈ src.filter (fun c => a ≤ c.1 && c.1 < a + n), a ≤ c.1 ∧ c.1 < a + n := fun c hc => by
    simpa using (List.mem_filter.1 hc).2
  have hmid := risingFrom_moved (b := b) (Memory.risingFrom_filter _ hs) fun c hc => (hrange c hc).1
  have hhigh : Memory.risingFrom (b + n) (dst.filter fun c => b + n ≤ c.1) = true :=
    risingFrom_raise (Memory.risingFrom_filter _ hd) fun c hc => by simpa using (List.mem_filter.1 hc).2
  refine Memory.risingFrom_append (Memory.risingFrom_filter _ hd) (fun c hc => ?_) (Nat.zero_le b)
    (Memory.risingFrom_append hmid (fun c hc => ?_) (Nat.le_add_right ..) hhigh)
  · simpa using (List.mem_filter.1 hc).2
  · obtain ⟨d, hd, rfl⟩ := List.mem_map.1 hc
    have := hrange d hd
    dsimp only
    omega

/-! ### What is written to the sectors and to HBM -/

@[simp] theorem writeLocal_memCanon {s : State} (h : MemCanon s) (a : Nat) (l : List Byte) : MemCanon (s.writeLocal a l) :=
  memWf_iff.1 (writeLocal_memWf a l (memWf_iff.2 h))

@[simp] theorem writeRow_memCanon {s : State} (h : MemCanon s) (sec : Fin 8) (row : Nat) (r : Row) : MemCanon (s.writeRow sec row r) :=
  writeLocal_memCanon h ..

@[simp] theorem writeRowMasked_memCanon {s : State} (h : MemCanon s) (sec : Fin 8) (row : Nat) (r : Row) (cols : BitVec 128) :
    MemCanon (s.writeRowMasked sec row r cols) := by
  unfold State.writeRowMasked
  split
  · simp [h]
  · refine foldl_memCanon (fun u j hu => ?_) _ h
    split <;> simp [hu]

@[simp] theorem writeHbm_memCanon {s : State} (h : MemCanon s) (a : Nat) (r : Row) : MemCanon (s.writeHbm a r) := by
  simp [State.writeHbm, h]

@[simp] theorem timedBank_memCanon {s : State} (h : MemCanon s) (e : CopyEnt) (k : Nat) : MemCanon (s.timedBank e k) := by
  unfold State.timedBank
  dsimp only
  repeat' split
  all_goals simp [h]

@[simp] theorem untimedBank_memCanon {s : State} (h : MemCanon s) (e : CopyEnt) (k : Nat) : MemCanon (s.untimedBank e k) := by
  unfold State.untimedBank
  dsimp only
  repeat' split
  all_goals simp [h]

@[simp] theorem landTimed_memCanon {s : State} (h : MemCanon s) (e : CopyEnt) (k : Nat) (data : Row) : MemCanon (s.landTimed e k data) := by
  simp [State.landTimed, h]

@[simp] theorem landUntimed_memCanon {s : State} (h : MemCanon s) (e : CopyEnt) (k : Nat) (data : Row) (st : FarStatus) :
    MemCanon (s.landUntimed e k data st) := by
  unfold State.landUntimed
  dsimp only
  repeat' split
  all_goals simp [h]

@[simp] theorem landInWindow_memCanon {s : State} (h : MemCanon s) (r : TimedRow) (stn : Nat) : MemCanon (s.landInWindow r stn) := by
  unfold State.landInWindow
  repeat' split
  all_goals simp [h]

@[simp] theorem putHbm_memCanon {s : State} (h : MemCanon s) (a : Nat) (l : List Byte) : MemCanon (s.putHbm a l) := by
  simp [State.putHbm, h]

@[simp] theorem putAt_memCanon {s : State} (h : MemCanon s) (x : Xlate) (l : List Byte) : MemCanon (s.putAt x l) := by
  cases x <;> simp [State.putAt, h]

@[simp] theorem putRecord_memCanon {s : State} (h : MemCanon s) (d : QueueDesc) (dva : Nat) (l : List Byte) : MemCanon (s.putRecord d dva l) := by
  unfold State.putRecord
  repeat' split
  all_goals simp [h]

@[simp] theorem rdmaIn_memCanon {s : State} (h : MemCanon s) (addr : Nat) (data : List Byte) : MemCanon (s.rdmaIn addr data) :=
  ite_memCanon (putHbm_memCanon h addr data) h

@[simp] theorem landStore_memCanon {s : State} (h : MemCanon s) (w : PendingStore) : MemCanon (s.landStore w) := by
  simp [State.landStore, h]

@[simp] theorem landStores_memCanon {s : State} (h : MemCanon s) : MemCanon s.landStores :=
  foldl_memCanon (fun _ w hu => landStore_memCanon hu w) (s.seq.stores.filter fun w => w.due ≤ s.now) h

@[simp] theorem shapeWrite_memCanon {s : State} (h : MemCanon s) (u : EUnit) : MemCanon (s.shapeWrite u) := by
  unfold State.shapeWrite
  repeat' split
  all_goals simp [h]

@[simp] theorem drainWrite_memCanon {s : State} (h : MemCanon s) (array : Bool) : MemCanon (s.drainWrite array) := by
  unfold State.drainWrite
  repeat' split
  all_goals simp [h]

/-! ### Programs and contexts -/

@[simp] theorem loadSectorsOf_memCanon {s : State} (h : MemCanon s) (g : Image) (cell : Nat) : MemCanon (s.loadSectorsOf g cell) :=
  foldl_memCanon (fun _ d hu => foldl_memCanon (fun _ _ hv => writeRow_memCanon hv ..) (declRows g d).zipIdx hu)
    (g.tiles.filter fun d => d.cell = cell)
    (foldl_memCanon (fun _ _ hu => writeRow_memCanon hu ..) (g.init.filter fun i => i.1 = cell) h)

@[simp] theorem loadCell_memCanon {s : State} (h : MemCanon s) (l : LaunchRec) : MemCanon (s.loadCell l) := by
  unfold State.loadCell
  split <;> simp [h]

@[simp] theorem place_memCanon {s : State} (h : MemCanon s) (e : HeapEnt) (p : LaunchPkt) (g : Image) (o : Nat × Nat) :
    MemCanon (s.place e p g o) := by
  unfold State.place
  dsimp only
  repeat' split
  all_goals simp [h]

@[simp] theorem dispatchAt_memCanon {s : State} (h : MemCanon s) (e : HeapEnt) (p : LaunchPkt) (g : Image) (o : Nat × Nat) :
    MemCanon (s.dispatchAt e p g o) := by
  unfold State.dispatchAt
  split <;> simp [h]

theorem tryEntry_memCanon {s t : State} {e : HeapEnt} (h : MemCanon s) (ht : s.tryEntry e = some t) : MemCanon t := by
  unfold State.tryEntry at ht
  split at ht
  · split at ht
    · cases ht
    · dsimp only at ht
      split at ht
      · split at ht
        · cases ht
        · split at ht
          · cases ht; simp [h]
          · split at ht
            · cases ht
            · cases ht; simp [h]
      · split at ht
        · split at ht
          · exact (goAgain_memKept ht).canon h
          · cases ht
        · cases ht
      · cases ht
  · cases ht

@[simp] theorem packRows_memCanon {s : State} (h : MemCanon s) (c : SavedCtx) (first n : Nat) : MemCanon (s.packRows c first n) :=
  foldl_memCanon (fun _ _ hu => writeRow_memCanon hu ..) (List.range n) h

@[simp] theorem writeArea_memCanon {s : State} (h : MemCanon s) (c : SavedCtx) : MemCanon (s.writeArea c) := by
  unfold State.writeArea
  exact packRows_memCanon
    (foldl_memCanon (fun _ _ hu => writeRow_memCanon hu ..) (List.finRange 128) (packRows_memCanon (writeRow_memCanon h ..) ..)) ..

@[simp] theorem saveResident_memCanon {s : State} (h : MemCanon s) (c : SavedCtx) : MemCanon (s.saveResident c) := by
  have hrows := writeRow_memCanon (writeRow_memCanon (writeArea_memCanon h c) 7 510 0) 7 511 0
  exact MemKept.canon (by simp [State.saveResident]) hrows

theorem saveBytes_memCanon {s t : State} {d : QueueDesc} {dva a n : Nat} (h : MemCanon s) (ht : s.saveBytes d dva a n = some t) : MemCanon t := by
  refine foldl_bind_memCanon (fun u p v hu hv => ?_) (pagesOf 40 dva n) (fun _ hu => Option.some.inj hu ▸ h) ht
  split at hv
  · cases hv; simp [hu, paste_wf]
  · cases hv

theorem saveSectors_memCanon {s t : State} {c : SavedCtx} (h : MemCanon s) (ht : s.saveSectors c = some t) : MemCanon t :=
  foldl_bind_memCanon (fun _ _ _ hu hv => saveBytes_memCanon hu hv) c.runs (fun _ hu => Option.some.inj hu ▸ h) ht

theorem writeSlot_memCanon {s t : State} {c : SavedCtx} (h : MemCanon s) (ht : s.writeSlot c = some t) : MemCanon t := by
  unfold State.writeSlot at ht
  obtain ⟨u, hu, rfl⟩ := Option.map_eq_some_iff.1 ht
  exact ⟨h.1, (saveSectors_memCanon (ite_memCanon (writeArea_memCanon h c) h) hu).2⟩

theorem savePieces_memCanon {s t : State} {d : QueueDesc} {base w shape shapeW cell : Nat} {g : Image} {cp : Fin 256} (h : MemCanon s)
    (ht : s.savePieces d base w g cp shape shapeW cell = some t) : MemCanon t := by
  refine foldl_bind_memCanon (fun u r v hu hv => ?_) _ (fun u hu => saveBytes_memCanon h hu) ht
  split at hv
  · cases hv; exact hu
  · exact saveBytes_memCanon hu hv

@[simp] theorem checkpoint_memCanon {s : State} (h : MemCanon s) (cp : Fin 256) : MemCanon (s.checkpoint cp) := by
  unfold State.checkpoint
  split
  · split
    · exact h
    · dsimp only
      split
      · simp [h]
      · next ht =>
        have := savePieces_memCanon (writeArea_memCanon h _) ht
        simp [this]
  · exact h

theorem loadBytes_memCanon {s t : State} {d : QueueDesc} {dva a n : Nat} (h : MemCanon s) (ht : s.loadBytes d dva a n = some t) : MemCanon t := by
  refine foldl_bind_memCanon (fun u p v hu hv => ?_) (pagesOf 40 dva n) (fun _ hu => Option.some.inj hu ▸ h) ht
  split at hv
  · cases hv; simp [hu, paste_wf]
  · cases hv

theorem loadSectors_memCanon {s t : State} {c : SavedCtx} (h : MemCanon s) (ht : s.loadSectors c = some t) : MemCanon t :=
  foldl_bind_memCanon (fun _ _ _ hu hv => loadBytes_memCanon hu hv) c.runs (fun _ hu => Option.some.inj hu ▸ h) ht

theorem loadPieces_memCanon {s t : State} {d : QueueDesc} {base w old oldW shape cell : Nat} {g : Image} {cp : Fin 256} (h : MemCanon s)
    (ht : s.loadPieces d base w g cp old oldW shape cell = some t) : MemCanon t := by
  refine foldl_bind_memCanon (fun u r v hu hv => ?_) _ (fun _ hu => Option.some.inj hu ▸ h) ht
  repeat' split at hv
  · exact loadBytes_memCanon hu hv
  · cases hv; exact hu
  · exact loadBytes_memCanon hu hv
  · cases hv; exact hu

theorem bringBack_memCanon {s t : State} {l : LaunchRec} {c : SavedCtx} (h : MemCanon s) (ht : s.bringBack l c = some t) : MemCanon t := by
  unfold State.bringBack at ht
  split at ht
  · exact loadPieces_memCanon h ht
  · exact loadSectors_memCanon h ht

@[simp] theorem moveDie_memKept (d : Nat) (s : State) : MemKept s (s.moveDie d) := by
  unfold State.moveDie
  split <;> simp

@[simp] theorem moveTo_memKept (p : Nat × Nat) (s : State) : MemKept s (s.moveTo p) := by
  unfold State.moveTo
  split <;> simp

theorem bringIn_memCanon {s t : State} {l : LaunchRec} (h : MemCanon s) (ht : s.bringIn l = some (some t)) : MemCanon t := by
  have hload : ∀ p, MemCanon ((s.moveTo p).loadProgram l) := fun p => MemKept.canon (by simp) h
  unfold State.bringIn at ht
  split at ht
  · cases ht; exact h
  · split at ht
    · cases ht; exact h
    · split at ht
      · cases ht; exact h
      · split at ht
        · cases ht; exact h
        · split at ht
          · cases ht
          · obtain ⟨u, hu, rfl⟩ := Option.map_eq_some_iff.1 (Option.some.inj ht)
            have huc : MemCanon u := by
              split at hu
              · cases hu; exact hload _
              · exact bringBack_memCanon (hload _) hu
            exact MemKept.canon (by simp) huc

@[simp] theorem restored_memCanon {s : State} (h : MemCanon s) (lid : BitVec 32) : MemCanon (s.restored lid) := by
  unfold State.restored
  repeat' split
  case h_3 ht => simp [bringIn_memCanon h ht]
  all_goals simp [h]

@[simp] theorem testLeaves_memCanon {s : State} (h : MemCanon s) : MemCanon s.testLeaves := by
  simp [State.testLeaves, h, Memory.nil_wf]

@[simp] theorem fromFlash_memCanon (s : State) : MemCanon s.fromFlash := ⟨rfl, rfl⟩

@[simp] theorem moduleReset_memCanon {s : State} (h : MemCanon s) : MemCanon s.moduleReset := by
  simp [State.moduleReset, h]

@[simp] theorem enterHandler_memCanon {s : State} (h : MemCanon s) : MemCanon s.enterHandler := by
  simp [State.enterHandler, h]

@[simp] theorem dispose_memCanon {s : State} (h : MemCanon s) : MemCanon s.dispose := by
  unfold State.dispose
  dsimp only
  repeat' split
  all_goals simp [h]

@[simp] theorem micro_memCanon {s : State} (h : MemCanon s) (m : Micro) : MemCanon (s.micro m) := by
  unfold State.micro
  split <;> simp [h]

/-! ### The instructions and the events -/

/-- The outcome's next state, where there is one, has both memories canonical. -/
def OutCanon (o : Out) : Prop := ∀ t, o = .next t → MemCanon t

@[simp] theorem outCanon_next {t : State} : OutCanon (.next t) ↔ MemCanon t := by simp [OutCanon]

@[simp] theorem outCanon_fault {f : Fault} : OutCanon (.fault f) := fun _ h => by cases h

@[simp] theorem outCanon_refused {f : Refusal} : OutCanon (.refused f) := fun _ h => by cases h

theorem OutCanon.next {t : State} (h : MemCanon t) : OutCanon (.next t) := outCanon_next.2 h

@[simp] theorem loadOp_memKept (op n : Nat) (signed : Bool) (xd xa : Reg) (imm : BitVec 46) (s : State) :
    MemKept s (loadOp op n signed xd xa imm s) := by
  unfold loadOp
  refine guarded_memKept s _ ?_
  simp

/-! ### What waits for a frozen Apex, and a command of the driver -/

theorem thawed_memCanon {k : State → State} {s : State} (h : MemCanon s) (i : Instr) (hk : MemCanon (k s)) : MemCanon (s.thawed i k) :=
  ite_memCanon ((plan_memKept ..).canon h) hk

theorem command_memCanon {k : State → State} {s : State} (h : MemCanon s) (code op0 : Nat) (fn : Fin 9)
    (hk : ∀ u, MemCanon u → MemCanon (k u)) : MemCanon (s.command code op0 fn k) :=
  ite_memCanon h (hk _ (by simp [h]))

theorem receive_memCanon {k : State → State} {s : State} (h : MemCanon s) (kind : Nat) (side : Fin 4) (m : BitVec 256)
    (hk : ∀ u, MemCanon u → MemCanon (k u)) : MemCanon (s.receive kind side m k) :=
  ite_memCanon h (ite_memCanon (by simp [h]) (hk _ (by simp [h])))

/-- The next state of an atomic's answer, where there is one, keeps both memories canonical. -/
def AtomNow.Canon : AtomNow → Prop
  | .poisoned act => ∀ u, MemCanon u → MemCanon (act u)
  | .perform _ act => ∀ u, MemCanon u → MemCanon (act u)
  | _ => True

theorem atomNow_memCanon (s : State) (r : AtomReq) : (s.atomNow r).Canon := by
  unfold State.atomNow
  dsimp only
  repeat' split
  all_goals simp +contextual [AtomNow.Canon]

theorem execAtomRequest_memCanon {s : State} (h : MemCanon s) (r : AtomReq) : OutCanon (execAtomRequest r s) := by
  unfold execAtomRequest
  dsimp only
  have hu : MemCanon (s.onAtomTab r (ReplayTab.expire s.absc)) := by simp [h]
  generalize s.onAtomTab r (ReplayTab.expire s.absc) = u at hu
  have hnow := atomNow_memCanon u r
  generalize u.atomNow r = now at hnow
  split
  · simp [hu]
  · split
    · simp [hu]
    · cases now with
      | wait => simp [hu]
      | fail code => simp [hu]
      | poisoned act => simp [hnow u hu]
      | perform old act => simp [hnow u hu]

theorem execAccuse_memCanon {s : State} (h : MemCanon s) (side : Fin 4) : OutCanon (execAccuse side s) := by
  refine .next (MemKept.canon (healthOp_memKept _ _ _ ?_) h)
  split <;> simp

theorem execCond_memCanon {s : State} (h : MemCanon s) (e : Nat) : OutCanon (execCond e s) := by
  refine .next (thawed_memCanon h _ (MemKept.canon (evalNode_memKept _ _ _ fun e v => ?_) h))
  repeat' split
  all_goals simp

theorem execHaltReport_memCanon {s : State} (h : MemCanon s) (lid : BitVec 32) (c : Peer) (st : BitVec 16) :
    OutCanon (execHaltReport lid c st s) := by
  refine .next (thawed_memCanon h _ ?_)
  dsimp only
  split
  · simp [h]
  · simp [h]

theorem execSuspendLaunch_memCanon {s : State} (h : MemCanon s) (fn : Fin 9) (lid : BitVec 32) : OutCanon (execSuspendLaunch fn lid s) := by
  refine .next (command_memCanon h _ _ _ fun u hu => MemKept.canon (onOwned_memKept _ _ _ fun l => ?_) hu)
  dsimp only
  repeat' split
  all_goals simp

theorem execFaultRecordRead_memCanon {s : State} (h : MemCanon s) : OutCanon (execFaultRecordRead s) := by
  refine .next (thawed_memCanon h _ ?_)
  split <;> simp [Copy.seeRecord, h]

theorem execAtsInvalidationComplete_memCanon {s : State} (h : MemCanon s) : OutCanon (execAtsInvalidationComplete s) := by
  unfold execAtsInvalidationComplete
  split
  · next ht => simp [(takeInval_memKept ht).canon h]
  · exact .next h

theorem execInvalidationComplete_memCanon {s : State} (h : MemCanon s) : OutCanon (execInvalidationComplete s) := by
  unfold execInvalidationComplete
  split
  · next ht => simp [(takeInval_memKept ht).canon h]
  · exact .next h

theorem execDispatch_memCanon {s : State} (h : MemCanon s) : OutCanon (execDispatch s) := by
  refine .next (thawed_memCanon h _ ?_)
  dsimp only
  split
  · simp [h]
  · split
    · next ht =>
      obtain ⟨e, -, he⟩ := List.exists_of_findSome?_eq_some ht
      simp [tryEntry_memCanon h he]
    · exact h

theorem execFullSaveComplete_memCanon {s : State} (h : MemCanon s) : OutCanon (execFullSaveComplete s) := by
  unfold execFullSaveComplete
  repeat' split
  case h_2 ht => simp [(writeSlot_memCanon h ht)]
  all_goals simp [h]

theorem exec_memCanon {s : State} (h : MemCanon s) (i : Instr) : OutCanon (exec i s) := by
  cases i
  case accuse side => exact execAccuse_memCanon h _
  case atomRequest r => exact execAtomRequest_memCanon h _
  case cond entry => exact execCond_memCanon h _
  case haltReport lid cell status => exact execHaltReport_memCanon h _ _ _
  case suspendLaunch fn lid => exact execSuspendLaunch_memCanon h _ _
  case faultRecordRead => exact execFaultRecordRead_memCanon h
  case atsInvalidationComplete => exact execAtsInvalidationComplete_memCanon h
  case invalidationComplete => exact execInvalidationComplete_memCanon h
  case dispatch => exact execDispatch_memCanon h
  case fullSaveComplete => exact execFullSaveComplete_memCanon h
  case queueFetch | signalWrite | readyReport | armedStart | cellStart | packetCompletion | watchdogLimit
      | checkpointAck | resumeStart =>
    refine .next (thawed_memCanon h _ ?_)
    dsimp only
    repeat' split
    all_goals simp [h]
  case signalMsix | fencePacket =>
    refine .next (thawed_memCanon h _ ?_)
    repeat' split
    all_goals simp [h]
  case accusation | readmissionVote | fenceNotice =>
    refine .next (receive_memCanon h _ _ _ fun u hu => ?_)
    dsimp only
    repeat' split
    all_goals simp [hu]
  case abandonCopy | stageFirmware | activateFirmware =>
    refine .next (command_memCanon h _ _ _ fun u hu => ?_)
    dsimp only
    repeat' split
    all_goals simp [hu]
  case arithmeticCheckFault | commandStart | commandCompletion | copyRowIssue | hbmBankAccess | copyRowLand | putAcknowledgement
      | completionTimeout | atomTimeout | voteWindowEnd | armingDeadline | atsCompletion | priGroupResponse | timedFlitRelease
      | remoteLaunch | rdmaWrite | rdmaRead | rdmaSend | registerWrite | memoryBitError | holdEnd | abscissaStep | appealExpiry
      | spareFlashWrite | saveComplete | apexRestart | firmwareActivation =>
    refine .next ?_
    repeat' split
    all_goals simp [h]
  case segend | swait | fence | replayNotice | compareWord | portPushLand | replayAck | timestampBeat | resultWriteback
      | segmentStart | replayStart | replayWaitTimeout | swap | drain | lmovRow | illegalCodeUnitFetch | portPrefetchRead
      | translationComplete | atomResponse | timedRowLand | clredResult | apertureAccess | matrixStep | ifstComplete
      | eventRecordWrite =>
    simp only [exec, execSegend, execSwait, execFence, execReplayNotice, execCompareWord, execPortPushLand, execReplayAck,
      execTimestampBeat, execResultWriteback, execSegmentStart, execReplayStart, execReplayWaitTimeout, execSwap, execDrain, execLmovRow,
      execIllegalCodeUnitFetch, execPortPrefetchRead, execTranslationComplete, execAtomResponse, execTimedRowLand, execClredResult,
      execApertureAccess, execMatrixStep, execIfstComplete, execEventRecordWrite]
    repeat' split
    all_goals simp [h]
  all_goals exact .next (by simp [h])

/-! ### A step -/

theorem endPre_memCanon {o : Out} (h : OutCanon o) : OutCanon (endPre o) := by
  cases o with
  | next t => exact .next (h t rfl)
  | fault f => simp [endPre]
  | refused r => simp [endPre]

theorem runDue_memCanon {s : State} (h : MemCanon s) (d : Due) : OutCanon (s.runDue d) := by
  unfold State.runDue
  split
  · exact exec_memCanon (by simp [h]) _
  · simp [h]

theorem takeInput_memCanon {s : State} (h : MemCanon s) (p : Nat × Instr) : OutCanon (s.takeInput p) := by
  unfold State.takeInput
  dsimp only
  repeat' split
  case h_2 => exact exec_memCanon (by simp [h]) _
  all_goals simp [h]

theorem landNext_memCanon {s : State} (h : MemCanon s) (w : PendingWrite) : OutCanon (s.landNext w) := by
  unfold State.landNext
  split <;> exact exec_memCanon h _

theorem runSlots_memCanon (l : List (Fin 8 × Instr)) {s : State} (h : MemCanon s) : OutCanon (runSlots l s) := by
  induction l generalizing s with
  | nil => exact .next h
  | cons p l ih =>
    have hslot : OutCanon (s.runSlot p.1 p.2) := exec_memCanon (by simp [h]) _
    unfold runSlots
    split
    · next u hu =>
      split
      · exact .next (hslot u hu)
      · exact ih (hslot u hu)
    · exact hslot

theorem afterSlots_memCanon {s t : State} (hs : MemCanon s) (ht : MemCanon t) (b : Bundle) (ops : List (Fin 8 × Instr)) :
    MemCanon (s.afterSlots b ops t) := by
  unfold State.afterSlots
  dsimp only
  repeat' split
  all_goals simp [hs, ht]

theorem issue_memCanon {s : State} (h : MemCanon s) (b : Bundle) : OutCanon (s.issue b) := by
  have hslots := runSlots_memCanon (bundleOps b) h
  unfold State.issue
  dsimp only
  split
  · simp [h]
  · split
    · next t ht => exact .next (afterSlots_memCanon h (hslots t ht) b _)
    · exact hslots

theorem issueCycle_memCanon {s : State} (h : MemCanon s) : OutCanon s.issueCycle := by
  unfold State.issueCycle
  repeat' split
  · simp [h]
  · exact exec_memCanon h _
  · exact .next h
  · simp [h]
  · exact exec_memCanon h _
  · simp [h]
  · simp [h]
  · exact exec_memCanon h _
  · exact issue_memCanon h _

theorem runCycle_memCanon {s : State} (h : MemCanon s) : OutCanon s.runCycle := by
  unfold State.runCycle
  split
  · exact issueCycle_memCanon h
  · simp [h]
  · simp [h]

theorem preStep_memCanon {s : State} (h : MemCanon s) : OutCanon s.preStep := by
  unfold State.preStep
  repeat' split
  · exact runDue_memCanon h _
  · exact takeInput_memCanon h _
  · exact runDue_memCanon h _
  · exact takeInput_memCanon h _
  · exact landNext_memCanon h _
  · exact runDue_memCanon h _
  · exact exec_memCanon h _
  · exact runDue_memCanon h _
  · exact exec_memCanon h _
  · exact endPre_memCanon (runCycle_memCanon h)

theorem postStep_memCanon {s : State} (h : MemCanon s) : OutCanon s.postStep := by
  unfold State.postStep
  split
  · split
    · exact runDue_memCanon h _
    · simp [h]
  · split
    · simp [h]
    · split
      · simp [h]
      · split
        · next ht => exact .next ((ownReport_memKept ht).canon h)
        · split
          · next ht => exact .next ((predReport_memKept ht).canon h)
          · simp [h]

theorem step_memCanon {s : State} (h : MemCanon s) : OutCanon (step s) := by
  unfold step State.act
  split
  · exact preStep_memCanon h
  · exact postStep_memCanon h

/-- Settles O4: reset has both memories empty, and what a step does to them are writes, copies and whole replacements that keep them canonical. -/
theorem stepsKeepMemoryCanonical : Obligations.StepsKeepMemoryCanonical := by
  refine ⟨memWf_iff.2 State.reset_mem_wf, fun s t hs ht => ?_⟩
  exact memWf_iff.2 (step_memCanon (memWf_iff.1 hs) t ht)
end Sys2Proof.Machine

end

section
/-! PROOF. Faults of the hardware itself: a result that is dropped, a command that fails, a word in error (R111, R112, R175, R222,
R247, R252, R253, R360). -/

namespace Sys2Proof.Machine

/-! ## Arithmetic checks -/

/-- The units whose results stand in slots 1 to 3, with the slot and the number that ARCSTAT gives (R112). -/
theorem slotFault_cases {p : ArcUnit × Fin 8 × Nat} (hp : p ∈ [(ArcUnit.sa, 1, 0), (.sb, 2, 1), (.vec, 3, 2)]) :
    slotArc p.2.1 = p.2.2 ∧ arcCode p.1 = p.2.2 ∧ p.2.2 < 8 ∧
      ∀ s, exec (.arithmeticCheckFault ⟨p.1, 0⟩) s = .next (s.checkFails p.1 p.2.1 0) := by
  simp only [List.mem_cons, List.not_mem_nil, or_false] at hp
  rcases hp with rfl | rfl | rfl <;> exact ⟨rfl, rfl, by decide, fun s => rfl⟩

/-- The shaping stations that check: table interpolation as station 2, convert and quantise as 3 (R252). -/
theorem shapeFault_cases {p : ArcUnit × Nat × Nat} (hp : p ∈ [(ArcUnit.tis, 2, 3), (.cvs, 3, 4)]) :
    ∃ u : EUnit, (u = .tis ∧ p.2.2 = 3 ∨ u = .cvs ∧ p.2.2 = 4) ∧ stationOf u = p.2.1 ∧
      (∀ s : State, s.shapeOf u = if p.2.1 = 2 then s.sh.tis else s.sh.cvs) ∧
      ∀ s, exec (.arithmeticCheckFault ⟨p.1, 0⟩) s = .next (s.shapeMismatch u false) := by
  simp only [List.mem_cons, List.not_mem_nil, or_false] at hp
  rcases hp with rfl | rfl
  · exact ⟨.tis, .inl ⟨rfl, rfl⟩, rfl, fun s => rfl, fun s => rfl⟩
  · exact ⟨.cvs, .inr ⟨rfl, rfl⟩, rfl, fun s => rfl, fun s => rfl⟩

/-- What ARCSTAT counts and names (R112). -/
theorem arcCount_fields {u : Nat} (hu : u < 8) (v : Word) :
    fieldNat (arcCount u v &&& 0x7FFFFFFFF#64) 0 32 = min (fieldNat v 0 32 + 1) 0xFFFFFFFF ∧
      fieldNat (arcCount u v &&& 0x7FFFFFFFF#64) 32 3 = u := by
  have hmask : (arcCount u v &&& 0x7FFFFFFFF#64).toNat = min (fieldNat v 0 32 + 1) 0xFFFFFFFF + u * 2 ^ 32 := by
    rw [BitVec.toNat_and, arcCount, BitVec.toNat_ofNat, show (0x7FFFFFFFF#64).toNat = 2 ^ 35 - 1 from rfl, Nat.and_two_pow_sub_one_eq_mod]
    omega
  constructor
  · rw [fieldNat, BitVec.toNat_ushiftRight, hmask, Nat.shiftRight_eq_div_pow]
    omega
  · rw [fieldNat, BitVec.toNat_ushiftRight, hmask, Nat.shiftRight_eq_div_pow]
    omega

/-- The register of a count, as the hardware writes it, changes no result that is not on its way to it. -/
theorem hwSys_seq_quiet {s : State} (h : s.seq.writes = []) (num : BitVec 12) (get : State → Word) (f : Word → Word) :
    (s.hwSys num get f).seq = s.seq := by
  simp only [State.hwSys, State.onSeq, (sysLand_frame s num _).1, h, List.map_nil]
  rw [← h]

theorem countArc_seq {s : State} (h : s.seq.writes = []) (u : Nat) : (s.countArc u).seq = s.seq :=
  hwSys_seq_quiet h ..

theorem clearInj_seq {s : State} (h : s.seq.writes = []) (slot : Fin 8) : (s.clearInj slot).seq = s.seq :=
  hwSys_seq_quiet h ..

theorem countArc_arcstat (u : Nat) (s : State) : (s.countArc u).sys.arcstat = arcCount u s.sys.arcstat &&& 0x7FFFFFFFF#64 := rfl

theorem noteCheck_arcstat (w : PendingWrite) (s : State) :
    (s.noteCheck w).sys.arcstat = arcCount (slotArc w.slot) s.sys.arcstat &&& 0x7FFFFFFFF#64 := by
  unfold State.noteCheck
  split <;> rfl

theorem noteCheck_seq {s : State} (h : s.seq.writes = []) (w : PendingWrite) : (s.noteCheck w).seq = s.seq := by
  have hc := countArc_seq h (slotArc w.slot)
  unfold State.noteCheck
  split
  · exact (clearInj_seq (by rw [hc, h]) _).trans hc
  · exact hc

theorem oweCheck_seq {s : State} (h : s.seq.trapDue = none) (t : TrapRec) : (s.oweCheck t).seq = { s.seq with trapDue := some t } := by
  simp [State.oweCheck, h]

theorem sameCheck_self (w : PendingWrite) : w.sameCheck w = true := by simp [PendingWrite.sameCheck]

theorem openChecks_single {s : State} {w : PendingWrite} (h : s.seq.writes = [w]) : s.openChecks w.slot = [w] := by
  simp [State.openChecks, h, firstOfChecks]

/-- The only result on its way is dropped: nothing is left on its way, it is counted, and its trap falls due. -/
theorem suppress_single {s : State} {w : PendingWrite} {r : Reg} {v : Word} (u : ArcUnit) (hdue : s.seq.trapDue = none)
    (hw : s.seq.writes = [w]) (hd : w.dest = .x r v) :
    (s.suppress u w).seq = { s.seq with writes := [], trapDue := some (arcTrap u w.baddr w.slot) } ∧
      (s.suppress u w).sys.arcstat = arcCount (slotArc w.slot) s.sys.arcstat &&& 0x7FFFFFFFF#64 := by
  have hpush : s.unpush w = s := by simp [State.unpush, hd]
  have hs : s.suppress u w = ((s.onSeq fun q => { q with writes := [] }).noteCheck w).oweCheck (arcTrap u w.baddr w.slot) := by
    simp only [State.suppress, hw, List.filter_cons, sameCheck_self, if_true, List.filter_nil, List.foldl_cons, List.foldl_nil, hpush]
    rw [State.onSeq, State.onSeq, hw]
    simp [sameCheck_self]
  have hseq := noteCheck_seq (s := s.onSeq fun q => { q with writes := [] }) rfl w
  rw [hs]
  constructor
  · rw [oweCheck_seq (by rw [hseq]; exact hdue), hseq]
    rfl
  · exact noteCheck_arcstat w _

/-- The unit of a bundle's slot whose check fails, the only result on its way being that slot's (R111). -/
theorem checkFails_single {s : State} {w : PendingWrite} (u : ArcUnit) (hw : s.seq.writes = [w]) :
    s.checkFails u w.slot 0 = if w.due ≤ s.now then s.suppress u w else s.spoil w := by
  simp [State.checkFails, openChecks_single hw]

theorem spoil_single {s : State} {w : PendingWrite} (hw : s.seq.writes = [w]) :
    s.spoil w = { s with seq := { s.seq with writes := [{ w with bad := true }] } } := by
  simp [State.spoil, State.onSeq, hw, sameCheck_self]

/-- A result of a unit's slot that is due is dropped, its trap owed (R111, R112). -/
theorem result_dropped {s : State} {w : PendingWrite} {r : Reg} {v : Word} {u : ArcUnit} {n : Nat} (hdue : s.seq.trapDue = none)
    (hw : s.seq.writes = [w]) (hd : w.dest = .x r v) (hn : slotArc w.slot = n) (hlt : n < 8) (hu : arcCode u = n) (hland : w.due ≤ s.now) :
    let t := s.checkFails u w.slot 0
    t.seq.writes = [] ∧ t.seq.regs = s.seq.regs ∧
      (fieldNat t.sys.arcstat 0 32 = min (fieldNat s.sys.arcstat 0 32 + 1) 0xFFFFFFFF ∧ fieldNat t.sys.arcstat 32 3 = n) ∧
      t.seq.trapDue = some { cause := 0x0C, code := 0, baddr := w.baddr, slot := w.slot, detail := BitVec.ofNat 40 n } := by
  obtain ⟨hseq, harc⟩ := suppress_single u hdue hw hd
  rw [hn] at harc
  have hdrop : s.checkFails u w.slot 0 = s.suppress u w := by rw [checkFails_single u hw, if_pos hland]
  intro t
  simp only [t, hdrop, hseq, harc, arcTrap, hu, true_and, and_true]
  exact arcCount_fields hlt _

/-- A result still on its way is to fail in its own cycle (R111). -/
theorem result_spoiled {s : State} {w : PendingWrite} (u : ArcUnit) (hw : s.seq.writes = [w]) (hfar : s.now < w.due) :
    s.checkFails u w.slot 0 = { s with seq := { s.seq with writes := [{ w with bad := true }] } } := by
  rw [checkFails_single u hw, if_neg (by omega), spoil_single hw]

/-! ## A shaping station -/

theorem countArc_sh (u : Nat) (s : State) : (s.countArc u).sh = s.sh := by
  simp [State.countArc, State.hwSys, State.sysLand, State.onSeq, State.onSys]

theorem countArc_fails (u : Nat) (s : State) : (s.countArc u).fails = s.fails := by
  simp [State.countArc, State.hwSys, State.sysLand, State.onSeq, State.onSys]

theorem countArc_phase (u : Nat) (s : State) : (s.countArc u).phase = s.phase := by
  simp [State.countArc, State.hwSys, State.sysLand, State.onSeq, State.onSys]

theorem countArc_now (u : Nat) (s : State) : (s.countArc u).now = s.now := by
  simp [State.countArc, State.hwSys, State.sysLand, State.onSeq, State.onSys]

/-- A failing command that signals: its failure, and at most its table slot (R247, R309). -/
theorem plainFail_signals {c : Cmd} (h : c.signals) (u : EUnit) (code : Nat) (s : State) : ∃ f : Shaping → Shaping,
    s.plainFail u c code = { s.onSh f with
      fails := s.fails ++ [(c.ssem, BitVec.ofNat 8 code, BitVec.ofNat 8 (stationOf u), c.idx.setWidth 16)] } := by
  obtain ⟨hinc, hpred⟩ := h
  unfold State.plainFail State.cmdFails
  rw [if_neg hinc, failCmd_signalling _ hinc hpred]
  unfold State.spoilTable
  split
  · exact ⟨_, rfl⟩
  · exact ⟨id, rfl⟩

/-- Freeing a shaping station takes no trap off the agenda. -/
theorem freeShape_owes (u : EUnit) {s : State} {cyc rank : Nat} {d : TrapRec} (h : s.planned cyc rank (.micro (.oweCheck d))) :
    (s.freeShape u).planned cyc rank (.micro (.oweCheck d)) := by
  cases u <;> exact List.mem_filter.2 ⟨h, rfl⟩

theorem freeShape_fails (u : EUnit) (s : State) : (s.freeShape u).fails = s.fails := by
  cases u <;> rfl

/-- The command of a shaping station that signals fails there: the station is free, and a trap already owed stays owed. -/
theorem shapeFail_signals {u : EUnit} {s : State} {r : ShapeRun} (hu : u ∈ [EUnit.tis, .cvs, .trs]) (hr : s.shapeOf u = some r)
    (hsig : r.cmd.signals) (code : Nat) :
    let t := s.shapeFail u code
    FailsWith s r.cmd code (stationOf u) t ∧ t.shapeOf u = none ∧ t.seq = s.seq ∧ t.sys = s.sys ∧
      ∀ cyc rank d, s.planned cyc rank (.micro (.oweCheck d)) → t.planned cyc rank (.micro (.oweCheck d)) := by
  obtain ⟨f, hfail⟩ := plainFail_signals hsig u code s
  have ht : s.shapeFail u code = (s.plainFail u r.cmd code).freeShape u := by simp only [State.shapeFail, hr]
  obtain ⟨⟨hseq, -, -, hsys⟩, -⟩ := freeShape_quiet u (s.plainFail u r.cmd code)
  have hfails := freeShape_fails u (s.plainFail u r.cmd code)
  rw [hfail] at hseq hsys hfails
  rw [ht, hfail]
  exact ⟨hfails, freeShape_shapeOf hu _, hseq, hsys, fun _ _ _ h => freeShape_owes u h⟩

/-- The trap of a shaping station's mismatch: in the cycle after, or in this one once its bundle has gone (R112, R252). -/
def oweShape (x : TrapRec) (s : State) : State :=
  if s.phase == .pre then s.plan (s.now + 1) rankWriteback (.micro (.oweCheck x)) else s.oweCheck x

theorem shapeMismatch_eq {u : EUnit} {s : State} {r : ShapeRun} {n : Nat} (hu : u = .tis ∧ n = 3 ∨ u = .cvs ∧ n = 4)
    (hr : s.shapeOf u = some r) : s.shapeMismatch u false =
      (oweShape { cause := 0x0C, code := 0, baddr := r.cmd.baddr, slot := 4, detail := BitVec.ofNat 40 n } (s.countArc n)).shapeFail u 0x31 := by
  unfold State.shapeMismatch
  rw [hr]
  rcases hu with ⟨rfl, rfl⟩ | ⟨rfl, rfl⟩ <;> simp [oweShape, arcTrap, arcCode, countArc_phase, countArc_now]

theorem oweShape_frame (x : TrapRec) (s : State) : (oweShape x s).sys = s.sys ∧ (oweShape x s).sh = s.sh ∧ (oweShape x s).fails = s.fails := by
  unfold oweShape
  split <;> exact ⟨rfl, rfl, rfl⟩

/-- A mismatch of a shaping station whose command signals (R252): counted, the command fails with code 0x31, and its trap is owed
in this cycle or the next. -/
theorem shapeMismatch_signals {u : EUnit} {s : State} {r : ShapeRun} {n : Nat} (hu : u = .tis ∧ n = 3 ∨ u = .cvs ∧ n = 4)
    (hdue : s.seq.trapDue = none) (hw : s.seq.writes = []) (hr : s.shapeOf u = some r) (hsig : r.cmd.signals) :
    let t := s.shapeMismatch u false
    let x : TrapRec := { cause := 0x0C, code := 0, baddr := r.cmd.baddr, slot := 4, detail := BitVec.ofNat 40 n }
    FailsWith s r.cmd 0x31 (stationOf u) t ∧ t.shapeOf u = none ∧
      (fieldNat t.sys.arcstat 0 32 = min (fieldNat s.sys.arcstat 0 32 + 1) 0xFFFFFFFF ∧ fieldNat t.sys.arcstat 32 3 = n) ∧
      (s.phase = .pre → t.planned (s.now + 1) rankWriteback (.micro (.oweCheck x))) ∧ (s.phase = .post → t.seq.trapDue = some x) := by
  intro t x
  have hmem : u ∈ [EUnit.tis, .cvs, .trs] := by rcases hu with ⟨rfl, -⟩ | ⟨rfl, -⟩ <;> decide
  have hlt : n < 8 := by omega
  obtain ⟨hsys, hsh, hfails⟩ := oweShape_frame x (s.countArc n)
  have hof : (oweShape x (s.countArc n)).shapeOf u = some r := by
    rw [← hr]
    unfold State.shapeOf
    rw [hsh, countArc_sh]
  obtain ⟨hfail, hnone, hseq, hsys', hplan⟩ := shapeFail_signals hmem hof hsig 0x31
  have ht : t = (oweShape x (s.countArc n)).shapeFail u 0x31 := shapeMismatch_eq hu hr
  rw [← ht] at hfail hnone hseq hsys' hplan
  refine ⟨hfail.trans ?_, hnone, ?_, fun hp => hplan _ _ _ ?_, fun hp => ?_⟩
  · rw [hfails, countArc_fails]
  · rw [hsys', hsys, countArc_arcstat]
    exact arcCount_fields hlt _
  · have hpre : ((s.countArc n).phase == .pre) = true := by rw [countArc_phase, hp]; rfl
    rw [oweShape, if_pos hpre, countArc_now]
    exact plan_planned ..
  · have hpost : ¬((s.countArc n).phase == .pre) = true := by rw [countArc_phase, hp]; decide
    have hd : (s.countArc n).seq.trapDue = none := by rw [countArc_seq hw, hdue]
    rw [hseq, oweShape, if_neg hpost, oweCheck_seq hd]

/-! ## The sums of a drain, and a receiving unit -/

theorem sumsMismatch_drain {s : State} {d : DrainRun} (hd : s.mx.drain = some d) (hn : d.nested = false) (ho : d.out ≠ []) :
    s.sumsMismatch 0 = (s.plainFail .drain d.cmd 0x2D).dropDrain := by
  have hopen : (s.drainOf false).any (fun d => !d.out.isEmpty) = true := by simp [State.drainOf, hd, ho]
  simp [State.sumsMismatch, List.filter_cons, hopen, State.failDrainOf, State.failDrain, hd, hn]

/-- The only step of the receiving units fails its window (R360). -/
theorem recvMismatch_window {s : State} {r : RecvRun} (hr : s.tm.recvs = [r]) (hd : r.done = false) :
    s.recvMismatch 0 = s.failWindow r.win 0x31 := by
  simp [State.recvMismatch, hr, hd]

/-- Window, tile and receiving step are gone before the command that owns the window fails (R360). -/
theorem failWindow_window {s : State} {r : RecvRun} (hr : s.tm.recvs = [r]) (code : Nat) : ∃ u : State, u.tm.recvs = [] ∧
    u.tm.wins[r.win].failed = true ∧ u.seq = s.seq ∧ u.ann = s.ann ∧ s.failWindow r.win code = match s.tm.wins[r.win].cmd with
      | some i => u.copyFails i code 5
      | none => u := by
  refine ⟨(s.onWin r.win fun _ => { LandWin.reset with failed := true }).onTm fun m => { m with
    asm := m.asm.filter fun a => a.win ≠ r.win, recvs := m.recvs.filter fun v => v.win ≠ r.win }, ?_, ?_, rfl, rfl, rfl⟩
  · simp [State.onTm, State.onWin, hr]
  · simp [State.onTm, State.onWin]

/-! ## Words in error -/

theorem mem_cons_filter_ne {α : Type} [DecidableEq α] (a : α) (l : List α) (v : α) (h : v ≠ a) :
    v ∈ a :: l.filter (fun x => x ≠ a) ↔ v ∈ l := by
  simp [h]

theorem mem_filter_ne {α : Type} [DecidableEq α] (a : α) (l : List α) (v : α) (h : v ≠ a) : v ∈ l.filter (fun x => x ≠ a) ↔ v ∈ l := by
  simp [h]

theorem notMem_filter_ne {α : Type} [DecidableEq α] (a : α) (l : List α) : a ∉ l.filter (fun x => x ≠ a) := by simp

/-- Settles O39: each fault through the lemma about what its check or its word does. -/
theorem hardwareFaults : Obligations.HardwareFaults := by
  refine ⟨fun s w r v run hdue => ⟨fun p hp hw hslot hdest => ?_, fun p hp hrun hinc hpred hw => ?_, fun d hd hn ho hsig => ?_,
    fun r hr hdone => ?_⟩, fun sec addr s => ⟨?_, fun h => ?_, ?_, fun h => ?_⟩⟩
  · obtain ⟨harc, hcode, hlt, he⟩ := slotFault_cases hp
    rw [← hslot] at harc he
    exact ⟨fun hland _ => ⟨_, he s, result_dropped hdue hw hdest harc hlt hcode hland⟩, fun hfar => ⟨_, he s, result_spoiled _ hw hfar⟩⟩
  · obtain ⟨u, hu, hstn, hof, he⟩ := shapeFault_cases hp
    obtain ⟨hfail, hnone, hcount, hpre, hpost⟩ := shapeMismatch_signals hu hdue hw ((hof s).trans hrun) ⟨hinc, hpred⟩
    refine ⟨_, he s, ?_, hcount, (hof _).symm.trans hnone, fun hp => ⟨_, hpre hp, rfl⟩, hpost⟩
    rw [hfail, hstn]
    simp
  · obtain ⟨f, hfail⟩ := plainFail_signals hsig .drain 0x2D s
    refine ⟨_, rfl, ?_⟩
    rw [sumsMismatch_drain hd hn ho, hfail]
    exact ⟨rfl, rfl, rfl, rfl⟩
  · obtain ⟨u, hrecvs, hfailed, hseq, hann, ht⟩ := failWindow_window hr 0x31
    exact ⟨_, rfl, u, hrecvs, hfailed, hseq, hann, (recvMismatch_window hr hdone).trans ht⟩
  · exact ⟨_, rfl, List.mem_cons_self .., notMem_filter_ne _ _, mem_cons_filter_ne _ _, mem_filter_ne _ _, rfl, rfl⟩
  · refine ⟨_, congrArg Host.Outcome.next (if_neg (mt List.contains_iff_mem.1 h)), ?_⟩
    exact ⟨List.mem_cons_self .., rfl, mem_cons_filter_ne _ _, rfl, rfl⟩
  · exact ⟨_, rfl, List.mem_cons_self .., notMem_filter_ne _ _, rfl, rfl, rfl,
      fun q hq => ⟨mem_cons_filter_ne _ _ _ hq, mem_filter_ne _ _ _ hq⟩⟩
  · exact ⟨_, congrArg Host.Outcome.next (if_neg (mt List.contains_iff_mem.1 h)), List.mem_cons_self .., rfl, rfl, rfl, rfl⟩

end Sys2Proof.Machine
end

section
/-! PROOF. Invalidations of the host and of the driver, and what their ends change (R295, R296, R447). -/

namespace Sys2Proof.Machine

/-- A driver's invalidation under which no row is in flight. -/
def idleInval : Inval := { host := false, asid := 0, base := 0, len := 0, waits := [] }

/-- The invalidation alone stands open while the driver's block still names a heap entry that a command would wait for. -/
def staleWait : State :=
  { State.reset with cp := { State.reset.cp with invals := [idleInval] }, apex := { State.reset.apex with dwait := some 0 } }

/-- The end of a driver's command forgets the heap entry that it waited for (R447). -/
theorem endCommand_dwait (result : Nat) (s : State) : (s.endCommand result).apex.dwait = none := rfl

theorem takeInval_only {s : State} {v : Inval} (hv : s.cp.invals = [v]) (hd : s.invalDone v = true) :
    s.takeInval v.host = some (s.onCp fun c => { c with invals := c.invals.erase v }) := by
  simp [State.takeInval, hv, hd]

/-- Refutes O48: the completion of the driver's invalidation also clears `dwait`, which the statement says it keeps; in `staleWait`
that entry is there to be lost. -/
theorem not_invalidationsAndHostAccess : ¬ Obligations.InvalidationsAndHostAccess := by
  intro h
  obtain ⟨-, -, -, -, hdone, -⟩ := h.1 0 0 0 0 0 0 0 idleInval staleWait
  obtain ⟨t, ht, hkept⟩ := hdone rfl rfl rfl
  have hexec : exec .invalidationComplete staleWait =
      .next (((staleWait.onCp fun c => { c with invals := c.invals.erase idleInval }).emit .invalDone).endCommand 0) := by
    show execInvalidationComplete staleWait = _
    unfold execInvalidationComplete
    rw [show staleWait.takeInval false = _ from takeInval_only (v := idleInval) rfl rfl]
  have hnone : t.apex.dwait = none := by
    rw [← Host.Outcome.next.inj (hexec.symm.trans ht)]
    exact endCommand_dwait ..
  have hsome : t.apex.dwait = some 0 := by rw [hkept]; rfl
  rw [hnone] at hsome
  cases hsome

end Sys2Proof.Machine
end

section
/-! PROOF. What a module reset leaves running (R402, R453). -/

namespace Sys2Proof.Machine

/-- A module whose sequencer runs, all else as after reset. -/
def runningModule : State := { State.reset with seq := { State.reset.seq with run := .running } }

/-- `State.fromJournal old s` starts from `s`; a module reset calls it with the state from flash as `old` and the state before the
reset as `s`, so the sequencer goes on as it was. -/
theorem moduleReset_seq (s : State) : s.moduleReset.seq = s.seq := rfl

/-- Refutes O59: MODULE_RESET of `runningModule` leaves its sequencer running, where the statement (R453) has it idle. -/
theorem not_moduleManagement : ¬ Obligations.ModuleManagement := by
  intro h
  obtain ⟨-, ⟨t, ht, ⟨hseq, -⟩, -⟩, -⟩ := h.2 runningModule
  have hreset : t.seq = runningModule.seq := by
    rw [← Host.Outcome.next.inj (show Host.Outcome.next runningModule.moduleReset = Host.Outcome.next t from ht)]
    exact moduleReset_seq _
  have hrun : Run.running = Run.idle := congrArg Seq.run (hreset.symm.trans hseq)
  cases hrun

end Sys2Proof.Machine
end

section
/-! PROOF. LOOP and LEXIT (R117, R119, R120). -/

namespace Sys2Proof.Machine

/-! ## LOOP (R117) -/

/-- What bars LOOP from starting loop n with a trip count and an end (R117): a count above the limit, a stack of four levels, a
level of the same counter, a trap being handled, an end before the next bundle, or one past the end of the loop around. -/
def State.barsLoop (s : State) (n : Fin 4) (t : Nat) (last : BitVec 15) : Prop :=
  33554431 < t ∨ s.seq.loops.length = 4 ∨ (∃ l ∈ s.seq.loops, l.n = n) ∨ s.seq.suspended = true ∨
    last.toNat < s.after s.seq.pc.toNat ∨ ∃ l ∈ s.seq.loops.head?, l.stop.toNat < last.toNat

theorem loopTrap_some {s : State} {n : Fin 4} {t : Nat} {last : BitVec 15} (h : s.barsLoop n t last) :
    s.loopTrap n t last = some (loopFault n.val) := by
  unfold State.barsLoop at h
  cases hl : s.seq.loops <;> simp_all [State.loopTrap, trapIf, or_assoc]

theorem loopTrap_none {s : State} {n : Fin 4} {t : Nat} {last : BitVec 15} (h : ¬s.barsLoop n t last) :
    s.loopTrap n t last = none := by
  unfold State.barsLoop at h
  cases hl : s.seq.loops <;> simp_all [State.loopTrap, trapIf]

theorem loopEndBad_none {s : State} {last : BitVec 15} (h : (s.codeAt last.toNat).start = true) : s.loopEndBad last = none := by
  simp [State.loopEndBad, trapIf, h]

theorem writeFault_none {s : State} {k : Key} (h : s.pendingWrite k = false) : s.writeFault k = none := by
  simp [State.writeFault, h]

/-- The trip count of LOOP: its field, or a register (R117). -/
def State.tripOf (s : State) (xa : Reg) (trip : BitVec 25) : Nat := if xa = 0 then trip.toNat else (s.x xa).toNat

section
variable {n : Fin 4} {xa : Reg} {trip : BitVec 25} {last : BitVec 15} {s : State} (hstart : (s.codeAt last.toNat).start = true)
  (hr : s.pendingRead (.x xa) = false) (hw : s.pendingWrite (.lc n) = false)
include hstart hr hw

/-- A LOOP that is barred takes the loop fault. -/
theorem loop_traps (h : s.barsLoop n (s.tripOf xa trip) last) : Traps (.loop n xa trip last) s (loopFault n.val) := by
  refine traps_of_guarded rfl ?_
  change firstTrap [s.loopEndBad last, s.rdX xa, s.loopTrap n (s.tripOf xa trip) last, s.writeFault (.lc n)] = _
  rw [loopEndBad_none hstart, rdX_none hr, loopTrap_some h, writeFault_none hw]
  rfl

/-- A LOOP that nothing bars puts its counter's zero in flight, and skips its body or makes a level. -/
theorem loop_starts (h : ¬s.barsLoop n (s.tripOf xa trip) last) : exec (.loop n xa trip last) s = .next (
    let u := s.enqueue (.lc n 0) 1 false
    if s.tripOf xa trip = 0 then u.onSeq fun q => { q with effect := .skip (s.after last.toNat) }
    else u.onSeq fun q => { q with loops := { n := n, start := BitVec.ofNat 15 (s.after s.seq.pc.toNat), stop := last,
                                              trip := BitVec.ofNat 25 (s.tripOf xa trip) } :: q.loops }) := by
  refine congrArg Host.Outcome.next (guarded_pass fun c hc => ?_)
  simp only [List.mem_cons, List.not_mem_nil, or_false] at hc
  rcases hc with rfl | rfl | rfl | rfl
  · exact loopEndBad_none hstart
  · exact rdX_none hr
  · exact loopTrap_none h
  · exact writeFault_none hw

end

/-! ## LEXIT (R119, R120) -/

/-- LEXIT finds no fault of its own in a level whose end the level outside does not share. -/
theorem lexitTrap_none {s : State} {l : LoopLevel} {ls : List LoopLevel} (hl : s.seq.loops = l :: ls)
    (h : ¬∃ m ∈ ls.head?, m.stop = l.stop) : s.lexitTrap = none := by
  cases ls with
  | nil => simp [State.lexitTrap, hl]
  | cons m ms =>
    have hne : l.stop ≠ m.stop := fun e => h ⟨m, rfl, e.symm⟩
    simp [State.lexitTrap, hl, trapIf, hne]

theorem lexitTrap_shared {s : State} {l : LoopLevel} {ls : List LoopLevel} (hl : s.seq.loops = l :: ls)
    (h : ∃ m ∈ ls.head?, m.stop = l.stop) : s.lexitTrap = some (loopFault l.n.val) := by
  cases ls with
  | nil => simp at h
  | cons m ms =>
    have he : m.stop = l.stop := by simpa using h
    simp [State.lexitTrap, hl, trapIf, he]

section
variable {xa : Reg} {s : State} (hr : s.pendingRead (.x xa) = false) (hclear : s.clearOfLoopEnd)
include hr hclear

theorem lexit_traps {t : TrapReq} (h : s.lexitTrap = some t) : Traps (.lexit xa) s t :=
  traps_of_guarded rfl (by rw [rdX_none hr, nearEnd_none hclear, h]; rfl)

/-- A LEXIT without a fault leaves the innermost level when its register asks for it. -/
theorem lexit_goes (h : s.lexitTrap = none) : exec (.lexit xa) s = .next (if xa = 0 || s.x xa ≠ 0 then
    (s.transfer (some s.afterLoop)).onSeq fun q => { q with loops := q.loops.drop 1 } else s.transfer none) :=
  congrArg Host.Outcome.next (guarded_pass (by simp [rdX_none hr, nearEnd_none hclear, h]))

end

/-- Settles O20: the loop fault by `State.barsLoop` and its complement, and LEXIT by the stack's two innermost levels. -/
theorem loopsStartAndLeave : Obligations.LoopsStartAndLeave := by
  refine ⟨fun n xa trip last s hstart hr hw => ⟨loop_traps hstart hr hw, fun h h0 => ?_, fun h h0 => ?_⟩,
    fun xa s hr hclear => ⟨fun hl => ?_, fun l ls hl => ⟨fun h => ?_, fun h hx => ?_, fun h hxa hx => ?_⟩⟩⟩
  · exact ⟨_, loop_starts hstart hr hw h, _, enqueue_inFlight s (.lc n 0) 1 false, if_pos h0⟩
  · exact ⟨_, loop_starts hstart hr hw h, _, enqueue_inFlight s (.lc n 0) 1 false, if_neg h0.ne'⟩
  · exact lexit_traps hr hclear (by simp [State.lexitTrap, hl, loopFault])
  · exact lexit_traps hr hclear (lexitTrap_shared hl h)
  · refine ⟨_, lexit_goes hr hclear (lexitTrap_none hl h), ?_⟩
    rw [if_pos (by simpa [or_iff_not_imp_left] using hx)]
    simp [State.transfer, transferred, State.onSeq, State.afterLoop, hl]
  · refine ⟨_, lexit_goes hr hclear (lexitTrap_none hl h), ?_⟩
    simp [hx, hxa, State.transfer, transferred, State.onSeq]

end Sys2Proof.Machine
end

section
/-! PROOF. The loop-end action (R118). -/

namespace Sys2Proof.Machine

theorem loopEnd_elsewhere {a : BitVec 15} {l : LoopLevel} {ls : List LoopLevel} {lc : Vector (BitVec 25) 4} (h : l.stop ≠ a) :
    loopEnd a (l :: ls) lc = (l :: ls, lc, none) := if_neg h

theorem loopEnd_again {a : BitVec 15} {l : LoopLevel} {ls : List LoopLevel} {lc : Vector (BitVec 25) 4} (h : l.stop = a)
    (hc : (lc[l.n] + 1).toNat < l.trip.toNat) : loopEnd a (l :: ls) lc = (l :: ls, lc.set l.n (lc[l.n] + 1), some l.start) :=
  (if_pos h).trans (if_pos hc)

theorem loopEnd_leaves {a : BitVec 15} {l : LoopLevel} {ls : List LoopLevel} {lc : Vector (BitVec 25) 4} (h : l.stop = a)
    (hc : ¬(lc[l.n] + 1).toNat < l.trip.toNat) : loopEnd a (l :: ls) lc = loopEnd a ls (lc.set l.n (lc[l.n] + 1)) :=
  (if_pos h).trans (if_neg hc)

/-- Settles O21: the counter below its trip count does not wrap, and its next value decides between the two equations of a
level that ends there. -/
theorem loopEndAction : Obligations.LoopEndAction := by
  refine fun a l ls lc => ⟨rfl, loopEnd_elsewhere, fun hstop hlt => ⟨lc[l.n] + 1, ?_, loopEnd_again hstop, fun h => ?_⟩⟩
  · have hfits : lc[l.n].toNat + 1 < 2 ^ 25 := lt_of_le_of_lt hlt l.trip.isLt
    exact BitVec.toNat_add_of_lt (y := 1) hfits
  · exact loopEnd_leaves hstop h.not_lt

end Sys2Proof.Machine
end

section
/-! PROOF. A double trap in a state with a failing row on its way (R141). -/

namespace Sys2Proof.Machine

/-- A stop leaves the annulus as the landing of what is in flight does. -/
theorem stopWith_ann (status : BitVec 16) (s : State) : (s.stopWith status).ann = s.landAll.ann := rfl

/-- Refutes O23: a double trap in `failingPush` suppresses the failing row and gives up its sector access (R111, log 66), so the
annulus does not stay as it was. -/
theorem not_doubleTrapStops : ¬ Obligations.DoubleTrapStops := by
  intro h
  have hmode : failingPush.seq.mode = .supervisor := rfl
  obtain ⟨-, -, hann, -⟩ := h { cause := 0x0B, code := 0, baddr := 0x7000, slot := 1, detail := 0 } failingPush hmode
  rw [enterTrap_supervisor _ hmode, stopWith_ann] at hann
  have hclaims : [] = [failingClaim] := failingPush_claims.symm.trans (congrArg Annulus.claims hann)
  cases hclaims

end Sys2Proof.Machine
end

section
/-! PROOF. The watchdog's look at a launch that is looked for already (R421). -/

namespace Sys2Proof.Machine

/-- What stands on the agenda is not planned once more, whenever it is due. -/
theorem planOnce_standing {s : State} {cyc rank : Nat} {d : Due} (h : d ∈ s.agenda) : s.planOnce cyc rank d.act = s :=
  if_pos (List.any_eq_true.2 ⟨d, h, beq_self_eq_true d.act⟩)

/-- Below its limit a running launch is looked at later, unless the agenda holds a look at it. -/
theorem watchdogLimit_below {s : State} {lid : BitVec 32} {l : LaunchRec} (hf : s.apex.frozen = none) (hl : s.launchOf lid = some l)
    (hw : l.wdogged = false) (hst : l.st = .running) (hn : s.cyclesRun l < l.pkt.wdog) : exec (.watchdogLimit lid) s =
      .next (s.planOnce (s.now + lookAhead (l.pkt.wdog - s.cyclesRun l)) rankEnd (.ev (.watchdogLimit lid))) := by
  change execWatchdogLimit lid s = _
  simp [execWatchdogLimit, State.thawed, hf, hl, hw, hst, hn]

/-- A launch that has just begun to run, with a limit of five cycles. -/
def limitedLaunch : LaunchRec :=
  { lid := 1, entry := 0, q := 0, shape := 0, rx := 0, ry := 0, px := 0, py := 0, st := .running, ready := [], halts := [], t0 := 0,
    began := 0, ran := 0, wdogged := false, bank := 0, committed := none, acked := [], lastCk := none, suspend := false, handle := 0,
    ver := 0, wins := [], ctx := none, openCk := none, heldCk := none,
    pkt := {
      stag := 0, flags := 0, mvec := 0, deadline := 0, wcet := 0, cplt := 0, imageDva := 0, w := 1, h := 1, ox := 0, oy := 0, mfirst := 0,
      mlog := 0, lflags := 0, mset := 0, mbox := Vector.replicate 16 0, ctx := 0, wdog := 5, save := 0, ckpt := 0 },
    img := {
      head := ⟨0, 0, 0, 0, 0, 0, 0, 0, 0, 0⟩, fileSize := 0, timed := false, ckpt := false, checked := true, wcet := 0, shapes := [],
      maps := [], cong := [], sectors := [], init := [], tiles := [], mailbox := [], windows := [] } }

/-- That launch, with a second look at it due in the present cycle. -/
def lookedForNow : State :=
  { State.reset with
    apex := { State.reset.apex with launches := [limitedLaunch] }
    agenda := [{ at_ := 0, rank := rankEnd, act := .ev (.watchdogLimit 1) }] }

/-- Refutes O56: in `lookedForNow` the launch is below its limit, but the look that is due now keeps WATCHDOG_LIMIT from planning
one for a later cycle. -/
theorem not_launchesRunAndEnd : ¬ Obligations.LaunchesRunAndEnd := by
  intro h
  have hfrozen : lookedForNow.apex.frozen = none := rfl
  have hlaunch : lookedForNow.launchOf 1 = some limitedLaunch := rfl
  have hbelow : lookedForNow.cyclesRun limitedLaunch < limitedLaunch.pkt.wdog := by decide
  obtain ⟨-, -, -, -, -, -, -, -, -, -, -, -, -, -, -, -, -, hlater⟩ :=
    h 1 { x := 0, y := 0, md := 0 } 0 limitedLaunch lookedForNow hfrozen hlaunch rfl
  obtain ⟨t, ht, -, cyc, hcyc, hplanned⟩ := hlater rfl rfl hbelow
  have hstays : t = lookedForNow := by
    have hexec := watchdogLimit_below hfrozen hlaunch rfl rfl hbelow
    rw [planOnce_standing (d := { at_ := 0, rank := rankEnd, act := .ev (.watchdogLimit 1) }) (List.mem_singleton.2 rfl)] at hexec
    exact Host.Outcome.next.inj (ht.symm.trans hexec)
  subst hstays
  have hdue := congrArg Due.at_ (List.mem_singleton.1 hplanned)
  exact absurd hdue hcyc.ne'

end Sys2Proof.Machine
end

section
/-! PROOF. The element-wise vector instructions: one lemma for each number of sources, the floating-point results, the integer
codes as values of their format (R42, R43, R152, R154 to R158, R163). -/

namespace Sys2Proof.Machine

/-! ## Element-wise operations (R154) -/

section
variable {i : Instr} {s : State} {c : VCtl} {od oa ob oc : VOp} {lat : Nat} {p : Nat → Nat → Prop}

theorem elementwise_of_vec1 {f : Nat → Nat → Nat} (hi : exec i s = .next (vec1 lat c od oa f s))
    (hp : ∀ e, p e (f e (elem c.fmt.width (s.srcRow c c.fmt oa) e) % 2 ^ c.fmt.width)) :
    Elementwise i s c od [oa] [] lat (s.active c od) c.fmt.width p :=
  elementwise_of_vecRow hi (fun _ hj => activeCols_getLsbD s c od hj) fun e he => (elem_rowMap _ he).symm ▸ hp e

theorem elementwise_of_vec2 {f : Nat → Nat → Nat → Nat} (hi : exec i s = .next (vec2 lat c od oa ob f s))
    (hp : ∀ e, p e (f e (elem c.fmt.width (s.srcRow c c.fmt oa) e) (elem c.fmt.width (s.srcRow c c.fmt ob) e) % 2 ^ c.fmt.width)) :
    Elementwise i s c od [oa, ob] [] lat (s.active c od) c.fmt.width p :=
  elementwise_of_vecRow hi (fun _ hj => activeCols_getLsbD s c od hj) fun e he => (elem_rowMap _ he).symm ▸ hp e

theorem elementwise_of_vec3 {f : Nat → Nat → Nat → Nat → Nat} (hi : exec i s = .next (vec3 lat c od oa ob oc f s))
    (hp : ∀ e, p e (f e (elem c.fmt.width (s.srcRow c c.fmt oa) e) (elem c.fmt.width (s.srcRow c c.fmt ob) e)
      (elem c.fmt.width (s.srcRow c c.fmt oc) e) % 2 ^ c.fmt.width)) :
    Elementwise i s c od [oa, ob, oc] [] lat (s.active c od) c.fmt.width p :=
  elementwise_of_vecRow hi (fun _ hj => activeCols_getLsbD s c od hj) fun e he => (elem_rowMap _ he).symm ▸ hp e

end

/-! ## The sign bit of a floating-point code (R156) -/

section
variable {f : Fmt} {x : Nat}

/-- A code with its sign bit cleared. -/
theorem mag_code (hf : f.isFp = true) (x : Nat) : (floatFormat f).mag x % 2 ^ f.width = x % 2 ^ (f.width - 1) := by
  rw [FFormat.mag, floatFormat_w hf]
  exact Nat.mod_eq_of_lt ((Nat.mod_lt _ (Nat.two_pow_pos _)).trans_le (Nat.pow_le_pow_right (by decide) (Nat.sub_le ..)))

/-- A code with its sign bit inverted: half the codes on. -/
theorem fpFlip_code (hf : f.isFp = true) (hx : x < 2 ^ f.width) :
    fpFlip (floatFormat f) x % 2 ^ f.width = (x + 2 ^ (f.width - 1)) % 2 ^ f.width := by
  have hw : 2 ^ f.width = 2 * 2 ^ (f.width - 1) := by
    rw [← Nat.pow_succ', Nat.succ_eq_add_one, Nat.sub_add_cancel]
    cases f <;> decide
  rw [fpFlip, FFormat.code, FFormat.sign, FFormat.mag, floatFormat_w hf]
  rw [hw] at hx ⊢
  generalize 2 ^ (f.width - 1) = h at hx ⊢
  have hpos : 0 < h := by omega
  by_cases hlt : x < h
  · rw [Nat.div_eq_of_lt hlt, Nat.mod_eq_of_lt hlt, Nat.add_comm x]
    rfl
  · have hd : x / h = 1 := Nat.div_eq_of_lt_le (by omega) (by omega)
    have hm : x % h = x - h := by rw [Nat.mod_eq_sub_mod (by omega), Nat.mod_eq_of_lt (by omega)]
    rw [hd, hm, show x + h = x - h + 2 * h by omega, Nat.add_mod_right]
    rfl

end

/-- Settles O29: each instruction is element-wise by definition; VABS and VNEG by the sign bit of a code. -/
theorem vectorFloatResults : Obligations.VectorFloatResults := by
  unfold Obligations.VectorFloatResults
  intro c od oa ob oc s hf
  exact ⟨elementwise_of_vec2 rfl fun _ => rfl, elementwise_of_vec2 rfl fun _ => rfl, elementwise_of_vec2 rfl fun _ => rfl,
    elementwise_of_vec2 rfl fun _ => rfl, elementwise_of_vec3 rfl fun _ => rfl, elementwise_of_vec3 rfl fun _ => rfl,
    elementwise_of_vec2 rfl fun _ => rfl, elementwise_of_vec2 rfl fun _ => rfl, elementwise_of_vec1 rfl fun _ => mag_code hf _,
    elementwise_of_vec1 rfl fun _ => fpFlip_code hf (elem_lt ..), elementwise_of_vec1 rfl fun _ => rfl,
    elementwise_of_vec1 rfl fun _ => rfl, elementwise_of_vec1 rfl fun _ => rfl, elementwise_of_vec1 rfl fun _ => rfl⟩

end Sys2Proof.Machine
end

section
/-! PROOF. The integer vector instructions and the comparisons into masks: codes of exact results, and the bits of a column mask
(R42, R43, R157, R158). -/

namespace Sys2Proof.Machine

/-! ## Codes of exact integers (R42, R43) -/

section
variable {f : Fmt} {v x y : Int} {m n : Nat}

theorem intWidth_eq (hi : f.isInt = true) : intWidth f = f.width :=
  match f, hi with
  | .i32, _ | .i16, _ | .i8, _ | .u8, _ => rfl

theorem intRange_eq (hi : f.isInt = true) : intRange f =
    (if f = .u8 then 0 else -(2 ^ (f.width - 1)), if f = .u8 then 255 else 2 ^ (f.width - 1) - 1) :=
  match f, hi with
  | .i32, _ | .i16, _ | .i8, _ | .u8, _ => by decide

/-- Zero lies in every integer format's range. -/
theorem intRange_zero (f : Fmt) : (intRange f).1 ≤ 0 ∧ 0 ≤ (intRange f).2 := by
  cases f <;> decide

/-- The value of a code lies in the format's range (R42). -/
theorem intValue_mem (hi : f.isInt = true) (hn : n < 2 ^ f.width) :
    (intRange f).1 ≤ intValue f n ∧ intValue f n ≤ (intRange f).2 := by
  have h := intValue_range hi hn
  rw [(intExtreme_value hi).1, (intExtreme_value hi).2] at h
  rwa [intRange_eq hi]

/-- The code of a value in the format's range has that value. -/
theorem intValue_wrapInt (hi : f.isInt = true) (h : (intRange f).1 ≤ v ∧ v ≤ (intRange f).2) :
    intValue f (wrapInt f.width v) = v := by
  have hw : (wrapInt f.width v : Int) = v % 2 ^ f.width := by
    rw [wrapInt, Int.toNat_of_nonneg (Int.emod_nonneg _ (by positivity)), Nat.cast_pow, Nat.cast_ofNat]
  rw [intRange_eq hi] at h
  rw [intValue_of_lt hi (wrapInt_lt ..)]
  match f, hi with
  | .i32, _ | .i16, _ | .i8, _ | .u8, _ =>
    simp only [Fmt.width, reduceCtorEq, false_or, true_or, if_true, if_false] at h hw ⊢
    omega

theorem intCode_lt (hi : f.isInt = true) (sat : Bool) (v : Int) : intCode f sat v < 2 ^ f.width := by
  rw [intCode, intWidth_eq hi]
  split <;> exact wrapInt_lt ..

/-- The code of an exact result: clamped to the format's range, or modulo `2 ^ w` (R43). -/
theorem intCode_result (hi : f.isInt = true) (sat : Bool) (v : Int) :
    if sat then intValue f (intCode f sat v) = max (intRange f).1 (min (intRange f).2 v)
    else (intCode f sat v : Int) = v % 2 ^ f.width := by
  have hr := intRange_zero f
  cases sat with
  | true =>
    have hc : clampInt (intRange f).1 (intRange f).2 v = max (intRange f).1 (min (intRange f).2 v) := by
      rw [clampInt_eq _ _ _ (hr.1.trans hr.2)]
      omega
    rw [if_pos rfl, intCode, if_pos rfl, intWidth_eq hi, hc]
    exact intValue_wrapInt hi ⟨by omega, by omega⟩
  | false =>
    rw [if_neg Bool.false_ne_true, intCode, if_neg Bool.false_ne_true, intWidth_eq hi, wrapInt,
      Int.toNat_of_nonneg (Int.emod_nonneg _ (by positivity)), Nat.cast_pow, Nat.cast_ofNat]

/-- A range around zero holds the quotients of its values. -/
theorem ediv_mem {lo hi : Int} (hlo : lo ≤ 0) (hhi : 0 ≤ hi) (hv : lo ≤ v ∧ v ≤ hi) {d : Int} (hd : 0 < d) :
    lo ≤ v / d ∧ v / d ≤ hi := by
  constructor
  · rw [Int.le_ediv_iff_mul_le hd]
    nlinarith
  · exact Int.ediv_le_of_le_mul hd (by nlinarith)

end

/-- The smaller by value has the smaller value. -/
theorem apply_smaller (g : Nat → Int) (a b : Nat) : g (if g b < g a then b else a) = min (g a) (g b) := by
  split <;> omega

/-- The larger by value has the larger value. -/
theorem apply_larger (g : Nat → Int) (a b : Nat) : g (if g a < g b then b else a) = max (g a) (g b) := by
  split <;> omega

/-! ## Comparisons into a column mask (R158) -/

/-- Bit j of a column mask is truth j of its list. -/
theorem colsOf_getLsbD (l : List Bool) {j : Nat} (hj : j < 128) : (colsOf l).getLsbD j = (l[j]?).getD false := by
  have hbits : ∀ (l : List Bool) (j : Nat),
      (l.foldr (fun (b : Bool) acc => acc * 2 + if b then 1 else 0) 0).testBit j = (l[j]?).getD false := fun l => by
    induction l with
    | nil => simp
    | cons b l ih =>
      have hb : ∀ n, (n * 2 + if b then 1 else 0) = Nat.bit b n := fun n => by
        rw [Nat.bit_val, Nat.mul_comm]
        cases b <;> rfl
      intro j
      rw [List.foldr_cons, hb]
      cases j with
      | zero => rw [Nat.testBit_bit_zero, List.getElem?_cons_zero, Option.getD_some]
      | succ j => rw [Nat.testBit_bit_succ, ih, List.getElem?_cons_succ]
  rw [colsOf, BitVec.getLsbD_ofNat, decide_eq_true hj, Bool.true_and, hbits]

theorem colsOf_map_getLsbD (f : Nat → Bool) {j : Nat} (hj : j < 128) :
    (colsOf ((List.range 128).map f)).getLsbD j = f j := by
  rw [colsOf_getLsbD _ hj, List.getElem?_map, List.getElem?_range hj, Option.map_some, Option.getD_some]

@[simp] theorem pop_seq (q : Fin 8) (s : State) : (s.pop q).seq = s.seq := by
  unfold State.pop
  dsimp only
  split <;> rfl

@[simp] theorem popSrc_seq (o : VOp) (s : State) : (s.popSrc o).seq = s.seq := by
  cases o with
  | port q => exact pop_seq q s
  | _ => rfl

/-- Pops change nothing of the sequencer. -/
theorem popAll_seq {c : VCtl} {l : List VOp} {s u : State} (h : State.popAll c l s = .ok u) : u.seq = s.seq := by
  induction l generalizing s with
  | nil => cases h; rfl
  | cons o l ih =>
    rw [State.popAll] at h
    split at h
    · cases h
    · exact (ih h).trans (popSrc_seq o s)

section
variable {i : Instr} {s u : State} {c : VCtl} {md sub : Fin 4} {oa ob : VOp} {cmp : Nat → Nat → Bool} {p : Nat → Nat → Prop}

/-- A comparison whose checks are silent writes the mask of its truths at the active columns. -/
theorem completes_of_vecCmp (hi : exec i s = .next (vecCmp c md oa ob sub cmp s)) (hdup : dupPort [oa, ob] = none)
    (hmask : s.pendingRead (.mask c.mp) = false) (hpop : State.popAll c [oa, ob] s = .ok u)
    (hfree : s.pendingWrite (.mask md) = false)
    (hp : ∀ a < 2 ^ c.fmt.width, ∀ b < 2 ^ c.fmt.width, (cmp a b = true ↔ p a b)) :
    Completes i s fun t => ∃ cols, InFlight u (.mask md s.seq.maskRow[md] cols) 2 t ∧
      ∀ j < 128, (cols.getLsbD j = true ↔ s.seq.maskCol[c.mp].getLsbD j ≠ c.cpl ∧
        p (elem c.fmt.width (s.srcRow c c.fmt oa) (j * (32 / c.fmt.width) + sub.val))
          (elem c.fmt.width (s.srcRow c c.fmt ob) (j * (32 / c.fmt.width) + sub.val))) := by
  have hfree' : u.pendingWrite (.mask md) = false := by rwa [State.pendingWrite, popAll_seq hpop]
  refine ⟨_, hi, compareCols c.fmt.width sub.val (s.cols c.mp c.cpl) cmp (s.srcRow c c.fmt oa) (s.srcRow c c.fmt ob), ?_, ?_⟩
  · rw [vecCmp, vecDo, guarded_pass (by simp [dupFault, hdup, readFault_none hmask])]
    simp only [hpop]
    rw [guarded_pass (by simp [writeFault_none hfree']), popAll_seq hpop]
    exact enqueue_inFlight ..
  · intro j hj
    rw [compareCols, BitVec.getLsbD_and, colsOf_map_getLsbD _ hj, cols_getLsbD s c.mp c.cpl hj, Bool.and_eq_true, bne_iff_ne]
    exact and_congr_right fun _ => hp _ (elem_lt ..) _ (elem_lt ..)

end

/-- Settles O30: the arithmetic by `intCode_result`, shifts and bits by their codes staying below `2 ^ w`, the comparisons by
`completes_of_vecCmp`. -/
theorem vectorIntegerResults : Obligations.VectorIntegerResults := by
  unfold Obligations.VectorIntegerResults
  refine ⟨fun c od oa ob oc s _ => ?_, fun c md oa ob sub s u _ hdup hmask hpop hfree => ?_⟩
  · intro w A B C act V lo hi res two
    have hA : ∀ e, A e < 2 ^ w := fun e => elem_lt ..
    have hB : ∀ e, B e < 2 ^ w := fun e => elem_lt ..
    refine ⟨fun hint => ?_, elementwise_of_vec2 rfl fun e => Nat.mod_eq_of_lt (Nat.and_lt_two_pow _ (hB e)),
      elementwise_of_vec2 rfl fun e => Nat.mod_eq_of_lt (Nat.or_lt_two_pow (hA e) (hB e)),
      elementwise_of_vec2 rfl fun e => Nat.mod_eq_of_lt (Nat.xor_lt_two_pow (hA e) (hB e))⟩
    have hV : ∀ n < 2 ^ w, vval c n = V n := fun n hn => intValue_of_lt hint hn
    have hVA : ∀ e, vval c (A e) = V (A e) := fun e => hV _ (hA e)
    have hVB : ∀ e, vval c (B e) = V (B e) := fun e => hV _ (hB e)
    have hVC : ∀ e, vval c (C e) = V (C e) := fun e => hV _ (elem_lt ..)
    have hres : ∀ {x y : Int}, x = y → res y (vint c x % 2 ^ w) := fun {x y} hxy => by
      subst hxy
      have hlt : vint c x < 2 ^ w := intCode_lt hint c.sat x
      have h := intCode_result hint c.sat x
      rw [intRange_eq hint] at h
      simp only [res, Nat.mod_eq_of_lt hlt, ← hV _ hlt]
      exact h
    have hval : ∀ {n : Nat} {x : Int}, n < 2 ^ w → vval c n = x → V (n % 2 ^ w) = x := fun hn hx => by
      rw [Nat.mod_eq_of_lt hn, ← hV _ hn, hx]
    have hone : ∀ (e : Nat) (q : Prop) [Decidable q], (if q then B e else A e) < 2 ^ w := fun e q _ => by
      split
      · exact hB e
      · exact hA e
    have hrange := intRange_zero c.fmt
    exact ⟨elementwise_of_vec2 rfl fun e => hres (by rw [hVA, hVB]), elementwise_of_vec2 rfl fun e => hres (by rw [hVA, hVB]),
      elementwise_of_vec2 rfl fun e => hres (by rw [hVA, hVB]), elementwise_of_vec3 rfl fun e => hres (by rw [hVA, hVB, hVC]),
      elementwise_of_vec2 rfl fun e => hval (hone e _) (by rw [apply_smaller (vval c), hVA, hVB]),
      elementwise_of_vec2 rfl fun e => hval (hone e _) (by rw [apply_larger (vval c), hVA, hVB]),
      elementwise_of_vec2 rfl fun _ => rfl,
      elementwise_of_vec2 rfl fun e => Nat.mod_eq_of_lt ((Nat.div_le_self ..).trans_lt (hA e)),
      fun _ => elementwise_of_vec2 rfl fun e => hval (wrapInt_lt ..) (by
        rw [← hVA, ← Nat.cast_ofNat (n := 2), ← Nat.cast_pow]
        exact intValue_wrapInt hint (ediv_mem hrange.1 hrange.2 (intValue_mem hint (hA e)) (by positivity)))⟩
  · intro w at_ F V ok
    have hok : ∀ {i cmp p}, exec i s = .next (vecCmp c md oa ob sub cmp s) →
        (∀ a < 2 ^ w, ∀ b < 2 ^ w, (cmp a b = true ↔ p a b)) → ok i p := fun hi hp =>
      completes_of_vecCmp hi hdup hmask hpop hfree hp
    refine ⟨fun _ => ⟨hok rfl fun _ _ _ _ => Iff.rfl, hok rfl fun a _ b _ => iff_of_eq (Bool.not_eq_true' _),
      hok rfl fun _ _ _ _ => Iff.rfl, hok rfl fun _ _ _ _ => Iff.rfl,
      hok (p := fun a b => F.isNaN a = true ∨ F.isNaN b = true) rfl fun a _ b _ => iff_of_eq (Bool.or_eq_true ..)⟩,
      fun hint => ⟨fun hu => hok (p := fun a b => V a < V b) rfl fun a ha b hb => ?_,
        hok rfl fun _ _ _ _ => decide_eq_true_iff, hok rfl fun _ _ _ _ => beq_iff_eq⟩⟩
    have hV : ∀ n < 2 ^ w, vval c n = V n := fun n hn => (intValue_of_lt hint hn).trans (by simp [V, w, hu])
    rw [decide_eq_true_iff, hV a ha, hV b hb]

end Sys2Proof.Machine
end

section
/-! PROOF. Selection and movement, the draws of VRNG, MPOP, and what a source operand supplies (R150, R159, R165, R167). -/

namespace Sys2Proof.Machine

/-! ## Positions as elements of 32 bits -/

theorem position_toNat (r : Row) (j : Nat) : (position r j).toNat = elem 32 r j := BitVec.extractLsb'_toNat ..

/-- A vector instruction whose only checks of its own are on scalar registers gives the elements of its row. -/
theorem elementwise_of_vecRow_regs {i : Instr} {s : State} {c : VCtl} {od : VOp} {srcs : List VOp} {regs : List Reg} {lat w : Nat}
    {cols : BitVec 128} {act : Nat → Bool} {r : Row} {p : Nat → Nat → Prop}
    (hi : exec i s = .next (vecRow lat c od srcs (regs.map s.rdX) cols r s)) (hc : ∀ j < 128, cols.getLsbD j = act j)
    (hp : ∀ e < 4096 / w, p e (elem w r e)) : Elementwise i s c od srcs regs lat act w p := fun u hu => by
  have hsilent : ∀ x ∈ regs.map s.rdX, x = none := by
    obtain ⟨-, -, -, hregs, -, -⟩ := hu
    simpa using fun a ha => rdX_none (hregs a ha)
  exact ⟨r, hp, _, hi, vecRow_given hu hsilent hc⟩

/-- A result that is a code of the width stands in its element unchanged. -/
theorem elem_rowMap_of_lt {w e : Nat} {f : Nat → Nat} (he : e < 4096 / w) (hf : f e < 2 ^ w) : elem w (rowMap w f) e = f e :=
  (elem_rowMap f he).trans (Nat.mod_eq_of_lt hf)

theorem popCols_le (m : BitVec 128) : popCols m ≤ 128 :=
  (List.length_filter_le ..).trans (List.length_range ..).le

/-! ## Small naturals in FP32 (R35, R45) -/

/-- The leading bit of a natural number below 2^24, moved to bit 23. -/
theorem normalized_bounds {n : Nat} (h0 : n ≠ 0) (h : n < 2 ^ 24) :
    Nat.log2 n < 24 ∧ 2 ^ 23 ≤ n * 2 ^ (23 - Nat.log2 n) ∧ n * 2 ^ (23 - Nat.log2 n) < 2 ^ 24 := by
  have hl : Nat.log2 n < 24 := (Nat.log2_lt h0).2 h
  refine ⟨hl, ?_, ?_⟩
  · calc 2 ^ 23 = 2 ^ Nat.log2 n * 2 ^ (23 - Nat.log2 n) := by rw [← Nat.pow_add]; congr 1; omega
      _ ≤ n * 2 ^ (23 - Nat.log2 n) := Nat.mul_le_mul_right _ (Nat.log2_self_le h0)
  · calc n * 2 ^ (23 - Nat.log2 n) < 2 ^ (Nat.log2 n + 1) * 2 ^ (23 - Nat.log2 n) :=
          Nat.mul_lt_mul_of_pos_right Nat.lt_log2_self (Nat.two_pow_pos _)
      _ = 2 ^ 24 := by rw [← Nat.pow_add]; congr 1; omega

/-- A natural number below 2^24 has its own bits for fraction: nothing is rounded. -/
theorem f32OfNat_eq {n : Nat} (h0 : n ≠ 0) (h : n < 2 ^ 24) :
    f32OfNat n = (Nat.log2 n + 126) * 2 ^ 23 + n * 2 ^ (23 - Nat.log2 n) := by
  obtain ⟨hl, -, hhi⟩ := normalized_bounds h0 h
  have hq : max ((0 : Int) + (Nat.log2 n : Int) - (23 : Nat)) (-149) = (Nat.log2 n : Int) - 23 := by omega
  have hbase : ((Nat.log2 n : Int) - 23 - -149).toNat = Nat.log2 n + 126 := by omega
  have hshift : ((0 : Int) - ((Nat.log2 n : Int) - 23)).toNat = 23 - Nat.log2 n := by omega
  have hmag : f32.roundMag rne (exactInt n) = (Nat.log2 n + 126) * 2 ^ 23 + n * 2 ^ (23 - Nat.log2 n) := by
    have he : f32.emin = -149 := rfl
    have hf : f32.f = 23 := rfl
    simp only [FFormat.roundMag, exactInt, Int.natAbs_natCast, he, hf, hq, hbase, hshift]
    rw [if_pos (by omega)]
    rfl
  have hm : (exactInt n).m = n := Int.natAbs_natCast n
  have hs : (exactInt n).s = false := decide_eq_false (Int.natCast_nonneg n).not_gt
  have hfin : ¬f32.maxc < (Nat.log2 n + 126) * 2 ^ 23 + n * 2 ^ (23 - Nat.log2 n) := by
    have : f32.maxc = 0x7F7FFFFF := rfl
    omega
  simp only [f32OfNat, FFormat.round, hm, hs, hmag, decide_eq_false h0, Bool.false_and, Bool.false_eq_true, if_false, if_neg hfin]
  rfl

/-- The FP32 code of a natural number below 2^24 has that number for value. -/
theorem f32Val_f32OfNat {n : Nat} (h : n < 2 ^ 24) : f32Val (f32OfNat n) = n := by
  by_cases h0 : n = 0
  · subst h0
    norm_num [f32OfNat, f32Val, FFormat.round, exactInt, FFormat.code]
  obtain ⟨hl, hlo, hhi⟩ := normalized_bounds h0 h
  have hunits : n * 2 ^ (23 - Nat.log2 n) * 2 ^ (Nat.log2 n + 127) = n * 2 ^ 150 := by
    rw [Nat.mul_assoc, ← Nat.pow_add]
    congr 2
    omega
  rw [f32OfNat_eq h0 h, f32Val]
  generalize n * 2 ^ (23 - Nat.log2 n) = m at hlo hhi hunits
  have hneg : ¬2 ^ 31 ≤ (Nat.log2 n + 126) * 2 ^ 23 + m := by omega
  have hexp : ((Nat.log2 n + 126) * 2 ^ 23 + m) / 2 ^ 23 % 256 = Nat.log2 n + 127 := by omega
  have hfrac : 2 ^ 23 + ((Nat.log2 n + 126) * 2 ^ 23 + m) % 2 ^ 23 = m := by omega
  rw [if_neg hneg, hexp, if_neg (by omega), hfrac, hunits, one_mul, Nat.cast_mul, Nat.cast_pow, Nat.cast_ofNat,
    mul_div_cancel_right₀ _ (by positivity)]

/-! ## What a source operand supplies (R150) -/

theorem elem_zero (w e : Nat) : elem w 0 e = 0 := by
  rw [elem, BitVec.ofNat_eq_ofNat, BitVec.toNat_zero, Nat.zero_shiftRight, Nat.zero_mod]

theorem elem_lidxRow {e : Nat} (f : Fmt) (he : e < 128) :
    elem 32 (lidxRow f) e = (if f == .fp32 then f32OfNat e else e) % 2 ^ 32 := by
  rw [lidxRow, elem_rowOfElems _ he, List.getElem?_map, List.getElem?_range he, Option.map_some, Option.getD_some]

/-- The code of a lane index fits its element. -/
theorem f32OfNat_lt {n : Nat} (h : n < 2 ^ 24) : f32OfNat n < 2 ^ 32 := by
  by_cases h0 : n = 0
  · subst h0
    decide
  · obtain ⟨hl, -, hhi⟩ := normalized_bounds h0 h
    rw [f32OfNat_eq h0 h]
    omega

/-- Settles O31: every element of each instruction's row, and of each operand form's. -/
theorem vectorMoveResults : Obligations.VectorMoveResults := by
  unfold Obligations.VectorMoveResults
  refine ⟨fun c od oa ob ma s _ => ?_, fun c k q row rest at_ r s _ => ?_⟩
  · intro w n a b x act next
    have hact : ∀ j < 128, (s.activeCols c.mp c.cpl od).getLsbD j = act j := fun j hj => activeCols_getLsbD s c od hj
    refine ⟨elementwise_of_vecRow rfl (fun _ hj => openCols_getLsbD s c od hj) fun j hj => ?_,
      elementwise_of_vecRow rfl hact fun j _ => (position_toNat ..).symm,
      elementwise_of_vecRow_regs rfl hact fun e he => ?_,
      elementwise_of_vecRow rfl hact fun j hj => ?_,
      elementwise_of_vecRow_regs rfl hact fun e he => elem_rowMap_of_lt he (elem_lt ..),
      elementwise_of_vecRow_regs rfl hact fun j hj => elem_rowMap_of_lt hj (Nat.mod_lt _ (by decide)),
      fun hf => elementwise_of_vecRow_regs rfl hact fun j hj => ?_,
      fun hf => elementwise_of_vecRow_regs rfl hact fun j hj => ?_,
      fun hd hmask hdst => ?_⟩
    · rw [← position_toNat, position_blend _ _ _ hj, cols_getLsbD s c.mp c.cpl hj]
    · exact (elem_rowFill _ he).trans (Nat.mod_eq_of_lt (elem_lt ..))
    · rw [position_toNat, position_toNat]
      exact elem_rowMap_of_lt hj (elem_lt ..)
    · rw [elem_rowMap _ hj, if_neg (by simp [hf])]
      exact Nat.mod_eq_of_lt (BitVec.isLt _)
    · rw [elem_rowMap _ hj, if_pos (by simp [hf])]
      rfl
    · refine ⟨rowFill 32 (popCols s.seq.maskCol[ma]), fun j hj => ?_, completes_of_guarded rfl ?_
        (putRow_given s _ hd fun j hj => ?_)⟩
      · rw [position_toNat, elem_rowFill _ hj]
        exact Nat.mod_eq_of_lt ((popCols_le _).trans_lt (by decide))
      · simp [readFault_none hmask, hdst]
      · rw [BitVec.getLsbD_allOnes, decide_eq_true hj]
  · intro w
    refine ⟨?_, fun h => ?_, fun e he => elem_rowFill _ he, fun e _ => ?_, fun e he => ?_, fun e he => ?_⟩
    · simp only [State.srcRow, tileIdx, Fin.getElem_fin, Nat.mul_comm]
    · simp only [State.srcRow, State.popRow, h]
    · exact elem_zero w e
    · exact (elem_lidxRow .i32 he).trans (Nat.mod_eq_of_lt (he.trans (by decide)))
    · have hcode : elem 32 (s.srcRow c .fp32 .lidx) e = f32OfNat e :=
        (elem_lidxRow .fp32 he).trans (Nat.mod_eq_of_lt (f32OfNat_lt (by omega)))
      rw [hcode, f32Val_f32OfNat (by omega)]

end Sys2Proof.Machine
end

section
/-! PROOF. The mask instructions, TZERO and TCPY with no write in flight: masks written in one cycle, and tile rows put in flight
one after another (R152, R167, R168). -/

namespace Sys2Proof.Machine

/-! ## With no write in flight nothing is pending (R77) -/

section
variable {s : State} (h : s.seq.writes = [])
include h

theorem readFault_idle (k : Key) : s.readFault k = none := readFault_none (by simp [State.pendingRead, h])

theorem writeFault_idle (k : Key) : s.writeFault k = none := writeFault_none (by simp [State.pendingWrite, h])

/-- A mask instruction puts its row mask and its column mask in flight. -/
theorem completes_of_maskOp {i : Instr} {reads : List (Fin 4)} {regs : List Reg} {md : Fin 4} {a : BitVec 16} {b : BitVec 128}
    {rows : BitVec 16 → Prop} {cols : BitVec 128 → Prop} (hi : exec i s = .next (maskOp reads (regs.map s.rdX) md a b s))
    (ha : rows a) (hb : cols b) : Completes i s fun t => ∃ a b, InFlight s (.mask md a b) 1 t ∧ rows a ∧ cols b :=
  completes_of_guarded hi (fun x hx => by
    simp only [List.mem_append, List.mem_map, List.mem_singleton] at hx
    obtain (⟨m, -, rfl⟩ | ⟨r, -, rfl⟩) | rfl := hx
    · exact readFault_idle h _
    · exact readFault_idle h _
    · exact writeFault_idle h _) ⟨a, b, enqueue_inFlight .., ha, hb⟩

end

/-! ## Rows of a tile put in flight (R168) -/

/-- The write that puts a row into row r of a tile at the columns given. -/
def tileWrite (s : State) (t : Fin 8) (cols : Fin 16 → BitVec 128) (new : Fin 16 → Row) (lat : Fin 16 → Nat) (r : Fin 16) :
    PendingWrite :=
  { dest := .tile (tileIdx t r) (blend (cols r) (new r) s.seq.tiles[tileIdx t r]), due := s.now + lat r, issued := s.now,
    baddr := s.seq.pc, slot := s.seq.slot, bad := false, inj := false }

/-- Rows put in flight in turn: each by its own write, and nothing else changes. -/
theorem foldl_putRow_tile (t : Fin 8) (cols : Fin 16 → BitVec 128) (new : Fin 16 → Row) (lat : Fin 16 → Nat) (l : List (Fin 16))
    (s : State) : l.foldl (fun u r => u.putRow (.tile t r) (cols r) (new r) (lat r)) s =
      { s with seq := { s.seq with writes := s.seq.writes ++ l.map (tileWrite s t cols new lat) } } := by
  induction l generalizing s with
  | nil => rw [List.map_nil, List.append_nil]; rfl
  | cons r l ih =>
    rw [List.foldl_cons, ih]
    exact congrArg (fun ws => ({ s with seq := { s.seq with writes := ws } } : State)) (List.append_assoc ..)

/-- The positions of a tile's row that a mask pair leaves active. -/
theorem tileCols_getLsbD (s : State) (mp : Fin 4) (cpl : Bool) (r : Fin 16) {j : Nat} (hj : j < 128) :
    (s.tileCols mp cpl r).getLsbD j = (s.seq.maskRow[mp].getLsbD r.val && (s.seq.maskCol[mp].getLsbD j != cpl)) := by
  rw [State.tileCols]
  cases s.seq.maskRow[mp].getLsbD r.val
  · exact BitVec.getLsbD_zero
  · exact cols_getLsbD s mp cpl hj

/-- The row that a tile's write brings: the new one at the active positions, the old one elsewhere. -/
theorem tileWrite_row (s : State) (t : Fin 8) (mp : Fin 4) (cpl : Bool) (new : Fin 16 → Row) (lat : Fin 16 → Nat) (r : Fin 16) :
    ∃ x, (tileWrite s t (s.tileCols mp cpl) new lat r).dest = .tile (tileIdx t r) x ∧
      (tileWrite s t (s.tileCols mp cpl) new lat r).issued = s.now ∧
      ∀ j < 128, position x j = if s.seq.maskRow[mp].getLsbD r.val && (s.seq.maskCol[mp].getLsbD j != cpl)
        then position (new r) j else position s.seq.tiles[tileIdx t r] j :=
  ⟨_, rfl, rfl, fun j hj => by rw [position_blend _ _ _ hj, tileCols_getLsbD s mp cpl r hj]⟩

/-- Entry r of the writes of a whole tile is row r's. -/
theorem tileWrite_mem (f : Fin 16 → PendingWrite) (r : Fin 16) : f r ∈ ((List.finRange 16).map f)[r.val]? := by
  simp

/-- Settles O33: the masks by `completes_of_maskOp`, the tile rows by `foldl_putRow_tile`. -/
theorem maskAndTileResults : Obligations.MaskAndTileResults := by
  unfold Obligations.MaskAndTileResults
  intro md ma mb mp xs k k' row cpl s hw q v mask on row'
  have hgo : ∀ (l : List (Fin 16)) (new : Fin 16 → Row) (lat : Fin 16 → Nat),
      l.foldl (fun u r => u.putRow (.tile k r) (s.tileCols mp cpl r) (new r) (lat r)) s =
        { s with seq := { q with writes := l.map (tileWrite s k (s.tileCols mp cpl) new lat) } } := fun l new lat => by
    rw [foldl_putRow_tile, hw, List.nil_append]
  refine ⟨completes_of_maskOp hw (reads := []) (regs := []) rfl rfl fun j hj => ?_,
    completes_of_maskOp hw (reads := []) (regs := []) rfl rfl rfl,
    completes_of_maskOp hw (reads := [ma, mb]) (regs := []) rfl rfl rfl,
    completes_of_maskOp hw (reads := [ma, mb]) (regs := []) rfl rfl rfl,
    completes_of_maskOp hw (reads := [ma]) (regs := []) rfl rfl fun j hj => ?_,
    completes_of_maskOp hw (reads := []) (regs := [xs]) rfl rfl rfl,
    completes_of_maskOp hw (reads := []) (regs := [xs]) rfl rfl fun j hj => ?_,
    completes_of_guarded rfl ?_ ⟨_, hgo [row] (fun _ => 0) fun _ => 1, rfl, tileWrite_row ..⟩,
    completes_of_guarded rfl ?_ ⟨_, hgo (List.finRange 16) (fun _ => 0) fun _ => 1, by simp, fun r =>
      ⟨_, tileWrite_mem _ r, rfl, tileWrite_row ..⟩⟩,
    completes_of_guarded rfl ?_ ⟨_, hgo (List.finRange 16) (fun r => q.tiles[tileIdx k' r]) fun r => 2 + r.val, by simp, fun r =>
      ⟨_, tileWrite_mem _ r, (Nat.add_assoc ..).symm, tileWrite_row ..⟩⟩⟩
  · exact (BitVec.getLsbD_allOnes ..).trans (decide_eq_true hj)
  · rw [BitVec.getLsbD_not, decide_eq_true hj, Bool.true_and]
  · rw [colsOf_map_getLsbD _ hj, Bool.and_eq_true, decide_eq_true_iff, decide_eq_true_iff]
    change _ ↔ fieldNat (s.x xs) 0 8 ≤ j ∧ j < fieldNat (s.x xs) 8 8
    omega
  all_goals simp [readFault_idle hw, writeFault_idle hw]

end Sys2Proof.Machine
end

section
/-! PROOF. Rows that ports and LMOV move: what a row written, whole or by its columns, leaves in the sectors, and the events of
lanes (R151, R177 to R179, R187, R193, R317). -/

namespace Sys2Proof.Machine

/-! ## A row written to a sector (R99, R151) -/

theorem byteOf_shiftRight (v j i : Nat) : byteOf (v >>> (8 * j)) i = byteOf v (j + i) := by
  rw [byteOf, byteOf, Nat.shiftRight_eq_div_pow, Nat.pow_mul, Nat.div_div_eq_div_mul, ← Nat.pow_add]

/-- A row written whole: its 512 bytes are stored. -/
theorem rowStored_writeRow (s : State) (sec : Fin 8) (row : Nat) (r : Row) :
    RowStored s.ann.mem (rowAddr sec row) r (s.writeRow sec row r).ann.mem := by
  constructor
  · intro k hk
    rw [State.writeRow, writeLocal_get, Memory.get_write, bytesOf_length, if_pos (by omega), Nat.add_sub_cancel_left,
      bytesOf_getElem? _ hk, Option.getD_some]
  · intro b hb
    rw [State.writeRow, writeLocal_get, Memory.get_write, bytesOf_length, if_neg (by omega)]

/-- The bytes of a number from byte `k` on, written to the sectors and read back. -/
theorem writeLocal_bytesOf_get (s : State) (a k n v b : Nat) : (s.writeLocal (a + k) (bytesOf n (v >>> (8 * k)))).ann.mem.get b =
    if a + k ≤ b ∧ b < a + k + n then byteOf v (b - a) else s.ann.mem.get b := by
  rw [writeLocal_get, Memory.get_write, bytesOf_length]
  split
  · next h =>
    rw [bytesOf_getElem? _ (by omega), Option.getD_some, byteOf_shiftRight]
    congr 1
    omega
  · rfl

/-- Sector word j of a row written by its columns: both positions, one of them, or none (R151). -/
def State.writeWord (a : Nat) (r : Row) (cols : BitVec 128) (u : State) (j : Nat) : State :=
  match cols.getLsbD (2 * j), cols.getLsbD (2 * j + 1) with
  | true, true => u.writeLocal (a + 8 * j) (bytesOf 8 (r.toNat >>> (64 * j)))
  | true, false => u.writeLocal (a + 8 * j) (bytesOf 4 (r.toNat >>> (64 * j)))
  | false, true => u.writeLocal (a + 8 * j + 4) (bytesOf 4 (r.toNat >>> (64 * j + 32)))
  | false, false => u

/-- The bytes from `lo` up to `hi` past `a` at the columns of a row are the row's; every other byte is as in `m`. -/
def ColsStored (m : Memory) (a lo hi : Nat) (r : Row) (cols : BitVec 128) (m' : Memory) : Prop :=
  ∀ b, m'.get b = if (a + lo ≤ b ∧ b < a + hi) ∧ cols.getLsbD ((b - a) / 4) = true then byteOf r.toNat (b - a) else m.get b

/-- A byte of word j is at a column that is written: in the word's lower half, or in its upper half. -/
theorem column_of_word (a : Nat) (cols : BitVec 128) (j b : Nat) :
    (a + 8 * j ≤ b ∧ b < a + (8 * j + 8)) ∧ cols.getLsbD ((b - a) / 4) = true ↔
      (a + 8 * j ≤ b ∧ b < a + 8 * j + 4) ∧ cols.getLsbD (2 * j) = true ∨
        (a + 8 * j + 4 ≤ b ∧ b < a + 8 * j + 8) ∧ cols.getLsbD (2 * j + 1) = true := by
  have hlow : a + 8 * j ≤ b → b < a + 8 * j + 4 → (b - a) / 4 = 2 * j := by omega
  have hhigh : a + 8 * j + 4 ≤ b → b < a + 8 * j + 8 → (b - a) / 4 = 2 * j + 1 := by omega
  constructor
  · rintro ⟨⟨h1, h2⟩, hc⟩
    by_cases h : b < a + 8 * j + 4
    · exact .inl ⟨⟨h1, h⟩, hlow h1 h ▸ hc⟩
    · exact .inr ⟨⟨by omega, h2⟩, hhigh (by omega) h2 ▸ hc⟩
  · rintro (⟨⟨h1, h2⟩, hc⟩ | ⟨⟨h1, h2⟩, hc⟩)
    · exact ⟨⟨h1, by omega⟩, (hlow h1 h2).symm ▸ hc⟩
    · exact ⟨⟨by omega, h2⟩, (hhigh h1 h2).symm ▸ hc⟩

/-- Word j of a row written by its columns. -/
theorem colsStored_writeWord (u : State) (a : Nat) (r : Row) (cols : BitVec 128) (j : Nat) :
    ColsStored u.ann.mem a (8 * j) (8 * j + 8) r cols (u.writeWord a r cols j).ann.mem := by
  intro b
  have hlo : 64 * j = 8 * (8 * j) := by omega
  have hhi : 64 * j + 32 = 8 * (8 * j + 4) := by omega
  rw [if_congr (column_of_word a cols j b) rfl rfl, State.writeWord]
  split <;> rename_i h0 h1 <;> simp only [h0, h1, Bool.false_eq_true, and_true, and_false, or_false, false_or, if_false]
  · rw [hlo, writeLocal_bytesOf_get]
    exact if_congr (by omega) rfl rfl
  · rw [hlo, writeLocal_bytesOf_get]
  · rw [hhi, Nat.add_assoc a, writeLocal_bytesOf_get]
    exact if_congr (by omega) rfl rfl

/-- Words written in turn from the first. -/
theorem colsStored_foldl (s : State) (a : Nat) (r : Row) (cols : BitVec 128) (n : Nat) :
    ColsStored s.ann.mem a 0 (8 * n) r cols ((List.range n).foldl (State.writeWord a r cols) s).ann.mem := by
  induction n with
  | zero => exact fun b => (if_neg fun h => by omega).symm
  | succ n ih =>
    intro b
    rw [List.range_succ, List.foldl_append, List.foldl_cons, List.foldl_nil, colsStored_writeWord, ih b]
    by_cases hc : cols.getLsbD ((b - a) / 4) = true
    · simp only [hc, and_true]
      by_cases hb : a + 8 * n ≤ b
      · rw [if_neg (by omega : ¬(a + 0 ≤ b ∧ b < a + 8 * n))]
        exact if_congr (by omega) rfl rfl
      · rw [if_neg (by omega : ¬(a + 8 * n ≤ b ∧ b < a + (8 * n + 8)))]
        exact if_congr (by omega) rfl rfl
    · rw [if_neg fun h => hc h.2, if_neg fun h => hc h.2, if_neg fun h => hc h.2]

/-- A row written by its columns. -/
theorem colsStored_writeRowMasked (s : State) (sec : Fin 8) (row : Nat) (r : Row) (cols : BitVec 128) :
    ColsStored s.ann.mem (rowAddr sec row) 0 512 r cols (s.writeRowMasked sec row r cols).ann.mem := by
  have hdef : s.writeRowMasked sec row r cols = if cols = BitVec.allOnes 128 then s.writeRow sec row r
    else (List.range 64).foldl (State.writeWord (rowAddr sec row) r cols) s := rfl
  rw [hdef]
  split
  · next h =>
    obtain ⟨hin, hout⟩ := rowStored_writeRow s sec row r
    intro b
    by_cases hb : rowAddr sec row + 0 ≤ b ∧ b < rowAddr sec row + 512
    · have hcol : cols.getLsbD ((b - rowAddr sec row) / 4) = true := by
        rw [h, BitVec.getLsbD_allOnes, decide_eq_true (by omega)]
      rw [if_pos ⟨hb, hcol⟩, ← hin _ (by omega), Nat.add_sub_cancel' (Nat.le_of_add_right_le hb.1)]
    · rw [if_neg fun h => hb h.1, hout b (by omega)]
  · exact colsStored_foldl s _ r cols 64

/-! ## What a write to a sector leaves -/

/-- Only the bytes of the sectors and what is recorded of them differ. -/
def OnlyBytes (s t : State) : Prop := ∃ m old poison flawed, t =
  s.onAnn fun n => { n with mem := m, unfenced := old, poison := poison, flawed := flawed }

theorem OnlyBytes.refl (s : State) : OnlyBytes s s := ⟨_, _, _, _, rfl⟩

theorem OnlyBytes.trans {s t u : State} (h : OnlyBytes s t) (g : OnlyBytes t u) : OnlyBytes s u := by
  obtain ⟨_, _, _, _, rfl⟩ := h
  obtain ⟨_, _, _, _, rfl⟩ := g
  exact ⟨_, _, _, _, rfl⟩

theorem OnlyBytes.foldl {α : Type} {f : State → α → State} (hf : ∀ u a, OnlyBytes u (f u a)) (l : List α) (s : State) :
    OnlyBytes s (l.foldl f s) := by
  induction l generalizing s with
  | nil => exact .refl s
  | cons a l ih => exact (hf s a).trans (ih _)

theorem writeLocal_onlyBytes (s : State) (a : Nat) (l : List Byte) : OnlyBytes s (s.writeLocal a l) := ⟨_, _, _, _, rfl⟩

theorem writeRowMasked_onlyBytes (s : State) (sec : Fin 8) (row : Nat) (r : Row) (cols : BitVec 128) :
    OnlyBytes s (s.writeRowMasked sec row r cols) := by
  unfold State.writeRowMasked
  split
  · exact writeLocal_onlyBytes ..
  · refine .foldl (fun u j => ?_) _ _
    dsimp only
    split
    · exact writeLocal_onlyBytes ..
    · exact writeLocal_onlyBytes ..
    · exact writeLocal_onlyBytes ..
    · exact .refl u

theorem OnlyBytes.seq {s t : State} (h : OnlyBytes s t) : t.seq = s.seq := by
  obtain ⟨_, _, _, _, rfl⟩ := h
  rfl

theorem OnlyBytes.ports {s t : State} (h : OnlyBytes s t) : t.ann.ports = s.ann.ports := by
  obtain ⟨_, _, _, _, rfl⟩ := h
  rfl

theorem OnlyBytes.pushes {s t : State} (h : OnlyBytes s t) : t.ann.pushes = s.ann.pushes := by
  obtain ⟨_, _, _, _, rfl⟩ := h
  rfl

/-! ## The events of ports -/

section
variable {s : State}

/-- PORT_PREFETCH_READ of a bound read port with rows left: the next walk row joins the port's rows (R177, R178). -/
theorem prefetch_reads {q : Fin 8} (hb : s.ann.ports[q].bound = true) (hr : s.ann.ports[q].wr = false)
    (hn : s.ann.ports[q].nread < s.ann.ports[q].total) :
    let p := s.ann.ports[q]
    exec (.portPrefetchRead q) s = .next ((s.countEcc (rowAddr p.sec (p.walkRow p.nread) / 8) 64).onPort q fun p' =>
      { p' with rows := p'.rows ++ [(s.now + p.hops + 1, s.peekRow p.sec (p.walkRow p.nread))], nread := p'.nread + 1 }) :=
  if_pos (by rw [hb, hr, decide_eq_true hn]; rfl)

/-- PORT_PUSH_LAND writes the first row that is due on the port's lane (R179). -/
theorem pushLand_writes {q : Fin 8} {u : PushLand} (h : s.ann.pushes.find? (fun v => v.q = q && v.at_ ≤ s.now) = some u) :
    ∃ drained, exec (.portPushLand q) s = .next ((s.writeRowMasked u.sec u.row u.data u.cols).onAnn fun a =>
      { a with pushes := a.pushes.erase u, drained := drained }) :=
  ⟨_, by change execPortPushLand q s = _; rw [execPortPushLand, h]; rfl⟩

/-! ## The rows of the one LMOV at work (R187) -/

variable {r : LmovRun} (h1 : s.ann.lmovs = [r])
include h1

/-- The one LMOV replaced by its next state, or gone with its last row. -/
theorem setLmov_single (r' : LmovRun) : (s.setLmov 0 r').ann.lmovs = if r'.nwrit = r'.count then [] else [r'] := by
  simp only [State.setLmov, State.onAnn_ann, h1, List.eraseIdx_cons_zero, List.set_cons_zero]

/-- LMOV_ROW with a row due to be read: it joins the LMOV's rows, and its write and the next read are planned. -/
theorem lmovRow_reads (hn : r.nread < r.count) (hd : r.start + 1 + r.nread ≤ s.now) : ∃ agenda, exec .lmovRow s =
    .next { ((s.countEcc (rowAddr r.ssec ((r.srow + r.nread) % 512) / 8) 64).setLmov 0
      { r with nread := r.nread + 1, buf := r.buf ++ [s.peekRow r.ssec ((r.srow + r.nread) % 512)] } : State) with
        agenda := agenda } := by
  have hi : s.ann.lmovs.findIdx? (fun r => r.nread < r.count && r.start + 1 + r.nread ≤ s.now) = some 0 := by
    simp [h1, List.findIdx?_cons, hn, hd]
  have hr : s.ann.lmovs[0]? = some r := by rw [h1]; rfl
  change ∃ agenda, execLmovRow s = _
  simp only [execLmovRow, hi, hr]
  split
  · exact ⟨_, rfl⟩
  · exact ⟨_, rfl⟩

/-- LMOV_ROW with all rows read and a row due to be written: it is written. -/
theorem lmovRow_writes (hn : r.nread = r.count) (hw : r.nwrit < r.nread) (hd : r.start + 1 + r.nwrit + r.hops ≤ s.now) :
    exec .lmovRow s = .next ((s.writeRow r.dsec ((r.drow + r.nwrit) % 512) (r.buf.headD 0)).setLmov 0
      { r with nwrit := r.nwrit + 1, buf := r.buf.drop 1 }) := by
  have hno : s.ann.lmovs.findIdx? (fun r => r.nread < r.count && r.start + 1 + r.nread ≤ s.now) = none := by
    simp [h1, List.findIdx?_cons, hn]
  have hi : s.ann.lmovs.findIdx? (fun r => r.nwrit < r.nread && r.start + 1 + r.nwrit + r.hops ≤ s.now) = some 0 := by
    simp [h1, List.findIdx?_cons, hw, hd]
  have hr : s.ann.lmovs[0]? = some r := by rw [h1]; rfl
  change execLmovRow s = _
  simp only [execLmovRow, hno, hi, hr]

end

theorem rowAddr_mod (sec : Fin 8) (row : Nat) : rowAddr sec (row % 512) = rowAddr sec row := by
  rw [rowAddr, rowAddr, Nat.mod_mod]

/-- Settles O42: each event by its law above; the bytes by `colsStored_writeRowMasked` and `rowStored_writeRow`. -/
theorem laneRowsMove : Obligations.LaneRowsMove := by
  unfold Obligations.LaneRowsMove
  refine ⟨fun q u s => ⟨fun hb hr hn => ?_, fun h => ?_⟩,
    fun r sec s => ⟨fun h1 hn hd => ?_, fun h1 hn hw hd => ?_, fun h => ?_, fun h => ?_⟩⟩
  · refine ⟨_, prefetch_reads hb hr hn, Vector.getElem_set_self .., fun r hrq => ?_, rfl, rfl⟩
    exact Vector.getElem_set_ne (hi := q.isLt) (hj := r.isLt) fun h => hrq (Fin.ext h.symm)
  · obtain ⟨drained, hexec⟩ := pushLand_writes h
    have honly := writeRowMasked_onlyBytes s u.sec u.row u.data u.cols
    have hbytes := colsStored_writeRowMasked s u.sec u.row u.data u.cols
    refine ⟨_, hexec, fun k hk => ?_, fun b hb => ?_, congrArg (List.erase · u) honly.pushes, honly.ports, honly.seq⟩
    · have hk' := hbytes (rowAddr u.sec u.row + k)
      rw [Nat.add_sub_cancel_left, if_congr (and_iff_right (by omega)) rfl rfl] at hk'
      exact hk'
    · exact (hbytes b).trans (if_neg fun hin => by
        have : rowAddr u.sec u.row = u.sec.val * 0x40000 + u.row % 512 * 512 := rfl
        omega)
  · obtain ⟨agenda, hexec⟩ := lmovRow_reads h1 hn hd
    exact ⟨_, hexec, setLmov_single h1 _, rfl, rfl⟩
  · obtain ⟨hin, hout⟩ := rowStored_writeRow s r.dsec ((r.drow + r.nwrit) % 512) (r.buf.headD 0)
    rw [rowAddr_mod] at hin hout
    exact ⟨_, lmovRow_writes h1 hn hw hd, hin, hout, setLmov_single h1 _, rfl⟩
  · exact ⟨_, congrArg Host.Outcome.next (if_pos h), rfl⟩
  · exact ⟨_, congrArg Host.Outcome.next (if_neg (Bool.eq_false_iff.1 h)), rfl⟩

end Sys2Proof.Machine
end

section
/-! PROOF. The ports of the annulus, LMOV, and the words of PSTAT (R176 to R189). -/

namespace Sys2Proof.Machine

/-! ## The class of a check's trap (R76) -/

theorem trapIf_some {c : Bool} {t u : TrapReq} (h : trapIf c t = some u) : u = t := by
  unfold trapIf at h
  split at h
  · exact (Option.some.inj h).symm
  · cases h

theorem secFault_cls {s : State} {sec : Fin 8} {u : TrapReq} (h : s.secFault sec = some u) : u.cls = 5 := by
  rw [trapIf_some h]; rfl

theorem laneTrap_cls {s : State} {use : LaneUse} {u : TrapReq} (h : s.laneTrap use = some u) : u.cls = 5 := by
  rw [trapIf_some h]; rfl

theorem claimFault_cls {s : State} {sec : Fin 8} {row cyc : Nat} {write : Bool} {stn : Nat} {u : TrapReq}
    (h : s.claimFault sec row cyc write stn = some u) : u.cls = 5 := by
  unfold State.claimFault at h
  split at h
  · cases h; rfl
  · split at h
    · cases h
    · obtain ⟨n, -, rfl⟩ := Option.map_eq_some_iff.1 h
      rfl

theorem prefetchFault_cls {s : State} {p : PortState} {u : TrapReq} (h : s.prefetchFault p = some u) : u.cls = 5 := by
  unfold State.prefetchFault at h
  split at h
  · cases h
  · split at h
    · next t ht => cases h; exact secFault_cls ht
    · obtain ⟨i, -, hi⟩ := List.mem_map.1 (firstTrap_mem h)
      exact claimFault_cls hi

/-- The check of a read port's reads, which a write port does not make. -/
theorem readsFault_cls {s : State} {wr : Bool} {p : PortState} {u : TrapReq} (h : (if wr then none else s.prefetchFault p) = some u) :
    u.cls = 5 := by
  split at h
  · cases h
  · exact prefetchFault_cls h

/-! ## A port's reads start anew (R178) -/

/-- A port whose reads start anew from its row k. -/
def PortState.rewound (p : PortState) : PortState := { p with rows := [], nread := p.k }

/-- The claim of the read that comes `i` cycles after the next, and its turn on the agenda (R178). -/
def State.claimPrefetch (q sec : Fin 8) (cyc : Nat) (u : State) (i : Nat) : State :=
  (u.claim sec (cyc + i) false (.port q)).plan (cyc + i) rankRead (.ev (.portPrefetchRead q))

/-- Beside claims and the agenda, only the port whose reads start anew differs. -/
theorem startPrefetch_frame (s : State) (q : Fin 8) :
    (s.startPrefetch q).ann.ports = s.ann.ports.set q s.ann.ports[q].rewound ∧ (s.startPrefetch q).seq = s.seq :=
  ⟨foldl_keeps (f := State.claimPrefetch q s.ann.ports[q].sec (s.now + 1)) (g := fun u => u.ann.ports) (fun _ _ => rfl) .. ,
    foldl_keeps (f := State.claimPrefetch q s.ann.ports[q].sec (s.now + 1)) (g := fun u => u.seq) (fun _ _ => rfl) ..⟩

theorem startPrefetch_mem (s : State) (q : Fin 8) : (s.startPrefetch q).ann.mem = s.ann.mem := (startPrefetch_memKept q s).1

theorem set_set_port (v : Vector PortState 8) (q : Fin 8) (p r : PortState) : (v.set q p).set q r = v.set q r := by
  simp

theorem get_set_port (v : Vector PortState 8) (q : Fin 8) (p : PortState) : (v.set q p)[q] = p := Vector.getElem_set_self ..

theorem get_set_otherPort (v : Vector PortState 8) {q r : Fin 8} (p : PortState) (h : r ≠ q) : (v.set q p)[r] = v[r] :=
  Vector.getElem_set_ne (hi := q.isLt) (hj := r.isLt) fun e => h (Fin.ext e.symm)

/-- A port set, and its reads started anew. -/
theorem startPrefetch_set {s : State} {q : Fin 8} {v : Vector PortState 8} {p : PortState} (h : s.ann.ports = v.set q p) :
    (s.startPrefetch q).ann.ports = v.set q p.rewound := by
  rw [(startPrefetch_frame s q).1, h, get_set_port, set_set_port]

section
variable {s : State} {q sec stn : Fin 8} {lane : LaneRef} {xa : Reg} {lvl : Fin 4} {wr : Bool}

/-! ## PBIND (R181) -/

theorem pbind_bound (hr : s.pendingRead (.x xa) = false) (hb : s.ann.ports[q].bound = true) :
    Traps (.pbind q sec lane stn xa wr) s (portFault q) := by
  refine traps_of_guarded rfl ?_
  rw [rdX_none hr, trapIf_pos _ hb]
  refine firstTrap_head fun u hu => ?_
  simp only [List.mem_cons, List.not_mem_nil, or_false] at hu
  rcases hu with hu | hu | hu
  · exact (laneTrap_cls hu.symm).ge
  · exact (secFault_cls hu.symm).ge
  · exact (readsFault_cls hu.symm).ge

theorem pbind_reserved (hr : s.pendingRead (.x xa) = false) (hb : s.ann.ports[q].bound = false) (hl : laneReserved lane = true) :
    Traps (.pbind q sec lane stn xa wr) s (laneFault lane) := by
  have hlane : s.laneTrap (s.bindUse sec lane stn wr) = some (laneFault lane) :=
    trapIf_pos _ (by rw [show (s.bindUse sec lane stn wr).lane = lane from rfl, hl, Bool.true_or])
  refine traps_of_guarded rfl ?_
  rw [rdX_none hr, trapIf_neg _ hb, hlane]
  refine firstTrap_head fun u hu => ?_
  simp only [List.mem_cons, List.not_mem_nil, or_false] at hu
  rcases hu with hu | hu
  · exact (secFault_cls hu.symm).ge
  · exact (readsFault_cls hu.symm).ge

theorem fieldNat_lt (v : Word) (lo w : Nat) : fieldNat v lo w < 2 ^ w := Nat.mod_lt _ (Nat.two_pow_pos w)

/-- The state in which PBIND has bound a port, before its first reads are claimed (R181). -/
def State.bound (s : State) (q : Fin 8) (p : PortState) (u : LaneUse) : State :=
  s.onAnn fun a => { a with ports := a.ports.set q p, lanes := a.lanes ++ [u], gen := a.gen + 1 }

/-- PBIND where no check stands in its way (R181). -/
theorem pbind_binds (hr : s.pendingRead (.x xa) = false) (hb : s.ann.ports[q].bound = false)
    (hl : s.laneTrap (s.bindUse sec lane stn wr) = none) (hs : s.secFault sec = none)
    (hp : wr = false → s.prefetchFault (s.bindPort sec lane stn (s.x xa) wr) = none) :
    Completes (.pbind q sec lane stn xa wr) s fun t => t.ann.ports = s.ann.ports.set q (s.bindPort sec lane stn (s.x xa) wr) ∧
      t.seq = s.seq ∧ t.ann.mem = s.ann.mem ∧ (wr = true → t.ann.claims = s.ann.claims) := by
  refine completes_of_guarded rfl ?_ ?_
  · simp only [List.forall_mem_cons]
    exact ⟨rdX_none hr, trapIf_neg _ hb, hl, hs, by cases wr <;> simp [hp], nofun⟩
  · cases wr with
    | true => exact ⟨rfl, rfl, rfl, fun _ => rfl⟩
    | false =>
      let u := s.bound q (s.bindPort sec lane stn (s.x xa) false) (s.bindUse sec lane stn false)
      exact ⟨startPrefetch_set (s := u) rfl, (startPrefetch_frame u q).2, startPrefetch_mem u q, nofun⟩

/-! ## PWALK (R182) -/

theorem pwalk_barred (hr : s.pendingRead (.x xa) = false) (h : s.ann.ports[q].bound = false ∨ s.ann.ports[q].k ≠ 0) :
    Traps (.pwalk q xa lvl) s (portFault q) := by
  have hc : (!s.ann.ports[q].bound || decide (s.ann.ports[q].k ≠ 0)) = true := by
    rcases h with h | h
    · rw [h]; rfl
    · rw [decide_eq_true h, Bool.or_true]
  refine traps_of_guarded rfl ?_
  rw [rdX_none hr]
  refine (congrArg (fun c => firstTrap (none :: c :: _)) (trapIf_pos _ hc)).trans ?_
  refine firstTrap_head fun u hu => ?_
  simp only [List.mem_cons, List.not_mem_nil, or_false] at hu
  exact (readsFault_cls hu.symm).ge

/-- A port after PWALK: of a read port the rows fetched are dropped, and its reads start anew (R182). -/
def PortState.restarted (p : PortState) : PortState :=
  { p with rows := if p.wr then p.rows else [], nread := if p.wr then p.nread else p.k }

theorem restarted_writePort {p : PortState} (h : p.wr = true) : p.restarted = p := by
  rw [PortState.restarted, if_pos h, if_pos h]

theorem restarted_readPort {p : PortState} (h : p.wr = false) : p.restarted = p.rewound := by
  rw [PortState.restarted, if_neg (Bool.eq_false_iff.1 h), if_neg (Bool.eq_false_iff.1 h), PortState.rewound]

/-- PWALK on a bound port that has moved no row (R182). -/
theorem pwalk_sets (hr : s.pendingRead (.x xa) = false) (hb : s.ann.ports[q].bound = true) (hk : s.ann.ports[q].k = 0)
    (hp : s.ann.ports[q].wr = false → (s.unclaimReads q (s.now + 1)).prefetchFault (setLevel (s.x xa) lvl s.ann.ports[q]) = none) :
    Completes (.pwalk q xa lvl) s fun t => t.ann.ports = s.ann.ports.set q (setLevel (s.x xa) lvl s.ann.ports[q]).restarted ∧
      t.seq = s.seq ∧ t.ann.mem = s.ann.mem := by
  refine completes_of_guarded rfl ?_ ?_
  · simp only [List.forall_mem_cons]
    refine ⟨rdX_none hr, trapIf_neg _ ?_, ?_, nofun⟩
    · exact (congrArg₂ (fun b k => !b || decide (k ≠ 0)) hb hk).trans rfl
    · show (if s.ann.ports[q].wr then none else _) = none
      split
      · rfl
      · next h => exact hp (Bool.eq_false_iff.2 h)
  · dsimp only
    split
    · next h => exact ⟨by rw [restarted_writePort h]; rfl, rfl, rfl⟩
    · next h =>
      rw [restarted_readPort (Bool.eq_false_iff.2 h)]
      exact ⟨startPrefetch_set rfl, (startPrefetch_frame ..).2, startPrefetch_mem ..⟩

theorem setLevel_same (v : Word) (lvl : Fin 4) (p : PortState) :
    (setLevel v lvl p).lvls[lvl] = { count := fieldNat v 0 12 + 1, stride := sintOf 10 (fieldNat v 12 10) } :=
  Vector.getElem_set_self ..

theorem setLevel_other (v : Word) {lvl l : Fin 4} (p : PortState) (h : l ≠ lvl) : (setLevel v lvl p).lvls[l] = p.lvls[l] :=
  Vector.getElem_set_ne (hi := lvl.isLt) (hj := l.isLt) fun e => h (Fin.ext e.symm)

/-- The stride that PWALK reads, as a signed number. -/
theorem sintOf_fieldNat (v : Word) (lo : Nat) {w : Nat} (h : 0 < w) : sintOf w (fieldNat v lo w) = (bitsOf v lo w).toInt := by
  have hmod : sintOf w (fieldNat v lo w) = sintOf w (v >>> lo).toNat := by simp only [sintOf, fieldNat, Nat.mod_mod]
  rw [hmod, sintOf_setWidth w _ h]
  congr 1
  apply BitVec.eq_of_toNat_eq
  simp

/-! ## PTAG, PSTAMP, PFLUSH and PRST (R183 to R186) -/

theorem not_readPort {p : PortState} (h : ¬(p.bound = true ∧ p.wr = false)) : (!p.bound || p.wr) = true := by
  cases hb : p.bound <;> cases hw : p.wr <;> simp_all

theorem not_writePort {p : PortState} (h : ¬(p.bound = true ∧ p.wr = true)) : (!p.bound || !p.wr) = true := by
  cases hb : p.bound <;> cases hw : p.wr <;> simp_all

theorem ptag_arms {tag : BitVec 16} (hb : s.ann.ports[q].bound = true) (hw : s.ann.ports[q].wr = false) :
    Completes (.ptag q tag) s (· = s.onPort q fun p => { p with arm := .ptag, tag := tag }) :=
  completes_of_guarded rfl (by simp [trapIf, show s.ann.ports[q.val].bound = true from hb, show s.ann.ports[q.val].wr = false from hw]) rfl

theorem pstamp_arms {tag : BitVec 16} (hb : s.ann.ports[q].bound = true) (hw : s.ann.ports[q].wr = true) :
    Completes (.pstamp q tag) s (· = s.onPort q fun p => { p with arm := .pstamp, tag := tag }) :=
  completes_of_guarded rfl (by simp [trapIf, show s.ann.ports[q.val].bound = true from hb, show s.ann.ports[q.val].wr = true from hw]) rfl

theorem ptag_traps {tag : BitVec 16} (h : ¬(s.ann.ports[q].bound = true ∧ s.ann.ports[q].wr = false)) :
    Traps (.ptag q tag) s (portFault q) :=
  traps_of_guarded rfl (by rw [trapIf_pos _ (not_readPort h)]; rfl)

theorem pstamp_traps {tag : BitVec 16} (h : ¬(s.ann.ports[q].bound = true ∧ s.ann.ports[q].wr = true)) :
    Traps (.pstamp q tag) s (portFault q) :=
  traps_of_guarded rfl (by rw [trapIf_pos _ (not_writePort h)]; rfl)

theorem pflush_traps (h : ¬(s.ann.ports[q].bound = true ∧ s.ann.ports[q].wr = false)) : Traps (.pflush q) s (portFault q) := by
  refine traps_of_guarded rfl ?_
  rw [trapIf_pos _ (not_readPort h)]
  refine firstTrap_head fun u hu => ?_
  simp only [List.mem_cons, List.not_mem_nil, or_false] at hu
  exact (prefetchFault_cls hu.symm).ge

theorem pflush_rewinds (hb : s.ann.ports[q].bound = true) (hw : s.ann.ports[q].wr = false)
    (hp : (s.unclaimReads q (s.now + 1)).prefetchFault s.ann.ports[q] = none) :
    Completes (.pflush q) s (· = s.startPrefetch q) := by
  refine completes_of_guarded rfl ?_ rfl
  simp only [List.forall_mem_cons]
  exact ⟨trapIf_neg _ (by rw [hb, hw]; rfl), hp, nofun⟩

theorem unbind_frame (s : State) (q : Fin 8) :
    (s.unbind q).ann.ports = s.ann.ports.set q { PortState.reset with gen := s.ann.ports[q].gen } ∧
      (s.unbind q).ann.pushes = s.ann.pushes ∧ (s.unbind q).seq = s.seq := by
  unfold State.unbind
  dsimp only
  split <;> exact ⟨rfl, rfl, rfl⟩

end

/-! ## LMOV (R187) -/

/-- Claims reach neither the sequencer, the sectors' bytes, the ports nor the copies under way. -/
theorem claims_frame (s : State) (l : List (Nat × Fin 8 × Nat × Bool)) (o : Owner) :
    ∃ c, l.foldl (fun v c => v.claim c.2.1 c.1 c.2.2.2 o) s = s.onAnn fun a => { a with claims := c } := by
  induction l generalizing s with
  | nil => exact ⟨_, rfl⟩
  | cons x l ih =>
    obtain ⟨c, hc⟩ := ih (s.claim x.2.1 x.1 x.2.2.2 o)
    exact ⟨c, hc⟩

/-- The copy that LMOV sets from its register, with nothing read or written yet (R187). -/
def State.lmovRun (s : State) (src dst : Fin 8) (lane : LaneRef) (v : Word) : LmovRun :=
  { ssec := src, srow := fieldNat v 0 9, dsec := dst, drow := fieldNat v 16 9, count := fieldNat v 32 9 + 1, start := s.now,
    hops := hopsOf lane.ccw (secPos src) (secPos dst), nread := 0, nwrit := 0, buf := [] }

theorem lmov_starts {src dst : Fin 8} {lane : LaneRef} {xa : Reg} {s : State} (hr : s.pendingRead (.x xa) = false)
    (hl : s.laneTrap (s.lmovUse src lane dst (fieldNat (s.x xa) 32 9 + 1)) = none) (hs : s.secFault src = none)
    (hd : s.secFault dst = none)
    (hc : ∀ c ∈ lmovClaims s.now src dst (fieldNat (s.x xa) 0 9) (fieldNat (s.x xa) 16 9) (fieldNat (s.x xa) 32 9 + 1)
      (hopsOf lane.ccw (secPos src) (secPos dst)), s.claimFault c.2.1 c.2.2.1 c.1 c.2.2.2 7 = none) :
    Completes (.lmov src lane dst xa) s fun t =>
      t.ann.lmovs = s.ann.lmovs ++ [s.lmovRun src dst lane (s.x xa)] ∧ t.seq = s.seq ∧ t.ann.mem = s.ann.mem ∧
        t.ann.ports = s.ann.ports := by
  refine completes_of_guarded rfl ?_ ?_
  · simp only [List.forall_mem_cons]
    refine ⟨rdX_none hr, hl, hs, hd, firstTrap_none.2 fun x hx => ?_, nofun⟩
    obtain ⟨c, hm, rfl⟩ := List.mem_map.1 hx
    exact hc c hm
  · dsimp only
    obtain ⟨c, h⟩ := claims_frame s (lmovClaims s.now src dst (fieldNat (s.x xa) 0 9) (fieldNat (s.x xa) 16 9)
      (fieldNat (s.x xa) 32 9 + 1) (hopsOf lane.ccw (secPos src) (secPos dst))) .lmov
    rw [h]
    exact ⟨rfl, rfl, rfl, rfl⟩

/-! ## The words of PSTAT (R188 to R190, R193) -/

theorem pstat_gives {q : Fin 8} {xd : Reg} {sel : Fin 32} {l : List Reg} {s : State} (hr : s.ready l xd) :
    Gives (.pstat q xd sel) s (.x xd (s.pstatWord q sel.val)) 2 :=
  completes_of_guarded rfl (by simp [ready_wr hr]) (putX_inFlight ..)

/-- A field of a number that is narrowed to a double. -/
theorem fieldNat_ofNat (n : Nat) {lo w : Nat} (h : lo + w ≤ 64) : fieldNat (BitVec.ofNat 64 n) lo w = fld n lo w := by
  rw [fieldNat, fld, BitVec.toNat_ushiftRight, BitVec.toNat_ofNat, Nat.shiftRight_eq_div_pow]
  refine Nat.eq_of_testBit_eq fun i => ?_
  simp only [Nat.testBit_mod_two_pow, Nat.testBit_div_two_pow]
  by_cases hi : i < w
  · simp [hi, show lo + i < 64 by omega, Nat.add_comm]
  · simp [hi]

/-- A bit as a field. -/
theorem getLsbD_eq_field (v : Word) (i : Nat) : v.getLsbD i = decide (fieldNat v i 1 = 1) := by
  rw [fieldNat, BitVec.toNat_ushiftRight, Nat.shiftRight_eq_div_pow, BitVec.getLsbD, Nat.testBit_eq_decide_div_mod_eq, Nat.pow_one]

/-- Bits as a field. -/
theorem bitsOf_eq_of_field {v : Word} {lo n : Nat} {b : BitVec n} (h : fieldNat v lo n = b.toNat) : bitsOf v lo n = b :=
  BitVec.eq_of_toNat_eq ((BitVec.extractLsb'_toNat ..).trans h)

/-- The fields of a number are those of which it is made. -/
theorem fieldsAt_packed {l : List (Nat × Nat)} (hl : ∀ p ∈ l, p.1 < 2 ^ p.2) : FieldsAt (packed l) 0 l := ((packed_eq_iff hl).1 rfl).2

/-- The code of a port's arming in selector 0 (R189). -/
def Arm.code : Arm → Nat
  | .none => 0
  | .ptag => 1
  | .pstamp => 2

/-- The fields of a bound port's selector 0, from bit 0 up (R189). -/
def PortState.fields (p : PortState) : List (Nat × Nat) :=
  [(1, 1), (p.wr.toNat, 1), (p.sec.val, 3), (p.lane.ccw.toNat, 1), (p.lane.num.val, 3), (p.stn.val, 3), (p.base.val, 9), (p.esz - 1, 4),
   (p.arm.code, 2), (if p.arm = .none then 0 else p.tag.toNat, 16), (if p.total ≤ p.k then 1 else 0, 1)]

theorem PortState.word_bound {p : PortState} (h : p.bound = true) : p.word = BitVec.ofNat 64 (packed p.fields) := by
  have hbit : ∀ b : Bool, (if b then 2 else 0) = b.toNat * 2 ∧ (if b then 2 ^ 5 else 0) = b.toNat * 2 ^ 5 := by decide
  have htag : (if p.arm == .none then 0 else p.tag.toNat * 2 ^ 27) = (if p.arm = .none then 0 else p.tag.toNat) * 2 ^ 27 := by
    cases p.arm <;> simp
  have hend : (if p.total ≤ p.k then 2 ^ 43 else 0) = (if p.total ≤ p.k then 1 else 0) * 2 ^ 43 := by split <;> rfl
  simp only [PortState.word, h, Bool.not_true, Bool.false_eq_true, if_false]
  rw [htag, hend, (hbit p.wr).1, (hbit p.lane.ccw).2]
  refine congrArg (BitVec.ofNat 64) ?_
  simp only [PortState.fields, packed]
  cases p.arm <;> simp only [Arm.code] <;> omega

theorem PortState.fields_fit {p : PortState} (h : p.esz ≤ 16) : ∀ x ∈ p.fields, x.1 < 2 ^ x.2 := by
  simp only [PortState.fields, List.forall_mem_cons, Nat.reducePow]
  refine ⟨by decide, p.wr.toNat_lt, p.sec.isLt, p.lane.ccw.toNat_lt, p.lane.num.isLt, p.stn.isLt, p.base.isLt, by omega, ?_, ?_, ?_, nofun⟩
  · cases p.arm <;> decide
  · split
    · decide
    · exact p.tag.isLt
  · split <;> decide

/-- Of fields of one width, one after another, each is found at its place. -/
theorem fieldsAt_get {w n : Nat} {l : List Nat} {lo : Nat} (h : FieldsAt w lo (l.map fun v => (v, n))) {k v : Nat} (hk : l[k]? = some v) :
    fld w (lo + n * k) n = v := by
  induction l generalizing lo k with
  | nil => simp at hk
  | cons x l ih =>
    obtain ⟨hx, hl⟩ := h
    cases k with
    | zero => simpa [← Option.some.inj hk] using hx
    | succ k =>
      have := ih hl (k := k) hk
      rwa [Nat.mul_succ, Nat.add_comm (n * k), ← Nat.add_assoc]

theorem ownCode_lt (s : State) (i : Fin 8) : s.ownCode i < 2 ^ 2 := by
  unfold State.ownCode
  split
  · decide
  · split <;> decide
  all_goals decide

/-- The ownership codes side by side, two bits for each sector (R193). -/
def State.ownFields (s : State) : List (Nat × Nat) := ((List.finRange 8).map s.ownCode).map fun v => (v, 2)

theorem pstatWord_own (s : State) (q : Fin 8) (i : Fin 8) : fieldNat (s.pstatWord q 4) (2 * i.val) 2 = s.ownCode i := by
  have hword : s.pstatWord q 4 = BitVec.ofNat 64 (packed s.ownFields) := by
    refine congrArg (BitVec.ofNat 64) ?_
    simp only [State.ownFields, List.finRange, List.ofFn_succ, List.ofFn_zero, List.foldl_cons, List.foldl_nil, List.map_cons,
      List.map_nil, packed, Fin.isValue, Fin.coe_ofNat_eq_mod, Nat.zero_mod, Fin.succ_zero_eq_one, Nat.one_mod,
      Fin.succ_one_eq_two, Nat.reduceMod, Nat.reducePow, Fin.reduceSucc, Nat.mod_succ]
    omega
  have hfit : ∀ p ∈ s.ownFields, p.1 < 2 ^ p.2 := by
    simp only [State.ownFields, List.forall_mem_map]
    exact fun i _ => ownCode_lt s i
  rw [hword, fieldNat_ofNat _ (by omega), ← Nat.zero_add (2 * i.val)]
  exact fieldsAt_get (fieldsAt_packed hfit) (by simp)

/-- A bit of a number that is narrowed to a double. -/
theorem getLsbD_ofNat_fld (n : Nat) {i : Nat} (h : i + 1 ≤ 64) : (BitVec.ofNat 64 n).getLsbD i = decide (fld n i 1 = 1) := by
  rw [getLsbD_eq_field, fieldNat_ofNat n h]

/-- Bits of a number that is narrowed to a double. -/
theorem bitsOf_ofNat_fld {n lo w : Nat} {b : BitVec w} (h : lo + w ≤ 64) (hb : fld n lo w = b.toNat) : bitsOf (BitVec.ofNat 64 n) lo w = b :=
  bitsOf_eq_of_field ((fieldNat_ofNat n h).trans hb)

theorem decide_toNat_eq_one (b : Bool) : decide (b.toNat = 1) = b := by cases b <;> rfl

/-- Selector 0 of a bound port (R189). -/
theorem word_fields {p : PortState} (h : p.bound = true) (he : p.esz ≤ 16) : p.word.getLsbD 0 = true ∧ p.word.getLsbD 1 = p.wr ∧
    fieldNat p.word 2 3 = p.sec.val ∧ p.word.getLsbD 5 = p.lane.ccw ∧ fieldNat p.word 6 3 = p.lane.num.val ∧
    fieldNat p.word 9 3 = p.stn.val ∧ fieldNat p.word 12 9 = p.base.val ∧ fieldNat p.word 21 4 = p.esz - 1 ∧
    (p.arm ≠ .none → bitsOf p.word 27 16 = p.tag) ∧ (p.word.getLsbD 43 = true ↔ p.total ≤ p.k) := by
  have hf := fieldsAt_packed (PortState.fields_fit he)
  rw [PortState.word_bound h]
  generalize hn : packed p.fields = n at hf
  simp only [PortState.fields, FieldsAt, Nat.reduceAdd] at hf
  obtain ⟨hbound, hwr, hsec, hccw, hnum, hstn, hbase, hesz, -, htag, hend, -⟩ := hf
  refine ⟨?_, ?_, ?_, ?_, ?_, ?_, ?_, ?_, fun harm => ?_, ?_⟩
  · rw [getLsbD_ofNat_fld n (by decide), hbound]; rfl
  · rw [getLsbD_ofNat_fld n (by decide), hwr, decide_toNat_eq_one]
  · rw [fieldNat_ofNat n (by decide), hsec]
  · rw [getLsbD_ofNat_fld n (by decide), hccw, decide_toNat_eq_one]
  · rw [fieldNat_ofNat n (by decide), hnum]
  · rw [fieldNat_ofNat n (by decide), hstn]
  · rw [fieldNat_ofNat n (by decide), hbase]
  · rw [fieldNat_ofNat n (by decide), hesz]
  · exact bitsOf_ofNat_fld (by decide) (htag.trans (if_neg harm))
  · rw [getLsbD_ofNat_fld n (by decide), hend]
    split <;> simp [*]

theorem pstatWord_progress (s : State) (q : Fin 8) (hk : s.ann.ports[q].k < 2 ^ 52) (hr : s.ann.ports[q].rows.length < 32) :
    fieldNat (s.pstatWord q 1) 0 52 = s.ann.ports[q].k ∧ fieldNat (s.pstatWord q 1) 52 5 = s.ann.ports[q].rows.length := by
  have hfit : ∀ x ∈ [(s.ann.ports[q].k, 52), (s.ann.ports[q].rows.length, 5)], x.1 < 2 ^ x.2 := by
    simpa only [List.forall_mem_cons] using ⟨hk, hr, nofun⟩
  have hword : s.pstatWord q 1 = BitVec.ofNat 64 (packed [(s.ann.ports[q].k, 52), (s.ann.ports[q].rows.length, 5)]) := by
    simp only [packed, Nat.zero_mul, Nat.add_zero]; rfl
  obtain ⟨hlow, hhigh, -⟩ := fieldsAt_packed hfit
  rw [hword, fieldNat_ofNat _ (by decide), fieldNat_ofNat _ (by decide)]
  exact ⟨hlow, hhigh⟩

theorem pstatWord_errors (s : State) (q : Fin 8) :
    bitsOf (s.pstatWord q 5) 0 32 = s.ann.eccCorr ∧ bitsOf (s.pstatWord q 5) 32 32 = s.ann.eccPois := by
  have hfit : ∀ x ∈ [(s.ann.eccCorr.toNat, 32), (s.ann.eccPois.toNat, 32)], x.1 < 2 ^ x.2 := by
    simpa only [List.forall_mem_cons] using ⟨s.ann.eccCorr.isLt, s.ann.eccPois.isLt, nofun⟩
  have hword : s.pstatWord q 5 = BitVec.ofNat 64 (packed [(s.ann.eccCorr.toNat, 32), (s.ann.eccPois.toNat, 32)]) := by
    simp only [packed, Nat.zero_mul, Nat.add_zero]; rfl
  obtain ⟨hlow, hhigh, -⟩ := fieldsAt_packed hfit
  rw [hword]
  exact ⟨bitsOf_ofNat_fld (by decide) hlow, bitsOf_ofNat_fld (by decide) hhigh⟩

/-- The fields of a range register's word, from bit 0 up (R190). -/
def rangeFields (r : RangeReg) : List (Nat × Nat) :=
  [(1, 1), (r.write.toNat, 1), (r.sec.val, 3), (r.first.val, 9), (r.last.val, 9), (r.stmask.toNat, 8)]

theorem pstatWord_range {s : State} {k : Fin 16} {r : RangeReg} (q : Fin 8) (h : s.ann.ranges[k] = some r) :
    s.pstatWord q (16 + k.val) = BitVec.ofNat 64 (packed (rangeFields r)) := by
  have hget : s.ann.ranges[16 + k.val - 16]? = some (some r) := by
    rw [Nat.add_sub_cancel_left, ← h]
    exact Vector.getElem?_eq_getElem ..
  have hnum : rangeWord (some r) = packed (rangeFields r) := by
    simp only [rangeWord, rangeFields, packed]
    cases r.write <;> simp <;> omega
  have hword : s.pstatWord q (16 + k.val) = BitVec.ofNat 64 (rangeWord ((s.ann.ranges[16 + k.val - 16]?).getD none)) := by
    rw [Nat.add_comm 16]; rfl
  rw [hword, hget, ← hnum]; rfl

/-- A range register's word (R190). -/
theorem range_fields {s : State} {k : Fin 16} {r : RangeReg} (q : Fin 8) (h : s.ann.ranges[k] = some r) :
    let w := s.pstatWord q (16 + k.val)
    w.getLsbD 0 = true ∧ w.getLsbD 1 = r.write ∧ fieldNat w 2 3 = r.sec.val ∧ fieldNat w 5 9 = r.first.val ∧
      fieldNat w 14 9 = r.last.val ∧ bitsOf w 23 8 = r.stmask := by
  have hfit : ∀ x ∈ (rangeFields r), x.1 < 2 ^ x.2 := by
    simp only [rangeFields, List.forall_mem_cons, Nat.reducePow]
    exact ⟨by decide, r.write.toNat_lt, r.sec.isLt, r.first.isLt, r.last.isLt, r.stmask.isLt, nofun⟩
  have hf := fieldsAt_packed hfit
  dsimp only
  rw [pstatWord_range q h]
  generalize hn : packed (rangeFields r) = n at hf
  simp only [rangeFields, FieldsAt, Nat.reduceAdd] at hf
  obtain ⟨hvalid, hwrite, hsec, hfirst, hlast, hmask, -⟩ := hf
  refine ⟨?_, ?_, ?_, ?_, ?_, bitsOf_ofNat_fld (by decide) hmask⟩
  · rw [getLsbD_ofNat_fld n (by decide), hvalid]; rfl
  · rw [getLsbD_ofNat_fld n (by decide), hwrite, decide_toNat_eq_one]
  · rw [fieldNat_ofNat n (by decide), hsec]
  · rw [fieldNat_ofNat n (by decide), hfirst]
  · rw [fieldNat_ofNat n (by decide), hlast]

/-! ## The obligation -/

/-- Settles O37: each port operation by its law above, and each word of PSTAT by the fields of which it is made. -/
theorem portOperations : Obligations.PortOperations := by
  unfold Obligations.PortOperations
  refine ⟨fun q sec stn lane xa lvl wr s hr => ⟨pbind_bound hr, pbind_reserved hr, fun hb hl hs hp => ?_, pwalk_barred hr,
      fun hb hk hp => ?_⟩,
    fun q tag s => ⟨fun ⟨hb, hw⟩ => ptag_arms hb hw, ptag_traps, fun ⟨hb, hw⟩ => pstamp_arms hb hw, pstamp_traps, fun hb hw hp => ?_,
      pflush_traps, fun hb => ?_, fun hb => ?_⟩,
    fun src dst q lane xa xd k r s hr => ⟨lmov_starts (hr.1 xa (List.mem_singleton_self xa)), fun hb => ?_, fun hb _ he => ?_, fun hk hl => ?_,
      ⟨_, pstat_gives hr, fun i => ?_⟩, ⟨_, pstat_gives hr, pstatWord_errors s 0⟩, fun h => ⟨_, pstat_gives hr, range_fields 0 h⟩⟩⟩
  · obtain ⟨t, hex, hports, hseq, hmem, hclaims⟩ := pbind_binds hr hb hl hs hp
    exact ⟨t, hex, _, hports, rfl, rfl, rfl, rfl, rfl, Nat.mod_eq_of_lt (fieldNat_lt ..), rfl, rfl, rfl, rfl,
      fun l => Vector.getElem_replicate .., hseq, hmem, hclaims⟩
  · obtain ⟨t, hex, hports, hseq, hmem⟩ := pwalk_sets hr hb hk hp
    have hlvl := setLevel_same (s.x xa) lvl s.ann.ports[q]
    refine ⟨t, hex, _, hports, congrArg Level.count hlvl, ?_, fun l hl => setLevel_other _ _ hl, hb, rfl, rfl, hk,
      fun hw => ?_, hseq, hmem⟩
    · exact (congrArg Level.stride hlvl).trans (sintOf_fieldNat _ _ (by decide))
    · exact if_neg (Bool.eq_false_iff.1 hw)
  · obtain ⟨t, hex, rfl⟩ := pflush_rewinds hb hw hp
    obtain ⟨hports, hseq⟩ := startPrefetch_frame s q
    exact ⟨_, hex, by rw [hports, get_set_port]; rfl, fun r hr => by rw [hports, get_set_otherPort _ _ hr], hseq, startPrefetch_mem s q⟩
  · exact ⟨s, congrArg Host.Outcome.next (if_neg (Bool.eq_false_iff.1 hb)), rfl⟩
  · obtain ⟨hports, hpushes, hseq⟩ := unbind_frame s q
    exact ⟨s.unbind q, congrArg Host.Outcome.next (if_pos hb), by rw [hports, get_set_port],
      fun r hr => by rw [hports, get_set_otherPort _ _ hr], hpushes, hseq, (unbind_memKept q s).1⟩
  · exact ⟨_, pstat_gives hr, if_pos (by simpa using hb)⟩
  · exact ⟨_, pstat_gives hr, word_fields hb he⟩
  · exact ⟨_, pstat_gives hr, pstatWord_progress s q hk hl⟩
  · refine (pstatWord_own s 0 i).trans ?_
    unfold State.ownCode
    cases s.ann.own[i] with
    | held p => cases p <;> rfl
    | _ => rfl

end Sys2Proof.Machine
end

section
/-! PROOF. Rows written to the sectors and read back, and the save area with its rows (R99, R427). -/

namespace Sys2Proof.Machine

/-! ## Wide reads after writes -/

theorem Memory.readNat_cons (c : Host.Cell) (m : Memory) (a n : Nat) : Memory.readNat (c :: m) a n =
    (if a ≤ c.1 ∧ c.1 < a + n then c.2.toNat * 256 ^ (c.1 - a) else 0) + Memory.readNat m a n := by
  simp only [Memory.readNat, List.foldr_cons, Bool.and_eq_true, decide_eq_true_eq]
  split <;> simp

theorem Memory.readNat_append (m k : Memory) (a n : Nat) : Memory.readNat (m ++ k) a n = Memory.readNat m a n + Memory.readNat k a n := by
  induction m with
  | nil => simp [Memory.readNat]
  | cons c m ih => rw [List.cons_append, Memory.readNat_cons, ih, Memory.readNat_cons, Nat.add_assoc]

/-- Cells outside a window do not count in it. -/
theorem Memory.readNat_outside {m : Memory} {a n : Nat} (h : ∀ c ∈ m, c.1 < a ∨ a + n ≤ c.1) : Memory.readNat m a n = 0 := by
  induction m with
  | nil => rfl
  | cons c m ih =>
    have hc := h c (List.mem_cons_self ..)
    rw [Memory.readNat_cons, if_neg (by omega), ih fun d hd => h d (List.mem_cons_of_mem _ hd)]

/-- Cells that a filter drops outside a window do not count in it. -/
theorem Memory.readNat_filter {m : Memory} {a n : Nat} {p : Host.Cell → Bool} (h : ∀ c : Host.Cell, a ≤ c.1 → c.1 < a + n → p c = true) :
    Memory.readNat (m.filter p) a n = Memory.readNat m a n := by
  induction m with
  | nil => rfl
  | cons c m ih =>
    by_cases hp : p c = true
    · rw [List.filter_cons_of_pos hp, Memory.readNat_cons, ih, Memory.readNat_cons]
    · rw [List.filter_cons_of_neg hp, ih, Memory.readNat_cons, if_neg fun hc => hp (h c hc.1 hc.2), Nat.zero_add]

/-- The three parts of a memory after a write: below the bytes written, these, and above. -/
theorem Memory.readNat_write (m : Memory) (b : Nat) (l : List Byte) (a n : Nat) : Memory.readNat (m.write b l) a n =
    Memory.readNat (m.filter fun c => decide (c.1 < b)) a n + (Memory.readNat (Memory.cellsOf b l) a n +
      Memory.readNat (m.filter fun c => decide (b + l.length ≤ c.1)) a n) := by
  rw [Memory.write, Memory.readNat_append, Memory.readNat_append]

theorem Memory.cellsOf_inside {b : Nat} {l : List Byte} {c : Host.Cell} (h : c ∈ Memory.cellsOf b l) : b ≤ c.1 ∧ c.1 < b + l.length :=
  ⟨Memory.risingFrom_ge (Memory.cellsOf_rising b l) c h, Memory.cellsOf_lt b l c h⟩

theorem Memory.filter_below {m : Memory} {b : Nat} {c : Host.Cell} (h : c ∈ m.filter fun c => decide (c.1 < b)) : c.1 < b := by
  simpa using (List.mem_filter.1 h).2

theorem Memory.filter_above {m : Memory} {b : Nat} {c : Host.Cell} (h : c ∈ m.filter fun c => decide (b ≤ c.1)) : b ≤ c.1 := by
  simpa using (List.mem_filter.1 h).2

/-- A write beside a window leaves what is read in it. -/
theorem Memory.readNat_write_beside (m : Memory) {b : Nat} {l : List Byte} {a n : Nat} (h : a + n ≤ b ∨ b + l.length ≤ a) :
    Memory.readNat (m.write b l) a n = Memory.readNat m a n := by
  have hcells : Memory.readNat (Memory.cellsOf b l) a n = 0 := Memory.readNat_outside fun c hc => by
    have := Memory.cellsOf_inside hc; omega
  rw [Memory.readNat_write, hcells, Nat.zero_add]
  rcases h with h | h
  · rw [Memory.readNat_filter fun c _ _ => by simp only [decide_eq_true_eq]; omega,
      Memory.readNat_outside (m := m.filter fun c => decide (b + l.length ≤ c.1)) fun c hc => by
      have := Memory.filter_above hc; omega, Nat.add_zero]
  · rw [Memory.readNat_outside fun c hc => by have := Memory.filter_below hc; omega, Nat.zero_add,
      Memory.readNat_filter fun c _ _ => by simp only [decide_eq_true_eq]; omega]

/-- What is read of the bytes that a write has written is their number, whatever the memory was. -/
theorem Memory.readNat_write_same (m : Memory) (a : Nat) (l : List Byte) : Memory.readNat (m.write a l) a l.length = ofBytes l := by
  rw [Memory.readNat_write, Memory.readNat_outside fun c hc => .inl (Memory.filter_below hc),
    Memory.readNat_outside (m := m.filter _) fun c hc => .inr (Memory.filter_above hc), Nat.zero_add, Nat.add_zero,
    Memory.readNat_eq (Memory.cellsOf_rising a l)]
  congr 1
  refine List.ext_getElem (by simp) fun k _ hk => ?_
  rw [List.getElem_map, List.getElem_range, Memory.get_cellsOf _ _ _ (Nat.le_add_right ..), Nat.add_sub_cancel_left,
    List.getElem?_eq_getElem hk, Option.getD_some]

theorem ofBytes_bytesOf (n v : Nat) : ofBytes (bytesOf n v) = v % 256 ^ n := by
  induction n with
  | zero => simp [bytesOf, ofBytes, Nat.mod_one]
  | succ n ih =>
    have hlen : ((List.range n).map (byteOf v)).length = n := by simp
    rw [bytesOf, List.range_succ, List.map_append, ofBytes_append, hlen]
    rw [show ofBytes ((List.range n).map (byteOf v)) = v % 256 ^ n from ih]
    rw [Nat.pow_succ, Nat.mod_mul]
    simp only [List.map_cons, List.map_nil, ofBytes, List.foldr_cons, List.foldr_nil, byteOf, BitVec.toNat_ofNat, Nat.zero_mul, Nat.zero_add,
      Nat.reducePow]

/-! ## Rows -/

/-- A row written is read back. -/
theorem row_writeRow_same (s : State) (sec : Fin 8) (row : Nat) (r : Row) :
    (s.writeRow sec row r).ann.mem.row (rowAddr sec row) = r := by
  have hread := Memory.readNat_write_same s.ann.mem (rowAddr sec row) (bytesOf 512 r.toNat)
  rw [bytesOf_length, ofBytes_bytesOf] at hread
  show BitVec.ofNat 4096 (Memory.readNat (s.ann.mem.write ..) _ 512) = r
  rw [hread]
  apply BitVec.eq_of_toNat_eq
  have := r.isLt
  rw [BitVec.toNat_ofNat, Nat.mod_eq_of_lt (a := r.toNat) (by omega), Nat.mod_eq_of_lt this]

/-- Another row of the sector is as before. -/
theorem row_writeRow_other (s : State) (sec : Fin 8) {row row' : Nat} (r : Row) (h : row < 512) (h' : row' < 512) (hne : row ≠ row') :
    (s.writeRow sec row r).ann.mem.row (rowAddr sec row') = s.ann.mem.row (rowAddr sec row') := by
  refine congrArg (BitVec.ofNat 4096) (Memory.readNat_write_beside s.ann.mem ?_)
  rw [bytesOf_length, rowAddr, rowAddr, Nat.mod_eq_of_lt h, Nat.mod_eq_of_lt h']
  omega

/-- Rows of one sector written one after another. -/
def State.writeRows (sec : Fin 8) (l : List (Nat × Row)) (s : State) : State := l.foldl (fun u p => u.writeRow sec p.1 p.2) s

theorem writeRows_cons (s : State) (sec : Fin 8) (p : Nat × Row) (l : List (Nat × Row)) :
    s.writeRows sec (p :: l) = (s.writeRow sec p.1 p.2).writeRows sec l := rfl

theorem writeRows_nil (s : State) (sec : Fin 8) : s.writeRows sec [] = s := rfl

theorem writeRows_append (s : State) (sec : Fin 8) (l k : List (Nat × Row)) :
    s.writeRows sec (l ++ k) = (s.writeRows sec l).writeRows sec k := List.foldl_append ..

theorem writeRows_onlyBytes (s : State) (sec : Fin 8) (l : List (Nat × Row)) : OnlyBytes s (s.writeRows sec l) :=
  .foldl (fun _ _ => writeLocal_onlyBytes ..) l s

/-- A row that none of the writes names is as before. -/
theorem row_writeRows_other (sec : Fin 8) {l : List (Nat × Row)} {row : Nat} (hrow : row < 512) (h : ∀ p ∈ l, p.1 < 512 ∧ p.1 ≠ row)
    (s : State) : (s.writeRows sec l).ann.mem.row (rowAddr sec row) = s.ann.mem.row (rowAddr sec row) := by
  induction l generalizing s with
  | nil => rfl
  | cons p l ih =>
    obtain ⟨hp, hne⟩ := h p (List.mem_cons_self ..)
    exact (ih (fun q hq => h q (List.mem_cons_of_mem _ hq)) _).trans (row_writeRow_other s sec p.2 hp hrow hne)

/-- Of writes to different rows each is read back. -/
theorem row_writeRows_mem (sec : Fin 8) {l : List (Nat × Row)} (hnd : (l.map (·.1)).Nodup) (hlt : ∀ p ∈ l, p.1 < 512)
    {p : Nat × Row} (hp : p ∈ l) (s : State) : (s.writeRows sec l).ann.mem.row (rowAddr sec p.1) = p.2 := by
  induction l generalizing s with
  | nil => cases hp
  | cons q l ih =>
    rw [List.map_cons, List.nodup_cons] at hnd
    have hl : ∀ x ∈ l, x.1 < 512 := fun x hx => hlt x (List.mem_cons_of_mem _ hx)
    rcases List.mem_cons.1 hp with rfl | hp
    · have hother := row_writeRows_other sec (hlt p (List.mem_cons_self ..))
        (fun x hx => ⟨hl x hx, fun e => hnd.1 (e ▸ List.mem_map_of_mem hx)⟩)
        (s.writeRow sec p.1 p.2)
      exact hother.trans (row_writeRow_same ..)
    · exact ih hnd.2 hl hp _

/-- A byte below every row written is as before. -/
theorem get_writeRows_below (sec : Fin 8) {l : List (Nat × Row)} {a : Nat} (h : ∀ p ∈ l, a < rowAddr sec p.1) (s : State) :
    (s.writeRows sec l).ann.mem.get a = s.ann.mem.get a := by
  induction l generalizing s with
  | nil => rfl
  | cons p l ih =>
    exact (ih (fun q hq => h q (List.mem_cons_of_mem _ hq)) _).trans ((rowStored_writeRow s sec p.1 p.2).2 a (.inl (h p (List.mem_cons_self ..))))

/-! ## The save area (R427) -/

/-- The rows of the save area that the save hardware writes, in their order. -/
def SavedCtx.areaRows (c : SavedCtx) (ver : BitVec 16) : List (Nat × Row) :=
  (192, c.header ver) :: ((List.range 14).map fun k => (193 + k, Config.packRow (193 + k) (c.rowNats (193 + k)))) ++
    ((List.finRange 128).map fun k => (207 + k.val, c.seq.tiles[k])) ++
    ((List.range 175).map fun k => (335 + k, Config.packRow (335 + k) (c.rowNats (335 + k))))

theorem packRows_eq (s : State) (c : SavedCtx) (first n : Nat) :
    s.packRows c first n = s.writeRows 7 ((List.range n).map fun k => (first + k, Config.packRow (first + k) (c.rowNats (first + k)))) := by
  rw [State.packRows, State.writeRows, List.foldl_map]

theorem writeArea_eq (s : State) (c : SavedCtx) : s.writeArea c = s.writeRows 7 (c.areaRows (s.sys.ctxver.setWidth 16)) := by
  rw [SavedCtx.areaRows, writeRows_append, writeRows_append, writeRows_cons, ← packRows_eq, ← packRows_eq,
    State.writeRows, List.foldl_map, State.writeArea]

/-- The save area as a resident context leaves it: its rows, and the last two zero. -/
def SavedCtx.allRows (c : SavedCtx) (ver : BitVec 16) : List (Nat × Row) := c.areaRows ver ++ [(510, 0), (511, 0)]

/-- They are the rows 192 to 511, each once. -/
theorem allRows_keys (c : SavedCtx) (ver : BitVec 16) : (c.allRows ver).map (·.1) = List.range' 192 320 := by
  simp only [SavedCtx.allRows, SavedCtx.areaRows, List.map_append, List.map_cons, List.map_map, List.map_nil, Function.comp_def]
  decide +kernel

theorem allRows_mem {c : SavedCtx} {ver : BitVec 16} {p : Nat × Row} (h : p ∈ c.allRows ver) : 192 ≤ p.1 ∧ p.1 < 512 := by
  have hk : p.1 ∈ List.range' 192 320 := allRows_keys c ver ▸ List.mem_map_of_mem h
  simpa using List.mem_range'_1.1 hk

theorem row_allRows (s : State) {c : SavedCtx} {ver : BitVec 16} {p : Nat × Row} (h : p ∈ c.allRows ver) :
    (s.writeRows 7 (c.allRows ver)).ann.mem.row (rowAddr 7 p.1) = p.2 :=
  row_writeRows_mem 7 (allRows_keys c ver ▸ List.nodup_range') (fun _ hq => (allRows_mem hq).2) h s

/-- The fields of the header, from bit 0 up (R427). -/
def SavedCtx.headerFields (c : SavedCtx) (ver : BitVec 16) : List (Nat × Nat) :=
  [(ver.toNat, 16), (c.prog.lid.toNat, 32), (fieldNat c.shape 0 8, 8), (c.cp.elim 0xFF Fin.val, 8), (c.seq.safeAt.toNat % 2 ^ 16, 16),
    (c.seg.idx % 2 ^ 16, 16), (c.rel % 2 ^ 32, 32), (c.at_.toNat, 64), (c.seq.crc.toNat, 32)]

theorem header_fields (c : SavedCtx) (ver : BitVec 16) : fld (c.header ver).toNat 16 32 = c.prog.lid.toNat ∧
    fld (c.header ver).toNat 192 32 = c.seq.crc.toNat := by
  have hfit : ∀ p ∈ c.headerFields ver, p.1 < 2 ^ p.2 := by
    simp only [SavedCtx.headerFields, List.forall_mem_cons]
    refine ⟨ver.isLt, c.prog.lid.isLt, fieldNat_lt .., ?_, Nat.mod_lt _ (by decide), Nat.mod_lt _ (by decide), Nat.mod_lt _ (by decide),
      c.at_.isLt, c.seq.crc.isLt, nofun⟩
    cases c.cp with
    | none => decide
    | some k => exact k.isLt
  have hheader : c.header ver = BitVec.ofNat 4096 (packed (c.headerFields ver)) := by
    unfold SavedCtx.header
    refine congrArg (BitVec.ofNat 4096) ?_
    simp only [SavedCtx.headerFields, packed]
    cases c.cp <;> simp only [Option.elim] <;> omega
  have hwidth : packedWidth (c.headerFields ver) ≤ 4096 := by simp only [SavedCtx.headerFields, packedWidth]; decide
  have hnum : (c.header ver).toNat = packed (c.headerFields ver) := by
    rw [hheader, BitVec.toNat_ofNat, Nat.mod_eq_of_lt ((packed_lt hfit).trans_le (Nat.pow_le_pow_right (by decide) hwidth))]
  rw [hnum]
  have h := fieldsAt_packed hfit
  simp only [SavedCtx.headerFields, FieldsAt] at h
  obtain ⟨-, hlid, -, -, -, -, -, -, hcrc, -⟩ := h
  exact ⟨hlid, hcrc⟩

end Sys2Proof.Machine
end

section
/-! PROOF. Pre-emption, saves and checkpoints (R422 to R429, R434). -/

namespace Sys2Proof.Machine

/-! ## The Apex is not frozen, and a pre-emption is requested (R401, R423, R429) -/

theorem thawed_of {s : State} (h : s.apex.frozen = none) (i : Instr) (k : State → State) : s.thawed i k = k s := by
  simp [State.thawed, h]

theorem two_testBit {i : Nat} (h : i ≠ 1) : (2#64).getLsbD i = false := by
  match i with
  | 0 => rfl
  | 1 => exact absurd rfl h
  | n + 2 => simp [BitVec.getLsbD, Nat.testBit_add]

theorem six_testBit {i : Nat} (h1 : i ≠ 1) (h2 : i ≠ 2) : (6#64).getLsbD i = false := by
  match i with
  | 0 => rfl
  | 1 => exact absurd rfl h1
  | 2 => exact absurd rfl h2
  | n + 3 => simp [BitVec.getLsbD, Nat.testBit_add]

/-- CTXSTAT as a request leaves it: bits 1 and 2 are the request's, the others stay (R429). -/
def requestWord (v : Word) (full : Bool) : Word := (v &&& ~~~(6#64)) ||| (if full then 6#64 else 2#64)

theorem requestWord_bits (v : Word) (full : Bool) : (requestWord v full).getLsbD 1 = true ∧ (requestWord v full).getLsbD 2 = full ∧
    ∀ i, i ≠ 1 → i ≠ 2 → (requestWord v full).getLsbD i = v.getLsbD i := by
  refine ⟨by cases full <;> simp [requestWord], by cases full <;> simp [requestWord], fun i h1 h2 => ?_⟩
  have hset : (if full then 6#64 else 2#64).getLsbD i = false := by
    cases full
    · exact two_testBit h1
    · exact six_testBit h1 h2
  rw [requestWord, BitVec.getLsbD_or, hset, BitVec.getLsbD_and, BitVec.getLsbD_not, six_testBit h1 h2, Bool.or_false, Bool.not_false,
    Bool.and_true]
  by_cases hi : i < 64
  · simp [hi]
  · simp [BitVec.getLsbD_of_ge v i (Nat.le_of_not_lt hi)]

/-! ## The cell is left (R193, R424) -/

theorem resetPort_own (s : State) (q : Fin 8) : (s.resetPort q).ann.own = s.ann.own := by
  unfold State.resetPort State.unbind
  dsimp only
  split
  · split <;> rfl
  · rfl

theorem resetPorts_own (s : State) : s.resetPorts.ann.own = s.ann.own := by
  unfold State.resetPorts
  exact foldl_keeps (f := fun t q => t.resetPort q) (g := fun u => u.ann.own) resetPort_own ..

theorem stopLanes_own (s : State) : s.stopLanes.ann.own = s.ann.own := by
  unfold State.stopLanes
  simp only [State.onSeq_ann, State.onAnn_ann, resetPorts_own]

theorem leaveCell_own {s : State} {k : Fin 8} (h : s.ann.own[k] = .held false) : s.leaveCell.ann.own[k] = .kept := by
  have hk : s.stopLanes.ann.own[k] = .held false := by rw [stopLanes_own]; exact h
  unfold State.leaveCell
  simp only [State.prune, State.onSeq_ann, State.onMx_ann, State.onAnn_ann, State.parkCopies, State.onCp_ann]
  refine (Vector.getElem_map ..).trans ?_
  rw [show s.stopLanes.ann.own[k.val] = .held false from hk]

/-- What the cell is left with when its program leaves it: no program and no request, and the sequencer idle. -/
theorem leaveCell_frame (s : State) : s.leaveCell.prog = none ∧ s.leaveCell.preq = none ∧ s.leaveCell.seq.run = .idle ∧
    s.leaveCell.saved = s.saved := by
  refine ⟨rfl, rfl, rfl, ?_⟩
  obtain ⟨a, l, hp⟩ := resetPorts_onlySectors s
  unfold State.leaveCell State.stopLanes
  rw [hp]
  rfl

/-! ## SAVE_COMPLETE (R423, R426, R434) -/

section
variable {s : State} {p : Prog} {r : PreReq} (hrun : s.seq.run = .preempted) (hprog : s.prog = some p) (hreq : s.preq = some r)
include hrun hprog hreq

/-- A checkpoint's rows that are not acknowledged hold the save up (R434). -/
theorem saveComplete_waits (hck : s.ckptOpen = true) :
    exec .saveComplete s = .next (s.plan (s.now + 1) rankEnd (.ev .saveComplete)) := by
  show execSaveComplete s = _
  simp only [execSaveComplete, hrun, hprog, hreq, hck, if_true]

/-- A context beside one that keeps the save area goes to its slot (log 74). -/
theorem saveComplete_beside {d : SavedCtx} (hck : s.ckptOpen = false) (hsaved : s.saved = some d) :
    exec .saveComplete s = .next ((s.saveBeside (s.context p r.cp true)).plan
      (s.now + fullSave (sectorBytes (s.context p r.cp true).sectors)) rankEnd (.ev .fullSaveComplete)) := by
  show execSaveComplete s = _
  simp only [execSaveComplete, hrun, hprog, hreq, hck, hsaved, Bool.false_eq_true, if_false, Option.isSome_some, Bool.or_true, if_true]

/-- A context takes the free save area, and a full save goes on with the slot. -/
theorem saveComplete_resident (hck : s.ckptOpen = false) (hsaved : s.saved = none) : ∃ t, exec .saveComplete s = .next t ∧
    OnlyPlans (s.saveResident (s.context p r.cp r.full)) t := by
  refine ⟨_, ?_, OnlyPlans.ite ((OnlyPlans.refl _).plan (s.now + fullSave (sectorBytes (s.context p r.cp r.full).sectors)) rankEnd
    (.ev .fullSaveComplete)) (.refl _) (c := r.full = true)⟩
  show execSaveComplete s = _
  simp only [execSaveComplete, hrun, hprog, hreq, hck, hsaved, Bool.false_eq_true, if_false, Option.isSome_none, Bool.or_false]

end

/-! ## The save area of a resident context (R423, R427) -/

theorem saveResident_eq (s : State) (c : SavedCtx) : s.saveResident c =
    State.onSys (fun r => { r with ctxstat := ctxWord c.prog.lid (s.sys.ctxver.setWidth 16) })
      { (s.writeRows 7 (c.allRows (s.sys.ctxver.setWidth 16))).leaveCell with saved := some c } := by
  rw [SavedCtx.allRows, writeRows_append, ← writeArea_eq, writeRows_cons, writeRows_cons, writeRows_nil, State.saveResident]

theorem saveResident_mem (s : State) (c : SavedCtx) :
    (s.saveResident c).ann.mem = (s.writeRows 7 (c.allRows (s.sys.ctxver.setWidth 16))).ann.mem := by
  rw [saveResident_eq, State.onSys_ann]
  exact (leaveCell_memKept (s.writeRows 7 (c.allRows (s.sys.ctxver.setWidth 16)))).1

theorem saveResident_own {s : State} {c : SavedCtx} {k : Fin 8} (h : s.ann.own[k] = .held false) :
    (s.saveResident c).ann.own[k] = .kept := by
  obtain ⟨_, _, _, _, hw⟩ := writeRows_onlyBytes s 7 (c.allRows (s.sys.ctxver.setWidth 16))
  rw [saveResident_eq, State.onSys_ann]
  exact leaveCell_own (s := s.writeRows 7 (c.allRows (s.sys.ctxver.setWidth 16))) (by rw [hw]; exact h)

theorem ctxWord_fields (lid : BitVec 32) (ver : BitVec 16) : (ctxWord lid ver).getLsbD 0 = true ∧ bitsOf (ctxWord lid ver) 32 32 = lid := by
  have hver := ver.isLt
  have hlid := lid.isLt
  constructor
  · rw [ctxWord, getLsbD_ofNat_fld _ (by decide), fld]
    exact decide_eq_true (by omega)
  · refine bitsOf_ofNat_fld (by decide) ?_
    rw [fld]
    omega

/-- The rows that a resident context leaves in the save area, and what lies below it. -/
theorem saveResident_rows (s : State) (c : SavedCtx) : (∀ a, a < 0x1D8000 → (s.saveResident c).ann.mem.get a = s.ann.mem.get a) ∧
    (∀ k : Fin 128, (s.saveResident c).ann.mem.row (rowAddr 7 (207 + k.val)) = c.seq.tiles[k]) ∧
    (s.saveResident c).ann.mem.row (rowAddr 7 192) = c.header (s.sys.ctxver.setWidth 16) := by
  rw [saveResident_mem]
  refine ⟨fun a ha => get_writeRows_below 7 (fun p hp => ?_) s, fun k => ?_, ?_⟩
  · obtain ⟨hlo, hhi⟩ := allRows_mem hp
    rw [show rowAddr 7 p.1 = 7 * 0x40000 + p.1 % 512 * 512 from rfl]
    omega
  · refine row_allRows s (p := (207 + k.val, c.seq.tiles[k])) ?_
    exact List.mem_append_left _ (List.mem_append_left _ (List.mem_append_right _ (List.mem_map.2 ⟨k, List.mem_finRange k, rfl⟩)))
  · exact row_allRows s (p := (192, _)) (List.mem_cons_self ..)

/-! ## The slot is written (R426) -/

/-- Only the bytes of HBM differ. -/
def OnlyHbm (s t : State) : Prop := ∃ m, t = s.onCp fun c => { c with hbm := m }

theorem OnlyHbm.refl (s : State) : OnlyHbm s s := ⟨s.cp.hbm, rfl⟩

theorem OnlyHbm.trans {s t u : State} (h : OnlyHbm s t) (g : OnlyHbm t u) : OnlyHbm s u := by
  obtain ⟨_, rfl⟩ := h
  obtain ⟨m, rfl⟩ := g
  exact ⟨m, rfl⟩

theorem OnlyHbm.foldl_bind {α : Type} {f : State → α → Option State} (hf : ∀ u a v, f u a = some v → OnlyHbm u v) (l : List α)
    {o : Option State} {s t : State} (ho : ∀ u, o = some u → OnlyHbm s u) (ht : l.foldl (fun o a => o.bind fun u => f u a) o = some t) :
    OnlyHbm s t := by
  induction l generalizing o with
  | nil => exact ho t ht
  | cons a l ih =>
    refine ih (fun v hv => ?_) ht
    obtain ⟨u, hu, hv⟩ := Option.bind_eq_some_iff.1 hv
    exact (ho u hu).trans (hf u a v hv)

theorem saveBytes_onlyHbm {s t : State} {d : QueueDesc} {dva a n : Nat} (ht : s.saveBytes d dva a n = some t) : OnlyHbm s t := by
  refine OnlyHbm.foldl_bind (fun u p v hv => ?_) (pagesOf 40 dva n) (fun u hu => Option.some.inj hu ▸ .refl s) ht
  split at hv
  · cases hv; exact ⟨_, rfl⟩
  · cases hv

theorem saveSectors_onlyHbm {s t : State} {c : SavedCtx} (ht : s.saveSectors c = some t) : OnlyHbm s t :=
  OnlyHbm.foldl_bind (fun _ _ _ hv => saveBytes_onlyHbm hv) c.runs (fun _ hu => Option.some.inj hu ▸ .refl s) ht

section
variable {s w : State} {c : SavedCtx}

theorem writeSlot_resident (h : s.saving = none) (hw : s.saveSectors c = some w) :
    s.writeSlot c = some (s.onCp fun p => { p with hbm := w.cp.hbm }) := by
  obtain ⟨m, rfl⟩ := saveSectors_onlyHbm hw
  simp only [State.writeSlot, h, Option.isSome_none, Bool.false_eq_true, if_false, hw]
  rfl

/-- The area of a context beside another one is written to the slot alone (log 74). -/
theorem writeSlot_beside {x : SavedCtx} (h : s.saving = some x) (hw : (s.writeArea c).saveSectors c = some w) :
    s.writeSlot c = some (s.onCp fun p => { p with hbm := w.cp.hbm }) := by
  obtain ⟨m, rfl⟩ := saveSectors_onlyHbm hw
  simp only [State.writeSlot, h, Option.isSome_some, if_true, hw]
  obtain ⟨_, _, _, _, ha⟩ := writeRows_onlyBytes s 7 (c.areaRows (s.sys.ctxver.setWidth 16))
  rw [writeArea_eq, ha]
  rfl

theorem writeSlot_none (hw : (if s.saving.isSome then s.writeArea c else s).saveSectors c = none) : s.writeSlot c = none := by
  rw [State.writeSlot, hw]
  rfl

theorem slotWritten_frame (t : State) (c : SavedCtx) : (t.slotWritten c).apex = t.apex ∧ (t.slotWritten c).cp = t.cp ∧
    (t.slotWritten c).ann = (t.freeKept c).ann := by
  unfold State.slotWritten
  dsimp only
  split <;> exact ⟨rfl, rfl, rfl⟩

theorem freeKept_own {t : State} {k : Fin 8} (hc : c.own[k] = .held false) (hk : t.ann.own[k] = .kept) :
    (t.freeKept c).ann.own[k] = .free := by
  have hkeeps : c.keeps k = true := by simp only [SavedCtx.keeps, hc, Bool.not_false]
  have hown : t.ann.own[k.val] = .kept := hk
  simp only [State.freeKept, State.onAnn_ann, Fin.getElem_fin, Vector.getElem_ofFn, hown, Fin.eta, hkeeps, if_true]

theorem lid_of_launchOf {lid : BitVec 32} {l : LaunchRec} (h : s.launchOf lid = some l) : l.lid = lid := by
  simpa using List.find?_some h

/-- What a full save that ends well leaves: the context in its launch's record, the slot's bytes as `w` has them, and the sectors
free. -/
def InSlot (s : State) (l : LaunchRec) (c : SavedCtx) (w t : State) : Prop :=
  t.launchOf l.lid = some { l with ctx := some c } ∧ t.cp.hbm = w.cp.hbm ∧ t.ann.mem = s.ann.mem ∧
    ∀ k : Fin 8, c.own[k] = .held false → s.ann.own[k] = .kept → t.ann.own[k] = .free

/-- The state after a context has reached its slot, for the launch that it is of (R426). -/
def State.inSlot (s : State) (lid : BitVec 32) (c : SavedCtx) (m : Memory) : State :=
  ((s.onCp fun p => { p with hbm := m }).slotWritten c).onLaunch lid fun l => { l with ctx := some c }

variable {l : LaunchRec} (hl : s.launchOf c.prog.lid = some l) (hctx : s.slotCtx = some c)
include hl hctx

theorem fullSave_ends (hw : s.writeSlot c = some (s.onCp fun p => { p with hbm := w.cp.hbm })) :
    exec .fullSaveComplete s = .next (s.inSlot l.lid c w.cp.hbm) := by
  show execFullSaveComplete s = _
  simp only [execFullSaveComplete, hctx, hl, hw]
  rfl

theorem fullSave_faults (hw : s.writeSlot c = none) : exec .fullSaveComplete s = .next (s.endLaunch l.lid 0x020B 0) := by
  show execFullSaveComplete s = _
  simp only [execFullSaveComplete, hctx, hl, hw]

omit hctx in
theorem inSlot_done (w : State) : InSlot s l c w (s.inSlot l.lid c w.cp.hbm) := by
  obtain ⟨hapex, hcp, hann⟩ := slotWritten_frame (s.onCp fun p => { p with hbm := w.cp.hbm }) c
  refine ⟨launchOf_onLaunch ((launchOf_congr hapex _).trans (lid_of_launchOf hl ▸ hl)) fun _ => rfl, (congrArg Copy.hbm hcp).trans rfl,
    (congrArg Annulus.mem hann).trans rfl, fun k hc hk => ?_⟩
  have hown : (s.inSlot l.lid c w.cp.hbm).ann.own = ((s.onCp fun p => { p with hbm := w.cp.hbm }).freeKept c).ann.own :=
    congrArg Annulus.own hann
  rw [hown]
  exact freeKept_own hc hk

end

/-- A launch that ends with a status of its own is let go on every module that holds it (R414, R420). -/
theorem endLaunch_ended {s : State} {l : LaunchRec} {st : BitVec 16} (h : s.launchOf l.lid = some l) (hp : s.pred = none)
    (hst : st ≠ 0x020D) : LaunchEnded s l st (firstStatus l.halts) (s.endLaunch l.lid st 0) := by
  unfold State.endLaunch
  dsimp only
  split <;> exact endHere_ended h hp hst

/-! ## Checkpoints (R434) -/

/-- What a cell's acknowledgement does to its launch's record; with the last cell's the open bank becomes the committed one. -/
def State.acknowledged (s : State) (lid : BitVec 32) (cell : Peer) (l : LaunchRec) : State :=
  if l.acked.length + 1 < l.ncells then s.onLaunch lid fun m => { m with acked := cell :: l.acked }
  else s.onLaunch lid fun m => { m with
    acked := [], committed := some ((l.lastCk.map (·.2)).getD l.bank), bank := 1 - (l.lastCk.map (·.2)).getD l.bank, heldCk := m.openCk }

theorem checkpointAck_acks {s : State} {lid : BitVec 32} {cell : Peer} {l : LaunchRec} (hf : s.apex.frozen = none)
    (hl : s.launchOf lid = some l) (hc : cell ∉ l.acked) : ∃ b, exec (.checkpointAck lid cell) s =
      .next (({ s with ckptOpen := b } : State).acknowledged lid cell l) := by
  have hopen : ∃ b, (if cell = s.self && (s.prog.any fun p => p.lid = lid) then { s with ckptOpen := false } else s) =
      ({ s with ckptOpen := b } : State) := by
    split
    · exact ⟨false, rfl⟩
    · exact ⟨s.ckptOpen, rfl⟩
  obtain ⟨b, hb⟩ := hopen
  refine ⟨b, ?_⟩
  have hlb : ({ s with ckptOpen := b } : State).launchOf lid = some l := hl
  have hcon : l.acked.contains cell = false := by simpa using hc
  show execCheckpointAck lid cell s = _
  simp only [execCheckpointAck, thawed_of hf, hb, hlb, hcon, Bool.false_eq_true, if_false, List.length_cons]
  rfl

end Sys2Proof.Machine
end

section
/-! PROOF. A saved launch is restored and goes on (R431 to R435), and with it the obligation on contexts. -/

namespace Sys2Proof.Machine

/-! ## The cell of a resident context is restored (R431) -/

/-- The cell with the launch's program and the context's registers and units on it. -/
def State.reloaded (s : State) (l : LaunchRec) (c : SavedCtx) : State := (s.loadProgram l).restoreUnits c

/-- A program's load reaches the sequencer, the system registers, st5 and the program alone. -/
theorem loadProgram_frame (s : State) (l : LaunchRec) : ∃ seq sys cp pr, s.loadProgram l =
    { s with seq := seq, sys := sys, cp := cp, prog := pr, firmware := true } := by
  unfold State.loadProgram State.launchRegs State.onSys State.onSeq State.onCp
  exact ⟨_, _, _, _, rfl⟩

theorem reloaded_apex (s : State) (l : LaunchRec) (c : SavedCtx) : (s.reloaded l c).apex = s.apex := loadProgram_apex s l

section
variable {s : State} {l : LaunchRec} {c : SavedCtx}

/-- In the shape in which it was saved a context goes on as it is, on its own logical cell (R433). -/
theorem backAs_sameShape (h : c.shape.toNat = l.shape) : s.backAs l c = some (c.cell, c) := by
  have hcell : c.cellIn l = some c.cell := if_pos h
  have hstream : c.inStream l c.cell = c := by simp only [SavedCtx.inStream, h, if_true]
  simp only [State.backAs, hcell, hstream]

theorem bringIn_resident (hctx : l.ctx = some c) (hprog : s.prog = none) (hsaved : s.saved = some c) (hshape : c.shape.toNat = l.shape)
    (hcell : l.cellAt c.cell = s.phys) (hfence : s.hl.fenced = false) (hmx : s.mx.works = false) :
    s.bringIn l = some (some ((s.reloaded l c).onLaunch l.lid fun l => { l with ctx := some c })) := by
  have hstay : s.moveTo (l.cellAt c.cell) = s := if_pos hcell
  simp only [State.bringIn, hctx, hprog, backAs_sameShape hshape, hstay, hfence, hmx, hsaved, Option.isSome_none, Bool.false_and,
    Bool.false_eq_true, if_false, beq_self_eq_true, if_true, Option.map_some]
  rfl

/-- With every cell of an untimed launch restored it goes on in the next cycle (R418). -/
theorem allBack_resumes {lid : BitVec 32} (hl : s.launchOf lid = some l) (hst : l.st = .restoring) (hback : l.back = true)
    (hready : l.farCells ≤ l.ready.length) (htimed : l.img.timed = false) : s.allBack lid =
      (s.onLaunch lid fun l => { l with st := .resuming }).plan (s.now + 1) rankRead (.ev (.resumeStart l.placement)) := by
  simp [State.allBack, hl, hst, hback, Nat.not_lt.2 hready, htimed]

/-- The launch's record after its cell is restored, and its resume planned. -/
def State.resuming (s : State) (lid : BitVec 32) (l : LaunchRec) (c : SavedCtx) : State :=
  ((((s.reloaded l c).onLaunch lid fun l => { l with ctx := some c }).onLaunch lid fun l => { l with back := true }).onLaunch lid
    fun l => { l with st := .resuming }).plan (s.now + 1) rankRead (.ev (.resumeStart l.placement))

theorem reloaded_launchOf {lid : BitVec 32} (hl : s.launchOf lid = some l) :
    (((s.reloaded l c).onLaunch lid fun l => { l with ctx := some c }).onLaunch lid fun l => { l with back := true }).launchOf lid =
      some { l with ctx := some c, back := true } :=
  launchOf_onLaunch (f := fun l => { l with back := true }) (launchOf_onLaunch (f := fun l => { l with ctx := some c })
    ((launchOf_congr (reloaded_apex s l c) lid).trans hl) fun _ => rfl) fun _ => rfl

theorem restored_resumes {lid : BitVec 32} (hf : s.apex.frozen = none) (hl : s.launchOf lid = some l) (hlid : l.lid = lid)
    (hst : l.st = .restoring) (hback : l.back = false) (hready : l.farCells ≤ l.ready.length) (htimed : l.img.timed = false)
    (hin : s.bringIn l = some (some ((s.reloaded l c).onLaunch l.lid fun l => { l with ctx := some c }))) :
    s.restored lid = s.resuming lid l c := by
  subst hlid
  have hall := allBack_resumes (reloaded_launchOf (c := c) hl) hst rfl hready htimed
  have hgo : (decide (l.st ≠ .restoring) || l.back) = false := by simp [hst, hback]
  unfold State.restored
  simp only [hl, hin, hf, hgo, Bool.false_eq_true, if_false, Option.isSome_none]
  rw [hall]
  obtain ⟨_, _, _, _, hload⟩ := loadProgram_frame s l
  unfold State.resuming State.reloaded
  rw [hload]
  rfl

end

/-! ## What a resume leaves of the cell (R431, R435) -/

/-- What a resumed program finds of its own: registers, sectors, accumulators and tables; with it the saved context and the Apex. -/
structure Kept where
  regs : Vector Word 32
  tiles : Vector Row 128
  pc : BitVec 15
  mode : Mode
  run : Run
  issueAt : Nat
  sems : Vector Sem 256
  own : Vector Own 8
  acc0 : Acc
  acc1 : Acc
  slots : Vector (Option TableSlot) 4
  saved : Option SavedCtx
  apex : Apex

/-- That of a state. -/
def State.kept (s : State) : Kept :=
  { regs := s.seq.regs, tiles := s.seq.tiles, pc := s.seq.pc, mode := s.seq.mode, run := s.seq.run, issueAt := s.seq.issueAt, sems := s.sems,
    own := s.ann.own, acc0 := s.mx.acc0, acc1 := s.mx.acc1, slots := s.sh.slots, saved := s.saved, apex := s.apex }

theorem wakeCopies_kept (s : State) : s.wakeCopies.kept = s.kept := by
  unfold State.wakeCopies
  split <;> rfl

theorem dropCopy_kept (idx : BitVec 24) (s : State) : (s.dropCopy idx).kept = s.kept := by
  unfold State.dropCopy State.checkAbns
  refine Eq.trans (foldl_keeps (g := State.kept) (fun u a => ?_) _ _) ?_
  · split <;> rfl
  · rfl

/-- A copy's failure reaches its semaphore's list, its record or its predecessor's outcomes (R276, R306, R309). -/
theorem cmdFails_kept (c : Cmd) (code detail : Nat) (s : State) : (s.cmdFails .cps c code detail).kept = s.kept := by
  unfold State.cmdFails State.failCmd
  dsimp only
  split
  · split <;> rfl
  · split
    · rfl
    · rfl

theorem copyFails_kept (idx : BitVec 24) (code detail : Nat) (s : State) : (s.copyFails idx code detail).kept = s.kept := by
  unfold State.copyFails
  split
  · exact (dropCopy_kept ..).trans (cmdFails_kept ..)
  · rfl

theorem settle_kept (idx : BitVec 24) (gap : Nat) (s : State) : (s.settle idx gap).kept = s.kept := by
  unfold State.settle
  split
  · rfl
  · split
    · rfl
    · split
      · exact copyFails_kept ..
      · rfl

theorem restoreCopies_kept (c : SavedCtx) (s : State) : (s.restoreCopies c).kept = s.kept := by
  unfold State.restoreCopies
  dsimp only
  refine Eq.trans (foldl_keeps (g := State.kept) (fun u a => ?_) _ _) ?_
  · rfl
  refine Eq.trans (foldl_keeps (g := State.kept) (fun u e => ?_) _ _) ?_
  · exact settle_kept ..
  exact (wakeCopies_kept _).trans rfl

theorem planReads_kept (r : ArrayRun) (s : State) : (s.planReads r).kept = s.kept := by
  unfold State.planReads
  split <;> rfl

theorem resumeArray_kept (s : State) : s.resumeArray.kept = s.kept := by
  unfold State.resumeArray
  split
  · rfl
  · split
    · rfl
    · exact planReads_kept ..

theorem foldl_pair_kept {α β : Type} {f : β × State → α → β × State} (h : ∀ u a, (f u a).2.kept = u.2.kept) (l : List α)
    (u : β × State) : (l.foldl f u).2.kept = u.2.kept := by
  induction l generalizing u with
  | nil => rfl
  | cons a l ih => exact (ih _).trans (h u a)

theorem onPort_kept (q : Fin 8) (f : PortState → PortState) (s : State) : (s.onPort q f).kept = s.kept := rfl

theorem restorePort_kept (q : Fin 8) (p : PortState) (s : State) : (s.restorePort q p).kept = s.kept := by
  unfold State.restorePort
  split
  · rfl
  · dsimp only
    rw [onPort_kept]
    refine foldl_pair_kept (fun u k => ?_) _ _
    rfl

theorem restorePorts_kept (l : Vector PortState 8) (s : State) : (s.restorePorts l).kept = s.kept := by
  unfold State.restorePorts
  exact foldl_keeps (f := fun t q => t.restorePort q l[q]) (g := State.kept) (fun u q => restorePort_kept ..) _ _

theorem restoreSeg_kept {c : SavedCtx} (h : c.seg.inSeg = false) (same : Bool) (s : State) : (s.restoreSeg c same).kept = s.kept := by
  unfold State.restoreSeg
  rw [h]
  rfl

/-- A program goes on outside a segment: it runs from this cycle, with its sectors as its context tells, and a save area that was
its own is free. -/
theorem goOn_kept {l : LaunchRec} {c : SavedCtx} (h : c.seg.inSeg = false) (s : State) : (s.goOn l c).kept = { s.kept with
    saved := if s.saved.any (fun x => x.prog.lid = l.lid) then none else s.saved,
    own := Vector.ofFn fun i => ownAgain c.full c.own[i] s.ann.own[i], run := .running, issueAt := s.now } := by
  unfold State.goOn
  dsimp only
  rw [resumeArray_kept, restoreCopies_kept, restoreSeg_kept h]
  refine Eq.trans (congrArg (fun k : Kept => { k with run := .running, issueAt := s.now }) (restorePorts_kept c.ports _)) ?_
  split <;> rfl

/-! ## RESUME_START (R418, R431, R435) -/

section
variable {s : State} {lid : BitVec 32} {l : LaunchRec} {c : SavedCtx}

/-- The launch's record says from now on that it runs. -/
theorem runs_onlyPlans (l : LaunchRec) (s : State) :
    OnlyPlans (s.onLaunch l.lid fun m => { m with st := .running, began := s.absc }) (s.runs l) := by
  unfold State.runs State.watch
  exact OnlyPlans.ite (.refl _) ((OnlyPlans.refl _).plan ..)

theorem resumeStart_goesOn {p : Placement} (hp : p.lid = lid) (hf : s.apex.frozen = none) (hl : s.launchOf lid = some l)
    (hst : l.st = .resuming) (hctx : l.ctx = some c) (hhere : s.runsHere l = true) (hidle : s.seq.run = .idle) (hdue : l.startOf ≤ s.absc)
    (hslip : l.img.timed = false ∨ l.startOf = s.absc ∧ s.hl.fenced = false) :
    exec (.resumeStart p) s = .next ((s.runs l).goOn l c) := by
  have hgo : (l.img.timed && (decide (l.startOf < s.absc) || s.hl.fenced || decide (s.seq.run ≠ .idle))) = false := by
    rcases hslip with h | ⟨h, hfence⟩
    · rw [h, Bool.false_and]
    · simp [h, hfence, hidle]
  show execResumeStart p s = _
  unfold execResumeStart
  simp only [thawed_of hf, hp, hl, hst, ne_eq, not_true_eq_false, if_false, Nat.not_lt.2 hdue, hhere, Bool.not_true, Bool.false_eq_true]
  rw [if_neg (by simpa using hgo), hctx]
  simp only [hidle, beq_self_eq_true, if_true]

/-- Of a sector that its context held, and of one that it did not. -/
theorem ownAgain_cases {full : Bool} (saved own : Vector Own 8) (k : Fin 8) :
    let w := Vector.ofFn fun i : Fin 8 => ownAgain full saved[i] own[i]
    (saved[k] = .held false → w[k] = .held false) ∧ (saved[k] = .free → w[k] = own[k]) := by
  have hk : (Vector.ofFn fun i : Fin 8 => ownAgain full saved[i] own[i])[k] = ownAgain full saved[k] own[k] := Vector.getElem_ofFn ..
  dsimp only
  rw [hk]
  exact ⟨fun h => by rw [h]; rfl, fun h => by rw [h]; rfl⟩

end

end Sys2Proof.Machine
end

section
/-! PROOF. The obligation on contexts, an act at a time (R422 to R435). -/

namespace Sys2Proof.Machine

/-! ## What a save leaves behind (R193, R423, R424) -/

theorem saveBeside_frame (s : State) (c : SavedCtx) : (s.saveBeside c).prog = none ∧ (s.saveBeside c).preq = none ∧
    (s.saveBeside c).seq.run = .idle ∧ (s.saveBeside c).saved = s.saved ∧ (s.saveBeside c).saving = some c ∧
    (s.saveBeside c).ann = s.leaveCell.ann := by
  obtain ⟨hprog, hreq, hidle, hsaved⟩ := leaveCell_frame s
  unfold State.saveBeside
  generalize s.leaveCell = u at *
  exact ⟨hprog, hreq, hidle, hsaved, rfl, rfl⟩

theorem saveResident_frame (s : State) (c : SavedCtx) : (s.saveResident c).prog = none ∧ (s.saveResident c).preq = none ∧
    (s.saveResident c).seq.run = .idle ∧ (s.saveResident c).saved = some c ∧
    (s.saveResident c).sys.ctxstat = ctxWord c.prog.lid (s.sys.ctxver.setWidth 16) := by
  obtain ⟨hprog, hreq, hidle, -⟩ := leaveCell_frame (s.writeRows 7 (c.allRows (s.sys.ctxver.setWidth 16)))
  rw [saveResident_eq]
  exact ⟨hprog, hreq, hidle, rfl, rfl⟩

/-- What a context tells of the program that it was saved of. -/
theorem context_frame (s : State) (p : Prog) (cp : Option (Fin 256)) (full : Bool) : ∃ x, s.context p cp full = x ∧ x.prog = p ∧
    x.full = full ∧ x.seq.regs = s.seq.regs ∧ x.seq.pc = s.seq.pc ∧ x.sems = s.sems ∧ x.own = s.ann.own ∧ x.seq.tiles = s.seq.tiles ∧
    x.mx.acc0 = s.mx.acc0 ∧ x.mx.acc1 = s.mx.acc1 ∧ x.slots = s.sh.slots ∧ x.seq.crc = s.seq.crc :=
  ⟨_, rfl, rfl, rfl, rfl, rfl, rfl, rfl, rfl, rfl, rfl, rfl, rfl⟩

/-! ## SAVE_COMPLETE (R423, R426, R434) -/

section
variable {s : State} {p : Prog} {r : PreReq} (hrun : s.seq.run = .preempted) (hprog : s.prog = some p) (hreq : s.preq = some r)
  (hck : s.ckptOpen = false)
include hrun hprog hreq hck

theorem saveComplete_besideKeeps {d : SavedCtx} (hsaved : s.saved = some d) : Completes .saveComplete s fun t =>
    t.prog = none ∧ t.preq = none ∧ t.seq.run = .idle ∧ t.ann.mem = s.ann.mem ∧ t.saved = s.saved ∧
      (∀ k : Fin 8, s.ann.own[k] = .held false → t.ann.own[k] = .kept) ∧
      ∃ x, t.saving = some x ∧ x.prog = p ∧ x.full = true ∧ x.seq.regs = s.seq.regs ∧ x.sems = s.sems ∧
        t.planned (s.now + fullSave (sectorBytes x.sectors)) rankEnd (.ev .fullSaveComplete) := by
  have hex := saveComplete_beside hrun hprog hreq hck hsaved
  obtain ⟨x, hx, hp, hfull, hregs, -, hsems, -⟩ := context_frame s p r.cp true
  rw [hx] at hex
  obtain ⟨hnoprog, hnoreq, hidle, hkeep, hsaving, hann⟩ := saveBeside_frame s x
  have hmem : (s.saveBeside x).ann.mem = s.ann.mem := (saveBeside_memKept x s).1
  have hown : ∀ k : Fin 8, s.ann.own[k] = .held false → (s.saveBeside x).ann.own[k] = .kept := by
    rw [hann]
    exact fun k hk => leaveCell_own hk
  generalize s.saveBeside x = u at *
  exact ⟨_, hex, hnoprog, hnoreq, hidle, hmem, hkeep, hown, x, hsaving, hp, hfull, hregs, hsems, plan_planned ..⟩

theorem saveComplete_residentKeeps (hsaved : s.saved = none) : Completes .saveComplete s fun t => t.prog = none ∧ t.preq = none ∧
    t.seq.run = .idle ∧ (∀ a, a < 0x1D8000 → t.ann.mem.get a = s.ann.mem.get a) ∧
    (∀ k : Fin 128, t.ann.mem.row (rowAddr 7 (207 + k.val)) = s.seq.tiles[k]) ∧
    (let h := (t.ann.mem.row (rowAddr 7 192)).toNat; h / 2 ^ 16 % 2 ^ 32 = p.lid.toNat ∧ h / 2 ^ 192 % 2 ^ 32 = s.seq.crc.toNat) ∧
    (∀ k : Fin 8, s.ann.own[k] = .held false → t.ann.own[k] = .kept) ∧
    t.sys.ctxstat.getLsbD 0 = true ∧ bitsOf t.sys.ctxstat 32 32 = p.lid ∧
    ∃ x, t.saved = some x ∧ x.prog = p ∧ x.full = r.full ∧ x.seq.regs = s.seq.regs ∧ x.seq.pc = s.seq.pc ∧ x.sems = s.sems ∧
      x.own = s.ann.own ∧ x.seq.tiles = s.seq.tiles ∧ x.mx.acc0 = s.mx.acc0 ∧ x.mx.acc1 = s.mx.acc1 ∧ x.slots = s.sh.slots := by
  obtain ⟨t, hex, a, ht⟩ := saveComplete_resident hrun hprog hreq hck hsaved
  obtain ⟨x, hx, hp, hfull, hregs, hpc, hsems, hown, htile, hacc0, hacc1, hslots, hcrc⟩ := context_frame s p r.cp r.full
  rw [hx] at ht
  subst ht
  obtain ⟨hnoprog, hnoreq, hidle, hkeep, hstat⟩ := saveResident_frame s x
  obtain ⟨hbelow, htiles, hheader⟩ := saveResident_rows s x
  obtain ⟨hlid, hsum⟩ := header_fields x (s.sys.ctxver.setWidth 16)
  obtain ⟨hbit, hname⟩ := ctxWord_fields x.prog.lid (s.sys.ctxver.setWidth 16)
  rw [← hstat] at hbit hname
  rw [← hheader] at hlid hsum
  rw [hp] at hlid hname
  rw [hcrc] at hsum
  rw [htile] at htiles
  have hkept : ∀ k : Fin 8, s.ann.own[k] = .held false → (s.saveResident x).ann.own[k] = .kept := fun k hk => saveResident_own hk
  generalize s.saveResident x = u at *
  exact ⟨_, hex, hnoprog, hnoreq, hidle, hbelow, htiles, ⟨hlid, hsum⟩, hkept, hbit, hname, x, hkeep, hp, hfull, hregs, hpc, hsems, hown,
    htile, hacc0, hacc1, hslots⟩

end

/-! ## FULL_SAVE_COMPLETE (R426, R429) -/

/-- The save area is empty once its context is in its slot (R429). -/
theorem slotWritten_resident {t : State} (h : t.saving = none) (c : SavedCtx) :
    (t.slotWritten c).saved = none ∧ (t.slotWritten c).sys.ctxstat = t.sys.ctxstat &&& 6#64 := by
  unfold State.slotWritten
  simp only [h, Option.isSome_none, Bool.false_eq_true, if_false]
  exact ⟨rfl, rfl⟩

/-- A context beside another one leaves the save area to it (log 74). -/
theorem slotWritten_beside {t : State} {x : SavedCtx} (h : t.saving = some x) (c : SavedCtx) :
    (t.slotWritten c).saving = none ∧ (t.slotWritten c).saved = t.saved := by
  unfold State.slotWritten
  simp only [h, Option.isSome_some, if_true]
  exact ⟨trivial, rfl⟩

section
variable {s w : State} {c : SavedCtx} {l : LaunchRec}

theorem slotCtx_resident (hsaving : s.saving = none) (hsaved : s.saved = some c) (hfull : c.full = true) : s.slotCtx = some c := by
  simp [State.slotCtx, hsaving, hsaved, hfull]

theorem slotCtx_beside (hsaving : s.saving = some c) : s.slotCtx = some c := by
  simp [State.slotCtx, hsaving]

variable (hl : s.launchOf c.prog.lid = some l)
include hl

theorem fullSaveComplete_faults (hctx : s.slotCtx = some c) (hpred : s.pred = none)
    (hw : (if s.saving.isSome then s.writeArea c else s).saveSectors c = none) :
    Completes .fullSaveComplete s (LaunchEnded s l 0x020B (firstStatus l.halts)) :=
  ⟨_, fullSave_faults hl hctx (writeSlot_none hw), endLaunch_ended (s := s) ((lid_of_launchOf hl).symm ▸ hl) hpred (by decide)⟩

theorem fullSaveComplete_resident (hsaving : s.saving = none) (hsaved : s.saved = some c) (hfull : c.full = true)
    (hw : s.saveSectors c = some w) : Completes .fullSaveComplete s fun t =>
      InSlot s l c w t ∧ t.saved = none ∧ t.sys.ctxstat.getLsbD 0 = false := by
  obtain ⟨hnone, hstat⟩ := slotWritten_resident (t := s.onCp fun p => { p with hbm := w.cp.hbm }) hsaving c
  have hbit : (s.inSlot l.lid c w.cp.hbm).sys.ctxstat.getLsbD 0 = false := by
    rw [show (s.inSlot l.lid c w.cp.hbm).sys.ctxstat = _ from hstat, BitVec.getLsbD_and]
    exact Bool.and_false _
  exact ⟨_, fullSave_ends hl (slotCtx_resident hsaving hsaved hfull) (writeSlot_resident hsaving hw), inSlot_done hl _, hnone, hbit⟩

theorem fullSaveComplete_beside (hsaving : s.saving = some c) (hw : (s.writeArea c).saveSectors c = some w) :
    Completes .fullSaveComplete s fun t => InSlot s l c w t ∧ t.saving = none ∧ t.saved = s.saved :=
  ⟨_, fullSave_ends hl (slotCtx_beside hsaving) (writeSlot_beside hsaving hw), inSlot_done hl _,
    slotWritten_beside (t := s.onCp fun p => { p with hbm := w.cp.hbm }) hsaving c⟩

end

/-! ## CHECKPOINT_ACK (R434) -/

section
variable {s : State} {l : LaunchRec} {lid : BitVec 32} {cell : Peer} (hf : s.apex.frozen = none) (hl : s.launchOf lid = some l)
  (hc : cell ∉ l.acked)
include hf hl hc

theorem checkpointAck_notes (hlen : l.acked.length + 1 < l.ncells) : Completes (.checkpointAck lid cell) s fun t =>
    t.launchOf lid = some { l with acked := cell :: l.acked } ∧ SameCore s t := by
  obtain ⟨b, hex⟩ := checkpointAck_acks hf hl hc
  rw [State.acknowledged, if_pos hlen] at hex
  exact ⟨_, hex, launchOf_onLaunch (s := { s with ckptOpen := b }) (f := fun m => { m with acked := cell :: l.acked }) hl fun _ => rfl,
    rfl, rfl, rfl, rfl⟩

theorem checkpointAck_commits (hlen : l.ncells ≤ l.acked.length + 1) : Completes (.checkpointAck lid cell) s fun t => SameCore s t ∧
    let b := (l.lastCk.map (·.2)).getD l.bank
    t.launchOf lid = some { l with acked := [], committed := some b, bank := 1 - b, heldCk := l.openCk } := by
  obtain ⟨b, hex⟩ := checkpointAck_acks hf hl hc
  rw [State.acknowledged, if_neg (Nat.not_lt.2 hlen)] at hex
  exact ⟨_, hex, ⟨rfl, rfl, rfl, rfl⟩, launchOf_onLaunch (s := { s with ckptOpen := b }) (f := fun m => { m with
    acked := [], committed := some ((l.lastCk.map (·.2)).getD l.bank), bank := 1 - (l.lastCk.map (·.2)).getD l.bank, heldCk := m.openCk })
    hl fun _ => rfl⟩

end

/-! ## RESUME_START and what comes before it (R431, R435) -/

/-- What a cell has of a context once it is reloaded from it (R431). -/
theorem reloaded_frame (s : State) (l : LaunchRec) (c : SavedCtx) : let t := s.reloaded l c
    t.seq.run = .idle ∧ t.seq.mode = .user ∧ t.seq.regs = c.seq.regs ∧ t.seq.pc = c.seq.pc ∧ t.seq.tiles = c.seq.tiles ∧
      t.seq.loops = c.seq.loops ∧ t.sems = c.sems ∧ t.ann = s.ann ∧ t.mx.acc0 = c.mx.acc0 ∧ t.mx.acc1 = c.mx.acc1 ∧
      t.sh.slots = c.slots ∧ t.saved = s.saved := by
  obtain ⟨_, _, _, _, hload⟩ := loadProgram_frame s l
  unfold State.reloaded
  rw [hload]
  exact ⟨rfl, rfl, rfl, rfl, rfl, rfl, rfl, rfl, rfl, rfl, rfl, rfl⟩

theorem resuming_plans (s : State) (lid : BitVec 32) (l : LaunchRec) (c : SavedCtx) :
    (s.resuming lid l c).planned (s.now + 1) rankRead (.ev (.resumeStart l.placement)) := plan_planned ..

theorem resuming_frame (s : State) (lid : BitVec 32) (l : LaunchRec) (c : SavedCtx) : ∃ ap ag,
    s.resuming lid l c = { s.reloaded l c with apex := ap, agenda := ag } := ⟨_, _, rfl⟩

section
variable {s : State} {l : LaunchRec} {lid : BitVec 32} {c : SavedCtx} (hl : s.launchOf lid = some l)
include hl

theorem resuming_launch : ∃ x, (s.resuming lid l c).launchOf lid = some x ∧ x.st = .resuming ∧ x.ctx = some c :=
  ⟨_, launchOf_onLaunch (f := fun l => { l with st := .resuming }) (reloaded_launchOf (c := c) hl) fun _ => rfl, rfl, rfl⟩

/-- A sequencer that resumes a launch goes on with what it has, its sectors as the context tells (R431, R435). -/
theorem resumeStart_keeps {p : Placement} (hp : p.lid = lid) (hf : s.apex.frozen = none) (hlid : l.lid = lid) (hst : l.st = .resuming)
    (hctx : l.ctx = some c) (hhere : s.runsHere l = true) (hidle : s.seq.run = .idle) (hseg : c.seg.inSeg = false)
    (hdue : l.startOf ≤ s.absc) (hslip : l.img.timed = false ∨ l.startOf = s.absc ∧ s.hl.fenced = false) :
    Completes (.resumeStart p) s fun t =>
      t.ann.mem = s.ann.mem ∧ (∃ x, t.launchOf lid = some x ∧ x.st = .running) ∧ ∃ ap, t.kept = { s.kept with
        saved := if s.saved.any (fun x => x.prog.lid = lid) then none else s.saved, apex := ap
        own := Vector.ofFn fun i => ownAgain c.full c.own[i] s.ann.own[i], run := .running, issueAt := s.now } := by
  subst hlid
  obtain ⟨a, hruns⟩ := runs_onlyPlans l s
  have hex := resumeStart_goesOn hp hf hl hst hctx hhere hidle hdue hslip
  have hk := goOn_kept (l := l) hseg (s.runs l)
  have hmem : ((s.runs l).goOn l c).ann.mem = (s.runs l).ann.mem := (goOn_memKept l c _).1
  have hlaunch : ((s.runs l).goOn l c).launchOf l.lid = (s.runs l).launchOf l.lid := launchOf_congr (congrArg Kept.apex hk) _
  generalize (s.runs l).goOn l c = t at *
  rw [hruns] at hk hmem hlaunch
  exact ⟨t, hex, hmem, ⟨_, hlaunch.trans (launchOf_onLaunch (f := fun m => { m with st := .running, began := s.absc }) hl fun _ => rfl), rfl⟩,
    _, hk⟩

end

/-! ## The obligation -/

/-- Settles O57: each act by its law above; a save by the rows that it writes, a resume by what it keeps. -/
theorem contextsMove : Obligations.ContextsMove := by
  unfold Obligations.ContextsMove
  intro full atP lid cell p r c l w s hf
  refine ⟨fun hp => ⟨s, ?_, rfl⟩, fun hp => ?_, fun hrun hprog hreq hck => ⟨_, saveComplete_waits hrun hprog hreq hck, rfl⟩,
    fun d hrun hprog hreq hck hd => saveComplete_besideKeeps hrun hprog hreq hck hd,
    fun hrun hprog hreq hck hd => saveComplete_residentKeeps hrun hprog hreq hck hd, fun hl => ⟨fun hsaving hsaved hfull => ?_,
      fun hsaving => ?_⟩, fun hl hc => ⟨checkpointAck_notes hf hl hc, checkpointAck_commits hf hl hc⟩,
    fun hl hlid hst hback hctx hprog hsaved hshape hcell hfence hmx htimed hready => ?_,
    fun hl hlid hst hctx hhere hidle hseg hdue hslip => ?_⟩
  · show execPreemptionRequest full atP s = _
    simp only [execPreemptionRequest, thawed_of hf, hp, Option.isNone_none, if_true]
  · refine ⟨{ s.onSys (fun r => { r with ctxstat := requestWord r.ctxstat full }) with preq := some { full := full, atP := atP } }, ?_, rfl,
      ⟨_, rfl, rfl, rfl⟩, rfl, requestWord_bits s.sys.ctxstat full⟩
    show execPreemptionRequest full atP s = _
    simp only [execPreemptionRequest, thawed_of hf, hp, Option.isNone_some, Bool.false_eq_true, if_false]
    rfl
  · exact ⟨fullSaveComplete_resident hl hsaving hsaved hfull,
      fun hw hpred => fullSaveComplete_faults hl (slotCtx_resident hsaving hsaved hfull) hpred (by simpa [hsaving] using hw)⟩
  · exact ⟨fullSaveComplete_beside hl hsaving,
      fun hw hpred => fullSaveComplete_faults hl (slotCtx_beside hsaving) hpred (by simpa [hsaving] using hw)⟩
  · rw [restored_resumes hf hl hlid hst hback hready htimed (bringIn_resident hctx hprog hsaved hshape hcell hfence hmx)]
    have hlaunch := resuming_launch (c := c) hl
    have hplan := resuming_plans s lid l c
    obtain ⟨ap, ag, hon⟩ := resuming_frame s lid l c
    obtain ⟨hrun, hmode, hregs, hpc, htiles, hloops, hsems, hann, hacc0, hacc1, hslots, hsv⟩ := reloaded_frame s l c
    rw [hon] at hlaunch hplan ⊢
    generalize s.reloaded l c = u at *
    exact ⟨hrun, hmode, hregs, hpc, htiles, hloops, hsems, hann, hacc0, hacc1, hslots, hsv, hlaunch, hplan⟩
  · obtain ⟨t, hex, hmem, hlaunch, ap, hk⟩ := resumeStart_keeps (p := { lid := lid, shape := 0, px := 0, py := 0 }) hl rfl hf hlid hst hctx
      hhere hidle hseg hdue hslip
    have hown : t.ann.own = Vector.ofFn fun i => ownAgain c.full c.own[i] s.ann.own[i] := congrArg Kept.own hk
    have hsaved : t.saved = if s.saved.any (fun x => x.prog.lid = lid) then none else s.saved := congrArg Kept.saved hk
    refine ⟨t, hex, congrArg Kept.run hk, congrArg Kept.issueAt hk, congrArg Kept.mode hk, congrArg Kept.regs hk, congrArg Kept.pc hk,
      congrArg Kept.tiles hk, congrArg Kept.sems hk, fun k hc => ?_, fun k hc => ?_, hmem, congrArg Kept.acc0 hk, congrArg Kept.acc1 hk,
      congrArg Kept.slots hk, fun hs hc => ?_, hlaunch⟩
    · rw [hown]
      exact (ownAgain_cases c.own s.ann.own k).1 hc
    · rw [hown]
      exact (ownAgain_cases c.own s.ann.own k).2 hc
    · rw [hsaved, hs]
      simp [hc]

end Sys2Proof.Machine
end
